-- ==== Sys2Proof/Word.lean ====
section
/-!
DEFINITION. The word types of the Gredric G3 and their plainest arithmetic.
Every multi-byte value is little-endian and bit 0 is the least significant bit (spec/00_scope.md R5).
-/
namespace Sys2Proof

/-- A 64-bit integer, the width of scalar arithmetic (R226). -/
abbrev Word := BitVec 64

/-- A byte. -/
abbrev Byte := BitVec 8

/-- A vector register of 1,024 bits (R213). -/
abbrev VReg := BitVec 1024

/-- A mask register of 128 bits (R213). -/
abbrev MReg := BitVec 128

/-- The number of a scalar register c0 to c63 (R204). -/
abbrev CIdx := BitVec 6

/-- The number of a vector register v0 to v31 (R204). -/
abbrev VIdx := BitVec 5

/-- The number of a mask register m0 to m7 (R204). -/
abbrev MIdx := BitVec 3

/-- The gap field of an instruction word (R200). -/
abbrev Gap := BitVec 2

/-- An address space identifier (R10). -/
abbrev Asid := BitVec 12

/-- A die number, 0 to 3 (R2). -/
abbrev DieId := Fin 4

/-- A global core number, 0 to 1,791 (R2). -/
abbrev CoreId := Fin 1792

/-- A cluster of the device, die × 112 + cluster (R2). -/
abbrev ClusterId := Fin 448

/-- A PCIe function, 0 the physical one (R375). -/
abbrev FnId := Fin 64

/-- A Hyunzin port (R356). -/
abbrev PortId := Fin 12

/-- A scalar register: 128 bits and a tag (R17, R213). -/
structure CapReg where
  tag  : Bool
  bits : BitVec 128
  deriving DecidableEq, Repr

/-- The value of c0 and of every cleared register (R213). -/
def CapReg.zero : CapReg := { tag := false, bits := 0 }

/-- An integer in a register: tag 0 and bits [127:64] zero (R223). -/
def CapReg.untagged (v : Word) : CapReg := { tag := false, bits := v.setWidth 128 }

/-- The low 64 bits of a register, which are a capability's address (R17). -/
def CapReg.lo (c : CapReg) : Word := c.bits.extractLsb' 0 64

end Sys2Proof
end

