-- ==== Sys2Proof/Syntax.lean ====
section
/-!
DEFINITION. The instructions of the Gredric G3 (spec/11_encoding.md R216) and the events of the device
(spec/95_what_each_step_holds.md), one constructor per row of spec/opcode_table.json.
-/
namespace Sys2Proof

/-- A register that a write of the outside world or of a strand reaches without a row of its own (R6):
a physical address of device MMIO with the access size, or a BAR0 offset of a function. -/
inductive RegTarget where
  | mmio (pa : Nat) (size : Nat)
  | bar0 (f : FnId) (off : Nat)
  deriving DecidableEq, Repr

/-- Where the image of IMAGE_VERIFY comes from: the host over PCIe, or the chunks the leader sent (R407). -/
inductive ImageSource where
  | host (bytes : List Byte)
  | received
  deriving DecidableEq, Repr

/-- The operations of an atomic (R250). -/
inductive AmoOp where
  | add | and | or | xor | min | max | swp | cas
  deriving DecidableEq, Repr

/-- The data of a collective's flit: a rank's contribution, or a result of an owner or of the root (R369). -/
inductive FlitKind where
  | contribution | result
  deriving DecidableEq, Repr

/-- What every flit of a collective says of the collective it belongs to, so that ranks that do not agree find out
(R367): its number k on the group, Op, Root, NR, COUNT and FMT. -/
structure FlitHead where
  k     : Nat
  op    : Nat
  root  : Nat
  nr    : Bool
  count : Nat
  fmt   : Word
  deriving DecidableEq, Repr

/-- A flit of a collective with data: what it says of the collective, and which data it brings (R367, R369). -/
structure Flit where
  head : FlitHead
  kind : FlitKind
  deriving DecidableEq, Repr

/-- An abort of the collective in a slot, and whether it says that the ranks do not agree (R367, R373). -/
structure AbortFlit where
  slot     : Fin 4
  mismatch : Bool
  deriving DecidableEq, Repr

/-- A request into a function from outside: the requester as PCIe or the job numbers it, and whether a posted write carries
the relaxed-ordering attribute (R122). -/
structure Sender where
  f         : FnId
  requester : Nat
  relaxed   : Bool
  deriving DecidableEq, Repr

/-- Who makes an access, and for whom cross-die invalidations are counted (R50, R122, R124): a strand by the address of
its continuation record, a core for all its strands, an engine command by its core and slot, the host's and the peers'
requesters by function and number, or the device itself: a die, the shrink of a function on a die, the power change of a die, or
the close of a scope. -/
inductive Agent where
  | strand (record : Nat)
  | core (c : CoreId)
  | ladle (c : CoreId) (slot : Nat)
  | crucible (c : CoreId) (slot : Nat)
  | host (f : FnId) (requester : Nat)
  | peer (f : FnId) (requester : Nat)
  | device (d : DieId)
  | shrink (d : DieId) (f : FnId)
  | power (d : DieId)
  | closing (asid : Asid) (scope : BitVec 32)
  deriving DecidableEq, Repr

/-- The two copies of a Touchstone pair (R400). -/
inductive PairCopy where
  | first | second
  deriving DecidableEq, Repr

/-- The algorithms an SPDM party offers, one flag per category of R362: the set named there, or not. -/
structure SpdmOffer where
  rsaPss3072 : Bool
  sha256     : Bool
  ffdhe3072  : Bool
  aes256gcm  : Bool
  deriving DecidableEq, Repr

/-- What an SPDM response of a switch or peer carries to the requester (R362, R363). -/
inductive SpdmAnswer where
  | version (versions : List Nat)
  | capabilities
  | algorithms (offer : SpdmOffer)
  | digests
  | certificate (chain : List Byte)
  | challengeAuth (signatureOk : Bool)
  | measurements (blocks : List (List Byte)) (signatureOk : Bool)
  | keyExchangeRsp (verifyOk : Bool)
  | finishRsp (verifyOk : Bool)
  | keyUpdateAck (epoch : BitVec 16)
  | endSessionAck
  deriving DecidableEq, Repr

/-- A hardware error or refusal as the unit that meets it reports it (R395): severity, kind and number of the unit,
code, address, the ASID it is attributed to, and Info. -/
structure ErrorReport where
  severity : BitVec 4
  kind     : BitVec 4
  unit     : BitVec 16
  code     : BitVec 16
  address  : Word
  asid     : Option Asid
  info     : Word
  deriving DecidableEq, Repr


/-- The instructions and events of the Gredric G3, one constructor per row of the opcode table.
The first 200 have a 32-bit word; their fields are named by the letters of the table.
The others are the events of the device: whole, indivisible steps that no word encodes (spec/95_what_each_step_holds.md),
first those that the device itself begins, then those that only the world outside offers. -/
inductive Instr where
  /-- ADD, R226. Adds two registers modulo 2^64 into d with tag cleared. -/
  | add (g : Gap) (d : CIdx) (a : CIdx) (b : CIdx)
  /-- SUB, R226. Subtracts register b from a modulo 2^64. -/
  | sub (g : Gap) (d : CIdx) (a : CIdx) (b : CIdx)
  /-- MUL, R226. Writes the low 64 bits of the product. -/
  | mul (g : Gap) (d : CIdx) (a : CIdx) (b : CIdx)
  /-- MULH, R226. Writes the high 64 bits of the signed product. -/
  | mulh (g : Gap) (d : CIdx) (a : CIdx) (b : CIdx)
  /-- MULHU, R226. Writes the high 64 bits of the unsigned product. -/
  | mulhu (g : Gap) (d : CIdx) (a : CIdx) (b : CIdx)
  /-- DIV, R227. Signed division truncated toward zero, never trapping. -/
  | div (g : Gap) (d : CIdx) (a : CIdx) (b : CIdx)
  /-- DIVU, R227. Unsigned division, all ones on a zero divisor. -/
  | divu (g : Gap) (d : CIdx) (a : CIdx) (b : CIdx)
  /-- REM, R227. Signed remainder with the sign of the dividend. -/
  | rem (g : Gap) (d : CIdx) (a : CIdx) (b : CIdx)
  /-- REMU, R227. Unsigned remainder, the dividend on a zero divisor. -/
  | remu (g : Gap) (d : CIdx) (a : CIdx) (b : CIdx)
  /-- AND, R226. Bitwise AND of two registers. -/
  | and (g : Gap) (d : CIdx) (a : CIdx) (b : CIdx)
  /-- OR, R226. Bitwise OR of two registers. -/
  | or (g : Gap) (d : CIdx) (a : CIdx) (b : CIdx)
  /-- XOR, R226. Bitwise XOR of two registers. -/
  | xor (g : Gap) (d : CIdx) (a : CIdx) (b : CIdx)
  /-- SLL, R226. Shifts left by the low six bits of b. -/
  | sll (g : Gap) (d : CIdx) (a : CIdx) (b : CIdx)
  /-- SRL, R226. Shifts right with zero fill. -/
  | srl (g : Gap) (d : CIdx) (a : CIdx) (b : CIdx)
  /-- SRA, R226. Shifts right with sign fill. -/
  | sra (g : Gap) (d : CIdx) (a : CIdx) (b : CIdx)
  /-- SLT, R226. Sets d to 1 if a is signed-less than b. -/
  | slt (g : Gap) (d : CIdx) (a : CIdx) (b : CIdx)
  /-- SLTU, R226. Sets d to 1 if a is unsigned-less than b. -/
  | sltu (g : Gap) (d : CIdx) (a : CIdx) (b : CIdx)
  /-- MIN, R226. Writes the signed lesser of two registers. -/
  | min (g : Gap) (d : CIdx) (a : CIdx) (b : CIdx)
  /-- MAX, R226. Writes the signed greater of two registers. -/
  | max (g : Gap) (d : CIdx) (a : CIdx) (b : CIdx)
  /-- MINU, R226. Writes the unsigned lesser of two registers. -/
  | minu (g : Gap) (d : CIdx) (a : CIdx) (b : CIdx)
  /-- MAXU, R226. Writes the unsigned greater of two registers. -/
  | maxu (g : Gap) (d : CIdx) (a : CIdx) (b : CIdx)
  /-- SEL, R226. Selects a or b according to whether the old d is non-zero. -/
  | sel (g : Gap) (d : CIdx) (a : CIdx) (b : CIdx)
  /-- CLZ, R228. Counts leading zero bits. -/
  | clz (g : Gap) (d : CIdx) (a : CIdx)
  /-- CTZ, R228. Counts trailing zero bits. -/
  | ctz (g : Gap) (d : CIdx) (a : CIdx)
  /-- POPC, R228. Counts one bits. -/
  | popc (g : Gap) (d : CIdx) (a : CIdx)
  /-- ADDI, R229. Adds a sign-extended 12-bit immediate. -/
  | addi (g : Gap) (d : CIdx) (a : CIdx) (i : BitVec 12)
  /-- ANDI, R229. ANDs with a sign-extended immediate. -/
  | andi (g : Gap) (d : CIdx) (a : CIdx) (i : BitVec 12)
  /-- ORI, R229. ORs with a sign-extended immediate. -/
  | ori (g : Gap) (d : CIdx) (a : CIdx) (i : BitVec 12)
  /-- XORI, R229. XORs with a sign-extended immediate. -/
  | xori (g : Gap) (d : CIdx) (a : CIdx) (i : BitVec 12)
  /-- SLTI, R229. Signed compare against an immediate. -/
  | slti (g : Gap) (d : CIdx) (a : CIdx) (i : BitVec 12)
  /-- SLTIU, R230. Unsigned compare against a 6-bit immediate. -/
  | sltiu (g : Gap) (d : CIdx) (a : CIdx) (n : CIdx)
  /-- SLLI, R230. Shifts left by an immediate amount. -/
  | slli (g : Gap) (d : CIdx) (a : CIdx) (n : CIdx)
  /-- SRLI, R230. Shifts right with zero fill by an immediate. -/
  | srli (g : Gap) (d : CIdx) (a : CIdx) (n : CIdx)
  /-- SRAI, R230. Shifts right with sign fill by an immediate. -/
  | srai (g : Gap) (d : CIdx) (a : CIdx) (n : CIdx)
  /-- LUI, R231. Places an 18-bit immediate at bits 29:12, sign-extended. -/
  | lui (g : Gap) (d : CIdx) (i : BitVec 18)
  /-- CAP_SET, R233. Narrows a capability's bounds to x bytes at its address. -/
  | capSet (g : Gap) (d : CIdx) (a : CIdx) (b : CIdx)
  /-- CAP_AND, R234. Clears capability permissions by a mask. -/
  | capAnd (g : Gap) (d : CIdx) (a : CIdx) (b : CIdx)
  /-- CAP_ADDR, R235. Sets a capability's address, clearing the tag outside the representable region. -/
  | capAddr (g : Gap) (d : CIdx) (a : CIdx) (b : CIdx)
  /-- CAP_BASE, R236. Returns the decoded base as an integer. -/
  | capBase (g : Gap) (d : CIdx) (a : CIdx)
  /-- CAP_LEN, R236. Returns the decoded length as an integer. -/
  | capLen (g : Gap) (d : CIdx) (a : CIdx)
  /-- CAP_PERM, R236. Returns the permission bits. -/
  | capPerm (g : Gap) (d : CIdx) (a : CIdx)
  /-- CAP_TAG, R236. Returns the register's tag. -/
  | capTag (g : Gap) (d : CIdx) (a : CIdx)
  /-- CAP_CLR, R237. Copies a register with its tag cleared. -/
  | capClr (g : Gap) (d : CIdx) (a : CIdx)
  /-- CAP_SUB, R236. Returns the difference of two capability addresses. -/
  | capSub (g : Gap) (d : CIdx) (a : CIdx) (b : CIdx)
  /-- CAP_INC, R235. Offsets a capability's address by an immediate. -/
  | capInc (g : Gap) (d : CIdx) (a : CIdx) (i : BitVec 12)
  /-- BEQ, R238. Branches when the registers are equal. -/
  | beq (g : Gap) (a : CIdx) (b : CIdx) (o : BitVec 12)
  /-- BNE, R238. Branches when the registers differ. -/
  | bne (g : Gap) (a : CIdx) (b : CIdx) (o : BitVec 12)
  /-- BLT, R238. Branches on signed less-than. -/
  | blt (g : Gap) (a : CIdx) (b : CIdx) (o : BitVec 12)
  /-- BGE, R238. Branches on signed greater-or-equal. -/
  | bge (g : Gap) (a : CIdx) (b : CIdx) (o : BitVec 12)
  /-- BLTU, R238. Branches on unsigned less-than. -/
  | bltu (g : Gap) (a : CIdx) (b : CIdx) (o : BitVec 12)
  /-- BGEU, R238. Branches on unsigned greater-or-equal. -/
  | bgeu (g : Gap) (a : CIdx) (b : CIdx) (o : BitVec 12)
  /-- JAL, R239. Writes an untagged link and jumps PC-relative. -/
  | jal (g : Gap) (d : CIdx) (o : BitVec 18)
  /-- JALR, R240. Jumps through an executable capability, writing a link. -/
  | jalr (g : Gap) (d : CIdx) (a : CIdx) (i : BitVec 12)
  /-- IDEM, R242. Opens or closes the strand's idempotent region. -/
  | idem (g : Gap) (i : BitVec 1)
  /-- LD_B, R247. Loads a sign-extended byte. -/
  | ldB (g : Gap) (s : CIdx) (c : CIdx) (p : BitVec 9)
  /-- LD_BU, R247. Loads a zero-extended byte. -/
  | ldBu (g : Gap) (s : CIdx) (c : CIdx) (p : BitVec 9)
  /-- LD_H, R247. Loads a sign-extended halfword. -/
  | ldH (g : Gap) (s : CIdx) (c : CIdx) (p : BitVec 9)
  /-- LD_HU, R247. Loads a zero-extended halfword. -/
  | ldHu (g : Gap) (s : CIdx) (c : CIdx) (p : BitVec 9)
  /-- LD_W, R247. Loads a sign-extended word. -/
  | ldW (g : Gap) (s : CIdx) (c : CIdx) (p : BitVec 9)
  /-- LD_WU, R247. Loads a zero-extended word. -/
  | ldWu (g : Gap) (s : CIdx) (c : CIdx) (p : BitVec 9)
  /-- LD_D, R247. Loads a doubleword. -/
  | ldD (g : Gap) (s : CIdx) (c : CIdx) (p : BitVec 9)
  /-- LD_C, R247. Loads a 16-byte granule with its tag under R28. -/
  | ldC (g : Gap) (s : CIdx) (c : CIdx) (p : BitVec 9)
  /-- ST_B, R247. Stores a byte, clearing the granule tag. -/
  | stB (g : Gap) (s : CIdx) (c : CIdx) (p : BitVec 9)
  /-- ST_H, R247. Stores a halfword. -/
  | stH (g : Gap) (s : CIdx) (c : CIdx) (p : BitVec 9)
  /-- ST_W, R247. Stores a word. -/
  | stW (g : Gap) (s : CIdx) (c : CIdx) (p : BitVec 9)
  /-- ST_D, R247. Stores a doubleword. -/
  | stD (g : Gap) (s : CIdx) (c : CIdx) (p : BitVec 9)
  /-- ST_C, R247. Stores a 16-byte granule with its tag under R28 and R25. -/
  | stC (g : Gap) (s : CIdx) (c : CIdx) (p : BitVec 9)
  /-- AMO_ADD, R250. Atomically adds at the home, returning the old word. -/
  | amoAdd (g : Gap) (a : CIdx) (b : CIdx) (d : CIdx) (s : BitVec 3)
  /-- AMO_AND, R250. Atomically ANDs at the home. -/
  | amoAnd (g : Gap) (a : CIdx) (b : CIdx) (d : CIdx) (s : BitVec 3)
  /-- AMO_OR, R250. Atomically ORs at the home. -/
  | amoOr (g : Gap) (a : CIdx) (b : CIdx) (d : CIdx) (s : BitVec 3)
  /-- AMO_XOR, R250. Atomically XORs at the home. -/
  | amoXor (g : Gap) (a : CIdx) (b : CIdx) (d : CIdx) (s : BitVec 3)
  /-- AMO_MIN, R250. Atomically takes the signed minimum. -/
  | amoMin (g : Gap) (a : CIdx) (b : CIdx) (d : CIdx) (s : BitVec 3)
  /-- AMO_MAX, R250. Atomically takes the signed maximum. -/
  | amoMax (g : Gap) (a : CIdx) (b : CIdx) (d : CIdx) (s : BitVec 3)
  /-- AMO_SWP, R250. Atomically swaps in a new word. -/
  | amoSwp (g : Gap) (a : CIdx) (b : CIdx) (d : CIdx) (s : BitVec 3)
  /-- AMO_CAS, R250. Atomically compares with d and swaps in b on a match. -/
  | amoCas (g : Gap) (a : CIdx) (b : CIdx) (d : CIdx) (s : BitVec 3)
  /-- FENCE, R112. Orders earlier accesses at a scope before all later ones and discards fetched instructions. -/
  | fence (g : Gap) (s : BitVec 3)
  /-- FENCE_SC, R119. Fence at sys that takes part in a device-wide settle round. -/
  | fenceSc (g : Gap)
  /-- DC_WB, R252. Writes a line's dirty sectors from this L1 to the home. -/
  | dcWb (g : Gap) (a : CIdx)
  /-- DC_INV, R114. Acts as dc.flush on the line. -/
  | dcInv (g : Gap) (a : CIdx)
  /-- DC_FLUSH, R252. Writes back and drops a line from this L1. -/
  | dcFlush (g : Gap) (a : CIdx)
  /-- DC_PF, R252. Prefetches a sector into this L1, never faulting. -/
  | dcPf (g : Gap) (a : CIdx)
  /-- LD_B_ACQ, R248. Acquire load of a sign-extended byte. -/
  | ldBAcq (g : Gap) (d : CIdx) (a : CIdx) (s : BitVec 3)
  /-- LD_BU_ACQ, R248. Acquire load of a zero-extended byte. -/
  | ldBuAcq (g : Gap) (d : CIdx) (a : CIdx) (s : BitVec 3)
  /-- LD_H_ACQ, R248. Acquire load of a sign-extended halfword. -/
  | ldHAcq (g : Gap) (d : CIdx) (a : CIdx) (s : BitVec 3)
  /-- LD_HU_ACQ, R248. Acquire load of a zero-extended halfword. -/
  | ldHuAcq (g : Gap) (d : CIdx) (a : CIdx) (s : BitVec 3)
  /-- LD_W_ACQ, R248. Acquire load of a sign-extended word. -/
  | ldWAcq (g : Gap) (d : CIdx) (a : CIdx) (s : BitVec 3)
  /-- LD_WU_ACQ, R248. Acquire load of a zero-extended word. -/
  | ldWuAcq (g : Gap) (d : CIdx) (a : CIdx) (s : BitVec 3)
  /-- LD_D_ACQ, R248. Acquire load of a doubleword. -/
  | ldDAcq (g : Gap) (d : CIdx) (a : CIdx) (s : BitVec 3)
  /-- LD_C_ACQ, R248. Acquire load of a tagged granule. -/
  | ldCAcq (g : Gap) (d : CIdx) (a : CIdx) (s : BitVec 3)
  /-- ST_B_REL, R249. Release store of a byte. -/
  | stBRel (g : Gap) (d : CIdx) (a : CIdx) (s : BitVec 3)
  /-- ST_H_REL, R249. Release store of a halfword. -/
  | stHRel (g : Gap) (d : CIdx) (a : CIdx) (s : BitVec 3)
  /-- ST_W_REL, R249. Release store of a word. -/
  | stWRel (g : Gap) (d : CIdx) (a : CIdx) (s : BitVec 3)
  /-- ST_D_REL, R249. Release store of a doubleword. -/
  | stDRel (g : Gap) (d : CIdx) (a : CIdx) (s : BitVec 3)
  /-- ST_C_REL, R249. Release store of a tagged granule. -/
  | stCRel (g : Gap) (d : CIdx) (a : CIdx) (s : BitVec 3)
  /-- VLD, R270. Loads 128 contiguous bytes under a byte mask. -/
  | vld (g : Gap) (v : VIdx) (c : CIdx) (x : CIdx) (m : MIdx)
  /-- VST, R270. Stores 128 contiguous bytes under a byte mask. -/
  | vst (g : Gap) (v : VIdx) (c : CIdx) (x : CIdx) (m : MIdx)
  /-- VLDS, R271. Loads 32 words at a constant stride. -/
  | vlds (g : Gap) (v : VIdx) (c : CIdx) (x : CIdx) (m : MIdx)
  /-- VSTS, R271. Stores 32 words at a constant stride. -/
  | vsts (g : Gap) (v : VIdx) (c : CIdx) (x : CIdx) (m : MIdx)
  /-- VGAT, R272. Gathers 32 words at per-lane offsets. -/
  | vgat (g : Gap) (v : VIdx) (c : CIdx) (x : VIdx) (m : MIdx)
  /-- VSCT, R272. Scatters 32 words at per-lane offsets. -/
  | vsct (g : Gap) (v : VIdx) (c : CIdx) (x : VIdx) (m : MIdx)
  /-- VLDB, R273. Loads 8 bytes and replicates them into 16 groups. -/
  | vldb (g : Gap) (v : VIdx) (c : CIdx) (x : CIdx) (m : MIdx)
  /-- VADD, R274. Lane-wise integer add. -/
  | vadd (g : Gap) (d : VIdx) (a : VIdx) (b : VIdx) (m : MIdx) (w : BitVec 2)
  /-- VSUB, R274. Lane-wise integer subtract. -/
  | vsub (g : Gap) (d : VIdx) (a : VIdx) (b : VIdx) (m : MIdx) (w : BitVec 2)
  /-- VMUL, R274. Lane-wise integer multiply, low half. -/
  | vmul (g : Gap) (d : VIdx) (a : VIdx) (b : VIdx) (m : MIdx) (w : BitVec 2)
  /-- VMULH, R274. Lane-wise signed multiply, high half. -/
  | vmulh (g : Gap) (d : VIdx) (a : VIdx) (b : VIdx) (m : MIdx) (w : BitVec 2)
  /-- VAND, R274. Lane-wise AND. -/
  | vand (g : Gap) (d : VIdx) (a : VIdx) (b : VIdx) (m : MIdx) (w : BitVec 2)
  /-- VOR, R274. Lane-wise OR. -/
  | vor (g : Gap) (d : VIdx) (a : VIdx) (b : VIdx) (m : MIdx) (w : BitVec 2)
  /-- VXOR, R274. Lane-wise XOR. -/
  | vxor (g : Gap) (d : VIdx) (a : VIdx) (b : VIdx) (m : MIdx) (w : BitVec 2)
  /-- VSLL, R274. Lane-wise shift left. -/
  | vsll (g : Gap) (d : VIdx) (a : VIdx) (b : VIdx) (m : MIdx) (w : BitVec 2)
  /-- VSRL, R274. Lane-wise logical shift right. -/
  | vsrl (g : Gap) (d : VIdx) (a : VIdx) (b : VIdx) (m : MIdx) (w : BitVec 2)
  /-- VSRA, R274. Lane-wise arithmetic shift right. -/
  | vsra (g : Gap) (d : VIdx) (a : VIdx) (b : VIdx) (m : MIdx) (w : BitVec 2)
  /-- VMIN, R274. Lane-wise signed minimum. -/
  | vmin (g : Gap) (d : VIdx) (a : VIdx) (b : VIdx) (m : MIdx) (w : BitVec 2)
  /-- VMAX, R274. Lane-wise signed maximum. -/
  | vmax (g : Gap) (d : VIdx) (a : VIdx) (b : VIdx) (m : MIdx) (w : BitVec 2)
  /-- VFADD, R275. Lane-wise floating add rounded once. -/
  | vfadd (g : Gap) (d : VIdx) (a : VIdx) (b : VIdx) (m : MIdx) (t : BitVec 2)
  /-- VFSUB, R275. Lane-wise floating subtract. -/
  | vfsub (g : Gap) (d : VIdx) (a : VIdx) (b : VIdx) (m : MIdx) (t : BitVec 2)
  /-- VFMUL, R275. Lane-wise floating multiply. -/
  | vfmul (g : Gap) (d : VIdx) (a : VIdx) (b : VIdx) (m : MIdx) (t : BitVec 2)
  /-- VFMA, R275. Fused multiply-add into the destination. -/
  | vfma (g : Gap) (d : VIdx) (a : VIdx) (b : VIdx) (m : MIdx) (t : BitVec 2)
  /-- VFMS, R275. Fused multiply-subtract. -/
  | vfms (g : Gap) (d : VIdx) (a : VIdx) (b : VIdx) (m : MIdx) (t : BitVec 2)
  /-- VFNMA, R275. Fused negated multiply-add. -/
  | vfnma (g : Gap) (d : VIdx) (a : VIdx) (b : VIdx) (m : MIdx) (t : BitVec 2)
  /-- VFMIN, R275. IEEE minimum per lane. -/
  | vfmin (g : Gap) (d : VIdx) (a : VIdx) (b : VIdx) (m : MIdx) (t : BitVec 2)
  /-- VFMAX, R275. IEEE maximum per lane. -/
  | vfmax (g : Gap) (d : VIdx) (a : VIdx) (b : VIdx) (m : MIdx) (t : BitVec 2)
  /-- VFABS, R276. Absolute value per lane. -/
  | vfabs (g : Gap) (d : VIdx) (a : VIdx) (m : MIdx) (t : BitVec 2)
  /-- VFRCP, R276. Correctly rounded reciprocal per lane. -/
  | vfrcp (g : Gap) (d : VIdx) (a : VIdx) (m : MIdx) (t : BitVec 2)
  /-- VFRSQ, R276. Correctly rounded reciprocal square root. -/
  | vfrsq (g : Gap) (d : VIdx) (a : VIdx) (m : MIdx) (t : BitVec 2)
  /-- VFEX2, R276. Correctly rounded 2^x. -/
  | vfex2 (g : Gap) (d : VIdx) (a : VIdx) (m : MIdx) (t : BitVec 2)
  /-- VFLG2, R276. Correctly rounded log2. -/
  | vflg2 (g : Gap) (d : VIdx) (a : VIdx) (m : MIdx) (t : BitVec 2)
  /-- VCMP, R277. Integer lane compare into a mask register. -/
  | vcmp (g : Gap) (w : BitVec 2) (d : BitVec 3) (a : VIdx) (b : VIdx) (m : MIdx) (c : BitVec 3)
  /-- VFCMP, R278. Floating lane compare into a mask register. -/
  | vfcmp (g : Gap) (t : BitVec 2) (d : BitVec 3) (a : VIdx) (b : VIdx) (m : MIdx) (c : BitVec 3)
  /-- VSEL, R279. Selects bytes of two registers under a mask. -/
  | vsel (g : Gap) (d : VIdx) (a : VIdx) (b : VIdx) (m : MIdx)
  /-- MAND, R280. ANDs masks, optionally with complemented mb. -/
  | mand (g : Gap) (d : BitVec 3) (a : BitVec 3) (b : BitVec 3) (n : BitVec 3)
  /-- MOR, R280. ORs masks, optionally with complemented mb. -/
  | mor (g : Gap) (d : BitVec 3) (a : BitVec 3) (b : BitVec 3) (n : BitVec 3)
  /-- MXOR, R280. XORs masks, optionally with complemented mb. -/
  | mxor (g : Gap) (d : BitVec 3) (a : BitVec 3) (b : BitVec 3) (n : BitVec 3)
  /-- MPOP, R281. Counts active lanes into a scalar register. -/
  | mpop (g : Gap) (d : CIdx) (a : BitVec 3) (m : MIdx) (w : BitVec 2)
  /-- VPERM, R283. Selects elements of va:vb by indices held in vd. -/
  | vperm (g : Gap) (d : VIdx) (a : VIdx) (b : VIdx) (m : MIdx) (w : BitVec 2)
  /-- VSHF, R284. Permutes lanes of one register with wrapping indices. -/
  | vshf (g : Gap) (d : VIdx) (a : VIdx) (b : VIdx) (m : MIdx) (w : BitVec 2)
  /-- VSLD, R285. Slides down the concatenation of va and old vd. -/
  | vsld (g : Gap) (d : VIdx) (a : VIdx) (n : BitVec 7) (w : BitVec 2)
  /-- VBC, R286. Broadcasts lane n to every lane. -/
  | vbc (g : Gap) (d : VIdx) (a : VIdx) (n : BitVec 7) (w : BitVec 2)
  /-- VEXT, R286. Extracts lane n into a scalar register. -/
  | vext (g : Gap) (d : VIdx) (a : VIdx) (n : BitVec 7) (w : BitVec 2)
  /-- VINS, R286. Inserts a scalar into lane n. -/
  | vins (g : Gap) (d : VIdx) (s : VIdx) (n : BitVec 7) (w : BitVec 2)
  /-- VZIP, R287. Interleaves halves of two registers. -/
  | vzip (g : Gap) (d : VIdx) (a : VIdx) (b : VIdx) (h : BitVec 1) (w : BitVec 2)
  /-- VUZP, R287. Separates even or odd lanes of va:vb. -/
  | vuzp (g : Gap) (d : VIdx) (a : VIdx) (b : VIdx) (h : BitVec 1) (w : BitVec 2)
  /-- VREDADD, R288. Integer sum reduction into the low lane. -/
  | vredadd (g : Gap) (d : VIdx) (a : VIdx) (m : MIdx) (w : BitVec 2)
  /-- VREDMAX, R288. Signed maximum reduction. -/
  | vredmax (g : Gap) (d : VIdx) (a : VIdx) (m : MIdx) (w : BitVec 2)
  /-- VREDMIN, R288. Signed minimum reduction. -/
  | vredmin (g : Gap) (d : VIdx) (a : VIdx) (m : MIdx) (w : BitVec 2)
  /-- VFREDADD, R289. Floating sum in the canonical pairwise tree. -/
  | vfredadd (g : Gap) (d : VIdx) (a : VIdx) (m : MIdx) (t : BitVec 2)
  /-- VFAMAX, R290. Greatest magnitude among active lanes. -/
  | vfamax (g : Gap) (d : VIdx) (a : VIdx) (m : MIdx) (t : BitVec 2)
  /-- VCVT, R291. Converts lanes between formats by part. -/
  | vcvt (g : Gap) (d : VIdx) (a : VIdx) (p : VIdx) (m : MIdx) (t : BitVec 2)
  /-- VQNT, R293. Block-quantises 32-element blocks with sb8 scales. -/
  | vqnt (g : Gap) (d : VIdx) (a : VIdx) (s : VIdx) (m : MIdx) (p : BitVec 2)
  /-- VDQNT, R294. Dequantises block-scaled elements. -/
  | vdqnt (g : Gap) (d : VIdx) (a : VIdx) (s : VIdx) (m : MIdx) (p : BitVec 2)
  /-- VSCL, R295. Multiplies lanes by block scales. -/
  | vscl (g : Gap) (d : VIdx) (a : VIdx) (s : VIdx) (m : MIdx) (t : BitVec 2)
  /-- VUNPK, R292. Splits nibbles in place with sign or zero extension. -/
  | vunpk (g : Gap) (d : VIdx) (a : VIdx) (p : VIdx) (m : MIdx) (t : BitVec 2)
  /-- VIMM, R212. Fills a vector register from a 16-bit immediate. -/
  | vimm (g : Gap) (d : VIdx) (t : BitVec 3) (i : BitVec 16)
  /-- FMT, R211. Sets a format prefix pending for the next instruction. The low bits z of the payload are checked when
  that instruction issues (R207, R209). -/
  | fmt (g : Gap) (a : BitVec 8) (b : BitVec 8) (r : BitVec 3) (s : BitVec 2) (z : BitVec 3)
  /-- CTR_ADD, R254. Adds to a counter at its home with release, saturating and waking waiters. -/
  | ctrAdd (g : Gap) (a : CIdx) (b : CIdx) (d : CIdx) (s : BitVec 3)
  /-- CTR_MAX, R254. Raises a counter to a floor value with release. -/
  | ctrMax (g : Gap) (a : CIdx) (b : CIdx) (d : CIdx) (s : BitVec 3)
  /-- CTR_WAIT, R255. Continues if the counter meets the threshold, otherwise suspends as a waiter. -/
  | ctrWait (g : Gap) (a : CIdx) (b : CIdx) (d : CIdx) (s : BitVec 3)
  /-- CTR_TEST, R256. Returns whether the counter meets a threshold, acquiring if so. -/
  | ctrTest (g : Gap) (a : CIdx) (b : CIdx) (d : CIdx) (s : BitVec 3)
  /-- CTR_READ, R256. Returns the counter value with no ordering. -/
  | ctrRead (g : Gap) (a : CIdx) (d : CIdx)
  /-- CTR_INIT, R257. Privileged set of a counter, faulting if waiters exist. -/
  | ctrInit (g : Gap) (a : CIdx) (b : CIdx) (d : CIdx) (s : BitVec 3)
  /-- SCO_OPEN, R259. Opens a child scope from a descriptor, or returns a refusal. -/
  | scoOpen (g : Gap) (a : CIdx) (b : CIdx) (d : CIdx)
  /-- SCO_CLOSE, R260. Seals a scope and returns its result, suspending until it empties. -/
  | scoClose (g : Gap) (a : CIdx) (d : CIdx)
  /-- SCO_CANCEL, R261. Cancels a scope in the caller's subtree and broadcasts the cancel. -/
  | scoCancel (g : Gap) (a : CIdx)
  /-- SCO_SUCCEED, R262. First succeed sets SC, CX and the result code and cancels the scope. -/
  | scoSucceed (g : Gap) (a : CIdx) (d : CIdx)
  /-- SCO_SPAWN, R264. Creates one strand from a written continuation record. -/
  | scoSpawn (g : Gap) (a : CIdx) (b : CIdx) (d : CIdx)
  /-- SCO_LAUNCH, R265. Launches teams from a kernel header into a scope. -/
  | scoLaunch (g : Gap) (a : CIdx) (b : CIdx) (d : CIdx)
  /-- SCO_SHIELD, R263. Raises the shield depth by one. -/
  | scoShield (g : Gap)
  /-- SCO_UNSHIELD, R263. Lowers the shield depth, acting as a cancellation point at zero. -/
  | scoUnshield (g : Gap)
  /-- SCO_POLL, R263. Cancellation point reporting a held-off cancel. -/
  | scoPoll (g : Gap) (d : CIdx)
  /-- SCO_ID, R263. Returns the strand's own scope id. -/
  | scoId (g : Gap) (d : CIdx)
  /-- LF_DISCARD, R75. Empties a leaf page, dropping all its lines. -/
  | lfDiscard (g : Gap) (a : CIdx)
  /-- LF_MOVE, R77. Starts moving a leaf page to a target LPN. -/
  | lfMove (g : Gap) (a : CIdx) (b : CIdx)
  /-- LF_STAT, R79. Returns the status word of a leaf page. -/
  | lfStat (g : Gap) (a : CIdx) (d : CIdx)
  /-- MX_LEASE, R307. Acquires the Anvil lease, counting a birth. -/
  | mxLease (g : Gap) (d : CIdx)
  /-- MX_FREE, R308. Ends the strand's lease once queued commands complete. -/
  | mxFree (g : Gap)
  /-- MX_OPB, R309. Queues staging of the B operand. -/
  | mxOpb (g : Gap) (a : CIdx) (b : CIdx) (d : CIdx)
  /-- MX_MMA, R310. Queues a multiply of A by staged B into the accumulator. -/
  | mxMma (g : Gap) (a : CIdx) (b : CIdx) (d : CIdx)
  /-- MX_LD, R311. Queues a load of the accumulator image. -/
  | mxLd (g : Gap) (a : CIdx) (b : CIdx)
  /-- MX_ST, R312. Queues a store of the accumulator image after earlier commands. -/
  | mxSt (g : Gap) (a : CIdx) (b : CIdx)
  /-- MX_ZERO, R313. Queues zeroing of the accumulator. -/
  | mxZero (g : Gap)
  /-- MX_CHK, R314. Waits for the strand's Anvil commands and returns lease status. -/
  | mxChk (g : Gap) (d : CIdx)
  /-- LAD_SET, R324. Writes a Ladle descriptor register. -/
  | ladSet (g : Gap) (a : CIdx) (n : CIdx)
  /-- LAD_GET, R324. Reads a Ladle descriptor register. -/
  | ladGet (g : Gap) (n : CIdx) (d : CIdx)
  /-- LAD_GO, R318. Checks the descriptor and launches a Ladle transfer. -/
  | ladGo (g : Gap) (d : CIdx)
  /-- LAD_STAT, R324. Returns a Ladle transfer's status word. -/
  | ladStat (g : Gap) (a : CIdx) (d : CIdx)
  /-- CRU_SET, R324. Writes a Crucible descriptor register. -/
  | cruSet (g : Gap) (a : CIdx) (n : CIdx)
  /-- CRU_GET, R324. Reads a Crucible descriptor register. -/
  | cruGet (g : Gap) (n : CIdx) (d : CIdx)
  /-- CRU_GO, R323. Checks the descriptor and launches a collective. -/
  | cruGo (g : Gap) (d : CIdx)
  /-- CRU_STAT, R324. Returns a collective's status word. -/
  | cruStat (g : Gap) (a : CIdx) (d : CIdx)
  /-- SYS_CALL, R326. Counts a birth, suspends and queues the record to a Bench core. -/
  | sysCall (g : Gap) (a : CIdx)
  /-- TRAP, R327. Raises a software trap resuming past itself. -/
  | trap (g : Gap) (a : CIdx)
  /-- ERET, R328. Returns from a privileged handler to EPC. -/
  | eret (g : Gap)
  /-- YIELD, R329. Suspends and pushes the record to the top of its deque. -/
  | yield (g : Gap)
  /-- BRK, R327. Raises a breakpoint trap at itself. -/
  | brk (g : Gap)
  /-- HALT, R330. Retires the strand, performing launch completion and counting its death. -/
  | halt (g : Gap)
  /-- TLB_INV, R331. Invalidates one translation device-wide. -/
  | tlbInv (g : Gap) (a : CIdx) (b : CIdx)
  /-- TLB_ALL, R331. Invalidates every translation of an ASID device-wide. -/
  | tlbAll (g : Gap) (a : CIdx)
  /-- CSRR, R335. Reads a status and control register. -/
  | csrr (g : Gap) (d : CIdx) (n : BitVec 10)
  /-- CSRW, R335. Writes a status and control register, returning the old value. -/
  | csrw (g : Gap) (d : CIdx) (a : CIdx) (n : BitVec 10)
  /-- CSRS, R335. Sets bits of a status and control register. -/
  | csrs (g : Gap) (d : CIdx) (a : CIdx) (n : BitVec 10)
  /-- CSRC, R335. Clears bits of a status and control register. -/
  | csrc (g : Gap) (d : CIdx) (a : CIdx) (n : BitVec 10)
  /-- REGISTER_WRITE, R6. A write to an MMIO or BAR register with no row of its own stores its fields within their limits. -/
  | registerWrite (target : RegTarget) (value : Word)
  /-- CROSS_DIE_INVALIDATION, R50. A die drops its read copy and L1 copies and acknowledges the writer. -/
  | crossDieInvalidation (die : DieId) (line : Nat) (writer : Agent)
  /-- INVALIDATION_ACK, R50. An acknowledgement lowers the writing core's count of outstanding invalidations. -/
  | invalidationAck (writer : Agent)
  /-- SETTLE_MARKER, R119. A die receives a settle marker; with all markers in, it applies invalidations and reports. -/
  | settleMarker (src dst : DieId)
  /-- SETTLE_REPORT, R119. The sequencer receives a die's report and completes the round when all have reported. -/
  | settleReport (die : DieId)
  /-- CANCEL_BROADCAST, R158. A die receives a cancel id, checks resident strands' paths and wakes the ASID's waiters. -/
  | cancelBroadcast (die : DieId) (asid : Asid) (scope : BitVec 32)
  /-- SCOPE_DEATH, R155. A death is counted at a scope's home, moving a sealed scope to closing when deaths equal births. -/
  | scopeDeath (asid : Asid) (scope : BitVec 32)
  /-- SCOPE_CLOSING, R155. A closing scope discards its leaf region, performs its completion add, reports to its parent and frees its record. -/
  | scopeClosing (asid : Asid) (scope : BitVec 32)
  /-- STRAND_RESUME, R137. A core takes a record, validates it, restores state and applies the cancellation point. -/
  | strandResume (core : CoreId)
  /-- TEAM_PLACEMENT, R170. Placement selects a team by fair share and places it on a fitting cluster. -/
  | teamPlacement (die : DieId)
  /-- QUANTUM_END, R175. At the end of a team quantum the team is swapped out or begins a new quantum. -/
  | quantumEnd (die : DieId) (team : Nat)
  /-- LEAF_SHRINK, R72. Spill pages are converted and nospill pages lost until Resident fits the reservation. -/
  | leafShrink (die : DieId) (f : FnId)
  /-- LEAF_CONVERSION, R69. A Bench core gives a spill page an HBM frame, rewrites its entries and posts a late-frame record. -/
  | leafConversion (die : DieId) (lpn : BitVec 12) (asid : Asid) (byAccess : Bool)
  /-- LEAF_MOVE_DONE, R78. A leaf page move delivers its lines, rewrites entries and completes or fails. -/
  | leafMoveDone (die : DieId) (lpn : BitVec 12)
  /-- LADLE_SEGMENT, R320. The Ladle performs the next segment of a transfer or ends it on cancel or fault. -/
  | ladleSegment (core : CoreId) (slot : Fin 16)
  /-- LADLE_TRANSFER_END, R320. A transfer's completion add is performed and its death counted. -/
  | ladleTransferEnd (core : CoreId) (slot : Fin 16)
  /-- ANVIL_COMMAND_RUN, R298. A queued Anvil command runs in a run with budget left and completes. -/
  | anvilCommandRun (cluster : ClusterId)
  /-- ANVIL_RUN_END, R299. A run's command or cycle budget is spent and the grant passes to a waiting core. -/
  | anvilRunEnd (cluster : ClusterId)
  /-- COLLECTIVE_END, R323. A collective ends, writing residuals, performing its completion add and dying. -/
  | collectiveEnd (core : CoreId) (slot : Fin 4)
  /-- LAUNCH_ENTRY_CONSUME, R379. The device consumes the next launch entry and launches it. -/
  | launchEntryConsume (f : FnId) (q : Fin 4)
  /-- COMPLETION_RECORD, R380. A completion record is written to the ring and MSI-X vector q sent. -/
  | completionRecord (f : FnId) (q : Fin 4)
  /-- SERVICE_RING_POST, R388. A Bench core posts a request to the host service ring when room exists. -/
  | serviceRingPost (f : FnId)
  /-- OWNERSHIP_GRANT, R390. After the host's reply a Bench core marks a region accelerator-owned and retries chained strands. -/
  | ownershipGrant (f : FnId) (region : Word)
  /-- BENCH_REQUEST_DISPATCH, R386. Deficit round-robin moves a function's request into a Bench mailbox ring. -/
  | benchRequestDispatch (die : DieId)
  /-- BENCH_REPLY, R385. A Bench core posts a reply, delivering a result and pushing the record. -/
  | benchReply (bench : Fin 64)
  /-- SYSCALL_NULL, R387. Call 0 does nothing and returns 0. -/
  | syscallNull (bench : Fin 64)
  /-- SYSCALL_HOST, R387. Call 1 forwards the call to the host service ring. -/
  | syscallHost (bench : Fin 64)
  /-- SYSCALL_LPN_ASSIGN, R387. Call 2 assigns the lowest free LPN of a die to the caller's function. -/
  | syscallLpnAssign (bench : Fin 64)
  /-- SYSCALL_FIRMWARE, R387. Calls 3 and above are served as the firmware image defines. -/
  | syscallFirmware (bench : Fin 64)
  /-- INTERRUPT, R338. A pending interrupt is delivered to a privileged strand with IE set. -/
  | interrupt (die : DieId)
  /-- FAULT_QUEUE_SLOT_FREE, R345. When a fault-queue slot frees, a stalled fault is taken or a held record is posted. -/
  | faultQueueSlotFree (asid : Asid)
  /-- TOUCHSTONE_HASH, R400. A paired copy's operation hash is compared and forwarded once on a match. -/
  | touchstoneHash (pair : Nat) (copy : PairCopy) (hash : Word)
  /-- TOUCHSTONE_TIMEOUT, R400. A partner hash 20 µs late is a mismatch that fails the pair. -/
  | touchstoneTimeout (pair : Nat)
  /-- SETTLE_ROUND_OPEN, R119. The order sequencer opens a settle round and sends markers to every die. -/
  | settleRoundOpen
  /-- ILLEGAL_INSTRUCTION, R217. A word that is not an instruction, such as an unassigned major or selector or a non-zero required-zero field, raises cause 0x01 at issue with no effect. -/
  | illegalInstruction (w : BitVec 32)
  /-- STEAL, R173. An idle core takes the top entry from another core's deque. -/
  | steal (thief victim : CoreId)
  /-- STEAL_WAIT_EXPIRY, R173. After 1 µs a thief that failed a full circuit starts stealing again. -/
  | stealWaitExpiry (core : CoreId)
  /-- PRE_EMPT_SLOT, R178. A Pre-empt write stops the strand in a slot and pushes its record. -/
  | preEmptSlot (core : CoreId) (slot : Fin 16)
  /-- PRE_EMPT_TEAM, R178. A Pre-empt write with Team set swaps out the slot's team at once. -/
  | preEmptTeam (core : CoreId) (slot : Fin 16)
  /-- PAGE_WALK, R37. A walk completes, installing a translation or posting one fault record for all joined misses. -/
  | pageWalk (die : DieId) (asid : Asid) (va : BitVec 48)
  /-- COLLECTIVE_FLIT, R369. A rank receives contribution or result flits of a collective. -/
  | collectiveFlit (core : CoreId) (slot : Fin 4) (flit : Flit) (rank : Nat) (first : Nat) (data : List Word)
  /-- COLLECTIVE_READY, R373. The leader receives a ready message and sends commit once all are in. -/
  | collectiveReady (core : CoreId) (slot : Fin 4) (rank : Nat)
  /-- COLLECTIVE_COMMIT, R373. A rank receiving commit writes its destination from STAGE and performs its add. -/
  | collectiveCommit (core : CoreId) (slot : Fin 4)
  /-- COLLECTIVE_ABORT, R373. A rank receiving an abort ends aborted with link code 4. -/
  | collectiveAbort (core : CoreId) (abort : AbortFlit)
  /-- ERROR_DETECTED, R395. A hardware error or refusal posts an error record or merges into one. -/
  | errorDetected (die : DieId) (report : ErrorReport)
  /-- PCIE_COMPLETION, R251. A PCIe completion from the host arrives for a device-issued read, zero-length read or AtomicOp, returning data or a rejection. -/
  | pcieCompletion (id : Nat) (data : Option (List Byte))
  /-- PEER_ACKNOWLEDGEMENT, R120. A peer's acknowledgement of a write, or its reply to a load or atomic, arrives over the Hyunzin link and makes the write sys-visible or completes the access. -/
  | peerAcknowledgement (id : Nat) (data : Option (List Byte))
  /-- DEVICE_RESET, R24. Reset starts each firmware core's boot ROM with the root capability and clears state. -/
  | deviceReset
  /-- IMAGE_VERIFY, R402. A chip verifies a received firmware image and starts it on every die. -/
  | imageVerify (source : ImageSource)
  /-- CLAIM, R405. A received leader claim is discarded, adopted or yielded to by epoch and serial. -/
  | claim (epoch serial : Nat)
  /-- LEADER_ELECTION_EXPIRY, R405. 200 ms without yielding after its last claim makes a chip the leader. -/
  | leaderElectionExpiry
  /-- LOAD_MESSAGE, R407. A follower accepts the next image chunk from the leader. -/
  | loadMessage (serial epoch seq : Nat) (chunk : List Byte)
  /-- RESEND_REQUEST, R407. The leader resends chunks after a follower reports a gap. -/
  | resendRequest (serial epoch seq : Nat)
  /-- LOAD_TIMEOUT, R407. 2 s without load messages makes a follower raise its epoch and claim again. -/
  | loadTimeout
  /-- READ_COPY_REQUEST, R49. A home grants another die a read copy and marks Die copies. -/
  | readCopyRequest (die : DieId) (line : Nat)
  /-- OWNERSHIP_REQUEST, R49. A home recalls, invalidates copies and grants ownership of a line to another die. -/
  | ownershipRequest (core : CoreId) (line : Nat)
  /-- DIE_FENCE, R166. Firmware fences a failed die, closing its bridge, poisoning lines and counting proxy deaths. -/
  | dieFence (die : DieId)
  /-- SCOPE_KILL, R165. Firmware kills a scope subtree regardless of shields and handlers. -/
  | scopeKill (asid : Asid) (scope : BitVec 32)
  /-- TEAM_BLOCK_POOL_PUSH, R169. A write pushes a team block onto the pool, releasing waiters. -/
  | teamBlockPoolPush (die : DieId) (value : Word)
  /-- CONTEXT_BLOCK_POOL_PUSH, R169. A write pushes a context block onto the pool, releasing waiting stops. -/
  | contextBlockPoolPush (die : DieId) (value : Word)
  /-- SWAP_AREA_POOL_PUSH, R169. A write pushes a swap area onto the pool. -/
  | swapAreaPoolPush (die : DieId) (value : Word)
  /-- RESERVATION_WRITE, R61. A write raises or lowers a function's leaf reservation, starting a shrink if needed. -/
  | reservationWrite (die : DieId) (f : FnId) (value : Word)
  /-- LPN_ENTRY_WRITE, R62. A write assigns an LPN's V and Function only while the page is Empty. -/
  | lpnEntryWrite (die : DieId) (lpn : BitVec 12) (value : BitVec 32)
  /-- POWER_STATE_WRITE, R408. A write requests an LLC power state, refused while the leaf ceiling forbids it. -/
  | powerStateWrite (die : DieId) (value : Word)
  /-- COLLECTIVE_TIMEOUT, R367. A rank waiting Timeout for awaited flits ends aborted with code 1 or 5. -/
  | collectiveTimeout (core : CoreId) (slot : Fin 4)
  /-- FLIT_RECEIVE, R357. A flit is authenticated, or dropped and replayed, taking the port out after three failed replays. -/
  | flitReceive (port : PortId) (authentic : Bool)
  /-- FLIT_COUNTER_LIMIT, R356. A sender reaching 2^48 flits on a port stops until the epoch changes. -/
  | flitCounterLimit (port : PortId)
  /-- PORT_LANE_CHANGE, R356. A port's lanes in service change and it runs at the remaining fraction. -/
  | portLaneChange (port : PortId) (lanes : Fin 9)
  /-- GET_VERSION, R362. SPDM responder answers GET_VERSION. -/
  | getVersion (party : Nat)
  /-- GET_CAPABILITIES, R362. SPDM responder answers GET_CAPABILITIES. -/
  | getCapabilities (party : Nat)
  /-- NEGOTIATE_ALGORITHMS, R362. SPDM responder negotiates the supported algorithms. -/
  | negotiateAlgorithms (party : Nat) (offer : SpdmOffer)
  /-- GET_DIGESTS, R362. SPDM responder returns certificate digests. -/
  | getDigests (party : Nat)
  /-- GET_CERTIFICATE, R362. SPDM responder returns its certificate. -/
  | getCertificate (party : Nat) (offset length : Nat)
  /-- CHALLENGE, R362. SPDM responder answers a signed challenge. -/
  | challenge (party : Nat) (nonce : Nat)
  /-- GET_MEASUREMENTS, R362. SPDM responder returns signed measurement blocks. -/
  | getMeasurements (party : Nat) (nonce : Nat)
  /-- KEY_EXCHANGE, R362. SPDM ffdhe3072 key exchange opens a session. -/
  | keyExchange (party : Nat) (exchange : Nat)
  /-- FINISH, R362. SPDM FINISH completes session establishment. -/
  | finish (party : Nat) (verifyOk : Bool)
  /-- KEY_UPDATE, R363. SPDM KEY_UPDATE distributes a new epoch key. -/
  | keyUpdate (party : Nat) (epoch : BitVec 16)
  /-- END_SESSION, R362. SPDM END_SESSION ends a session. -/
  | endSession (party : Nat)
  /-- PEER_WRITE, R360. An inbound peer write is translated in the Peer ASID and performed or rejected. -/
  | peerWrite (by_ : Sender) (offset : Nat) (bytes : List Byte)
  /-- PEER_READ, R360. An inbound peer read is performed at the home or returns all ones. -/
  | peerRead (by_ : Sender) (offset : Nat) (size : Nat)
  /-- PEER_ATOMIC, R360. An inbound peer atomic is performed at the home or rejected. -/
  | peerAtomic (by_ : Sender) (offset : Nat) (op : AmoOp) (operand comparand : Word)
  /-- PEER_ADD, R97. An inbound add-window write adds to a counter in the Peer ASID. -/
  | peerAdd (by_ : Sender) (offset : Nat) (size : Nat) (value : Word)
  /-- PEER_COUNTER_READ, R97. A read through the peer add window returns a counter value. -/
  | peerCounterRead (by_ : Sender) (offset : Nat) (size : Nat)
  /-- WINDOW_ADD, R96. A host posted write to BAR2 adds to a counter in the window ASID. -/
  | windowAdd (by_ : Sender) (offset : Nat) (size : Nat) (value : Word)
  /-- WINDOW_READ, R96. A host read of BAR2 returns a counter value or all ones. -/
  | windowRead (by_ : Sender) (offset : Nat) (size : Nat)
  /-- APERTURE_WRITE, R392. A host write to BAR4 is performed at its home in the aperture ASID or dropped. -/
  | apertureWrite (by_ : Sender) (offset : Nat) (bytes : List Byte)
  /-- APERTURE_READ, R392. A host read of BAR4 returns memory or all ones. -/
  | apertureRead (by_ : Sender) (offset : Nat) (size : Nat)
  /-- ATOMICOP_REQUEST, R375. An inbound PCIe AtomicOp is answered with Unsupported Request. -/
  | atomicopRequest (f : FnId) (address : Nat)
  /-- DOORBELL, R379. A Doorbell write latches a following sequence and starts the queue. -/
  | doorbell (f : FnId) (q : Fin 4) (value : BitVec 32)
  /-- QUEUE_RESET, R382. A State write of 1 kills running entries and returns the queue to idle. -/
  | queueReset (f : FnId) (q : Fin 4)
  /-- QUEUE_RING_BASE_WRITE, R379. Writing a queue's ring base resets its sequences and state. -/
  | queueRingBaseWrite (f : FnId) (q : Fin 4) (value : Word)
  /-- REPLY_TAG, R388. A Reply tag write completes the host service request it names. -/
  | replyTag (f : FnId) (tag : Word)
  /-- TRANSFER_TO_PROCESSOR, R391. A host write to BAR0 0x208 transfers a region's ownership to the processor. -/
  | transferToProcessor (f : FnId) (region : Word)
  /-- LATE_FRAME_PUSH, R384. A write pushes a 64 KiB frame onto a function's late-frame pool for a die. -/
  | lateFramePush (f : FnId) (die : DieId) (value : Word)
  /-- JOB_POINTER_WRITE, R359. Writing a function's Job pointer makes its job descriptor and peer map take effect. -/
  | jobPointerWrite (f : FnId) (value : Word)
  /-- PCIE_LINK_STATE_CHANGE, R389. A PCIe link state change raises interrupt source 4. -/
  | pcieLinkStateChange
  /-- RESOLVE_RETRY, R347. Resolve action 0 pushes the strand and its chain to retry at EPC. -/
  | resolveRetry (die : DieId) (value : Word)
  /-- RESOLVE_RESUME, R347. Resolve action 1 resumes the head strand at EPC + 4 and retries the chain. -/
  | resolveResume (die : DieId) (value : Word)
  /-- RESOLVE_RETIRE, R347. Resolve action 2 retires the head strand and its chain. -/
  | resolveRetire (die : DieId) (value : Word)
  /-- RESOLVE_IGNORED, R346. Resolve action 3 is ignored with an error record. -/
  | resolveIgnored (die : DieId) (value : Word)
  /-- ASSAY_START, R398. A write to Assay starts a self-test of the named unit. -/
  | assayStart (die : DieId) (value : Word)
  /-- ASSAY_END, R398. A self-test completes with pass or fail and the unit resumes service. -/
  | assayEnd (die : DieId) (pass : Bool)
  /-- PATINA_SAMPLE, R401. The once-a-second oscillator reading may take a clock step or remove the cluster. -/
  | patinaSample (cluster : ClusterId) (count : BitVec 16)
  /-- SPDM_RESPONSE, R362. A switch or peer's SPDM response reaches the device acting as requester, advancing measurement, key exchange or admission. -/
  | spdmResponse (party : Nat) (answer : SpdmAnswer)
  /-- FIRMWARE_CORE_RESTART, R381. Die 0's firmware core restarts, pausing launch-queue consumption, and consumption resumes at Consumed + 1 when the restart ends. -/
  | firmwareCoreRestart (ends : Bool)
  /-- PACKAGE_POWER_LOSS, R409. Power to the package is removed, and no part of the device responds until power returns and reset runs. -/
  | packagePowerLoss
  deriving DecidableEq, Repr

end Sys2Proof
end

