-- ==== Sys2Proof/WellFormed.lean ====
section
/-!
DEFINITION. Which terms of Instr are instructions: the codes that R217 makes illegal are refused, whatever the state.
A code that only a pending format code word makes illegal is judged at issue (R208, R209), not here.
-/
namespace Sys2Proof

/-- A scope code names one of core, cluster, die, dev and sys (R87, R217). -/
def scopeOk (s : BitVec 3) : Bool := s.toNat ≤ 4

/-- The lane count 128 / W of a width code (R215, R274). -/
def lanesOf (w : BitVec 2) : Nat := 128 >>> w.toNat

/-- The numbers of the status and control registers (R332). -/
def csrNumbers : List Nat :=
  [0x000, 0x001, 0x002, 0x003, 0x004, 0x005, 0x010, 0x011, 0x012, 0x013, 0x014, 0x015, 0x020, 0x021, 0x030, 0x031, 0x032]

/-- The number names a status and control register (R217, R332). -/
def csrOk (n : BitVec 10) : Bool := csrNumbers.contains n.toNat

/-- The term is an instruction or an event: every code in it is one its entry accepts (R217). -/
def Instr.wf : Instr → Bool
  | .add _ _ _ _ => true
  | .sub _ _ _ _ => true
  | .mul _ _ _ _ => true
  | .mulh _ _ _ _ => true
  | .mulhu _ _ _ _ => true
  | .div _ _ _ _ => true
  | .divu _ _ _ _ => true
  | .rem _ _ _ _ => true
  | .remu _ _ _ _ => true
  | .and _ _ _ _ => true
  | .or _ _ _ _ => true
  | .xor _ _ _ _ => true
  | .sll _ _ _ _ => true
  | .srl _ _ _ _ => true
  | .sra _ _ _ _ => true
  | .slt _ _ _ _ => true
  | .sltu _ _ _ _ => true
  | .min _ _ _ _ => true
  | .max _ _ _ _ => true
  | .minu _ _ _ _ => true
  | .maxu _ _ _ _ => true
  | .sel _ _ _ _ => true
  | .clz _ _ _ => true
  | .ctz _ _ _ => true
  | .popc _ _ _ => true
  | .addi _ _ _ _ => true
  | .andi _ _ _ _ => true
  | .ori _ _ _ _ => true
  | .xori _ _ _ _ => true
  | .slti _ _ _ _ => true
  | .sltiu _ _ _ _ => true
  | .slli _ _ _ _ => true
  | .srli _ _ _ _ => true
  | .srai _ _ _ _ => true
  | .lui _ _ _ => true
  | .capSet _ _ _ _ => true
  | .capAnd _ _ _ _ => true
  | .capAddr _ _ _ _ => true
  | .capBase _ _ _ => true
  | .capLen _ _ _ => true
  | .capPerm _ _ _ => true
  | .capTag _ _ _ => true
  | .capClr _ _ _ => true
  | .capSub _ _ _ _ => true
  | .capInc _ _ _ _ => true
  | .beq _ _ _ _ => true
  | .bne _ _ _ _ => true
  | .blt _ _ _ _ => true
  | .bge _ _ _ _ => true
  | .bltu _ _ _ _ => true
  | .bgeu _ _ _ _ => true
  | .jal _ _ _ => true
  | .jalr _ _ _ _ => true
  | .idem _ _ => true
  | .ldB _ _ _ _ => true
  | .ldBu _ _ _ _ => true
  | .ldH _ _ _ _ => true
  | .ldHu _ _ _ _ => true
  | .ldW _ _ _ _ => true
  | .ldWu _ _ _ _ => true
  | .ldD _ _ _ _ => true
  | .ldC _ _ _ _ => true
  | .stB _ _ _ _ => true
  | .stH _ _ _ _ => true
  | .stW _ _ _ _ => true
  | .stD _ _ _ _ => true
  | .stC _ _ _ _ => true
  | .amoAdd _ _ _ _ s => scopeOk s
  | .amoAnd _ _ _ _ s => scopeOk s
  | .amoOr _ _ _ _ s => scopeOk s
  | .amoXor _ _ _ _ s => scopeOk s
  | .amoMin _ _ _ _ s => scopeOk s
  | .amoMax _ _ _ _ s => scopeOk s
  | .amoSwp _ _ _ _ s => scopeOk s
  | .amoCas _ _ _ _ s => scopeOk s
  | .fence _ s => scopeOk s
  | .fenceSc _ => true
  | .dcWb _ _ => true
  | .dcInv _ _ => true
  | .dcFlush _ _ => true
  | .dcPf _ _ => true
  | .ldBAcq _ _ _ s => scopeOk s
  | .ldBuAcq _ _ _ s => scopeOk s
  | .ldHAcq _ _ _ s => scopeOk s
  | .ldHuAcq _ _ _ s => scopeOk s
  | .ldWAcq _ _ _ s => scopeOk s
  | .ldWuAcq _ _ _ s => scopeOk s
  | .ldDAcq _ _ _ s => scopeOk s
  | .ldCAcq _ _ _ s => scopeOk s
  | .stBRel _ _ _ s => scopeOk s
  | .stHRel _ _ _ s => scopeOk s
  | .stWRel _ _ _ s => scopeOk s
  | .stDRel _ _ _ s => scopeOk s
  | .stCRel _ _ _ s => scopeOk s
  | .vld _ _ _ _ _ => true
  | .vst _ _ _ _ _ => true
  | .vlds _ _ _ _ _ => true
  | .vsts _ _ _ _ _ => true
  | .vgat _ _ _ _ _ => true
  | .vsct _ _ _ _ _ => true
  | .vldb _ _ _ _ _ => true
  | .vadd _ _ _ _ _ _ => true
  | .vsub _ _ _ _ _ _ => true
  | .vmul _ _ _ _ _ _ => true
  | .vmulh _ _ _ _ _ _ => true
  | .vand _ _ _ _ _ _ => true
  | .vor _ _ _ _ _ _ => true
  | .vxor _ _ _ _ _ _ => true
  | .vsll _ _ _ _ _ _ => true
  | .vsrl _ _ _ _ _ _ => true
  | .vsra _ _ _ _ _ _ => true
  | .vmin _ _ _ _ _ _ => true
  | .vmax _ _ _ _ _ _ => true
  | .vfadd _ _ _ _ _ _ => true
  | .vfsub _ _ _ _ _ _ => true
  | .vfmul _ _ _ _ _ _ => true
  | .vfma _ _ _ _ _ _ => true
  | .vfms _ _ _ _ _ _ => true
  | .vfnma _ _ _ _ _ _ => true
  | .vfmin _ _ _ _ _ _ => true
  | .vfmax _ _ _ _ _ _ => true
  | .vfabs _ _ _ _ _ => true
  | .vfrcp _ _ _ _ _ => true
  | .vfrsq _ _ _ _ _ => true
  | .vfex2 _ _ _ _ _ => true
  | .vflg2 _ _ _ _ _ => true
  | .vcmp _ _ _ _ _ _ c => decide (c.toNat ≤ 5)
  | .vfcmp _ _ _ _ _ _ c => decide (c.toNat ≤ 4)
  | .vsel _ _ _ _ _ => true
  | .mand _ _ _ _ n => decide (n.toNat ≤ 1)
  | .mor _ _ _ _ n => decide (n.toNat ≤ 1)
  | .mxor _ _ _ _ n => decide (n.toNat ≤ 1)
  | .mpop _ _ _ _ _ => true
  | .vperm _ _ _ _ _ _ => true
  | .vshf _ _ _ _ _ _ => true
  | .vsld _ _ _ _ _ => true
  | .vbc _ _ _ n w => decide (n.toNat < lanesOf w)
  | .vext _ _ _ n w => decide (n.toNat < lanesOf w)
  | .vins _ _ _ n w => decide (n.toNat < lanesOf w)
  | .vzip _ _ _ _ _ _ => true
  | .vuzp _ _ _ _ _ _ => true
  | .vredadd _ _ _ _ _ => true
  | .vredmax _ _ _ _ _ => true
  | .vredmin _ _ _ _ _ => true
  | .vfredadd _ _ _ _ _ => true
  | .vfamax _ _ _ _ _ => true
  | .vcvt _ _ _ _ _ _ => true
  | .vqnt _ _ _ _ _ _ => true
  | .vdqnt _ _ _ _ _ _ => true
  | .vscl _ _ _ _ _ _ => true
  | .vunpk _ _ _ p _ t => decide (t.toNat ≤ 1) && decide (p.toNat ≤ 1)
  | .vimm _ _ t _ => decide (t.toNat ≤ 4)
  | .fmt _ _ _ _ _ _ => true
  | .ctrAdd _ _ _ _ s => scopeOk s
  | .ctrMax _ _ _ _ s => scopeOk s
  | .ctrWait _ _ _ _ s => scopeOk s
  | .ctrTest _ _ _ _ s => scopeOk s
  | .ctrRead _ _ _ => true
  | .ctrInit _ _ _ _ s => scopeOk s
  | .scoOpen _ _ _ _ => true
  | .scoClose _ _ _ => true
  | .scoCancel _ _ => true
  | .scoSucceed _ _ _ => true
  | .scoSpawn _ _ _ _ => true
  | .scoLaunch _ _ _ _ => true
  | .scoShield _ => true
  | .scoUnshield _ => true
  | .scoPoll _ _ => true
  | .scoId _ _ => true
  | .lfDiscard _ _ => true
  | .lfMove _ _ _ => true
  | .lfStat _ _ _ => true
  | .mxLease _ _ => true
  | .mxFree _ => true
  | .mxOpb _ _ _ _ => true
  | .mxMma _ _ _ _ => true
  | .mxLd _ _ _ => true
  | .mxSt _ _ _ => true
  | .mxZero _ => true
  | .mxChk _ _ => true
  | .ladSet _ _ n => decide (n.toNat ≤ 8)
  | .ladGet _ n _ => decide (n.toNat ≤ 8)
  | .ladGo _ _ => true
  | .ladStat _ _ _ => true
  | .cruSet _ _ n => decide (n.toNat ≤ 7)
  | .cruGet _ n _ => decide (n.toNat ≤ 7)
  | .cruGo _ _ => true
  | .cruStat _ _ _ => true
  | .sysCall _ _ => true
  | .trap _ _ => true
  | .eret _ => true
  | .yield _ => true
  | .brk _ => true
  | .halt _ => true
  | .tlbInv _ _ _ => true
  | .tlbAll _ _ => true
  | .csrr _ _ n => csrOk n
  | .csrw _ _ _ n => csrOk n
  | .csrs _ _ _ n => csrOk n
  | .csrc _ _ _ n => csrOk n
  | .registerWrite _ _ => true
  | .crossDieInvalidation _ _ _ => true
  | .invalidationAck _ => true
  | .settleMarker _ _ => true
  | .settleReport _ => true
  | .cancelBroadcast _ _ _ => true
  | .scopeDeath _ _ => true
  | .scopeClosing _ _ => true
  | .strandResume _ => true
  | .teamPlacement _ => true
  | .quantumEnd _ _ => true
  | .leafShrink _ _ => true
  | .leafConversion _ _ _ _ => true
  | .leafMoveDone _ _ => true
  | .ladleSegment _ _ => true
  | .ladleTransferEnd _ _ => true
  | .anvilCommandRun _ => true
  | .anvilRunEnd _ => true
  | .collectiveEnd _ _ => true
  | .launchEntryConsume _ _ => true
  | .completionRecord _ _ => true
  | .serviceRingPost _ => true
  | .ownershipGrant _ _ => true
  | .benchRequestDispatch _ => true
  | .benchReply _ => true
  | .syscallNull _ => true
  | .syscallHost _ => true
  | .syscallLpnAssign _ => true
  | .syscallFirmware _ => true
  | .interrupt _ => true
  | .faultQueueSlotFree _ => true
  | .illegalInstruction _ => true
  | .steal _ _ => true
  | .stealWaitExpiry _ => true
  | .preEmptSlot _ _ => true
  | .preEmptTeam _ _ => true
  | .pageWalk _ _ _ => true
  | .collectiveFlit _ _ _ _ _ _ => true
  | .collectiveReady _ _ _ => true
  | .collectiveCommit _ _ => true
  | .collectiveAbort _ _ => true
  | .errorDetected _ _ => true
  | .pcieCompletion _ _ => true
  | .peerAcknowledgement _ _ => true
  | .settleRoundOpen => true
  | .deviceReset => true
  | .imageVerify _ => true
  | .claim _ _ => true
  | .leaderElectionExpiry => true
  | .loadMessage _ _ _ _ => true
  | .resendRequest _ _ _ => true
  | .loadTimeout => true
  | .readCopyRequest _ _ => true
  | .ownershipRequest _ _ => true
  | .dieFence _ => true
  | .scopeKill _ _ => true
  | .teamBlockPoolPush _ _ => true
  | .contextBlockPoolPush _ _ => true
  | .swapAreaPoolPush _ _ => true
  | .reservationWrite _ _ _ => true
  | .lpnEntryWrite _ _ _ => true
  | .powerStateWrite _ _ => true
  | .collectiveTimeout _ _ => true
  | .flitReceive _ _ => true
  | .flitCounterLimit _ => true
  | .portLaneChange _ _ => true
  | .getVersion _ => true
  | .getCapabilities _ => true
  | .negotiateAlgorithms _ _ => true
  | .getDigests _ => true
  | .getCertificate _ _ _ => true
  | .challenge _ _ => true
  | .getMeasurements _ _ => true
  | .keyExchange _ _ => true
  | .finish _ _ => true
  | .keyUpdate _ _ => true
  | .endSession _ => true
  | .peerWrite _ _ _ => true
  | .peerRead _ _ _ => true
  | .peerAtomic _ _ _ _ _ => true
  | .peerAdd _ _ _ _ => true
  | .peerCounterRead _ _ _ => true
  | .windowAdd _ _ _ _ => true
  | .windowRead _ _ _ => true
  | .apertureWrite _ _ _ => true
  | .apertureRead _ _ _ => true
  | .atomicopRequest _ _ => true
  | .doorbell _ _ _ => true
  | .queueReset _ _ => true
  | .queueRingBaseWrite _ _ _ => true
  | .replyTag _ _ => true
  | .transferToProcessor _ _ => true
  | .lateFramePush _ _ _ => true
  | .jobPointerWrite _ _ => true
  | .pcieLinkStateChange => true
  | .resolveRetry _ _ => true
  | .resolveResume _ _ => true
  | .resolveRetire _ _ => true
  | .resolveIgnored _ _ => true
  | .assayStart _ _ => true
  | .assayEnd _ _ => true
  | .patinaSample _ _ => true
  | .touchstoneHash _ _ _ => true
  | .touchstoneTimeout _ => true
  | .spdmResponse _ _ => true
  | .firmwareCoreRestart _ => true
  | .packagePowerLoss => true

end Sys2Proof
end

