-- ==== Sys2Proof/Decode.lean ====
section
/-!
DEFINITION. The decoder of instruction words and, after it, the encoder, both written from the formats of
spec/11_encoding.md (R199, R204, R205, R216) and the entries of chapters 11 to 16.
-/
namespace Sys2Proof

/-- Bits [lo + len - 1 : lo] of a value (R5). -/
def fld {n : Nat} (w : BitVec n) (lo len : Nat) : BitVec len := w.extractLsb' lo len

/-- The field x above the field y, in a value of k bits. -/
def cat {m n : Nat} (k : Nat) (x : BitVec m) (y : BitVec n) : BitVec k := (x ++ y).setWidth k

/-- Why a word is not an instruction (R217). -/
inductive DecodeError where
  /-- Fewer than four bytes are given. -/
  | tooShort
  /-- The major opcode is not assigned (R216). -/
  | unassignedMajor
  /-- The selector value of the major is not assigned (R216). -/
  | unassignedSelector
  /-- A field that the entry requires to be zero is not zero (R217). -/
  | nonZeroField
  /-- A code that the entry rejects as illegal: scope 5 to 7, a condition, type, lane, part or register number (R217). -/
  | illegalCode
  deriving DecidableEq, Repr


/-- Words of major 0x01 (R216). -/
def decodeMajor01 (w : BitVec 32) : Except DecodeError Instr :=
  match fld w 0 6 with
  | 0x00#6 => .ok (.add (fld w 30 2) (fld w 18 6) (fld w 12 6) (fld w 6 6))
  | 0x01#6 => .ok (.sub (fld w 30 2) (fld w 18 6) (fld w 12 6) (fld w 6 6))
  | 0x02#6 => .ok (.mul (fld w 30 2) (fld w 18 6) (fld w 12 6) (fld w 6 6))
  | 0x03#6 => .ok (.mulh (fld w 30 2) (fld w 18 6) (fld w 12 6) (fld w 6 6))
  | 0x04#6 => .ok (.mulhu (fld w 30 2) (fld w 18 6) (fld w 12 6) (fld w 6 6))
  | 0x05#6 => .ok (.div (fld w 30 2) (fld w 18 6) (fld w 12 6) (fld w 6 6))
  | 0x06#6 => .ok (.divu (fld w 30 2) (fld w 18 6) (fld w 12 6) (fld w 6 6))
  | 0x07#6 => .ok (.rem (fld w 30 2) (fld w 18 6) (fld w 12 6) (fld w 6 6))
  | 0x08#6 => .ok (.remu (fld w 30 2) (fld w 18 6) (fld w 12 6) (fld w 6 6))
  | 0x09#6 => .ok (.and (fld w 30 2) (fld w 18 6) (fld w 12 6) (fld w 6 6))
  | 0x0A#6 => .ok (.or (fld w 30 2) (fld w 18 6) (fld w 12 6) (fld w 6 6))
  | 0x0B#6 => .ok (.xor (fld w 30 2) (fld w 18 6) (fld w 12 6) (fld w 6 6))
  | 0x0C#6 => .ok (.sll (fld w 30 2) (fld w 18 6) (fld w 12 6) (fld w 6 6))
  | 0x0D#6 => .ok (.srl (fld w 30 2) (fld w 18 6) (fld w 12 6) (fld w 6 6))
  | 0x0E#6 => .ok (.sra (fld w 30 2) (fld w 18 6) (fld w 12 6) (fld w 6 6))
  | 0x0F#6 => .ok (.slt (fld w 30 2) (fld w 18 6) (fld w 12 6) (fld w 6 6))
  | 0x10#6 => .ok (.sltu (fld w 30 2) (fld w 18 6) (fld w 12 6) (fld w 6 6))
  | 0x11#6 => .ok (.min (fld w 30 2) (fld w 18 6) (fld w 12 6) (fld w 6 6))
  | 0x12#6 => .ok (.max (fld w 30 2) (fld w 18 6) (fld w 12 6) (fld w 6 6))
  | 0x13#6 => .ok (.minu (fld w 30 2) (fld w 18 6) (fld w 12 6) (fld w 6 6))
  | 0x14#6 => .ok (.maxu (fld w 30 2) (fld w 18 6) (fld w 12 6) (fld w 6 6))
  | 0x15#6 => .ok (.sel (fld w 30 2) (fld w 18 6) (fld w 12 6) (fld w 6 6))
  | 0x16#6 => if fld w 6 6 = 0 then .ok (.clz (fld w 30 2) (fld w 18 6) (fld w 12 6)) else .error .nonZeroField
  | 0x17#6 => if fld w 6 6 = 0 then .ok (.ctz (fld w 30 2) (fld w 18 6) (fld w 12 6)) else .error .nonZeroField
  | 0x18#6 => if fld w 6 6 = 0 then .ok (.popc (fld w 30 2) (fld w 18 6) (fld w 12 6)) else .error .nonZeroField
  | _ => .error .unassignedSelector

/-- Words of major 0x02 (R216). -/
def decodeMajor02 (w : BitVec 32) : Except DecodeError Instr :=
  .ok (.addi (fld w 30 2) (fld w 18 6) (fld w 12 6) (fld w 0 12))

/-- Words of major 0x03 (R216). -/
def decodeMajor03 (w : BitVec 32) : Except DecodeError Instr :=
  .ok (.andi (fld w 30 2) (fld w 18 6) (fld w 12 6) (fld w 0 12))

/-- Words of major 0x04 (R216). -/
def decodeMajor04 (w : BitVec 32) : Except DecodeError Instr :=
  .ok (.ori (fld w 30 2) (fld w 18 6) (fld w 12 6) (fld w 0 12))

/-- Words of major 0x05 (R216). -/
def decodeMajor05 (w : BitVec 32) : Except DecodeError Instr :=
  .ok (.xori (fld w 30 2) (fld w 18 6) (fld w 12 6) (fld w 0 12))

/-- Words of major 0x06 (R216). -/
def decodeMajor06 (w : BitVec 32) : Except DecodeError Instr :=
  .ok (.slti (fld w 30 2) (fld w 18 6) (fld w 12 6) (fld w 0 12))

/-- Words of major 0x07 (R216). -/
def decodeMajor07 (w : BitVec 32) : Except DecodeError Instr :=
  match fld w 6 6 with
  | 0x00#6 => .ok (.sltiu (fld w 30 2) (fld w 18 6) (fld w 12 6) (fld w 0 6))
  | 0x01#6 => .ok (.slli (fld w 30 2) (fld w 18 6) (fld w 12 6) (fld w 0 6))
  | 0x02#6 => .ok (.srli (fld w 30 2) (fld w 18 6) (fld w 12 6) (fld w 0 6))
  | 0x03#6 => .ok (.srai (fld w 30 2) (fld w 18 6) (fld w 12 6) (fld w 0 6))
  | _ => .error .unassignedSelector

/-- Words of major 0x08 (R216). -/
def decodeMajor08 (w : BitVec 32) : Except DecodeError Instr :=
  .ok (.lui (fld w 30 2) (fld w 18 6) (fld w 0 18))

/-- Words of major 0x09 (R216). -/
def decodeMajor09 (w : BitVec 32) : Except DecodeError Instr :=
  match fld w 0 6 with
  | 0x00#6 => .ok (.capSet (fld w 30 2) (fld w 18 6) (fld w 12 6) (fld w 6 6))
  | 0x01#6 => .ok (.capAnd (fld w 30 2) (fld w 18 6) (fld w 12 6) (fld w 6 6))
  | 0x02#6 => .ok (.capAddr (fld w 30 2) (fld w 18 6) (fld w 12 6) (fld w 6 6))
  | 0x03#6 => if fld w 6 6 = 0 then .ok (.capBase (fld w 30 2) (fld w 18 6) (fld w 12 6)) else .error .nonZeroField
  | 0x04#6 => if fld w 6 6 = 0 then .ok (.capLen (fld w 30 2) (fld w 18 6) (fld w 12 6)) else .error .nonZeroField
  | 0x05#6 => if fld w 6 6 = 0 then .ok (.capPerm (fld w 30 2) (fld w 18 6) (fld w 12 6)) else .error .nonZeroField
  | 0x06#6 => if fld w 6 6 = 0 then .ok (.capTag (fld w 30 2) (fld w 18 6) (fld w 12 6)) else .error .nonZeroField
  | 0x07#6 => if fld w 6 6 = 0 then .ok (.capClr (fld w 30 2) (fld w 18 6) (fld w 12 6)) else .error .nonZeroField
  | 0x08#6 => .ok (.capSub (fld w 30 2) (fld w 18 6) (fld w 12 6) (fld w 6 6))
  | _ => .error .unassignedSelector

/-- Words of major 0x0A (R216). -/
def decodeMajor0A (w : BitVec 32) : Except DecodeError Instr :=
  .ok (.capInc (fld w 30 2) (fld w 18 6) (fld w 12 6) (fld w 0 12))

/-- Words of major 0x10 (R216). -/
def decodeMajor10 (w : BitVec 32) : Except DecodeError Instr :=
  .ok (.beq (fld w 30 2) (fld w 18 6) (fld w 12 6) (fld w 0 12))

/-- Words of major 0x11 (R216). -/
def decodeMajor11 (w : BitVec 32) : Except DecodeError Instr :=
  .ok (.bne (fld w 30 2) (fld w 18 6) (fld w 12 6) (fld w 0 12))

/-- Words of major 0x12 (R216). -/
def decodeMajor12 (w : BitVec 32) : Except DecodeError Instr :=
  .ok (.blt (fld w 30 2) (fld w 18 6) (fld w 12 6) (fld w 0 12))

/-- Words of major 0x13 (R216). -/
def decodeMajor13 (w : BitVec 32) : Except DecodeError Instr :=
  .ok (.bge (fld w 30 2) (fld w 18 6) (fld w 12 6) (fld w 0 12))

/-- Words of major 0x14 (R216). -/
def decodeMajor14 (w : BitVec 32) : Except DecodeError Instr :=
  .ok (.bltu (fld w 30 2) (fld w 18 6) (fld w 12 6) (fld w 0 12))

/-- Words of major 0x15 (R216). -/
def decodeMajor15 (w : BitVec 32) : Except DecodeError Instr :=
  .ok (.bgeu (fld w 30 2) (fld w 18 6) (fld w 12 6) (fld w 0 12))

/-- Words of major 0x16 (R216). -/
def decodeMajor16 (w : BitVec 32) : Except DecodeError Instr :=
  .ok (.jal (fld w 30 2) (fld w 18 6) (fld w 0 18))

/-- Words of major 0x17 (R216). -/
def decodeMajor17 (w : BitVec 32) : Except DecodeError Instr :=
  .ok (.jalr (fld w 30 2) (fld w 18 6) (fld w 12 6) (fld w 0 12))

/-- Words of major 0x18 (R216). -/
def decodeMajor18 (w : BitVec 32) : Except DecodeError Instr :=
  if fld w 1 23 = 0 then .ok (.idem (fld w 30 2) (fld w 0 1)) else .error .nonZeroField

/-- Words of major 0x20 (R216). -/
def decodeMajor20 (w : BitVec 32) : Except DecodeError Instr :=
  match fld w 9 3 with
  | 0x00#3 => .ok (.ldB (fld w 30 2) (fld w 18 6) (fld w 12 6) (fld w 0 9))
  | 0x01#3 => .ok (.ldBu (fld w 30 2) (fld w 18 6) (fld w 12 6) (fld w 0 9))
  | 0x02#3 => .ok (.ldH (fld w 30 2) (fld w 18 6) (fld w 12 6) (fld w 0 9))
  | 0x03#3 => .ok (.ldHu (fld w 30 2) (fld w 18 6) (fld w 12 6) (fld w 0 9))
  | 0x04#3 => .ok (.ldW (fld w 30 2) (fld w 18 6) (fld w 12 6) (fld w 0 9))
  | 0x05#3 => .ok (.ldWu (fld w 30 2) (fld w 18 6) (fld w 12 6) (fld w 0 9))
  | 0x06#3 => .ok (.ldD (fld w 30 2) (fld w 18 6) (fld w 12 6) (fld w 0 9))
  | 0x07#3 => .ok (.ldC (fld w 30 2) (fld w 18 6) (fld w 12 6) (fld w 0 9))

/-- Words of major 0x21 (R216). -/
def decodeMajor21 (w : BitVec 32) : Except DecodeError Instr :=
  match fld w 9 3 with
  | 0x00#3 => .ok (.stB (fld w 30 2) (fld w 18 6) (fld w 12 6) (fld w 0 9))
  | 0x02#3 => .ok (.stH (fld w 30 2) (fld w 18 6) (fld w 12 6) (fld w 0 9))
  | 0x04#3 => .ok (.stW (fld w 30 2) (fld w 18 6) (fld w 12 6) (fld w 0 9))
  | 0x06#3 => .ok (.stD (fld w 30 2) (fld w 18 6) (fld w 12 6) (fld w 0 9))
  | 0x07#3 => .ok (.stC (fld w 30 2) (fld w 18 6) (fld w 12 6) (fld w 0 9))
  | _ => .error .unassignedSelector

/-- Words of major 0x22 (R216). -/
def decodeMajor22 (w : BitVec 32) : Except DecodeError Instr :=
  match fld w 3 3 with
  | 0x00#3 => .ok (.amoAdd (fld w 30 2) (fld w 18 6) (fld w 12 6) (fld w 6 6) (fld w 0 3))
  | 0x01#3 => .ok (.amoAnd (fld w 30 2) (fld w 18 6) (fld w 12 6) (fld w 6 6) (fld w 0 3))
  | 0x02#3 => .ok (.amoOr (fld w 30 2) (fld w 18 6) (fld w 12 6) (fld w 6 6) (fld w 0 3))
  | 0x03#3 => .ok (.amoXor (fld w 30 2) (fld w 18 6) (fld w 12 6) (fld w 6 6) (fld w 0 3))
  | 0x04#3 => .ok (.amoMin (fld w 30 2) (fld w 18 6) (fld w 12 6) (fld w 6 6) (fld w 0 3))
  | 0x05#3 => .ok (.amoMax (fld w 30 2) (fld w 18 6) (fld w 12 6) (fld w 6 6) (fld w 0 3))
  | 0x06#3 => .ok (.amoSwp (fld w 30 2) (fld w 18 6) (fld w 12 6) (fld w 6 6) (fld w 0 3))
  | 0x07#3 => .ok (.amoCas (fld w 30 2) (fld w 18 6) (fld w 12 6) (fld w 6 6) (fld w 0 3))

/-- Words of major 0x23 (R216). -/
def decodeMajor23 (w : BitVec 32) : Except DecodeError Instr :=
  match fld w 3 3 with
  | 0x00#3 => if fld w 6 18 = 0 then .ok (.fence (fld w 30 2) (fld w 0 3)) else .error .nonZeroField
  | 0x01#3 => if fld w 0 3 = 0 ∧ fld w 6 18 = 0 then .ok (.fenceSc (fld w 30 2)) else .error .nonZeroField
  | 0x02#3 => if fld w 0 3 = 0 ∧ fld w 6 12 = 0 then .ok (.dcWb (fld w 30 2) (fld w 18 6)) else .error .nonZeroField
  | 0x03#3 => if fld w 0 3 = 0 ∧ fld w 6 12 = 0 then .ok (.dcInv (fld w 30 2) (fld w 18 6)) else .error .nonZeroField
  | 0x04#3 => if fld w 0 3 = 0 ∧ fld w 6 12 = 0 then .ok (.dcFlush (fld w 30 2) (fld w 18 6)) else .error .nonZeroField
  | 0x05#3 => if fld w 0 3 = 0 ∧ fld w 6 12 = 0 then .ok (.dcPf (fld w 30 2) (fld w 18 6)) else .error .nonZeroField
  | _ => .error .unassignedSelector

/-- Words of major 0x24 (R216). -/
def decodeMajor24 (w : BitVec 32) : Except DecodeError Instr :=
  match fld w 6 3 with
  | 0x00#3 => if fld w 0 6 = 0 then .ok (.ldBAcq (fld w 30 2) (fld w 18 6) (fld w 12 6) (fld w 9 3)) else .error .nonZeroField
  | 0x01#3 => if fld w 0 6 = 0 then .ok (.ldBuAcq (fld w 30 2) (fld w 18 6) (fld w 12 6) (fld w 9 3)) else .error .nonZeroField
  | 0x02#3 => if fld w 0 6 = 0 then .ok (.ldHAcq (fld w 30 2) (fld w 18 6) (fld w 12 6) (fld w 9 3)) else .error .nonZeroField
  | 0x03#3 => if fld w 0 6 = 0 then .ok (.ldHuAcq (fld w 30 2) (fld w 18 6) (fld w 12 6) (fld w 9 3)) else .error .nonZeroField
  | 0x04#3 => if fld w 0 6 = 0 then .ok (.ldWAcq (fld w 30 2) (fld w 18 6) (fld w 12 6) (fld w 9 3)) else .error .nonZeroField
  | 0x05#3 => if fld w 0 6 = 0 then .ok (.ldWuAcq (fld w 30 2) (fld w 18 6) (fld w 12 6) (fld w 9 3)) else .error .nonZeroField
  | 0x06#3 => if fld w 0 6 = 0 then .ok (.ldDAcq (fld w 30 2) (fld w 18 6) (fld w 12 6) (fld w 9 3)) else .error .nonZeroField
  | 0x07#3 => if fld w 0 6 = 0 then .ok (.ldCAcq (fld w 30 2) (fld w 18 6) (fld w 12 6) (fld w 9 3)) else .error .nonZeroField

/-- Words of major 0x25 (R216). -/
def decodeMajor25 (w : BitVec 32) : Except DecodeError Instr :=
  match fld w 6 3 with
  | 0x00#3 => if fld w 0 6 = 0 then .ok (.stBRel (fld w 30 2) (fld w 18 6) (fld w 12 6) (fld w 9 3)) else .error .nonZeroField
  | 0x02#3 => if fld w 0 6 = 0 then .ok (.stHRel (fld w 30 2) (fld w 18 6) (fld w 12 6) (fld w 9 3)) else .error .nonZeroField
  | 0x04#3 => if fld w 0 6 = 0 then .ok (.stWRel (fld w 30 2) (fld w 18 6) (fld w 12 6) (fld w 9 3)) else .error .nonZeroField
  | 0x06#3 => if fld w 0 6 = 0 then .ok (.stDRel (fld w 30 2) (fld w 18 6) (fld w 12 6) (fld w 9 3)) else .error .nonZeroField
  | 0x07#3 => if fld w 0 6 = 0 then .ok (.stCRel (fld w 30 2) (fld w 18 6) (fld w 12 6) (fld w 9 3)) else .error .nonZeroField
  | _ => .error .unassignedSelector

/-- Words of major 0x28 (R216). -/
def decodeMajor28 (w : BitVec 32) : Except DecodeError Instr :=
  match fld w 0 4 with
  | 0x00#4 => .ok (.vld (fld w 30 2) (fld w 19 5) (fld w 13 6) (fld w 7 6) (fld w 4 3))
  | 0x01#4 => .ok (.vst (fld w 30 2) (fld w 19 5) (fld w 13 6) (fld w 7 6) (fld w 4 3))
  | 0x02#4 => .ok (.vlds (fld w 30 2) (fld w 19 5) (fld w 13 6) (fld w 7 6) (fld w 4 3))
  | 0x03#4 => .ok (.vsts (fld w 30 2) (fld w 19 5) (fld w 13 6) (fld w 7 6) (fld w 4 3))
  | 0x04#4 => if fld w 12 1 = 0 then .ok (.vgat (fld w 30 2) (fld w 19 5) (fld w 13 6) (fld w 7 5) (fld w 4 3)) else .error .nonZeroField
  | 0x05#4 => if fld w 12 1 = 0 then .ok (.vsct (fld w 30 2) (fld w 19 5) (fld w 13 6) (fld w 7 5) (fld w 4 3)) else .error .nonZeroField
  | 0x06#4 => .ok (.vldb (fld w 30 2) (fld w 19 5) (fld w 13 6) (fld w 7 6) (fld w 4 3))
  | _ => .error .unassignedSelector

/-- Words of major 0x29 (R216). -/
def decodeMajor29 (w : BitVec 32) : Except DecodeError Instr :=
  match fld w 2 4 with
  | 0x00#4 => .ok (.vadd (fld w 30 2) (fld w 19 5) (fld w 14 5) (fld w 9 5) (fld w 6 3) (fld w 0 2))
  | 0x01#4 => .ok (.vsub (fld w 30 2) (fld w 19 5) (fld w 14 5) (fld w 9 5) (fld w 6 3) (fld w 0 2))
  | 0x02#4 => .ok (.vmul (fld w 30 2) (fld w 19 5) (fld w 14 5) (fld w 9 5) (fld w 6 3) (fld w 0 2))
  | 0x03#4 => .ok (.vmulh (fld w 30 2) (fld w 19 5) (fld w 14 5) (fld w 9 5) (fld w 6 3) (fld w 0 2))
  | 0x04#4 => .ok (.vand (fld w 30 2) (fld w 19 5) (fld w 14 5) (fld w 9 5) (fld w 6 3) (fld w 0 2))
  | 0x05#4 => .ok (.vor (fld w 30 2) (fld w 19 5) (fld w 14 5) (fld w 9 5) (fld w 6 3) (fld w 0 2))
  | 0x06#4 => .ok (.vxor (fld w 30 2) (fld w 19 5) (fld w 14 5) (fld w 9 5) (fld w 6 3) (fld w 0 2))
  | 0x07#4 => .ok (.vsll (fld w 30 2) (fld w 19 5) (fld w 14 5) (fld w 9 5) (fld w 6 3) (fld w 0 2))
  | 0x08#4 => .ok (.vsrl (fld w 30 2) (fld w 19 5) (fld w 14 5) (fld w 9 5) (fld w 6 3) (fld w 0 2))
  | 0x09#4 => .ok (.vsra (fld w 30 2) (fld w 19 5) (fld w 14 5) (fld w 9 5) (fld w 6 3) (fld w 0 2))
  | 0x0A#4 => .ok (.vmin (fld w 30 2) (fld w 19 5) (fld w 14 5) (fld w 9 5) (fld w 6 3) (fld w 0 2))
  | 0x0B#4 => .ok (.vmax (fld w 30 2) (fld w 19 5) (fld w 14 5) (fld w 9 5) (fld w 6 3) (fld w 0 2))
  | _ => .error .unassignedSelector

/-- Words of major 0x2A (R216). -/
def decodeMajor2A (w : BitVec 32) : Except DecodeError Instr :=
  match fld w 2 4 with
  | 0x00#4 => .ok (.vfadd (fld w 30 2) (fld w 19 5) (fld w 14 5) (fld w 9 5) (fld w 6 3) (fld w 0 2))
  | 0x01#4 => .ok (.vfsub (fld w 30 2) (fld w 19 5) (fld w 14 5) (fld w 9 5) (fld w 6 3) (fld w 0 2))
  | 0x02#4 => .ok (.vfmul (fld w 30 2) (fld w 19 5) (fld w 14 5) (fld w 9 5) (fld w 6 3) (fld w 0 2))
  | 0x03#4 => .ok (.vfma (fld w 30 2) (fld w 19 5) (fld w 14 5) (fld w 9 5) (fld w 6 3) (fld w 0 2))
  | 0x04#4 => .ok (.vfms (fld w 30 2) (fld w 19 5) (fld w 14 5) (fld w 9 5) (fld w 6 3) (fld w 0 2))
  | 0x05#4 => .ok (.vfnma (fld w 30 2) (fld w 19 5) (fld w 14 5) (fld w 9 5) (fld w 6 3) (fld w 0 2))
  | 0x06#4 => .ok (.vfmin (fld w 30 2) (fld w 19 5) (fld w 14 5) (fld w 9 5) (fld w 6 3) (fld w 0 2))
  | 0x07#4 => .ok (.vfmax (fld w 30 2) (fld w 19 5) (fld w 14 5) (fld w 9 5) (fld w 6 3) (fld w 0 2))
  | 0x08#4 => if fld w 9 5 = 0 then .ok (.vfabs (fld w 30 2) (fld w 19 5) (fld w 14 5) (fld w 6 3) (fld w 0 2)) else .error .nonZeroField
  | 0x09#4 => if fld w 9 5 = 0 then .ok (.vfrcp (fld w 30 2) (fld w 19 5) (fld w 14 5) (fld w 6 3) (fld w 0 2)) else .error .nonZeroField
  | 0x0A#4 => if fld w 9 5 = 0 then .ok (.vfrsq (fld w 30 2) (fld w 19 5) (fld w 14 5) (fld w 6 3) (fld w 0 2)) else .error .nonZeroField
  | 0x0B#4 => if fld w 9 5 = 0 then .ok (.vfex2 (fld w 30 2) (fld w 19 5) (fld w 14 5) (fld w 6 3) (fld w 0 2)) else .error .nonZeroField
  | 0x0C#4 => if fld w 9 5 = 0 then .ok (.vflg2 (fld w 30 2) (fld w 19 5) (fld w 14 5) (fld w 6 3) (fld w 0 2)) else .error .nonZeroField
  | _ => .error .unassignedSelector

/-- Words of major 0x2B (R216). -/
def decodeMajor2B (w : BitVec 32) : Except DecodeError Instr :=
  match fld w 3 3 with
  | 0x00#3 => .ok (.vcmp (fld w 30 2) (fld w 22 2) (fld w 19 3) (fld w 14 5) (fld w 9 5) (fld w 6 3) (fld w 0 3))
  | 0x01#3 => .ok (.vfcmp (fld w 30 2) (fld w 22 2) (fld w 19 3) (fld w 14 5) (fld w 9 5) (fld w 6 3) (fld w 0 3))
  | 0x02#3 => if fld w 0 3 = 0 then .ok (.vsel (fld w 30 2) (fld w 19 5) (fld w 14 5) (fld w 9 5) (fld w 6 3)) else .error .nonZeroField
  | 0x03#3 => if fld w 6 3 = 0 ∧ fld w 12 2 = 0 ∧ fld w 17 2 = 0 ∧ fld w 22 2 = 0 then .ok (.mand (fld w 30 2) (fld w 19 3) (fld w 14 3) (fld w 9 3) (fld w 0 3)) else .error .nonZeroField
  | 0x04#3 => if fld w 6 3 = 0 ∧ fld w 12 2 = 0 ∧ fld w 17 2 = 0 ∧ fld w 22 2 = 0 then .ok (.mor (fld w 30 2) (fld w 19 3) (fld w 14 3) (fld w 9 3) (fld w 0 3)) else .error .nonZeroField
  | 0x05#3 => if fld w 6 3 = 0 ∧ fld w 12 2 = 0 ∧ fld w 17 2 = 0 ∧ fld w 22 2 = 0 then .ok (.mxor (fld w 30 2) (fld w 19 3) (fld w 14 3) (fld w 9 3) (fld w 0 3)) else .error .nonZeroField
  | 0x06#3 => if fld w 2 1 = 0 ∧ fld w 9 5 = 0 ∧ fld w 17 1 = 0 then .ok (.mpop (fld w 30 2) (fld w 18 6) (fld w 14 3) (fld w 6 3) (fld w 0 2)) else .error .nonZeroField
  | _ => .error .unassignedSelector

/-- Words of major 0x2C (R216). -/
def decodeMajor2C (w : BitVec 32) : Except DecodeError Instr :=
  match fld w 2 4 with
  | 0x00#4 => .ok (.vperm (fld w 30 2) (fld w 19 5) (fld w 14 5) (fld w 9 5) (fld w 6 3) (fld w 0 2))
  | 0x01#4 => .ok (.vshf (fld w 30 2) (fld w 19 5) (fld w 14 5) (fld w 9 5) (fld w 6 3) (fld w 0 2))
  | 0x02#4 => if fld w 13 1 = 0 then .ok (.vsld (fld w 30 2) (fld w 19 5) (fld w 14 5) (fld w 6 7) (fld w 0 2)) else .error .nonZeroField
  | 0x03#4 => if fld w 13 1 = 0 then .ok (.vbc (fld w 30 2) (fld w 19 5) (fld w 14 5) (fld w 6 7) (fld w 0 2)) else .error .nonZeroField
  | 0x04#4 => if fld w 13 1 = 0 then .ok (.vext (fld w 30 2) (fld w 19 5) (fld w 14 5) (fld w 6 7) (fld w 0 2)) else .error .nonZeroField
  | 0x05#4 => if fld w 13 1 = 0 then .ok (.vins (fld w 30 2) (fld w 19 5) (fld w 14 5) (fld w 6 7) (fld w 0 2)) else .error .nonZeroField
  | 0x06#4 => if fld w 7 2 = 0 then .ok (.vzip (fld w 30 2) (fld w 19 5) (fld w 14 5) (fld w 9 5) (fld w 6 1) (fld w 0 2)) else .error .nonZeroField
  | 0x07#4 => if fld w 7 2 = 0 then .ok (.vuzp (fld w 30 2) (fld w 19 5) (fld w 14 5) (fld w 9 5) (fld w 6 1) (fld w 0 2)) else .error .nonZeroField
  | 0x08#4 => if fld w 9 5 = 0 then .ok (.vredadd (fld w 30 2) (fld w 19 5) (fld w 14 5) (fld w 6 3) (fld w 0 2)) else .error .nonZeroField
  | 0x09#4 => if fld w 9 5 = 0 then .ok (.vredmax (fld w 30 2) (fld w 19 5) (fld w 14 5) (fld w 6 3) (fld w 0 2)) else .error .nonZeroField
  | 0x0A#4 => if fld w 9 5 = 0 then .ok (.vredmin (fld w 30 2) (fld w 19 5) (fld w 14 5) (fld w 6 3) (fld w 0 2)) else .error .nonZeroField
  | 0x0B#4 => if fld w 9 5 = 0 then .ok (.vfredadd (fld w 30 2) (fld w 19 5) (fld w 14 5) (fld w 6 3) (fld w 0 2)) else .error .nonZeroField
  | 0x0C#4 => if fld w 9 5 = 0 then .ok (.vfamax (fld w 30 2) (fld w 19 5) (fld w 14 5) (fld w 6 3) (fld w 0 2)) else .error .nonZeroField
  | _ => .error .unassignedSelector

/-- Words of major 0x2D (R216). -/
def decodeMajor2D (w : BitVec 32) : Except DecodeError Instr :=
  match fld w 2 4 with
  | 0x00#4 => .ok (.vcvt (fld w 30 2) (fld w 19 5) (fld w 14 5) (fld w 9 5) (fld w 6 3) (fld w 0 2))
  | 0x01#4 => .ok (.vqnt (fld w 30 2) (fld w 19 5) (fld w 14 5) (fld w 9 5) (fld w 6 3) (fld w 0 2))
  | 0x02#4 => .ok (.vdqnt (fld w 30 2) (fld w 19 5) (fld w 14 5) (fld w 9 5) (fld w 6 3) (fld w 0 2))
  | 0x03#4 => .ok (.vscl (fld w 30 2) (fld w 19 5) (fld w 14 5) (fld w 9 5) (fld w 6 3) (fld w 0 2))
  | 0x04#4 => .ok (.vunpk (fld w 30 2) (fld w 19 5) (fld w 14 5) (fld w 9 5) (fld w 6 3) (fld w 0 2))
  | _ => .error .unassignedSelector

/-- Words of major 0x2E (R216). -/
def decodeMajor2E (w : BitVec 32) : Except DecodeError Instr :=
  .ok (.vimm (fld w 30 2) (fld w 19 5) (fld w 16 3) (fld w 0 16))

/-- Words of major 0x2F (R216); no part of the payload is checked at the prefix (R207, R211). -/
def decodeMajor2F (w : BitVec 32) : Except DecodeError Instr :=
  .ok (.fmt (fld w 30 2) (fld w 16 8) (fld w 8 8) (fld w 5 3) (fld w 3 2) (fld w 0 3))

/-- Words of major 0x30 (R216). -/
def decodeMajor30 (w : BitVec 32) : Except DecodeError Instr :=
  match fld w 3 3 with
  | 0x00#3 => .ok (.ctrAdd (fld w 30 2) (fld w 18 6) (fld w 12 6) (fld w 6 6) (fld w 0 3))
  | 0x01#3 => .ok (.ctrMax (fld w 30 2) (fld w 18 6) (fld w 12 6) (fld w 6 6) (fld w 0 3))
  | 0x02#3 => .ok (.ctrWait (fld w 30 2) (fld w 18 6) (fld w 12 6) (fld w 6 6) (fld w 0 3))
  | 0x03#3 => .ok (.ctrTest (fld w 30 2) (fld w 18 6) (fld w 12 6) (fld w 6 6) (fld w 0 3))
  | 0x04#3 => if fld w 0 3 = 0 ∧ fld w 12 6 = 0 then .ok (.ctrRead (fld w 30 2) (fld w 18 6) (fld w 6 6)) else .error .nonZeroField
  | 0x05#3 => .ok (.ctrInit (fld w 30 2) (fld w 18 6) (fld w 12 6) (fld w 6 6) (fld w 0 3))
  | _ => .error .unassignedSelector

/-- Words of major 0x31 (R216). -/
def decodeMajor31 (w : BitVec 32) : Except DecodeError Instr :=
  match fld w 0 6 with
  | 0x00#6 => .ok (.scoOpen (fld w 30 2) (fld w 18 6) (fld w 12 6) (fld w 6 6))
  | 0x08#6 => if fld w 12 6 = 0 then .ok (.scoClose (fld w 30 2) (fld w 18 6) (fld w 6 6)) else .error .nonZeroField
  | 0x10#6 => if fld w 6 12 = 0 then .ok (.scoCancel (fld w 30 2) (fld w 18 6)) else .error .nonZeroField
  | 0x18#6 => if fld w 12 6 = 0 then .ok (.scoSucceed (fld w 30 2) (fld w 18 6) (fld w 6 6)) else .error .nonZeroField
  | 0x20#6 => .ok (.scoSpawn (fld w 30 2) (fld w 18 6) (fld w 12 6) (fld w 6 6))
  | 0x28#6 => .ok (.scoLaunch (fld w 30 2) (fld w 18 6) (fld w 12 6) (fld w 6 6))
  | 0x38#6 => if fld w 6 18 = 0 then .ok (.scoShield (fld w 30 2)) else .error .nonZeroField
  | 0x39#6 => if fld w 6 18 = 0 then .ok (.scoUnshield (fld w 30 2)) else .error .nonZeroField
  | 0x3A#6 => if fld w 12 12 = 0 then .ok (.scoPoll (fld w 30 2) (fld w 6 6)) else .error .nonZeroField
  | 0x3B#6 => if fld w 12 12 = 0 then .ok (.scoId (fld w 30 2) (fld w 6 6)) else .error .nonZeroField
  | _ => .error .unassignedSelector

/-- Words of major 0x32 (R216). -/
def decodeMajor32 (w : BitVec 32) : Except DecodeError Instr :=
  match fld w 0 6 with
  | 0x00#6 => if fld w 6 12 = 0 then .ok (.lfDiscard (fld w 30 2) (fld w 18 6)) else .error .nonZeroField
  | 0x08#6 => if fld w 6 6 = 0 then .ok (.lfMove (fld w 30 2) (fld w 18 6) (fld w 12 6)) else .error .nonZeroField
  | 0x10#6 => if fld w 12 6 = 0 then .ok (.lfStat (fld w 30 2) (fld w 18 6) (fld w 6 6)) else .error .nonZeroField
  | _ => .error .unassignedSelector

/-- Words of major 0x34 (R216). -/
def decodeMajor34 (w : BitVec 32) : Except DecodeError Instr :=
  match fld w 0 6 with
  | 0x00#6 => if fld w 12 12 = 0 then .ok (.mxLease (fld w 30 2) (fld w 6 6)) else .error .nonZeroField
  | 0x08#6 => if fld w 6 18 = 0 then .ok (.mxFree (fld w 30 2)) else .error .nonZeroField
  | 0x10#6 => .ok (.mxOpb (fld w 30 2) (fld w 18 6) (fld w 12 6) (fld w 6 6))
  | 0x18#6 => .ok (.mxMma (fld w 30 2) (fld w 18 6) (fld w 12 6) (fld w 6 6))
  | 0x20#6 => if fld w 6 6 = 0 then .ok (.mxLd (fld w 30 2) (fld w 18 6) (fld w 12 6)) else .error .nonZeroField
  | 0x28#6 => if fld w 6 6 = 0 then .ok (.mxSt (fld w 30 2) (fld w 18 6) (fld w 12 6)) else .error .nonZeroField
  | 0x30#6 => if fld w 6 18 = 0 then .ok (.mxZero (fld w 30 2)) else .error .nonZeroField
  | 0x38#6 => if fld w 12 12 = 0 then .ok (.mxChk (fld w 30 2) (fld w 6 6)) else .error .nonZeroField
  | _ => .error .unassignedSelector

/-- Words of major 0x35 (R216). -/
def decodeMajor35 (w : BitVec 32) : Except DecodeError Instr :=
  match fld w 0 6 with
  | 0x00#6 => if fld w 6 6 = 0 then .ok (.ladSet (fld w 30 2) (fld w 18 6) (fld w 12 6)) else .error .nonZeroField
  | 0x08#6 => if fld w 18 6 = 0 then .ok (.ladGet (fld w 30 2) (fld w 12 6) (fld w 6 6)) else .error .nonZeroField
  | 0x10#6 => if fld w 12 12 = 0 then .ok (.ladGo (fld w 30 2) (fld w 6 6)) else .error .nonZeroField
  | 0x18#6 => if fld w 12 6 = 0 then .ok (.ladStat (fld w 30 2) (fld w 18 6) (fld w 6 6)) else .error .nonZeroField
  | _ => .error .unassignedSelector

/-- Words of major 0x36 (R216). -/
def decodeMajor36 (w : BitVec 32) : Except DecodeError Instr :=
  match fld w 0 6 with
  | 0x00#6 => if fld w 6 6 = 0 then .ok (.cruSet (fld w 30 2) (fld w 18 6) (fld w 12 6)) else .error .nonZeroField
  | 0x08#6 => if fld w 18 6 = 0 then .ok (.cruGet (fld w 30 2) (fld w 12 6) (fld w 6 6)) else .error .nonZeroField
  | 0x10#6 => if fld w 12 12 = 0 then .ok (.cruGo (fld w 30 2) (fld w 6 6)) else .error .nonZeroField
  | 0x18#6 => if fld w 12 6 = 0 then .ok (.cruStat (fld w 30 2) (fld w 18 6) (fld w 6 6)) else .error .nonZeroField
  | _ => .error .unassignedSelector

/-- Words of major 0x3C (R216). -/
def decodeMajor3C (w : BitVec 32) : Except DecodeError Instr :=
  match fld w 0 6 with
  | 0x00#6 => if fld w 6 6 = 0 ∧ fld w 18 6 = 0 then .ok (.sysCall (fld w 30 2) (fld w 12 6)) else .error .nonZeroField
  | 0x01#6 => if fld w 6 6 = 0 ∧ fld w 18 6 = 0 then .ok (.trap (fld w 30 2) (fld w 12 6)) else .error .nonZeroField
  | 0x02#6 => if fld w 6 18 = 0 then .ok (.eret (fld w 30 2)) else .error .nonZeroField
  | 0x03#6 => if fld w 6 18 = 0 then .ok (.yield (fld w 30 2)) else .error .nonZeroField
  | 0x04#6 => if fld w 6 18 = 0 then .ok (.brk (fld w 30 2)) else .error .nonZeroField
  | 0x05#6 => if fld w 6 18 = 0 then .ok (.halt (fld w 30 2)) else .error .nonZeroField
  | 0x06#6 => if fld w 18 6 = 0 then .ok (.tlbInv (fld w 30 2) (fld w 12 6) (fld w 6 6)) else .error .nonZeroField
  | 0x07#6 => if fld w 6 6 = 0 ∧ fld w 18 6 = 0 then .ok (.tlbAll (fld w 30 2) (fld w 12 6)) else .error .nonZeroField
  | _ => .error .unassignedSelector

/-- Words of major 0x3D (R216). -/
def decodeMajor3D (w : BitVec 32) : Except DecodeError Instr :=
  match fld w 10 2 with
  | 0x00#2 => if fld w 12 6 = 0 then .ok (.csrr (fld w 30 2) (fld w 18 6) (fld w 0 10)) else .error .nonZeroField
  | 0x01#2 => .ok (.csrw (fld w 30 2) (fld w 18 6) (fld w 12 6) (fld w 0 10))
  | 0x02#2 => .ok (.csrs (fld w 30 2) (fld w 18 6) (fld w 12 6) (fld w 0 10))
  | 0x03#2 => .ok (.csrc (fld w 30 2) (fld w 18 6) (fld w 12 6) (fld w 0 10))

/-- The instruction a word's fields name, before the codes in them are checked (R216). -/
def decodeFields (w : BitVec 32) : Except DecodeError Instr :=
  match fld w 24 6 with
  | 0x01#6 => decodeMajor01 w
  | 0x02#6 => decodeMajor02 w
  | 0x03#6 => decodeMajor03 w
  | 0x04#6 => decodeMajor04 w
  | 0x05#6 => decodeMajor05 w
  | 0x06#6 => decodeMajor06 w
  | 0x07#6 => decodeMajor07 w
  | 0x08#6 => decodeMajor08 w
  | 0x09#6 => decodeMajor09 w
  | 0x0A#6 => decodeMajor0A w
  | 0x10#6 => decodeMajor10 w
  | 0x11#6 => decodeMajor11 w
  | 0x12#6 => decodeMajor12 w
  | 0x13#6 => decodeMajor13 w
  | 0x14#6 => decodeMajor14 w
  | 0x15#6 => decodeMajor15 w
  | 0x16#6 => decodeMajor16 w
  | 0x17#6 => decodeMajor17 w
  | 0x18#6 => decodeMajor18 w
  | 0x20#6 => decodeMajor20 w
  | 0x21#6 => decodeMajor21 w
  | 0x22#6 => decodeMajor22 w
  | 0x23#6 => decodeMajor23 w
  | 0x24#6 => decodeMajor24 w
  | 0x25#6 => decodeMajor25 w
  | 0x28#6 => decodeMajor28 w
  | 0x29#6 => decodeMajor29 w
  | 0x2A#6 => decodeMajor2A w
  | 0x2B#6 => decodeMajor2B w
  | 0x2C#6 => decodeMajor2C w
  | 0x2D#6 => decodeMajor2D w
  | 0x2E#6 => decodeMajor2E w
  | 0x2F#6 => decodeMajor2F w
  | 0x30#6 => decodeMajor30 w
  | 0x31#6 => decodeMajor31 w
  | 0x32#6 => decodeMajor32 w
  | 0x34#6 => decodeMajor34 w
  | 0x35#6 => decodeMajor35 w
  | 0x36#6 => decodeMajor36 w
  | 0x3C#6 => decodeMajor3C w
  | 0x3D#6 => decodeMajor3D w
  | _ => .error .unassignedMajor

/-- The instruction of a word, or why it is none (R217). -/
def decode (w : BitVec 32) : Except DecodeError Instr :=
  match decodeFields w with
  | .ok i => if i.wf then .ok i else .error .illegalCode
  | .error e => .error e

/-- The 32-bit word of four bytes, the first the least significant (R5, R199). -/
def wordOfBytes (b0 b1 b2 b3 : Byte) : BitVec 32 := cat 32 b3 (cat 24 b2 (cat 16 b1 b0))

/-- The instruction at the head of a list of bytes, with the bytes after it (R199). -/
def decodeBytes : List Byte → Except DecodeError (Instr × List Byte)
  | b0 :: b1 :: b2 :: b3 :: rest =>
    match decode (wordOfBytes b0 b1 b2 b3) with
    | .ok i => .ok (i, rest)
    | .error e => .error e
  | _ => .error .tooShort

/-- The bytes of a value of n bytes, the least significant first (R5). -/
def bytesOfNat : Nat → Nat → List Byte
  | 0, _ => []
  | n + 1, v => BitVec.ofNat 8 v :: bytesOfNat n (v / 256)

/-- The instruction of the opcode table's bits w, bit 0 the least significant of the first word: the bytes as the
hardware stores them, given to the decoder. Bits above nbits are zero. -/
def decodeTableWord (nbits w : Nat) : Option Instr :=
  match decodeBytes (bytesOfNat 4 (w % 2 ^ nbits)) with
  | .ok (i, _) => some i
  | .error _ => none

/-- The word of an instruction, from the encodings of chapters 11 to 16. An event of the device has none, and neither
has a word that is not an instruction. -/
def encode : Instr → Option (BitVec 32)
  | .add g d a b => some (cat 32 g (cat 30 0x01#6 (cat 24 d (cat 18 a (cat 12 b 0x00#6)))))
  | .sub g d a b => some (cat 32 g (cat 30 0x01#6 (cat 24 d (cat 18 a (cat 12 b 0x01#6)))))
  | .mul g d a b => some (cat 32 g (cat 30 0x01#6 (cat 24 d (cat 18 a (cat 12 b 0x02#6)))))
  | .mulh g d a b => some (cat 32 g (cat 30 0x01#6 (cat 24 d (cat 18 a (cat 12 b 0x03#6)))))
  | .mulhu g d a b => some (cat 32 g (cat 30 0x01#6 (cat 24 d (cat 18 a (cat 12 b 0x04#6)))))
  | .div g d a b => some (cat 32 g (cat 30 0x01#6 (cat 24 d (cat 18 a (cat 12 b 0x05#6)))))
  | .divu g d a b => some (cat 32 g (cat 30 0x01#6 (cat 24 d (cat 18 a (cat 12 b 0x06#6)))))
  | .rem g d a b => some (cat 32 g (cat 30 0x01#6 (cat 24 d (cat 18 a (cat 12 b 0x07#6)))))
  | .remu g d a b => some (cat 32 g (cat 30 0x01#6 (cat 24 d (cat 18 a (cat 12 b 0x08#6)))))
  | .and g d a b => some (cat 32 g (cat 30 0x01#6 (cat 24 d (cat 18 a (cat 12 b 0x09#6)))))
  | .or g d a b => some (cat 32 g (cat 30 0x01#6 (cat 24 d (cat 18 a (cat 12 b 0x0A#6)))))
  | .xor g d a b => some (cat 32 g (cat 30 0x01#6 (cat 24 d (cat 18 a (cat 12 b 0x0B#6)))))
  | .sll g d a b => some (cat 32 g (cat 30 0x01#6 (cat 24 d (cat 18 a (cat 12 b 0x0C#6)))))
  | .srl g d a b => some (cat 32 g (cat 30 0x01#6 (cat 24 d (cat 18 a (cat 12 b 0x0D#6)))))
  | .sra g d a b => some (cat 32 g (cat 30 0x01#6 (cat 24 d (cat 18 a (cat 12 b 0x0E#6)))))
  | .slt g d a b => some (cat 32 g (cat 30 0x01#6 (cat 24 d (cat 18 a (cat 12 b 0x0F#6)))))
  | .sltu g d a b => some (cat 32 g (cat 30 0x01#6 (cat 24 d (cat 18 a (cat 12 b 0x10#6)))))
  | .min g d a b => some (cat 32 g (cat 30 0x01#6 (cat 24 d (cat 18 a (cat 12 b 0x11#6)))))
  | .max g d a b => some (cat 32 g (cat 30 0x01#6 (cat 24 d (cat 18 a (cat 12 b 0x12#6)))))
  | .minu g d a b => some (cat 32 g (cat 30 0x01#6 (cat 24 d (cat 18 a (cat 12 b 0x13#6)))))
  | .maxu g d a b => some (cat 32 g (cat 30 0x01#6 (cat 24 d (cat 18 a (cat 12 b 0x14#6)))))
  | .sel g d a b => some (cat 32 g (cat 30 0x01#6 (cat 24 d (cat 18 a (cat 12 b 0x15#6)))))
  | .clz g d a => some (cat 32 g (cat 30 0x01#6 (cat 24 d (cat 18 a (cat 12 0x00#6 0x16#6)))))
  | .ctz g d a => some (cat 32 g (cat 30 0x01#6 (cat 24 d (cat 18 a (cat 12 0x00#6 0x17#6)))))
  | .popc g d a => some (cat 32 g (cat 30 0x01#6 (cat 24 d (cat 18 a (cat 12 0x00#6 0x18#6)))))
  | .addi g d a i => some (cat 32 g (cat 30 0x02#6 (cat 24 d (cat 18 a i))))
  | .andi g d a i => some (cat 32 g (cat 30 0x03#6 (cat 24 d (cat 18 a i))))
  | .ori g d a i => some (cat 32 g (cat 30 0x04#6 (cat 24 d (cat 18 a i))))
  | .xori g d a i => some (cat 32 g (cat 30 0x05#6 (cat 24 d (cat 18 a i))))
  | .slti g d a i => some (cat 32 g (cat 30 0x06#6 (cat 24 d (cat 18 a i))))
  | .sltiu g d a n => some (cat 32 g (cat 30 0x07#6 (cat 24 d (cat 18 a (cat 12 0x00#6 n)))))
  | .slli g d a n => some (cat 32 g (cat 30 0x07#6 (cat 24 d (cat 18 a (cat 12 0x01#6 n)))))
  | .srli g d a n => some (cat 32 g (cat 30 0x07#6 (cat 24 d (cat 18 a (cat 12 0x02#6 n)))))
  | .srai g d a n => some (cat 32 g (cat 30 0x07#6 (cat 24 d (cat 18 a (cat 12 0x03#6 n)))))
  | .lui g d i => some (cat 32 g (cat 30 0x08#6 (cat 24 d i)))
  | .capSet g d a b => some (cat 32 g (cat 30 0x09#6 (cat 24 d (cat 18 a (cat 12 b 0x00#6)))))
  | .capAnd g d a b => some (cat 32 g (cat 30 0x09#6 (cat 24 d (cat 18 a (cat 12 b 0x01#6)))))
  | .capAddr g d a b => some (cat 32 g (cat 30 0x09#6 (cat 24 d (cat 18 a (cat 12 b 0x02#6)))))
  | .capBase g d a => some (cat 32 g (cat 30 0x09#6 (cat 24 d (cat 18 a (cat 12 0x00#6 0x03#6)))))
  | .capLen g d a => some (cat 32 g (cat 30 0x09#6 (cat 24 d (cat 18 a (cat 12 0x00#6 0x04#6)))))
  | .capPerm g d a => some (cat 32 g (cat 30 0x09#6 (cat 24 d (cat 18 a (cat 12 0x00#6 0x05#6)))))
  | .capTag g d a => some (cat 32 g (cat 30 0x09#6 (cat 24 d (cat 18 a (cat 12 0x00#6 0x06#6)))))
  | .capClr g d a => some (cat 32 g (cat 30 0x09#6 (cat 24 d (cat 18 a (cat 12 0x00#6 0x07#6)))))
  | .capSub g d a b => some (cat 32 g (cat 30 0x09#6 (cat 24 d (cat 18 a (cat 12 b 0x08#6)))))
  | .capInc g d a i => some (cat 32 g (cat 30 0x0A#6 (cat 24 d (cat 18 a i))))
  | .beq g a b o => some (cat 32 g (cat 30 0x10#6 (cat 24 a (cat 18 b o))))
  | .bne g a b o => some (cat 32 g (cat 30 0x11#6 (cat 24 a (cat 18 b o))))
  | .blt g a b o => some (cat 32 g (cat 30 0x12#6 (cat 24 a (cat 18 b o))))
  | .bge g a b o => some (cat 32 g (cat 30 0x13#6 (cat 24 a (cat 18 b o))))
  | .bltu g a b o => some (cat 32 g (cat 30 0x14#6 (cat 24 a (cat 18 b o))))
  | .bgeu g a b o => some (cat 32 g (cat 30 0x15#6 (cat 24 a (cat 18 b o))))
  | .jal g d o => some (cat 32 g (cat 30 0x16#6 (cat 24 d o)))
  | .jalr g d a i => some (cat 32 g (cat 30 0x17#6 (cat 24 d (cat 18 a i))))
  | .idem g i => some (cat 32 g (cat 30 0x18#6 (cat 24 0x00#23 i)))
  | .ldB g s c p => some (cat 32 g (cat 30 0x20#6 (cat 24 s (cat 18 c (cat 12 0x00#3 p)))))
  | .ldBu g s c p => some (cat 32 g (cat 30 0x20#6 (cat 24 s (cat 18 c (cat 12 0x01#3 p)))))
  | .ldH g s c p => some (cat 32 g (cat 30 0x20#6 (cat 24 s (cat 18 c (cat 12 0x02#3 p)))))
  | .ldHu g s c p => some (cat 32 g (cat 30 0x20#6 (cat 24 s (cat 18 c (cat 12 0x03#3 p)))))
  | .ldW g s c p => some (cat 32 g (cat 30 0x20#6 (cat 24 s (cat 18 c (cat 12 0x04#3 p)))))
  | .ldWu g s c p => some (cat 32 g (cat 30 0x20#6 (cat 24 s (cat 18 c (cat 12 0x05#3 p)))))
  | .ldD g s c p => some (cat 32 g (cat 30 0x20#6 (cat 24 s (cat 18 c (cat 12 0x06#3 p)))))
  | .ldC g s c p => some (cat 32 g (cat 30 0x20#6 (cat 24 s (cat 18 c (cat 12 0x07#3 p)))))
  | .stB g s c p => some (cat 32 g (cat 30 0x21#6 (cat 24 s (cat 18 c (cat 12 0x00#3 p)))))
  | .stH g s c p => some (cat 32 g (cat 30 0x21#6 (cat 24 s (cat 18 c (cat 12 0x02#3 p)))))
  | .stW g s c p => some (cat 32 g (cat 30 0x21#6 (cat 24 s (cat 18 c (cat 12 0x04#3 p)))))
  | .stD g s c p => some (cat 32 g (cat 30 0x21#6 (cat 24 s (cat 18 c (cat 12 0x06#3 p)))))
  | .stC g s c p => some (cat 32 g (cat 30 0x21#6 (cat 24 s (cat 18 c (cat 12 0x07#3 p)))))
  | .amoAdd g a b d s => some (cat 32 g (cat 30 0x22#6 (cat 24 a (cat 18 b (cat 12 d (cat 6 0x00#3 s))))))
  | .amoAnd g a b d s => some (cat 32 g (cat 30 0x22#6 (cat 24 a (cat 18 b (cat 12 d (cat 6 0x01#3 s))))))
  | .amoOr g a b d s => some (cat 32 g (cat 30 0x22#6 (cat 24 a (cat 18 b (cat 12 d (cat 6 0x02#3 s))))))
  | .amoXor g a b d s => some (cat 32 g (cat 30 0x22#6 (cat 24 a (cat 18 b (cat 12 d (cat 6 0x03#3 s))))))
  | .amoMin g a b d s => some (cat 32 g (cat 30 0x22#6 (cat 24 a (cat 18 b (cat 12 d (cat 6 0x04#3 s))))))
  | .amoMax g a b d s => some (cat 32 g (cat 30 0x22#6 (cat 24 a (cat 18 b (cat 12 d (cat 6 0x05#3 s))))))
  | .amoSwp g a b d s => some (cat 32 g (cat 30 0x22#6 (cat 24 a (cat 18 b (cat 12 d (cat 6 0x06#3 s))))))
  | .amoCas g a b d s => some (cat 32 g (cat 30 0x22#6 (cat 24 a (cat 18 b (cat 12 d (cat 6 0x07#3 s))))))
  | .fence g s => some (cat 32 g (cat 30 0x23#6 (cat 24 0x00#18 (cat 6 0x00#3 s))))
  | .fenceSc g => some (cat 32 g (cat 30 0x23#6 (cat 24 0x00#18 (cat 6 0x01#3 0x00#3))))
  | .dcWb g a => some (cat 32 g (cat 30 0x23#6 (cat 24 a (cat 18 0x00#12 (cat 6 0x02#3 0x00#3)))))
  | .dcInv g a => some (cat 32 g (cat 30 0x23#6 (cat 24 a (cat 18 0x00#12 (cat 6 0x03#3 0x00#3)))))
  | .dcFlush g a => some (cat 32 g (cat 30 0x23#6 (cat 24 a (cat 18 0x00#12 (cat 6 0x04#3 0x00#3)))))
  | .dcPf g a => some (cat 32 g (cat 30 0x23#6 (cat 24 a (cat 18 0x00#12 (cat 6 0x05#3 0x00#3)))))
  | .ldBAcq g d a s => some (cat 32 g (cat 30 0x24#6 (cat 24 d (cat 18 a (cat 12 s (cat 9 0x00#3 0x00#6))))))
  | .ldBuAcq g d a s => some (cat 32 g (cat 30 0x24#6 (cat 24 d (cat 18 a (cat 12 s (cat 9 0x01#3 0x00#6))))))
  | .ldHAcq g d a s => some (cat 32 g (cat 30 0x24#6 (cat 24 d (cat 18 a (cat 12 s (cat 9 0x02#3 0x00#6))))))
  | .ldHuAcq g d a s => some (cat 32 g (cat 30 0x24#6 (cat 24 d (cat 18 a (cat 12 s (cat 9 0x03#3 0x00#6))))))
  | .ldWAcq g d a s => some (cat 32 g (cat 30 0x24#6 (cat 24 d (cat 18 a (cat 12 s (cat 9 0x04#3 0x00#6))))))
  | .ldWuAcq g d a s => some (cat 32 g (cat 30 0x24#6 (cat 24 d (cat 18 a (cat 12 s (cat 9 0x05#3 0x00#6))))))
  | .ldDAcq g d a s => some (cat 32 g (cat 30 0x24#6 (cat 24 d (cat 18 a (cat 12 s (cat 9 0x06#3 0x00#6))))))
  | .ldCAcq g d a s => some (cat 32 g (cat 30 0x24#6 (cat 24 d (cat 18 a (cat 12 s (cat 9 0x07#3 0x00#6))))))
  | .stBRel g d a s => some (cat 32 g (cat 30 0x25#6 (cat 24 d (cat 18 a (cat 12 s (cat 9 0x00#3 0x00#6))))))
  | .stHRel g d a s => some (cat 32 g (cat 30 0x25#6 (cat 24 d (cat 18 a (cat 12 s (cat 9 0x02#3 0x00#6))))))
  | .stWRel g d a s => some (cat 32 g (cat 30 0x25#6 (cat 24 d (cat 18 a (cat 12 s (cat 9 0x04#3 0x00#6))))))
  | .stDRel g d a s => some (cat 32 g (cat 30 0x25#6 (cat 24 d (cat 18 a (cat 12 s (cat 9 0x06#3 0x00#6))))))
  | .stCRel g d a s => some (cat 32 g (cat 30 0x25#6 (cat 24 d (cat 18 a (cat 12 s (cat 9 0x07#3 0x00#6))))))
  | .vld g v c x m => some (cat 32 g (cat 30 0x28#6 (cat 24 v (cat 19 c (cat 13 x (cat 7 m 0x00#4))))))
  | .vst g v c x m => some (cat 32 g (cat 30 0x28#6 (cat 24 v (cat 19 c (cat 13 x (cat 7 m 0x01#4))))))
  | .vlds g v c x m => some (cat 32 g (cat 30 0x28#6 (cat 24 v (cat 19 c (cat 13 x (cat 7 m 0x02#4))))))
  | .vsts g v c x m => some (cat 32 g (cat 30 0x28#6 (cat 24 v (cat 19 c (cat 13 x (cat 7 m 0x03#4))))))
  | .vgat g v c x m => some (cat 32 g (cat 30 0x28#6 (cat 24 v (cat 19 c (cat 13 0x00#1 (cat 12 x (cat 7 m 0x04#4)))))))
  | .vsct g v c x m => some (cat 32 g (cat 30 0x28#6 (cat 24 v (cat 19 c (cat 13 0x00#1 (cat 12 x (cat 7 m 0x05#4)))))))
  | .vldb g v c x m => some (cat 32 g (cat 30 0x28#6 (cat 24 v (cat 19 c (cat 13 x (cat 7 m 0x06#4))))))
  | .vadd g d a b m w => some (cat 32 g (cat 30 0x29#6 (cat 24 d (cat 19 a (cat 14 b (cat 9 m (cat 6 0x00#4 w)))))))
  | .vsub g d a b m w => some (cat 32 g (cat 30 0x29#6 (cat 24 d (cat 19 a (cat 14 b (cat 9 m (cat 6 0x01#4 w)))))))
  | .vmul g d a b m w => some (cat 32 g (cat 30 0x29#6 (cat 24 d (cat 19 a (cat 14 b (cat 9 m (cat 6 0x02#4 w)))))))
  | .vmulh g d a b m w => some (cat 32 g (cat 30 0x29#6 (cat 24 d (cat 19 a (cat 14 b (cat 9 m (cat 6 0x03#4 w)))))))
  | .vand g d a b m w => some (cat 32 g (cat 30 0x29#6 (cat 24 d (cat 19 a (cat 14 b (cat 9 m (cat 6 0x04#4 w)))))))
  | .vor g d a b m w => some (cat 32 g (cat 30 0x29#6 (cat 24 d (cat 19 a (cat 14 b (cat 9 m (cat 6 0x05#4 w)))))))
  | .vxor g d a b m w => some (cat 32 g (cat 30 0x29#6 (cat 24 d (cat 19 a (cat 14 b (cat 9 m (cat 6 0x06#4 w)))))))
  | .vsll g d a b m w => some (cat 32 g (cat 30 0x29#6 (cat 24 d (cat 19 a (cat 14 b (cat 9 m (cat 6 0x07#4 w)))))))
  | .vsrl g d a b m w => some (cat 32 g (cat 30 0x29#6 (cat 24 d (cat 19 a (cat 14 b (cat 9 m (cat 6 0x08#4 w)))))))
  | .vsra g d a b m w => some (cat 32 g (cat 30 0x29#6 (cat 24 d (cat 19 a (cat 14 b (cat 9 m (cat 6 0x09#4 w)))))))
  | .vmin g d a b m w => some (cat 32 g (cat 30 0x29#6 (cat 24 d (cat 19 a (cat 14 b (cat 9 m (cat 6 0x0A#4 w)))))))
  | .vmax g d a b m w => some (cat 32 g (cat 30 0x29#6 (cat 24 d (cat 19 a (cat 14 b (cat 9 m (cat 6 0x0B#4 w)))))))
  | .vfadd g d a b m t => some (cat 32 g (cat 30 0x2A#6 (cat 24 d (cat 19 a (cat 14 b (cat 9 m (cat 6 0x00#4 t)))))))
  | .vfsub g d a b m t => some (cat 32 g (cat 30 0x2A#6 (cat 24 d (cat 19 a (cat 14 b (cat 9 m (cat 6 0x01#4 t)))))))
  | .vfmul g d a b m t => some (cat 32 g (cat 30 0x2A#6 (cat 24 d (cat 19 a (cat 14 b (cat 9 m (cat 6 0x02#4 t)))))))
  | .vfma g d a b m t => some (cat 32 g (cat 30 0x2A#6 (cat 24 d (cat 19 a (cat 14 b (cat 9 m (cat 6 0x03#4 t)))))))
  | .vfms g d a b m t => some (cat 32 g (cat 30 0x2A#6 (cat 24 d (cat 19 a (cat 14 b (cat 9 m (cat 6 0x04#4 t)))))))
  | .vfnma g d a b m t => some (cat 32 g (cat 30 0x2A#6 (cat 24 d (cat 19 a (cat 14 b (cat 9 m (cat 6 0x05#4 t)))))))
  | .vfmin g d a b m t => some (cat 32 g (cat 30 0x2A#6 (cat 24 d (cat 19 a (cat 14 b (cat 9 m (cat 6 0x06#4 t)))))))
  | .vfmax g d a b m t => some (cat 32 g (cat 30 0x2A#6 (cat 24 d (cat 19 a (cat 14 b (cat 9 m (cat 6 0x07#4 t)))))))
  | .vfabs g d a m t => some (cat 32 g (cat 30 0x2A#6 (cat 24 d (cat 19 a (cat 14 0x00#5 (cat 9 m (cat 6 0x08#4 t)))))))
  | .vfrcp g d a m t => some (cat 32 g (cat 30 0x2A#6 (cat 24 d (cat 19 a (cat 14 0x00#5 (cat 9 m (cat 6 0x09#4 t)))))))
  | .vfrsq g d a m t => some (cat 32 g (cat 30 0x2A#6 (cat 24 d (cat 19 a (cat 14 0x00#5 (cat 9 m (cat 6 0x0A#4 t)))))))
  | .vfex2 g d a m t => some (cat 32 g (cat 30 0x2A#6 (cat 24 d (cat 19 a (cat 14 0x00#5 (cat 9 m (cat 6 0x0B#4 t)))))))
  | .vflg2 g d a m t => some (cat 32 g (cat 30 0x2A#6 (cat 24 d (cat 19 a (cat 14 0x00#5 (cat 9 m (cat 6 0x0C#4 t)))))))
  | .vcmp g w d a b m c => some (cat 32 g (cat 30 0x2B#6 (cat 24 w (cat 22 d (cat 19 a (cat 14 b (cat 9 m (cat 6 0x00#3 c))))))))
  | .vfcmp g t d a b m c => some (cat 32 g (cat 30 0x2B#6 (cat 24 t (cat 22 d (cat 19 a (cat 14 b (cat 9 m (cat 6 0x01#3 c))))))))
  | .vsel g d a b m => some (cat 32 g (cat 30 0x2B#6 (cat 24 d (cat 19 a (cat 14 b (cat 9 m (cat 6 0x02#3 0x00#3)))))))
  | .mand g d a b n => some (cat 32 g (cat 30 0x2B#6 (cat 24 0x00#2 (cat 22 d (cat 19 0x00#2 (cat 17 a (cat 14 0x00#2 (cat 12 b (cat 9 0x00#3 (cat 6 0x03#3 n))))))))))
  | .mor g d a b n => some (cat 32 g (cat 30 0x2B#6 (cat 24 0x00#2 (cat 22 d (cat 19 0x00#2 (cat 17 a (cat 14 0x00#2 (cat 12 b (cat 9 0x00#3 (cat 6 0x04#3 n))))))))))
  | .mxor g d a b n => some (cat 32 g (cat 30 0x2B#6 (cat 24 0x00#2 (cat 22 d (cat 19 0x00#2 (cat 17 a (cat 14 0x00#2 (cat 12 b (cat 9 0x00#3 (cat 6 0x05#3 n))))))))))
  | .mpop g d a m w => some (cat 32 g (cat 30 0x2B#6 (cat 24 d (cat 18 0x00#1 (cat 17 a (cat 14 0x00#5 (cat 9 m (cat 6 0x06#3 (cat 3 0x00#1 w)))))))))
  | .vperm g d a b m w => some (cat 32 g (cat 30 0x2C#6 (cat 24 d (cat 19 a (cat 14 b (cat 9 m (cat 6 0x00#4 w)))))))
  | .vshf g d a b m w => some (cat 32 g (cat 30 0x2C#6 (cat 24 d (cat 19 a (cat 14 b (cat 9 m (cat 6 0x01#4 w)))))))
  | .vsld g d a n w => some (cat 32 g (cat 30 0x2C#6 (cat 24 d (cat 19 a (cat 14 0x00#1 (cat 13 n (cat 6 0x02#4 w)))))))
  | .vbc g d a n w => some (cat 32 g (cat 30 0x2C#6 (cat 24 d (cat 19 a (cat 14 0x00#1 (cat 13 n (cat 6 0x03#4 w)))))))
  | .vext g d a n w => some (cat 32 g (cat 30 0x2C#6 (cat 24 d (cat 19 a (cat 14 0x00#1 (cat 13 n (cat 6 0x04#4 w)))))))
  | .vins g d s n w => some (cat 32 g (cat 30 0x2C#6 (cat 24 d (cat 19 s (cat 14 0x00#1 (cat 13 n (cat 6 0x05#4 w)))))))
  | .vzip g d a b h w => some (cat 32 g (cat 30 0x2C#6 (cat 24 d (cat 19 a (cat 14 b (cat 9 0x00#2 (cat 7 h (cat 6 0x06#4 w))))))))
  | .vuzp g d a b h w => some (cat 32 g (cat 30 0x2C#6 (cat 24 d (cat 19 a (cat 14 b (cat 9 0x00#2 (cat 7 h (cat 6 0x07#4 w))))))))
  | .vredadd g d a m w => some (cat 32 g (cat 30 0x2C#6 (cat 24 d (cat 19 a (cat 14 0x00#5 (cat 9 m (cat 6 0x08#4 w)))))))
  | .vredmax g d a m w => some (cat 32 g (cat 30 0x2C#6 (cat 24 d (cat 19 a (cat 14 0x00#5 (cat 9 m (cat 6 0x09#4 w)))))))
  | .vredmin g d a m w => some (cat 32 g (cat 30 0x2C#6 (cat 24 d (cat 19 a (cat 14 0x00#5 (cat 9 m (cat 6 0x0A#4 w)))))))
  | .vfredadd g d a m t => some (cat 32 g (cat 30 0x2C#6 (cat 24 d (cat 19 a (cat 14 0x00#5 (cat 9 m (cat 6 0x0B#4 t)))))))
  | .vfamax g d a m t => some (cat 32 g (cat 30 0x2C#6 (cat 24 d (cat 19 a (cat 14 0x00#5 (cat 9 m (cat 6 0x0C#4 t)))))))
  | .vcvt g d a p m t => some (cat 32 g (cat 30 0x2D#6 (cat 24 d (cat 19 a (cat 14 p (cat 9 m (cat 6 0x00#4 t)))))))
  | .vqnt g d a s m p => some (cat 32 g (cat 30 0x2D#6 (cat 24 d (cat 19 a (cat 14 s (cat 9 m (cat 6 0x01#4 p)))))))
  | .vdqnt g d a s m p => some (cat 32 g (cat 30 0x2D#6 (cat 24 d (cat 19 a (cat 14 s (cat 9 m (cat 6 0x02#4 p)))))))
  | .vscl g d a s m t => some (cat 32 g (cat 30 0x2D#6 (cat 24 d (cat 19 a (cat 14 s (cat 9 m (cat 6 0x03#4 t)))))))
  | .vunpk g d a p m t => some (cat 32 g (cat 30 0x2D#6 (cat 24 d (cat 19 a (cat 14 p (cat 9 m (cat 6 0x04#4 t)))))))
  | .vimm g d t i => some (cat 32 g (cat 30 0x2E#6 (cat 24 d (cat 19 t i))))
  | .fmt g a b r s z => some (cat 32 g (cat 30 0x2F#6 (cat 24 a (cat 16 b (cat 8 r (cat 5 s z))))))
  | .ctrAdd g a b d s => some (cat 32 g (cat 30 0x30#6 (cat 24 a (cat 18 b (cat 12 d (cat 6 0x00#3 s))))))
  | .ctrMax g a b d s => some (cat 32 g (cat 30 0x30#6 (cat 24 a (cat 18 b (cat 12 d (cat 6 0x01#3 s))))))
  | .ctrWait g a b d s => some (cat 32 g (cat 30 0x30#6 (cat 24 a (cat 18 b (cat 12 d (cat 6 0x02#3 s))))))
  | .ctrTest g a b d s => some (cat 32 g (cat 30 0x30#6 (cat 24 a (cat 18 b (cat 12 d (cat 6 0x03#3 s))))))
  | .ctrRead g a d => some (cat 32 g (cat 30 0x30#6 (cat 24 a (cat 18 0x00#6 (cat 12 d (cat 6 0x04#3 0x00#3))))))
  | .ctrInit g a b d s => some (cat 32 g (cat 30 0x30#6 (cat 24 a (cat 18 b (cat 12 d (cat 6 0x05#3 s))))))
  | .scoOpen g a b d => some (cat 32 g (cat 30 0x31#6 (cat 24 a (cat 18 b (cat 12 d 0x00#6)))))
  | .scoClose g a d => some (cat 32 g (cat 30 0x31#6 (cat 24 a (cat 18 0x00#6 (cat 12 d 0x08#6)))))
  | .scoCancel g a => some (cat 32 g (cat 30 0x31#6 (cat 24 a (cat 18 0x00#12 0x10#6))))
  | .scoSucceed g a d => some (cat 32 g (cat 30 0x31#6 (cat 24 a (cat 18 0x00#6 (cat 12 d 0x18#6)))))
  | .scoSpawn g a b d => some (cat 32 g (cat 30 0x31#6 (cat 24 a (cat 18 b (cat 12 d 0x20#6)))))
  | .scoLaunch g a b d => some (cat 32 g (cat 30 0x31#6 (cat 24 a (cat 18 b (cat 12 d 0x28#6)))))
  | .scoShield g => some (cat 32 g (cat 30 0x31#6 (cat 24 0x00#18 0x38#6)))
  | .scoUnshield g => some (cat 32 g (cat 30 0x31#6 (cat 24 0x00#18 0x39#6)))
  | .scoPoll g d => some (cat 32 g (cat 30 0x31#6 (cat 24 0x00#12 (cat 12 d 0x3A#6))))
  | .scoId g d => some (cat 32 g (cat 30 0x31#6 (cat 24 0x00#12 (cat 12 d 0x3B#6))))
  | .lfDiscard g a => some (cat 32 g (cat 30 0x32#6 (cat 24 a (cat 18 0x00#12 0x00#6))))
  | .lfMove g a b => some (cat 32 g (cat 30 0x32#6 (cat 24 a (cat 18 b (cat 12 0x00#6 0x08#6)))))
  | .lfStat g a d => some (cat 32 g (cat 30 0x32#6 (cat 24 a (cat 18 0x00#6 (cat 12 d 0x10#6)))))
  | .mxLease g d => some (cat 32 g (cat 30 0x34#6 (cat 24 0x00#12 (cat 12 d 0x00#6))))
  | .mxFree g => some (cat 32 g (cat 30 0x34#6 (cat 24 0x00#18 0x08#6)))
  | .mxOpb g a b d => some (cat 32 g (cat 30 0x34#6 (cat 24 a (cat 18 b (cat 12 d 0x10#6)))))
  | .mxMma g a b d => some (cat 32 g (cat 30 0x34#6 (cat 24 a (cat 18 b (cat 12 d 0x18#6)))))
  | .mxLd g a b => some (cat 32 g (cat 30 0x34#6 (cat 24 a (cat 18 b (cat 12 0x00#6 0x20#6)))))
  | .mxSt g a b => some (cat 32 g (cat 30 0x34#6 (cat 24 a (cat 18 b (cat 12 0x00#6 0x28#6)))))
  | .mxZero g => some (cat 32 g (cat 30 0x34#6 (cat 24 0x00#18 0x30#6)))
  | .mxChk g d => some (cat 32 g (cat 30 0x34#6 (cat 24 0x00#12 (cat 12 d 0x38#6))))
  | .ladSet g a n => some (cat 32 g (cat 30 0x35#6 (cat 24 a (cat 18 n (cat 12 0x00#6 0x00#6)))))
  | .ladGet g n d => some (cat 32 g (cat 30 0x35#6 (cat 24 0x00#6 (cat 18 n (cat 12 d 0x08#6)))))
  | .ladGo g d => some (cat 32 g (cat 30 0x35#6 (cat 24 0x00#12 (cat 12 d 0x10#6))))
  | .ladStat g a d => some (cat 32 g (cat 30 0x35#6 (cat 24 a (cat 18 0x00#6 (cat 12 d 0x18#6)))))
  | .cruSet g a n => some (cat 32 g (cat 30 0x36#6 (cat 24 a (cat 18 n (cat 12 0x00#6 0x00#6)))))
  | .cruGet g n d => some (cat 32 g (cat 30 0x36#6 (cat 24 0x00#6 (cat 18 n (cat 12 d 0x08#6)))))
  | .cruGo g d => some (cat 32 g (cat 30 0x36#6 (cat 24 0x00#12 (cat 12 d 0x10#6))))
  | .cruStat g a d => some (cat 32 g (cat 30 0x36#6 (cat 24 a (cat 18 0x00#6 (cat 12 d 0x18#6)))))
  | .sysCall g a => some (cat 32 g (cat 30 0x3C#6 (cat 24 0x00#6 (cat 18 a (cat 12 0x00#6 0x00#6)))))
  | .trap g a => some (cat 32 g (cat 30 0x3C#6 (cat 24 0x00#6 (cat 18 a (cat 12 0x00#6 0x01#6)))))
  | .eret g => some (cat 32 g (cat 30 0x3C#6 (cat 24 0x00#18 0x02#6)))
  | .yield g => some (cat 32 g (cat 30 0x3C#6 (cat 24 0x00#18 0x03#6)))
  | .brk g => some (cat 32 g (cat 30 0x3C#6 (cat 24 0x00#18 0x04#6)))
  | .halt g => some (cat 32 g (cat 30 0x3C#6 (cat 24 0x00#18 0x05#6)))
  | .tlbInv g a b => some (cat 32 g (cat 30 0x3C#6 (cat 24 0x00#6 (cat 18 a (cat 12 b 0x06#6)))))
  | .tlbAll g a => some (cat 32 g (cat 30 0x3C#6 (cat 24 0x00#6 (cat 18 a (cat 12 0x00#6 0x07#6)))))
  | .csrr g d n => some (cat 32 g (cat 30 0x3D#6 (cat 24 d (cat 18 0x00#6 (cat 12 0x00#2 n)))))
  | .csrw g d a n => some (cat 32 g (cat 30 0x3D#6 (cat 24 d (cat 18 a (cat 12 0x01#2 n)))))
  | .csrs g d a n => some (cat 32 g (cat 30 0x3D#6 (cat 24 d (cat 18 a (cat 12 0x02#2 n)))))
  | .csrc g d a n => some (cat 32 g (cat 30 0x3D#6 (cat 24 d (cat 18 a (cat 12 0x03#2 n)))))
  | .registerWrite _ _ => none
  | .crossDieInvalidation _ _ _ => none
  | .invalidationAck _ => none
  | .settleMarker _ _ => none
  | .settleReport _ => none
  | .cancelBroadcast _ _ _ => none
  | .scopeDeath _ _ => none
  | .scopeClosing _ _ => none
  | .strandResume _ => none
  | .teamPlacement _ => none
  | .quantumEnd _ _ => none
  | .leafShrink _ _ => none
  | .leafConversion _ _ _ _ => none
  | .leafMoveDone _ _ => none
  | .ladleSegment _ _ => none
  | .ladleTransferEnd _ _ => none
  | .anvilCommandRun _ => none
  | .anvilRunEnd _ => none
  | .collectiveEnd _ _ => none
  | .launchEntryConsume _ _ => none
  | .completionRecord _ _ => none
  | .serviceRingPost _ => none
  | .ownershipGrant _ _ => none
  | .benchRequestDispatch _ => none
  | .benchReply _ => none
  | .syscallNull _ => none
  | .syscallHost _ => none
  | .syscallLpnAssign _ => none
  | .syscallFirmware _ => none
  | .interrupt _ => none
  | .faultQueueSlotFree _ => none
  | .illegalInstruction _ => none
  | .steal _ _ => none
  | .stealWaitExpiry _ => none
  | .preEmptSlot _ _ => none
  | .preEmptTeam _ _ => none
  | .pageWalk _ _ _ => none
  | .collectiveFlit _ _ _ _ _ _ => none
  | .collectiveReady _ _ _ => none
  | .collectiveCommit _ _ => none
  | .collectiveAbort _ _ => none
  | .errorDetected _ _ => none
  | .pcieCompletion _ _ => none
  | .peerAcknowledgement _ _ => none
  | .settleRoundOpen => none
  | .deviceReset => none
  | .imageVerify _ => none
  | .claim _ _ => none
  | .leaderElectionExpiry => none
  | .loadMessage _ _ _ _ => none
  | .resendRequest _ _ _ => none
  | .loadTimeout => none
  | .readCopyRequest _ _ => none
  | .ownershipRequest _ _ => none
  | .dieFence _ => none
  | .scopeKill _ _ => none
  | .teamBlockPoolPush _ _ => none
  | .contextBlockPoolPush _ _ => none
  | .swapAreaPoolPush _ _ => none
  | .reservationWrite _ _ _ => none
  | .lpnEntryWrite _ _ _ => none
  | .powerStateWrite _ _ => none
  | .collectiveTimeout _ _ => none
  | .flitReceive _ _ => none
  | .flitCounterLimit _ => none
  | .portLaneChange _ _ => none
  | .getVersion _ => none
  | .getCapabilities _ => none
  | .negotiateAlgorithms _ _ => none
  | .getDigests _ => none
  | .getCertificate _ _ _ => none
  | .challenge _ _ => none
  | .getMeasurements _ _ => none
  | .keyExchange _ _ => none
  | .finish _ _ => none
  | .keyUpdate _ _ => none
  | .endSession _ => none
  | .peerWrite _ _ _ => none
  | .peerRead _ _ _ => none
  | .peerAtomic _ _ _ _ _ => none
  | .peerAdd _ _ _ _ => none
  | .peerCounterRead _ _ _ => none
  | .windowAdd _ _ _ _ => none
  | .windowRead _ _ _ => none
  | .apertureWrite _ _ _ => none
  | .apertureRead _ _ _ => none
  | .atomicopRequest _ _ => none
  | .doorbell _ _ _ => none
  | .queueReset _ _ => none
  | .queueRingBaseWrite _ _ _ => none
  | .replyTag _ _ => none
  | .transferToProcessor _ _ => none
  | .lateFramePush _ _ _ => none
  | .jobPointerWrite _ _ => none
  | .pcieLinkStateChange => none
  | .resolveRetry _ _ => none
  | .resolveResume _ _ => none
  | .resolveRetire _ _ => none
  | .resolveIgnored _ _ => none
  | .assayStart _ _ => none
  | .assayEnd _ _ => none
  | .patinaSample _ _ => none
  | .touchstoneHash _ _ _ => none
  | .touchstoneTimeout _ => none
  | .spdmResponse _ _ => none
  | .firmwareCoreRestart _ => none
  | .packagePowerLoss => none

/-- The word that TVAL reports for an instruction (R209, R217): the word it was read from. -/
def Instr.word : Instr → BitVec 32
  | .illegalInstruction w => w
  | i => (encode i).getD 0

end Sys2Proof
end

