-- ==== Sys2Proof/Config.lean ====
section
/-!
DEFINITION. What an implementation or the world outside fixes and the spec leaves open: constants without a body, so
that no proof can rest on a value of theirs (assumption log 1, 6, 8, 9, 10, 11).
-/
namespace Sys2Proof.Config

/-- Which agent moves next, for the step of a number (assumption log 1). -/
opaque freeTurn : Nat → Nat

/-- Nanoseconds that a step of a number takes (R334; assumption log 6). -/
opaque freeNanos : Nat → Nat

/-- Core cycles that a step of a number takes (R334; assumption log 6). -/
opaque freeCycles : Nat → Nat

/-- A value that the spec does not state, for the step of a number (assumption log 8). -/
opaque freeWord : Nat → BitVec 64

/-- The two digests of signing keys fused in the package (R402). -/
opaque keyDigests : BitVec 256 × BitVec 256

/-- The minimum image version fused in the package (R402). -/
opaque fusedMinVersion : Nat

/-- The RSASSA-PSS check of R402 over header and body, with the signature. -/
opaque signatureValid : List Byte → List Byte → Bool

/-- The serial number in the chip's identity certificate (R405). -/
opaque serial : Nat

/-- The chip's certificate chain (R362). -/
opaque certificate : List Byte

/-- The chip's measurement blocks (R362). -/
opaque measurements : List (List Byte)

/-- The signature the chip makes over a transcript, with a nonce (R362). -/
opaque sign : List Byte → Nat → List Byte

/-- The chip's part of a key exchange (R362). -/
opaque exchangePart : Nat → List Byte

/-- The SHA-256 digest of a list of bytes (R362). -/
opaque digest : List Byte → BitVec 256

/-- The oscillator count of a cluster at manufacture (R401). -/
opaque fusedBirth : ClusterId → BitVec 16

/-- The clock steps of a cluster fused before this power-on (R401). -/
opaque fusedSteps : ClusterId → Nat

/-- The result of a system call that the firmware image defines, by the call word (R387; assumption log 9). -/
opaque firmwareCall : BitVec 64 → BitVec 64

/-- The hash that a copy's operation yields: of its instruction word, the contents of the registers and its scope (R400). -/
opaque opHash : BitVec 32 → List Nat → BitVec 32 → BitVec 64

end Sys2Proof.Config
end

