-- ==== Sys2Proof/Machine/State.lean ====
section
/-!
DEFINITION. The state of the Gredric G3 as plain data, and the state right after reset.
Each structure names the rules of spec/ that give its fields; INVENTORY.md lists every field with its reset value.
-/
namespace Sys2Proof.Machine

/-- Why a step ends in a fault. -/
inductive Fault where
  /-- Raised by `step` after PACKAGE_POWER_LOSS while no reset is at hand: no part of the device responds (R409).
  Safe: the device stops. -/
  | unpowered
  deriving DecidableEq, Repr

/-- Why an instruction has no meaning. -/
inductive Refusal where
  /-- The instruction is not modelled; raised by an arm of `exec` only. Safe: the model stops. -/
  | notModelled (mnemonic : String)
  deriving DecidableEq, Repr

/-! ### Strands -/

/-- A register as the scoreboard of R202 names it. -/
inductive RegName where
  | c (i : CIdx)
  | v (i : VIdx)
  | m (i : MIdx)
  deriving DecidableEq, Repr

/-- The latest writer of a register with a fixed latency: its distance so far and its latency (R202). -/
structure BoardEntry where
  reg  : RegName
  dist : Nat
  lat  : Nat
  deriving DecidableEq, Repr

/-- A continuation handle: the address space and the physical address of the continuation record (R134). -/
structure Handle where
  asid : Asid
  addr : Nat
  deriving DecidableEq, Repr

/-- A cause with its subcode, TVAL and EPC (R336), and whether it is the fault of a walk, which a record may be joined for, and
whether it waits to join a record that is open for its page (R37, R348). -/
structure Trap where
  cause   : BitVec 8
  subcode : BitVec 8
  tval    : Word
  epc     : Word
  walk    : Bool := false
  joining : Bool := false
  deriving DecidableEq, Repr

/-- What a resident strand is doing. -/
inductive RunState where
  /-- The core's boot ROM has started no image yet (R402, R404). -/
  | bootRom
  /-- The strand issues at its pc. -/
  | ready
  /-- The strand waits for the completion of an access outside the device (R251, R359). -/
  | waitIo (id : Nat)
  /-- The strand waits in `sco.close` for the closing steps of a scope that was empty; the result goes to a register and c5
  (R155). -/
  | waitClose (dest : CIdx) (scope : BitVec 32)
  /-- A fault waits for a context block or a fault-queue slot (R178, R344). -/
  | trapStalled (t : Trap)
  /-- No strand: the slot is free. -/
  | absent
  deriving DecidableEq, Repr

/-- A counter wait that a resumed strand presents again (R94). -/
structure PendingWait where
  va        : BitVec 48
  threshold : Word
  deriving DecidableEq, Repr

/-- An instruction word that a strand has fetched ahead of issue and holds (R103). -/
structure HeldWord where
  asid : Asid
  va   : Word
  word : BitVec 32
  deriving DecidableEq, Repr

/-- A resident strand (R131 to R137, R213, R332). -/
structure Strand where
  run       : RunState
  core      : CoreId
  slot      : Fin 16
  regs      : Vector CapReg 64
  vregs     : Vector VReg 32
  masks     : Vector MReg 8
  /-- Grant code n: v0 to v(8n-1) exist (R139). -/
  grant     : BitVec 3
  pc        : Word
  status    : Word
  cause     : Word
  epc       : Word
  tval      : Word
  tvec      : Word
  pstatus   : Word
  idem      : Word
  scope     : Word
  sctb      : Word
  asid      : Asid
  strandNo  : BitVec 16
  team      : Word
  lad       : Vector CapReg 9
  cru       : Vector CapReg 8
  board     : List BoardEntry
  /-- The handle of its continuation record (R134). -/
  handle    : Handle
  /-- The scope the strand was born in (R131). -/
  birth     : BitVec 32
  teamFlag  : Bool
  prio      : BitVec 8
  affinity  : BitVec 8
  /-- The launch and the team it belongs to, 0 for none (R140, R141). -/
  launchId  : Nat
  teamId    : Nat
  /-- A cancel has reached the strand (R158, R159). -/
  cancelled : Bool
  /-- A kill has reached the strand (R165). -/
  killed    : Bool
  /-- A pre-emption request waits for a context block (R178). -/
  stopWanted : Bool
  /-- The wait to present again at issue (R94). -/
  wait      : Option PendingWait
  /-- A wait whose fault or interrupt a privileged strand handles, with the address that it is presented again at (R94, R328). -/
  waitBack  : Option (Word × PendingWait)
  /-- The resume PC of a resumption whose cancellation point the strand has not passed (R94, R137). -/
  resuming  : Option Word
  /-- Instruction words fetched ahead and not issued (R103). -/
  held      : List HeldWord
  deriving DecidableEq, Repr

/-! ### Cores and clusters -/

/-- 128 entries of a deque moved to a context-pool block (R172). -/
structure Spill where
  block   : Nat
  entries : List Handle
  deriving DecidableEq, Repr

/-- The staged B of a core: bytes of its rows, format code, scale codes (none: 2^0) and poison (R298, R304, R411). -/
structure StagedB where
  bytes  : List Byte
  fmt    : BitVec 8
  scales : Option (List Byte)
  poison : Bool
  deriving DecidableEq, Repr

/-- The counted Anvil commands (R298). -/
inductive AnvilOp where
  | opb | mma | ld | st | zero
  deriving DecidableEq, Repr

/-- A queued Anvil command: its operand in cluster memory, given by physical address, geometry and format (R302); where its strand
had stores that were not performed when it was issued (R125); and, once it runs, what it has read so far, by number of the
sector or word read, and whether some of it was poisoned (R84, R126, R411). -/
structure AnvilCmd where
  op     : AnvilOp
  base   : Nat
  geom   : Word
  fmt    : BitVec 8
  scales : Option Nat
  issuer : Nat
  first  : List Nat
  got    : List (Nat × List Byte)
  bad    : Bool
  deriving DecidableEq, Repr

/-- The lease of a core (R299 to R301). -/
structure Lease where
  /-- The holder, by the address of its continuation record. -/
  holder    : Nat
  asid      : Asid
  scope     : BitVec 32
  completed : Nat
  rerun     : Bool
  /-- Commands of it were dropped by a cancel or kill (R301). -/
  dropped   : Bool
  /-- A cancel or kill has reached its scope: it ends at its holder's next Anvil instruction or point (R300). -/
  cut       : Bool
  /-- The holder has left; the queued commands still run (R300). -/
  ended     : Bool
  deriving DecidableEq, Repr

/-- Bytes of an aligned 64-byte sector that an engine has read at one point, from a virtual address on, and the tags of the
sector's four granules (R126). -/
structure Fetched where
  va    : Nat
  bytes : List Byte
  tags  : List Bool
  deriving DecidableEq, Repr

/-- A Ladle transfer in a slot of its core (R315 to R321). -/
structure LadleXfer where
  slot    : Nat
  id      : BitVec 16
  regs    : Vector CapReg 9
  asid    : Asid
  scope   : BitVec 32
  issuer  : Nat
  teamId  : Nat
  /-- State of the status word (R321). -/
  state   : BitVec 4
  cause   : BitVec 8
  subcode : BitVec 4
  /-- Segments performed, with their lines die-visible; whether a further one is written and not yet all visible; and the row
  and place in it of the next segment (R128, R321). -/
  count   : Nat
  flying  : Bool
  row     : Nat
  byte    : Nat
  /-- Sectors of the source that have been read (R126). -/
  got     : List Fetched
  cancel  : Bool
  kill    : Bool
  /-- Whose invalidations happen before the launch, and whether the completion add is done (R118, R127). -/
  carried : List Agent
  added   : Bool
  deriving DecidableEq, Repr

/-- How far a Crucible collective has come; once it is `written`, its last writes are made (R367 to R373). -/
inductive CruPhase where
  | queued | reading | gather | sentReady | committed | written
  deriving DecidableEq, Repr

/-- A Crucible collective in a slot of its core (R322, R323, R366 to R374). -/
structure Collective where
  slot     : Nat
  id       : BitVec 16
  /-- Its number among the launches of the device, for the order of R371. -/
  number   : Nat
  regs     : Vector CapReg 8
  asid     : Asid
  scope    : BitVec 32
  issuer   : Nat
  teamId   : Nat
  f        : FnId
  /-- The ranks of its group, this device's group rank, and the buffer of its residuals. -/
  ranks    : Nat
  me       : Nat
  buffer   : CapReg
  /-- The switch that the collective reduces in, if it does (R365, R368). -/
  inSwitch : Bool
  switch   : Option Nat
  /-- Its number on its group at this rank (R367). -/
  k        : Nat
  /-- The other members' job ranks and ports as read at its start (R368). -/
  paths    : List (Nat × BitVec 12)
  phase    : CruPhase
  /-- Contributions received: rank, index of the first element, elements. -/
  contrib  : List (Nat × Nat × List Word)
  /-- The device's own block has been summed (R369). -/
  reduced  : Bool
  /-- Results received, and those still to be written: index of the first destination element, element codes. -/
  results  : List (Nat × List Word)
  toWrite  : List (Nat × List Word)
  readies  : List Nat
  /-- The other ranks of which a flit has shown that they agree (R367). -/
  heads    : List Nat
  /-- New residuals, written only at the end of a collective that is done (R371). -/
  residuals : List Word
  link     : BitVec 8
  cause    : BitVec 8
  subcode  : BitVec 4
  /-- Elements written to the destination or, staged, to STAGE, which are die-visible; and those written that may not all be so
  yet (R128). -/
  written  : Nat
  flying   : Nat
  kill     : Bool
  /-- Sectors read of its source and of its residuals (R126). -/
  got      : List Fetched
  /-- An abort that this rank still has to send: whether it says that the ranks do not agree, and to whom, by job rank and ports
  (R367, R373). -/
  tell     : Option (Bool × List (Nat × BitVec 12))
  /-- The writers whose invalidations happen before the launch, and whether the completion add is made (R118, R127). -/
  carried  : List Agent
  added    : Bool
  /-- State of the status word (R321). -/
  state    : BitVec 4
  deriving DecidableEq, Repr

/-- A status a core keeps for a Ladle or Crucible id (R321). -/
structure EngStatus where
  id   : BitVec 16
  asid : Asid
  word : Word
  deriving DecidableEq, Repr

/-- A core (R2, R50, R172 to R174, R298 to R321, R334). -/
structure Core where
  deques    : Vector (List Handle) 4
  spills    : Vector (List Spill) 4
  /-- The count A of R172. -/
  age       : Nat
  /-- The priority of the latest aged pop while aged pops go on, 4 for none (R172). -/
  agedAt    : Nat
  lastSlot  : Fin 16
  cycle     : Word
  /-- Cross-die invalidations its writes caused and that are not acknowledged (R50). -/
  invCount  : Nat
  stealWait : Bool
  /-- The cores that the thief's circuit has come to, and whether it has found an entry since it began (R173). -/
  visited   : List CoreId
  stole     : Bool
  /-- Pushes that wait for a context-pool block, oldest first: priority and handle (R172). -/
  pushes    : List (Nat × Handle)
  acc       : List (BitVec 32)
  accPoison : Bool
  staged    : StagedB
  bClass    : BitVec 2
  queue     : List AnvilCmd
  lease     : Option Lease
  /-- Strands, by record address, that stall at `mx.lease` until the core has the Anvil (R296, R299, R307). -/
  asks      : List Nat
  /-- Strands, by record address, for which flag A of R301 holds on this core. -/
  aHist     : List Nat
  lads      : List LadleXfer
  ladSeq    : BitVec 16
  ladStats  : List EngStatus
  crus      : List Collective
  cruSeq    : BitVec 16
  cruStats  : List EngStatus
  outOfService : Bool
  deriving DecidableEq, Repr

/-- A counter waiter: physical address, threshold and continuation handle (R92). -/
structure Waiter where
  pa        : Nat
  threshold : Word
  handle    : Handle
  deriving DecidableEq, Repr

/-- A cluster: its Anvil's grant, its waiter table, its memory allocations and its Patina register
(R92, R143, R299, R401). -/
structure Cluster where
  /-- The core index that holds the Anvil's grant (R299). -/
  grant     : Option (Fin 4)
  cmdsLeft  : Nat
  cyclesLeft : Nat
  /-- A checksum mismatch that the Anvil's next `mx.mma` meets, and the report of a second one (R305). -/
  mismatch  : Option ErrorReport
  lastGrant : Fin 4
  waiting   : List (Fin 4)
  anvilOut  : Bool
  waiters   : List Waiter
  /-- Allocations of cluster memory: team, first 4 KiB page, pages (R143). -/
  allocs    : List (Nat × Nat × Nat)
  birth     : BitVec 16
  now       : BitVec 16
  steps     : BitVec 4
  outOfService : Bool
  deriving DecidableEq, Repr

/-! ### Dies -/

/-- A reservation entry (R61). -/
structure Resv where
  reservation : BitVec 13
  resident    : Nat
  deriving DecidableEq, Repr

/-- The states of a leaf page (R62). -/
inductive LpnState where
  | empty | resident | moving | converting | lost | backed
  deriving DecidableEq, Repr

/-- An LPN entry with its page register; `lines` are the lines held, in ascending order, each with its way (R62 to R64);
`queue` are those who wait for the page operation in progress, in arrival order (R74, R78). -/
structure Lpn where
  v        : Bool
  state    : LpnState
  lines    : List (Nat × Nat)
  queue    : List Agent
  f        : BitVec 6
  lastAsid : Asid
  frame    : Nat
  spill    : Bool
  deriving DecidableEq, Repr

/-- A leaf page move in progress, held by the source die under the source LPN (R78). -/
structure LeafMove where
  lpn    : Nat
  dstDie : DieId
  dstLpn : Nat
  asid   : Asid
  va     : Nat
  /-- The strand that issued lf.move, by record address. -/
  issuer : Nat
  deriving DecidableEq, Repr

/-- An operation outcome that a stalled leaf instruction collects when it issues again (R267). -/
structure LeafResult where
  issuer  : Nat
  /-- 0 for success, else the subcode of cause 0x0B plus 1. -/
  outcome : Nat
  deriving DecidableEq, Repr

/-- A fault record's fields as the model holds it before it is written (R343). -/
structure FaultRec where
  time     : Word
  info     : Word
  epc      : Word
  tval     : Word
  record   : Nat
  scope    : BitVec 32
  die      : DieId
  asid     : Asid
  kind     : BitVec 8
  subcode  : BitVec 8
  cause    : BitVec 8
  /-- The fault is one of a walk, whose record others may join (R37, R348). -/
  walk     : Bool := false
  deriving DecidableEq, Repr

/-- A fault record of kind 0 or 1 that is not resolved: its head strand and the strands chained to it (R347, R348). -/
structure OpenFault where
  asid  : Asid
  seq   : Nat
  /-- The 4 KiB page a walk's fault covered, for joining (R37, R348). -/
  page  : Option Nat
  head  : Handle
  chain : List Handle
  kind  : BitVec 8
  subcode : BitVec 8
  deriving DecidableEq, Repr

/-- A record of the error bank (R395). -/
structure ErrSlot where
  seq       : Nat
  report    : ErrorReport
  time      : Word
  merged    : BitVec 8
  ovf       : Bool
  assay     : BitVec 4
  removed   : Bool
  cls       : BitVec 2
  deriving DecidableEq, Repr

/-- The self-test register of a die (R398). -/
structure AssayReg where
  busy : Bool
  pass : Bool
  kind : BitVec 4
  unit : BitVec 16
  deriving DecidableEq, Repr

/-- States of a scope (R150). -/
inductive ScopeState where
  | free | opened | sealed | closing | closed | cancelled | failed
  deriving DecidableEq, Repr

/-- A scope record in a scope cache, with its opener (R148, R149). -/
structure ScopeRec where
  asid      : Asid
  id        : BitVec 32
  parent    : BitVec 32
  state     : ScopeState
  depth     : Nat
  /-- Record bits [63:48]: region length, NC, LB, CF, TS. -/
  attrs     : BitVec 16
  births    : Word
  deaths    : Word
  lost      : Nat
  result    : BitVec 16
  cx        : Bool
  kl        : Bool
  sc        : Bool
  fl        : Bool
  cscope    : BitVec 3
  caddr     : Word
  cvalue    : Word
  handler   : Word
  leafBase  : Word
  /-- The opener, by the address of its continuation record; 0 for none. -/
  opener    : Nat
  /-- The opener waits in a close (R155). -/
  closeWait : Bool
  /-- Pages of the leaf region that the closing steps have discarded, the model's own count (R80). -/
  swept     : Nat
  deriving DecidableEq, Repr

/-- A request of the Bench cores (R385). -/
inductive BenchReq where
  | call (h : Handle) (asid : Asid) (scope : BitVec 32) (word : Word)
  | fault (asid : Asid) (seq : Nat)
  | convert (die : DieId) (lpn : BitVec 12) (asid : Asid) (byAccess : Bool)
  | transfer (f : FnId) (region : Word) (asid : Asid)
  deriving DecidableEq, Repr

/-- What a Bench core has done with the request at the head of its ring: nothing yet, a result to deliver, or
forwarded to the host under a tag (R385 to R388). -/
inductive BenchStage where
  | waiting
  | answered (result : Word)
  | forwarded (tag : Word)
  deriving DecidableEq, Repr

/-- An entry of a Bench core's mailbox ring (R385). -/
structure BenchEntry where
  f     : FnId
  req   : BenchReq
  stage : BenchStage
  deriving DecidableEq, Repr

/-- An entry of a die's team queue: the teams of a launch from index `next` on, the first of which has taken a block or, with
0, none yet, or a team that was swapped out (R140, R170, R175). -/
inductive QEntry where
  | fresh (launchId : Nat) (next : Nat) (block : Nat)
  | swapped (teamId : Nat)
  deriving DecidableEq, Repr

/-- The scheduling policy that firmware sets in a die's scheduler control block (R168). -/
structure Policy where
  /-- Team quantum in µs. -/
  quantum   : Nat
  /-- Pops per aged pop (R172). -/
  ageing    : Nat
  pack      : Bool
  weights   : Vector (BitVec 8) 64
  cmasks    : Vector (BitVec 112) 64
  deriving DecidableEq, Repr

/-- A pool of free blocks: a stack linked through the first 8 bytes of each block (R169). -/
structure PoolReg where
  top   : Nat
  count : Nat
  deriving DecidableEq, Repr

/-- A die. -/
structure Die where
  fqctr     : Word
  ceiling   : Nat
  resv      : Vector Resv 64
  lpns      : List (Nat × Lpn)
  moves     : List LeafMove
  leafDone  : List LeafResult
  /-- Index in the die of the firmware core, fixed at boot (R3). -/
  fw        : Nat
  teamPool  : PoolReg
  ctxPool   : PoolReg
  swapPool  : PoolReg
  teamQ     : List QEntry
  /-- Placed team time per function (R170). -/
  placed    : Vector Nat 64
  /-- Selections since the last aged one, per function (R170, R172). -/
  teamAge   : Vector Nat 64
  /-- The priority of the latest aged selection while aged ones go on, 4 for none, per function (R172). -/
  teamAgedAt : Vector Nat 64
  hold      : List FaultRec
  errProduced : Nat
  errConsumed : Nat
  errDropped  : Nat
  errSlots  : List (Nat × ErrSlot)
  assay     : AssayReg
  ints      : List Nat
  power     : BitVec 2
  powerReq  : BitVec 2
  scopes    : List (Nat × ScopeRec)
  waiters   : List Waiter
  /-- Counter lines with listed waiters: line and the one ASID, or none for "any" (R92). -/
  marks     : List (Nat × Option Asid)
  openFaults : List OpenFault
  benchQ    : Vector (List BenchReq) 64
  deficits  : Vector Int 64
  fenced    : Bool
  slicesOut : List Nat
  /-- Functions whose shrink has turned to pages without spill and waits for a page operation (R72, R74). -/
  shrunk    : List Nat
  /-- Stacks of the die, and Bench cores by their number in the device, that were removed from service (R4, R399). -/
  stacksOut : List Nat
  benchOut  : List Nat
  deriving DecidableEq, Repr

/-! ### Memory -/

/-- Bytes of memory by location, in canonical form: addresses strictly rise and no entry is what an unlisted
address reads as (R98). -/
abbrev Mem := List Host.Cell

/-- Where a translation is cached: the L1 TLB of a core or the TLB of a cluster (R35). -/
inductive TlbSite where
  | core (c : CoreId)
  | cluster (c : ClusterId)
  deriving DecidableEq, Repr

/-- A cached translation (R35): the page's base and level, and the entry that the walk found. -/
structure TlbEntry where
  site  : TlbSite
  asid  : Asid
  base  : Nat
  /-- log2 of the page's bytes: 12, 16, 21 or 30. -/
  bits  : Nat
  entry : Word
  deriving DecidableEq, Repr

/-- A table pointer in a die's walk cache (R35): the table that a walk of an address range reaches at a level. -/
structure WalkPtr where
  die   : DieId
  asid  : Asid
  level : Nat
  /-- The address bits above the range that the table of the level covers. -/
  top   : Nat
  table : Nat
  deriving DecidableEq, Repr

/-- An ASID descriptor as a die reads it; `live` says that it is not dead (R12). -/
structure Descriptor where
  live       : Bool
  /-- V is set and yet the descriptor is treated as dead. -/
  refused    : Bool
  root       : Nat
  fn         : FnId
  scopeTable : Word
  faultQueue : Nat
  overflow   : Nat
  deriving DecidableEq, Repr

/-- A descriptor that a die has cached (R13). -/
structure CachedDesc where
  die  : DieId
  asid : Asid
  desc : Descriptor
  deriving DecidableEq, Repr

/-- A line of a core's L1, its state other than I, and the valid and dirty bits of its two sectors (R44). -/
inductive Moesi where
  | modified | owned | exclusive | shared
  deriving DecidableEq, Repr

/-- A line in a way of an L1 set (R39, R44). -/
structure L1Line where
  core  : CoreId
  line  : Nat
  way   : Nat
  state : Moesi
  valid : BitVec 2
  dirty : BitVec 2
  deriving DecidableEq, Repr

/-- An ordinary line in a way of a set of an LLC slice: a line homed on the die, or a read copy or an owned line of
another die's (R39, R47, R49). -/
structure LlcLine where
  die   : DieId
  line  : Nat
  way   : Nat
  dirty : Bool
  deriving DecidableEq, Repr

/-- What the caches hold. Their data stand in memory and in `copies`: within a die they are coherent (R44, R47). -/
structure Caches where
  l1   : List L1Line
  llc  : List LlcLine
  /-- Pseudo-LRU bits of L1 sets, by core × 128 + set (R44). -/
  plru : List (Nat × BitVec 7)
  deriving DecidableEq, Repr

/-- A release that the value of bytes carries to those who acquire it: the releasing core, the scope, and the writers whose
cross-die invalidations were not all acknowledged when it was made (R110, R118). -/
structure Sync where
  loc     : Nat
  size    : Nat
  core    : CoreId
  scope   : Nat
  writers : List Agent
  deriving DecidableEq, Repr

/-- A store that is not yet die-visible: what its bytes, the tag of their granule and the releases they carried were before it,
the strand or engine command it is of and that one's core, and whether it is core-visible (R106, R110, R124, R128). Its bytes lie
in one granule. -/
structure Early where
  loc     : Nat
  old     : List Byte
  oldTag  : Bool
  syncs   : List Sync
  who     : Agent
  core    : CoreId
  coreVis : Bool
  deriving DecidableEq, Repr

/-- Whose invalidations happen before a strand's next access: those it has acquired, the releases it has read without
acquiring them, which its next fence of their scope acquires, and those that its fences, each of a scope, release with later
stores (R110, R112, R118). -/
structure Carry where
  strand   : Nat
  carried  : List Agent
  loaded   : List Sync
  fenced   : List (Nat × List Agent)
  deriving DecidableEq, Repr

/-- The ordering of accesses in progress (R98 to R130): stores not yet die-visible, the releases that words carry, what
strands have acquired, and the invalidations counted for engine commands and requesters. -/
structure Order where
  early   : List Early
  syncs   : List Sync
  carries : List Carry
  counts  : List (Agent × Nat)
  deriving DecidableEq, Repr

/-- A directory entry (R47). -/
structure DirEntry where
  sharers   : BitVec 112
  owner     : BitVec 9
  ov        : Bool
  dieCopies : BitVec 3
  remote    : BitVec 2
  rv        : Bool
  deriving DecidableEq, Repr

/-- A read copy of a line that a die other than its home holds, with its data (R49, R50). -/
structure ReadCopy where
  die  : DieId
  line : Nat
  data : List Byte
  /-- The tags of its eight granules. -/
  tags : List Bool
  deriving DecidableEq, Repr

/-! ### Functions, launches and teams -/

/-- A launch queue of a function (R377, R379, R384). -/
structure Queue where
  base      : Word
  n         : Nat
  cbase     : Word
  m         : Nat
  asid      : Asid
  cap       : CapReg
  latched   : BitVec 32
  consumed  : BitVec 32
  completed : BitVec 32
  head      : BitVec 32
  /-- 0 idle, 1 running, 2 resetting. -/
  state     : BitVec 2
  /-- Completion records written so far, and those that wait for room: sequence, status, lost (R380). -/
  produced  : Nat
  ready     : List (BitVec 32 × BitVec 8 × Nat)
  /-- Sequences whose record is written and that lie above Completed. -/
  written   : List (BitVec 32)
  /-- Root scopes that a reset of the queue has killed and whose kill has not reported yet (R165, R382). -/
  killing   : List (BitVec 32)
  deriving DecidableEq, Repr

/-- A function's control block, BAR registers and counters (R376, R384, R388, R391, R392, R397). -/
structure Function where
  windowAsid : Asid
  wb         : Word
  windowSize : Nat
  weight     : BitVec 8
  frames     : Vector (List Nat) 4
  ring       : Word
  ringSize   : Nat
  queues     : Vector Queue 4
  apAsid     : Asid
  ab         : Word
  apSize     : Nat
  replyValue : Word
  produced   : Word
  consumed   : Word
  /-- Tags of host service requests not yet answered, with the Bench core that holds each (R388). -/
  tags       : List (Word × Nat)
  /-- Ownership regions posted to the ring, with their tags (R390). -/
  grants     : List (Word × Word)
  xferReg    : Word
  err0       : Word
  err13      : Word
  deriving DecidableEq, Repr

/-- A launch in the device (R138 to R145). -/
structure Launch where
  id      : Nat
  asid    : Asid
  f       : FnId
  scope   : BitVec 32
  entry   : Word
  param   : CapReg
  arena   : CapReg
  frame   : Nat
  strands : Nat
  dimX    : Nat
  dimY    : Nat
  dimZ    : Nat
  kib     : Nat
  grant   : BitVec 3
  prio    : BitVec 8
  cscope  : BitVec 3
  caddr   : Word
  cvalue  : Word
  /-- Strands not yet retired. -/
  left    : Nat
  lost    : Nat
  killed  : Bool
  /-- The launch queue entry that asked for it: function, queue, sequence (R379). -/
  queue   : Option (FnId × Fin 4 × BitVec 32)
  deriving DecidableEq, Repr

/-- A team that has a team block (R142, R143, R175). -/
structure Team where
  id      : Nat
  launchId : Nat
  index   : Nat
  block   : Nat
  die     : DieId
  cluster : ClusterId
  /-- Cores of its reservation, in ascending order (R143, R171). -/
  cores   : List CoreId
  page0   : Nat
  pages   : Nat
  /-- The team is placed on its cluster; otherwise it is swapped out (R175). -/
  placed  : Bool
  /-- The swap area, from the beginning of a swap-out to the swap-in; 0 while no swap is in progress (R175). -/
  area    : Nat
  /-- Cores of the second copies of its strands, in a paired scope (R400). -/
  twins   : List CoreId
  /-- Strands that have not run yet (R141). -/
  fresh   : List Nat
  /-- Its function, and TIME up to which its placed time is counted (R170). -/
  f       : FnId
  since   : Word
  /-- Its strands and their grant, by which it reserves slots and registers (R171). -/
  strands : Nat
  grant   : BitVec 3
  /-- Those whose operations on its allocation wait for it to reside again, in arrival order (R86). -/
  held    : List Agent
  deriving DecidableEq, Repr

/-! ### Links, boot and the world outside -/

/-- A Hyunzin port (R356, R357). -/
structure Port where
  up      : Bool
  keyed   : Bool
  lanes   : Nat
  replays : Nat
  /-- Failed receptions of the flit in question: the first, and its replays (R357). -/
  failed  : Nat
  flits   : Nat
  /-- The functions and epochs for which its sender has reached 2^48 flits (R356). -/
  stopped : List (FnId × BitVec 16)
  /-- Removed from service (R4, R399). -/
  removed : Bool
  deriving DecidableEq, Repr

/-- A job made effective by a write of its Job pointer (R358, R359). -/
structure Job where
  hallmark : Nat
  groups   : Nat
  groupCount : Nat
  peerMap  : Nat
  /-- The entries of the peer map as they stood at that write (R359). -/
  peers    : List (BitVec 16)
  ranks    : Nat
  rank     : Nat
  epoch    : BitVec 16
  peerAsid : Asid
  peerBase : Nat
  deriving DecidableEq, Repr

/-- How far an SPDM exchange with a party has come (R362, R363). -/
inductive SpdmPhase where
  | none | asked | version | capabilities | negotiated | certified | challenged | measured | keyed | session | refused
  deriving DecidableEq, Repr

/-- An SPDM party: phase as responder or requester, the digest of its measurement, the epochs whose keys it has sent this
device, the functions and epochs whose keys this device, as rank 0, has sent it, and the sender number assigned to it. The
model numbers parties: below 3,584 the device of that job rank, from there to 65,535 a switch, from 65,536 the host
(assumption log 21). -/
structure SpdmPeer where
  party   : Nat
  phase   : SpdmPhase
  digest  : Option (BitVec 256)
  received : List (BitVec 16)
  released : List (FnId × BitVec 16)
  sender  : Option Nat
  deriving DecidableEq, Repr

/-- Boot and election (R402 to R407). -/
structure Boot where
  epoch    : Nat
  yielded  : Bool
  leader   : Option Nat
  leads    : Bool
  chunks   : List Byte
  nextSeq  : Nat
  /-- A verified image: load address, entry offset (R403). -/
  image    : Option (Nat × Nat)
  held     : List Byte
  status   : BitVec 8
  minVersion : Nat
  deriving DecidableEq, Repr

/-- An access outside the device that is not complete: a load or an atomic that a strand waits for, a posted write that
is not yet sys-visible, or the zero-length read that confirms writes to the host (R120, R251, R359). -/
structure Outstanding where
  id     : Nat
  /-- The strand, by record address. -/
  strand : Nat
  dest   : CIdx
  size   : Nat
  sext   : Bool
  addr   : Word
  /-- The peer's rank in the job of a function; none for the host. -/
  peer   : Option (FnId × Nat)
  atomic : Bool
  /-- A posted write or a zero-length read that a release at sys waits for (R120). -/
  posted : Bool
  deriving DecidableEq, Repr

/-- What the device sends to the outside world. -/
inductive Sent where
  | hostWrite (addr : Nat) (bytes : List Byte)
  | hostRead (id : Nat) (addr : Nat) (size : Nat)
  | hostAtomic (id : Nat) (addr : Nat) (op : AmoOp) (operand comparand : Word)
  | peerWrite (id : Nat) (f : FnId) (rank : Nat) (offset : Nat) (bytes : List Byte)
  | peerRead (id : Nat) (f : FnId) (rank : Nat) (offset : Nat) (size : Nat)
  | peerAtomic (id : Nat) (f : FnId) (rank : Nat) (offset : Nat) (op : AmoOp) (operand comparand : Word)
  | reply (data : List Byte)
  | unsupported (address : Nat)
  | msix (f : FnId) (vector : Nat)
  | claim (epoch serial : Nat)
  | load (serial epoch seq : Nat) (chunk : List Byte)
  | resend (epoch seq : Nat)
  | spdm (party : Nat) (message : String) (data : List Byte)
  | flit (core : CoreId) (slot : Nat) (head : FlitHead) (rank : Nat) (first : Nat) (data : List Word)
  | ready (core : CoreId) (slot : Nat)
  | commit (core : CoreId) (slot : Nat)
  | abort (core : CoreId) (slot : Nat) (ranks : List Nat) (mismatch : Bool)
  deriving DecidableEq, Repr

/-- The settle rounds of fence.sc (R119). -/
structure Settle where
  isOpen   : Bool
  /-- Strands in the open round, those that wait for the next one, and those whose round is complete. -/
  joined   : List Nat
  queued   : List Nat
  finished : List Nat
  /-- Markers received, as pairs of source and destination die, and dies that have reported. -/
  markers  : List (DieId × DieId)
  reports  : List DieId
  deriving DecidableEq, Repr

/-- A Touchstone pair (R400). -/
structure Pair where
  id      : Nat
  asid    : Asid
  scope   : BitVec 32
  first   : CoreId
  second  : CoreId
  /-- The strand that runs as the two copies, by record address. -/
  strand  : Nat
  /-- The hash held until the partner's arrives. -/
  held    : Option (PairCopy × Word)
  /-- Operations forwarded. -/
  forwarded : Nat
  /-- The address of an operation whose hashes are awaited, and of one whose hashes were equal and which is performed. -/
  asked     : Option Word
  matched   : Option Word
  deriving DecidableEq, Repr

/-- Strands that wait for a conversion or an ownership transfer, and strands whose ASID was dead when a core took them
(R69, R134, R390). -/
inductive ChainKey where
  | conversion (die : DieId) (lpn : Nat)
  | ownership (region : Nat)
  | stranded
  /-- No strand: who made the write that caused the page's conversion, until it is told of a loss (R70, R71). -/
  | causer (die : DieId) (lpn : Nat) (who : Agent)
  /-- No strand: the Size of the ASID's fault queue was found out of range and reported (R342). -/
  | badQueue (asid : Asid)
  deriving DecidableEq, Repr

/-- A strand chained to a conversion or a transfer: its handle, the address of its access, and whether its write
caused the conversion (R69, R70, R390). -/
structure Chained where
  handle : Handle
  va     : Word
  caused : Bool
  deriving DecidableEq, Repr

/-! ### The machine -/

/-- The state of the machine. `cur` is the resident strand that issues, `parked` are the other resident strands.
`due` holds device steps that the step before has begun, in order; `agenda` holds events offered by the outside world
or pending inside the device, in no given order; `turn` says which agent moves next and `tick` numbers the free values
drawn (these, and `stays`, are the model's own, assumption log 1). -/
structure State where
  cur      : Strand
  parked   : List Strand
  due      : List Instr
  agenda   : List Instr
  turn     : Nat
  tick     : Nat
  /-- The event that has just run waits at its home and stays pending. -/
  stays    : Bool
  mem      : Mem
  /-- Granules (address / 16) whose tag is set, strictly rising (R26). -/
  tags     : List Nat
  /-- Sectors (address / 64) that are poisoned, strictly rising (R53). -/
  poison   : List Nat
  tlb      : List TlbEntry
  walks    : List WalkPtr
  descs    : List CachedDesc
  astb     : Word
  /-- No `tlb.all` for ASID 0 has followed the write of a base to ASTB (R404). -/
  bootMap  : Bool
  time     : Word
  cores    : List (Nat × Core)
  clusters : List (Nat × Cluster)
  dies     : Vector Die 4
  policy   : Vector Policy 4
  /-- Directory entries, by line × 4 + die: the home's, and those of a die that holds a line homed elsewhere (R47). -/
  dirs     : List (Nat × DirEntry)
  copies   : List ReadCopy
  caches   : Caches
  order    : Order
  /-- Strands that have ended while they were not resident and are the last of their launch, whose completion add waits at its
  home or for writes outside the device; their deaths follow it (R86, R90, R120, R145, R398). -/
  adds     : List Strand
  settle   : Settle
  funcs    : Vector Function 64
  launches : List Launch
  teams    : List Team
  nextId   : Nat
  /-- Mailbox rings of the 64 Bench cores, by number (R385). -/
  rings    : List (Nat × List BenchEntry)
  chains   : List (ChainKey × List Chained)
  outstanding : List Outstanding
  sent     : List Sent
  ports    : Vector Port 12
  jobPtrs  : Vector Word 64
  jobs     : Vector (Option Job) 64
  /-- Collectives launched so far on a group of a function: function × 65,536 + handle (R367). -/
  cruCounts : List (Nat × Nat)
  spdm     : List SpdmPeer
  boot     : Boot
  pairs    : List Pair
  restarting : Bool
  powered  : Bool
  deriving DecidableEq, Repr

/-! ### Reset -/

/-- The root capability of R24: all eight permissions, address 0, bounds 0 to 2^48. -/
def rootCap : CapReg :=
  { tag := true
    bits := BitVec.ofNat 128 (0xFF <<< 112 ||| 35 <<< 106 ||| 0 <<< 92 ||| 0x2000 <<< 78) }

/-- The strand of die d's firmware core after reset, still in its boot ROM (R3, R24, R404). Its continuation record
stands in the last 64 bytes of its die's HBM (DESIGN CHOICE, assumption log 16). -/
def Strand.firmware (core : CoreId) : Strand :=
  { run := .bootRom
    core := core
    slot := 0
    regs := (Vector.replicate 64 CapReg.zero).set 6 rootCap
    vregs := Vector.replicate 32 0
    masks := (Vector.replicate 8 0).set 0 (BitVec.allOnes 128)
    grant := 0
    pc := 0
    status := 1
    cause := 0
    epc := 0
    tval := 0
    tvec := 0
    pstatus := 0
    idem := 0
    scope := 0
    sctb := 0
    asid := 0
    strandNo := 0xFFFF
    team := 0
    lad := Vector.replicate 9 CapReg.zero
    cru := Vector.replicate 8 CapReg.zero
    board := []
    handle := { asid := 0, addr := (core.val / 448 + 1) * 0x5000000000 - 64 }
    birth := 0
    teamFlag := false
    prio := 0
    affinity := 0
    launchId := 0
    teamId := 0
    cancelled := false
    killed := false
    stopWanted := false
    wait := none
    waitBack := none
    resuming := none
    held := [] }

/-- A core after reset (R24, R298, R315). -/
def Core.reset : Core :=
  { deques := Vector.replicate 4 []
    spills := Vector.replicate 4 []
    age := 0
    agedAt := 4
    lastSlot := 15
    cycle := 0
    invCount := 0
    stealWait := false
    visited := []
    stole := false
    pushes := []
    acc := []
    accPoison := false
    staged := { bytes := [], fmt := 0x01, scales := none, poison := false }
    bClass := 0
    queue := []
    lease := none
    asks := []
    aHist := []
    lads := []
    ladSeq := 0
    ladStats := []
    crus := []
    cruSeq := 0
    cruStats := []
    outOfService := false }

/-- A cluster after reset (R299, R401). -/
def Cluster.reset : Cluster :=
  { grant := none
    cmdsLeft := 0
    cyclesLeft := 0
    mismatch := none
    lastGrant := 3
    waiting := []
    anvilOut := false
    waiters := []
    allocs := []
    birth := 0
    now := 0
    steps := 0
    outOfService := false }

/-- A die after reset (R60, R61, R168, R394, R408). -/
def Die.reset : Die :=
  { fqctr := 0
    ceiling := 4096
    resv := Vector.replicate 64 { reservation := 0, resident := 0 }
    lpns := []
    moves := []
    leafDone := []
    fw := 0
    teamPool := { top := 0, count := 0 }
    ctxPool := { top := 0, count := 0 }
    swapPool := { top := 0, count := 0 }
    teamQ := []
    placed := Vector.replicate 64 0
    teamAge := Vector.replicate 64 0
    teamAgedAt := Vector.replicate 64 4
    hold := []
    errProduced := 0
    errConsumed := 0
    errDropped := 0
    errSlots := []
    assay := { busy := false, pass := false, kind := 0, unit := 0 }
    ints := []
    power := 0
    powerReq := 0
    scopes := []
    waiters := []
    marks := []
    openFaults := []
    benchQ := Vector.replicate 64 []
    deficits := Vector.replicate 64 0
    fenced := false
    slicesOut := []
    shrunk := []
    stacksOut := []
    benchOut := [] }

/-- A die's scheduling policy after reset (R168). -/
def Policy.reset : Policy :=
  { quantum := 200, ageing := 64, pack := false, weights := Vector.replicate 64 1, cmasks := Vector.replicate 64 0 }

/-- A launch queue after reset (R384). -/
def Queue.reset : Queue :=
  { base := 0, n := 0, cbase := 0, m := 0, asid := 0, cap := CapReg.zero
    latched := 0, consumed := 0, completed := 0, head := 0, state := 0
    produced := 0, ready := [], written := [], killing := [] }

/-- A function after reset (R384, R392). -/
def Function.reset : Function :=
  { windowAsid := 0, wb := 0, windowSize := 16, weight := 1, frames := Vector.replicate 4 []
    ring := 0, ringSize := 0, queues := Vector.replicate 4 Queue.reset
    apAsid := 0, ab := 0, apSize := 16, replyValue := 0, produced := 0, consumed := 0
    tags := [], grants := [], xferReg := 0, err0 := 0, err13 := 0 }

/-- A port after reset (R357). -/
def Port.reset : Port :=
  { up := false, keyed := false, lanes := 0, replays := 0, failed := 0, flits := 0, stopped := [], removed := false }

/-- Boot after reset: the election epoch starts at 1 (R405). -/
def Boot.reset : Boot :=
  { epoch := 1, yielded := false, leader := none, leads := false, chunks := [], nextSeq := 0
    image := none, held := [], status := 0, minVersion := 0 }

/-- The machine right after reset: the four firmware cores are in their boot ROMs (R24, R402), nothing else runs,
memory lists nothing, and every register holds the value the spec states or the assumption log names. The boot ROM's first claim, at
epoch 1, has been sent (R405; DEDUCED, assumption log 29). -/
def State.reset : State :=
  { cur := Strand.firmware 0
    parked := [Strand.firmware 448, Strand.firmware 896, Strand.firmware 1344]
    due := []
    agenda := []
    turn := 0
    tick := 0
    stays := false
    mem := []
    tags := []
    poison := []
    tlb := []
    walks := []
    descs := []
    astb := 0
    bootMap := true
    time := 0
    cores := []
    clusters := []
    dies := Vector.replicate 4 Die.reset
    policy := Vector.replicate 4 Policy.reset
    dirs := []
    copies := []
    caches := { l1 := [], llc := [], plru := [] }
    order := { early := [], syncs := [], carries := [], counts := [] }
    adds := []
    settle := { isOpen := false, joined := [], queued := [], finished := [], markers := [], reports := [] }
    funcs := Vector.replicate 64 Function.reset
    launches := []
    teams := []
    nextId := 1
    rings := []
    chains := []
    outstanding := []
    sent := [.claim 1 Config.serial]
    ports := Vector.replicate 12 Port.reset
    jobPtrs := Vector.replicate 64 0
    jobs := Vector.replicate 64 none
    cruCounts := []
    spdm := []
    boot := Boot.reset
    pairs := []
    restarting := false
    powered := true }

end Sys2Proof.Machine
end

