-- ==== Sys2Proof/Machine/Memory.lean ====
section
/-!
DEFINITION. Bytes of memory in canonical form, byte order, tags, poison marks, and the homes of addresses
(spec/00_scope.md R5, spec/01_addresses.md R14, R26, spec/02_hierarchy.md R46, R53).
-/
namespace Sys2Proof.Machine

/-! ### Bytes -/

/-- What an address that memory does not list reads as (DESIGN CHOICE, assumption log 5). -/
def unlisted : Byte := 0

/-- The byte at an address. -/
def Mem.read : Mem → Nat → Byte
  | [], _ => unlisted
  | (k, b) :: r, a => if a = k then b else if a < k then unlisted else Mem.read r a

/-- Memory with the byte at an address replaced, in canonical form. -/
def Mem.write : Mem → Nat → Byte → Mem
  | [], a, v => if v = unlisted then [] else [(a, v)]
  | (k, b) :: r, a, v =>
    if a < k then (if v = unlisted then (k, b) :: r else (a, v) :: (k, b) :: r)
    else if a = k then (if v = unlisted then r else (k, v) :: r)
    else (k, b) :: Mem.write r a v

/-- The canonical form from an address on: addresses rise strictly and no entry is what an unlisted address reads as. -/
def Mem.wfFrom : Nat → Mem → Bool
  | _, [] => true
  | lo, (k, b) :: r => decide (lo ≤ k) && (b != unlisted) && Mem.wfFrom (k + 1) r

/-- The canonical form of memory. -/
def Mem.wf (m : Mem) : Bool := Mem.wfFrom 0 m

/-- The n bytes from an address on. -/
def Mem.readBytes (m : Mem) (a : Nat) : Nat → List Byte
  | 0 => []
  | n + 1 => m.read a :: Mem.readBytes m (a + 1) n

/-- Memory with bytes written from an address on. -/
def Mem.writeBytes (m : Mem) (a : Nat) : List Byte → Mem
  | [] => m
  | b :: bs => Mem.writeBytes (m.write a b) (a + 1) bs

/-- The entries of memory in [a, a + n). -/
def Mem.slice (m : Mem) (a n : Nat) : Mem := m.filter fun c => decide (a ≤ c.1) && decide (c.1 < a + n)

/-- Memory with [a, a + n) reading as an unlisted address does. -/
def Mem.clear (m : Mem) (a n : Nat) : Mem := m.filter fun c => !(decide (a ≤ c.1) && decide (c.1 < a + n))

/-- Memory with the n bytes from `src` on copied to `dst`. -/
def Mem.copy (m : Mem) (src dst n : Nat) : Mem :=
  (m.slice src n).foldl (fun acc c => Mem.write acc (dst + (c.1 - src)) c.2) (m.clear dst n)

/-- The value of bytes, the first the least significant (R5). -/
def leNat : List Byte → Nat
  | [] => 0
  | b :: bs => b.toNat + 256 * leNat bs

/-- The n bytes of a value, the least significant first (R5). -/
def leBytes : Nat → Nat → List Byte
  | 0, _ => []
  | n + 1, v => BitVec.ofNat 8 v :: leBytes n (v / 256)

/-- Bits [lo + len - 1 : lo] of a number. -/
def bitsOf (v lo len : Nat) : Nat := (v >>> lo) % 2 ^ len

/-! ### Strictly rising lists of numbers, for tags and poison marks -/

/-- A rising list with a number added. -/
def setIns : List Nat → Nat → List Nat
  | [], a => [a]
  | k :: r, a => if a < k then a :: k :: r else if a = k then k :: r else k :: setIns r a

/-- A list without the numbers in [lo, hi). -/
def setCut (l : List Nat) (lo hi : Nat) : List Nat := l.filter fun g => !(decide (lo ≤ g) && decide (g < hi))

/-- A list's numbers in [lo, hi), moved so that lo comes to `start`. -/
def setShift (l : List Nat) (lo hi start : Nat) : List Nat :=
  (l.filter fun g => decide (lo ≤ g) && decide (g < hi)).map fun g => start + (g - lo)

/-! ### Maps keyed by number, in rising order -/

/-- The value at a key, or a default. -/
def mapGet {α : Type} : List (Nat × α) → Nat → α → α
  | [], _, d => d
  | (k, v) :: r, a, d => if a = k then v else mapGet r a d

/-- The value at a key, if there is one. -/
def mapGet? {α : Type} : List (Nat × α) → Nat → Option α
  | [], _ => none
  | (k, v) :: r, a => if a = k then some v else mapGet? r a

/-- The map with a value at a key. -/
def mapSet {α : Type} : List (Nat × α) → Nat → α → List (Nat × α)
  | [], a, v => [(a, v)]
  | (k, w) :: r, a, v =>
    if a < k then (a, v) :: (k, w) :: r
    else if a = k then (k, v) :: r
    else (k, w) :: mapSet r a v

/-- The map without a key. -/
def mapDel {α : Type} (l : List (Nat × α)) (a : Nat) : List (Nat × α) := l.filter fun e => !(e.1 == a)

/-! ### The physical map (R14, R15, R46) -/

/-- The end of HBM. -/
def hbmTop : Nat := 0x14000000000

/-- The HBM of one die (R46). -/
def hbmSpan : Nat := 0x5000000000

/-- The start of the cluster-memory range. -/
def clusterBase : Nat := 0x400000000000

/-- The start of the host window. -/
def hostBase : Nat := 0x800000000000

/-- The start of the peer windows. -/
def peerBase : Nat := 0x1000000000000

/-- The start of device MMIO. -/
def mmioBase : Nat := 0xF000000000000

/-- The end of the physical map; leaf lines are held in memory from here on, by die, LPN and offset. -/
def leafBase : Nat := 0x10000000000000

/-- Where a byte of a leaf page is held. -/
def leafLoc (die lpn off : Nat) : Nat := leafBase + die * 0x10000000 + lpn * 0x10000 + off

/-- The die, LPN and offset of a leaf byte. -/
def leafParts (loc : Nat) : Nat × Nat × Nat :=
  (bitsOf (loc - leafBase) 28 2, bitsOf (loc - leafBase) 16 12, loc % 0x10000)

/-- The physical address of a cluster's memory. -/
def clusterLoc (c : ClusterId) : Nat := clusterBase + c.val / 112 * 0x1000000000 + c.val % 112 * 0x200000

/-- The parts of the physical map, and leaf lines. -/
inductive Region where
  | hbm | cluster | host | peer | mmio | leaf | hole
  deriving DecidableEq, Repr

/-- The region of a location (R14). -/
def regionOf (loc : Nat) : Region :=
  if loc < hbmTop then .hbm
  else if loc < clusterBase then .hole
  else if loc < hostBase then
    (if bitsOf loc 36 10 ≤ 3 ∧ bitsOf loc 21 15 < 112 then .cluster else .hole)
  else if loc < peerBase then .host
  else if loc < mmioBase then .peer
  else if loc < leafBase then .mmio
  else .leaf

/-- A number as a die number. -/
def dieOfNat (n : Nat) : DieId := ⟨n % 4, Nat.mod_lt _ (by decide)⟩

/-- A number as a core number. -/
def coreOfNat (n : Nat) : CoreId := ⟨n % 1792, Nat.mod_lt _ (by decide)⟩

/-- A number as a cluster number. -/
def clusterOfNat (n : Nat) : ClusterId := ⟨n % 448, Nat.mod_lt _ (by decide)⟩

/-- A number as a function number. -/
def fnOfNat (n : Nat) : FnId := ⟨n % 64, Nat.mod_lt _ (by decide)⟩

/-- The die that homes a location (R46); for device MMIO, the die whose block it is. -/
def homeDie (loc : Nat) : DieId :=
  match regionOf loc with
  | .hbm => dieOfNat (loc / hbmSpan)
  | .cluster => dieOfNat (bitsOf loc 36 2)
  | .leaf => dieOfNat (bitsOf (loc - leafBase) 28 2)
  | .mmio => dieOfNat (bitsOf loc 32 2)
  | _ => 0

/-- The HBM stack of a physical address, die × 4 + stack (R46). -/
def stackOf (a : Nat) : Nat := a / hbmSpan * 4 + (bitsOf a 12 2 ^^^ bitsOf a 22 2)

/-- The key of a location for its home slice (R46). -/
def sliceKey (loc : Nat) : Nat :=
  match regionOf loc with
  | .leaf => (bitsOf (loc - leafBase) 16 12 <<< 9) ||| bitsOf loc 7 9
  | _ => bitsOf loc 7 36

/-- The fold of R46. -/
def foldKey (k : Nat) : Nat :=
  bitsOf k 0 6 ^^^ bitsOf k 6 6 ^^^ bitsOf k 12 6 ^^^ bitsOf k 18 6 ^^^ bitsOf k 24 6 ^^^ bitsOf k 30 6

/-- The home slice among those not listed as out of service, rehashing at most n times; 128 keys in a row fold to every
slice. With all 64 slices out of service, where the rule's search has no end, the model takes the fold of the last key
(DESIGN CHOICE, assumption log 34) (R46). -/
def sliceFrom (out : List Nat) (k : Nat) : Nat → Nat
  | 0 => foldKey k
  | n + 1 => if out.contains (foldKey k) then sliceFrom out (k + 1) n else foldKey k

/-- The die of a core (R2). -/
def coreDie (c : CoreId) : DieId := dieOfNat (c.val / 448)

/-- The cluster of a core (R2). -/
def coreCluster (c : CoreId) : ClusterId := clusterOfNat (c.val / 4)

/-- Core k of a cluster. -/
def clusterCore (c : ClusterId) (k : Nat) : CoreId := coreOfNat (c.val * 4 + k % 4)

/-- The die of a cluster. -/
def clusterDie (c : ClusterId) : DieId := dieOfNat (c.val / 112)

end Sys2Proof.Machine
end

