-- ==== Sys2Proof/Machine/Parts.lean ====
section
/-!
DEFINITION. Reading and changing one part of the state: a core, a cluster, a die, a function, a strand's registers,
memory with its tags and poison marks, and the error banks (spec/25_reliability.md R394 to R399).
-/
namespace Sys2Proof.Machine

/-! ### Units -/

/-- A core. -/
def State.core (s : State) (c : CoreId) : Core := mapGet s.cores c.val Core.reset

/-- The state with a core replaced. -/
def State.setCore (s : State) (c : CoreId) (v : Core) : State := { s with cores := mapSet s.cores c.val v }

/-- The state with a core changed. -/
def State.modCore (s : State) (c : CoreId) (f : Core → Core) : State := s.setCore c (f (s.core c))

/-- A cluster; its Patina register starts from the fuses (R401). -/
def State.cluster (s : State) (c : ClusterId) : Cluster :=
  mapGet s.clusters c.val
    { Cluster.reset with
      birth := Config.fusedBirth c, now := Config.fusedBirth c, steps := BitVec.ofNat 4 (Config.fusedSteps c) }

/-- The state with a cluster replaced. -/
def State.setCluster (s : State) (c : ClusterId) (v : Cluster) : State :=
  { s with clusters := mapSet s.clusters c.val v }

/-- The state with a cluster changed. -/
def State.modCluster (s : State) (c : ClusterId) (f : Cluster → Cluster) : State := s.setCluster c (f (s.cluster c))

/-- A die. -/
def State.die (s : State) (d : DieId) : Die := s.dies.get d

/-- The state with a die changed. -/
def State.modDie (s : State) (d : DieId) (f : Die → Die) : State := { s with dies := s.dies.set d (f (s.dies.get d)) }

/-- The scheduling policy of a die (R168). -/
def State.pol (s : State) (d : DieId) : Policy := s.policy.get d

/-- A function. -/
def State.fn (s : State) (f : FnId) : Function := s.funcs.get f

/-- The state with a function changed. -/
def State.modFn (s : State) (f : FnId) (g : Function → Function) : State :=
  { s with funcs := s.funcs.set f (g (s.funcs.get f)) }

/-- The state with a device step that follows from this one (assumption log 1). -/
def State.addDue (s : State) (i : Instr) : State := { s with due := s.due ++ [i] }

/-- The state with an event pending in no given order (assumption log 1). -/
def State.addAgenda (s : State) (i : Instr) : State := { s with agenda := s.agenda ++ [i] }

/-- The state with an event pending, once (assumption log 1). -/
def State.offer (s : State) (i : Instr) : State := if s.agenda.contains i then s else s.addAgenda i

/-- The state with a message for the outside world. -/
def State.send (s : State) (m : Sent) : State := { s with sent := s.sent ++ [m] }

/-- A value the spec does not state, and the state in which the next one differs (assumption log 8). -/
def State.free (s : State) : Word × State := (Config.freeWord s.tick, { s with tick := s.tick + 1 })

/-- The requester behind the host's port that sends a request, to whichever function (R97, R122). -/
def senderHost (by_ : Sender) : Agent := .host 0 by_.requester

/-- The causes with their subcodes that are ever reported (R71, R157, R336). -/
def reportable : List (Nat × Nat) :=
  [(1, 0), (2, 0), (2, 1), (2, 2), (2, 3)] ++ (List.range 7).map (3, ·) ++ [(4, 0), (5, 0), (6, 0)] ++
    (List.range 8).map (7, ·) ++ [(8, 0), (9, 0), (9, 1)] ++ (List.range 9).map (fun k => (0xA, k + 1)) ++
    (List.range 5).map (0xB, ·) ++ [(0xC, 0), (0xD, 0), (0xE, 0), (0xF, 0), (0x10, 0), (0x11, 0)]

/-- A cause and a subcode that the spec does not state: some pair that can be reported (R336). -/
def State.freePair (s : State) : (Nat × Nat) × State :=
  let v := s.free
  (reportable.getD (v.1.toNat % reportable.length) (1, 0), v.2)

/-- n bytes of data from outside the device, which the spec does not state. -/
def openBytes (tick : Nat) : Nat → List Byte
  | 0 => []
  | n + 1 => BitVec.ofNat 8 (Config.freeWord (tick + n)).toNat :: openBytes tick n

/-- n bytes of data from outside the device, and the state in which the next ones differ (assumption log 8). -/
def State.openData (s : State) (n : Nat) : List Byte × State := (openBytes s.tick n, { s with tick := s.tick + n })

/-! ### The registers of the strand that issues -/

/-- A scalar register; c0 reads untagged zero (R213). -/
def Strand.creg (t : Strand) (i : CIdx) : CapReg := if i = 0 then CapReg.zero else t.regs.get i.toFin

/-- A strand with a scalar register written; a write to c0 is discarded (R213). -/
def Strand.setCreg (t : Strand) (i : CIdx) (v : CapReg) : Strand :=
  if i = 0 then t else { t with regs := t.regs.set i.toFin v }

/-- A vector register (R213). -/
def Strand.vreg (t : Strand) (i : VIdx) : VReg := t.vregs.get i.toFin

/-- A strand with a vector register written. -/
def Strand.setVreg (t : Strand) (i : VIdx) (v : VReg) : Strand := { t with vregs := t.vregs.set i.toFin v }

/-- A mask register; m0 reads all ones (R213). -/
def Strand.mreg (t : Strand) (i : MIdx) : MReg := if i = 0 then BitVec.allOnes 128 else t.masks.get i.toFin

/-- A strand with a mask register written; a write to m0 is discarded (R213). -/
def Strand.setMreg (t : Strand) (i : MIdx) (v : MReg) : Strand :=
  if i = 0 then t else { t with masks := t.masks.set i.toFin v }

/-- The state with the issuing strand changed. -/
def State.modCur (s : State) (f : Strand → Strand) : State := { s with cur := f s.cur }

/-- The low 64 bits of a scalar register of the issuing strand. -/
def State.x (s : State) (i : CIdx) : Word := (s.cur.creg i).lo

/-- The state with an integer written to a scalar register (R223). -/
def State.setX (s : State) (i : CIdx) (v : Word) : State := s.modCur fun t => t.setCreg i (CapReg.untagged v)

/-- The state with a scalar register written. -/
def State.setC (s : State) (i : CIdx) (v : CapReg) : State := s.modCur fun t => t.setCreg i v

/-- The state with a vector register written. -/
def State.setV (s : State) (i : VIdx) (v : VReg) : State := s.modCur fun t => t.setVreg i v

/-- The state with a mask register written. -/
def State.setM (s : State) (i : MIdx) (v : MReg) : State := s.modCur fun t => t.setMreg i v

/-- The issuing strand is privileged: STATUS.PRV (R333). -/
def State.priv (s : State) : Bool := s.cur.status.getLsbD 0

/-- The die of the issuing strand's core. -/
def State.myDie (s : State) : DieId := coreDie s.cur.core

/-! ### Memory with tags and poison marks -/

/-- The release stands on one of n bytes at a location. -/
def Sync.meets (y : Sync) (loc n : Nat) : Bool := decide (y.loc < loc + n) && decide (loc < y.loc + y.size)

/-- The release on the bytes it has outside n bytes at a location. -/
def Sync.without (y : Sync) (loc n : Nat) : List Sync :=
  if !y.meets loc n then [y]
  else
    (if y.loc < loc then [{ y with size := loc - y.loc }] else []) ++
      (if loc + n < y.loc + y.size then [{ y with loc := loc + n, size := y.loc + y.size - (loc + n) }] else [])

/-- The release on the bytes it has among n bytes at a location. -/
def Sync.clip (y : Sync) (loc n : Nat) : List Sync :=
  if y.meets loc n then
    [{ y with loc := max y.loc loc, size := min (y.loc + y.size) (loc + n) - max y.loc loc }]
  else []

/-- The n bytes at a location. -/
def State.bytes (s : State) (a n : Nat) : List Byte := s.mem.readBytes a n

/-- The n-byte value at a location (R5, R7). -/
def State.memN (s : State) (a n : Nat) : Nat := leNat (s.bytes a n)

/-- The 64-bit value at a location. -/
def State.mem64 (s : State) (a : Nat) : Nat := s.memN a 8

/-- The ordering in which no earlier store to a granule of n bytes at a location is hidden any longer: what follows it in
the granules' coherence order is performed (R98, R106). -/
def Order.expose (o : Order) (a n : Nat) : Order :=
  { o with early := o.early.filter fun e => !(decide (a / 16 ≤ e.loc / 16) && decide (e.loc / 16 ≤ (a + n - 1) / 16)) }

/-- The ordering in which what n bytes at a location carry has moved to another with their values (R110). -/
def Order.carryOver (o : Order) (src dst n : Nat) : Order :=
  let moved := (o.syncs.flatMap fun y => y.clip src n).map fun y => { y with loc := y.loc - src + dst }
  { o with syncs := (o.syncs.flatMap fun y => (y.without src n).flatMap fun z => z.without dst n) ++ moved }

/-- The state with bytes written, their granules' tags cleared (R27), and the marks of sectors written whole
cleared (R55). -/
def State.putBytes (s : State) (a : Nat) (bs : List Byte) : State :=
  if bs.isEmpty then s
  else
    { s with
      mem := s.mem.writeBytes a bs
      tags := setCut s.tags (a / 16) ((a + bs.length - 1) / 16 + 1)
      poison := setCut s.poison ((a + 63) / 64) ((a + bs.length) / 64)
      order := s.order.expose a bs.length }

/-- The state with the read copies of the lines of n bytes dropped: the device's own writes leave none behind (R49). -/
def State.dropCopies (s : State) (a n : Nat) : State :=
  { s with copies := s.copies.filter fun c => !(decide (a / 128 ≤ c.line) && decide (c.line ≤ (a + n - 1) / 128)) }

/-- The home die of a location is fenced (R56). Cluster memory and device MMIO of a fenced die, for which the rule
speaks of "every access to an address homed on a fenced die" without naming them, count as homed on their die
(DEDUCED, assumption log 35). -/
def State.fencedAt (s : State) (loc : Nat) : Bool := (s.die (homeDie loc)).fenced

/-- A sector that a write covers only in part is poisoned (R55). -/
def State.partlyPoisoned (s : State) (loc n : Nat) : Bool :=
  s.poison.any fun q =>
    decide (loc / 64 ≤ q) && decide (q ≤ (loc + n - 1) / 64) &&
      !(decide ((loc + 63) / 64 ≤ q) && decide (q < (loc + n) / 64))

/-- The bytes of a write, sector by sector, with their locations. -/
def sectorRuns (a : Nat) (bs : List Byte) : List (Nat × List Byte) :=
  (List.range ((a + bs.length - 1) / 64 - a / 64 + 1)).map fun i =>
    let lo := max a ((a / 64 + i) * 64)
    (lo, (bs.drop (lo - a)).take ((a / 64 + i + 1) * 64 - lo))

/-- The state with bytes that the device itself writes: none on a fenced die, and none in a poisoned sector that the write
covers only in part (R55, R56; assumption log 35). -/
def State.putBlock (s : State) (a : Nat) (bs : List Byte) : State :=
  if s.fencedAt a then s
  else if s.partlyPoisoned a bs.length then
    ((sectorRuns a bs).filter fun x => !s.partlyPoisoned x.1 x.2.length).foldl
      (fun s x => (s.putBytes x.1 x.2).dropCopies x.1 x.2.length) s
  else (s.putBytes a bs).dropCopies a bs.length

/-- The state with an n-byte value that the device itself writes. -/
def State.putN (s : State) (a n v : Nat) : State := s.putBlock a (leBytes n v)

/-- The state with a 64-bit value written. -/
def State.put64 (s : State) (a : Nat) (v : Nat) : State := s.putN a 8 v

/-- The tag of the granule at a location (R26). -/
def State.tagAt (s : State) (a : Nat) : Bool := s.tags.contains (a / 16)

/-- A granule with its tag. -/
def State.memC (s : State) (a : Nat) : CapReg := { tag := s.tagAt a, bits := BitVec.ofNat 128 (s.memN a 16) }

/-- The state with a granule and its tag written (R28). -/
def State.putGranule (s : State) (a : Nat) (c : CapReg) : State :=
  let s' := s.putBytes a (leBytes 16 c.bits.toNat)
  if c.tag then { s' with tags := setIns s'.tags (a / 16) } else s'

/-- The state with a granule and its tag that the device itself writes (R55, R56). -/
def State.putC (s : State) (a : Nat) (c : CapReg) : State :=
  if s.fencedAt a ∨ s.partlyPoisoned a 16 then s else (s.putGranule a c).dropCopies a 16

/-- Some sector of the n bytes at a location is poisoned (R53). -/
def State.poisoned (s : State) (a n : Nat) : Bool :=
  s.poison.any fun p => decide (a / 64 ≤ p) && decide (p ≤ (a + n - 1) / 64)

/-- The first poisoned sector of the n bytes at a location. -/
def State.poisonSector (s : State) (a n : Nat) : Nat :=
  (s.poison.find? fun p => decide (a / 64 ≤ p) && decide (p ≤ (a + n - 1) / 64)).getD (a / 64)

/-- The state with n bytes copied, with tags and poison marks, from `src` to `dst`; all three are aligned to 64. -/
def State.copyRange (s : State) (src dst n : Nat) : State :=
  { s with
    mem := s.mem.copy src dst n
    tags := (setShift s.tags (src / 16) ((src + n) / 16) (dst / 16)).foldl setIns
      (setCut s.tags (dst / 16) ((dst + n) / 16))
    poison := (setShift s.poison (src / 64) ((src + n) / 64) (dst / 64)).foldl setIns
      (setCut s.poison (dst / 64) ((dst + n) / 64))
    order := ((s.order.expose src n).expose dst n).carryOver src dst n }

/-- The state with n bytes reading as zero with tags and poison marks clear; location and n are aligned to 64. -/
def State.zeroRange (s : State) (a n : Nat) : State :=
  { s with
    mem := s.mem.clear a n
    tags := setCut s.tags (a / 16) ((a + n) / 16)
    poison := setCut s.poison (a / 64) ((a + n) / 64)
    order := s.order.expose a n }

/-- The home slice of a location on its die (R46). -/
def State.homeSlice (s : State) (loc : Nat) : Nat := sliceFrom (s.die (homeDie loc)).slicesOut (sliceKey loc) 128

/-- A unit of a kind is under test by the Assay of some die (R398). -/
def State.testing (s : State) (kind unit : Nat) : Bool :=
  s.dies.toList.any fun d => d.assay.busy && decide (d.assay.kind.toNat = kind) && decide (d.assay.unit.toNat = unit)

/-- An Assay runs. -/
def State.assaying (s : State) : Bool := s.dies.toList.any fun d => d.assay.busy

/-- The home slice of some line of n bytes at a location is under test: accesses to it stall (R398). -/
def State.sliceHeld (s : State) (loc n : Nat) : Bool :=
  s.assaying && (decide (regionOf loc = .hbm) || decide (regionOf loc = .leaf) || decide (regionOf loc = .host)) &&
    (List.range ((loc + n - 1) / 128 - loc / 128 + 1)).any fun i =>
      let l := (loc / 128 + i) * 128
      s.testing 2 ((homeDie l).val * 64 + s.homeSlice l)

/-- The stack of a burst is under test: accesses to the failing burst stall (R398). -/
def State.burstHeld (s : State) (loc : Nat) : Bool := decide (regionOf loc = .hbm) && s.testing 3 (stackOf loc)

/-! ### ASID descriptors (R11, R12) -/

/-- The physical address of an ASID's descriptor (R12). -/
def State.descAddr (s : State) (a : Asid) : Nat := s.astb.toNat + a.toNat * 64

/-- The descriptor of an ASID as memory holds it; on a fenced die it is not reached, and no walk under it is made
(R12, R56). -/
def State.descMem (s : State) (a : Asid) : Descriptor :=
  let p := s.descAddr a
  let q0 := s.mem64 p
  let q1 := s.mem64 (p + 8)
  let fq := s.mem64 (p + 24)
  let ov := s.mem64 (p + 32)
  let ok := bitsOf q0 52 11 = 0 ∧ bitsOf q0 0 12 = 0 ∧ q1 / 64 = 0 ∧
    s.memN (p + 40) 24 = 0 ∧ ov % 8 = 0 ∧ ov < hbmTop ∧ fq % 4096 = 0 ∧ fq < hbmTop
  let v := bitsOf q0 63 1 = 1 ∧ !s.fencedAt p
  { live := decide v && decide ok
    refused := decide v && !decide ok
    root := bitsOf q0 12 40 * 4096
    fn := fnOfNat q1
    scopeTable := BitVec.ofNat 64 (s.mem64 (p + 16))
    faultQueue := fq
    overflow := ov }

/-- The descriptor of an ASID as a die uses it: where the die has cached one, that one or the one in memory, chosen for
each access by a free value, until a `tlb.all` of the ASID (R13; assumption log 35). -/
def State.desc (s : State) (d : DieId) (a : Asid) : Descriptor :=
  match s.descs.find? fun c => decide (c.die = d) && decide (c.asid = a) with
  | none => s.descMem a
  | some c => if s.fencedAt (s.descAddr a) ∨ (Config.freeWord s.tick).getLsbD 63 then c.desc else s.descMem a

/-- The state in which a die has cached the descriptor of an ASID (R13). -/
def State.cacheDesc (s : State) (d : DieId) (a : Asid) : State :=
  { s with
    descs := if (s.descs.any fun c => decide (c.die = d) && decide (c.asid = a)) then s.descs
      else { die := d, asid := a, desc := s.descMem a } :: s.descs }

/-- The function of an ASID as a die sees it; ASID 0 belongs to the physical function (R10). -/
def State.fnOf (s : State) (d : DieId) (a : Asid) : FnId := if a = 0 then 0 else (s.desc d a).fn

/-! ### Ports (R356, R361, R398) -/

/-- A port is in service. -/
def State.portUp (s : State) (p : Nat) : Bool := (s.ports.get ⟨p % 12, Nat.mod_lt _ (by decide)⟩).up

/-- A port sends nothing for a function's job: its sender has reached its flit limit under the job's epoch, or it is under test
(R356, R398). -/
def State.portHeld (s : State) (f : FnId) (p : Nat) : Bool :=
  s.testing 5 p ||
    match s.jobs.get f with
    | none => false
    | some j => (s.ports.get ⟨p % 12, Nat.mod_lt _ (by decide)⟩).stopped.contains (f, j.epoch)

/-- Some port of a mask is in service (R361). -/
def State.anyUp (s : State) (ports : BitVec 12) : Bool := (List.range 12).any fun p => ports.getLsbD p && s.portUp p

/-- A mask has ports in service, and every one of them sends nothing for a function's job (R356, R398). -/
def State.allHeld (s : State) (f : FnId) (ports : BitVec 12) : Bool :=
  s.anyUp ports && (List.range 12).all fun p => !ports.getLsbD p || !s.portUp p || s.portHeld f p

/-! ### Error banks (R394 to R399) -/

/-- A counter of BAR0 raised by one, saturating (R397). -/
def satInc (w : Word) : Word := if w = BitVec.allOnes 64 then w else w + 1

/-- The state with the error counted by the functions of R397. -/
def State.countError (s : State) (d : DieId) (r : ErrorReport) : State :=
  let f : FnId := match r.asid with
    | some a => s.fnOf d a
    | none => 0
  if r.severity = 0 then s.modFn f fun x => { x with err0 := satInc x.err0 }
  else if r.severity ≤ 3 then s.modFn f fun x => { x with err13 := satInc x.err13 }
  else s

/-- The state with an interrupt source pending at a die's firmware core (R338, R389). -/
def State.raiseInt (s : State) (d : DieId) (source : Nat) : State :=
  s.modDie d fun x => { x with ints := setIns x.ints source }

/-- The unit of a record is the reported one (R399). -/
def ErrSlot.ofUnit (e : ErrSlot) (r : ErrorReport) : Bool :=
  decide (r.kind ≠ 8) && decide (e.report.kind = r.kind) && decide (e.report.unit = r.unit)

/-- The newest of error records. -/
def newestSlot : List (Nat × ErrSlot) → Option (Nat × ErrSlot)
  | [] => none
  | e :: l =>
    match newestSlot l with
    | none => some e
    | some x => if e.2.seq ≥ x.2.seq then some e else some x

/-- The record that an error is merged into: an unclassed one of its unit, or, while an Assay of the unit runs, its newest (R399). -/
def State.mergeSlot (s : State) (d : DieId) (r : ErrorReport) : Option (Nat × ErrSlot) :=
  let mine := (s.die d).errSlots.filter fun e => e.2.ofUnit r
  newestSlot (if s.testing r.kind.toNat r.unit.toNat then mine
    else mine.filter fun e => decide (e.2.cls = 0) || decide (e.2.assay = 1))

/-- The state with an error reported to a die's bank: merged into a record of its unit, posted, or dropped
(R395, R397, R399). -/
def State.report (s : State) (d : DieId) (r : ErrorReport) (assay : BitVec 4) : State :=
  let s := s.countError d r
  let x := s.die d
  match s.mergeSlot d r with
  | some (k, e) =>
    s.modDie d fun x =>
      { x with
        errSlots := mapSet x.errSlots k
          { e with merged := if e.merged = 255 then 255 else e.merged + 1, ovf := true } }
  | none =>
    if x.errProduced - x.errConsumed ≥ 256 then s.modDie d fun x => { x with errDropped := min (x.errDropped + 1) (2 ^ 64 - 1) }
    else
      (s.modDie d fun x =>
        { x with
          errSlots := mapSet x.errSlots (x.errProduced % 256)
            { seq := x.errProduced, report := r, time := s.time, merged := 0, ovf := false,
              assay := assay, removed := false, cls := 0 }
          errProduced := x.errProduced + 1 }).raiseInt d 2

/-- The state with a refusal in a die's bank: severity 5, kind 8, unit 0, code 8 (R395). -/
def State.refuse (s : State) (d : DieId) (asid : Option Asid) : State :=
  s.report d { severity := 5, kind := 8, unit := 0, code := 8, address := 0, asid := asid, info := 0 } 4

/-- The state with a resource event in a die's bank: severity 5, kind 8, unit 0, code 9 (R395). -/
def State.resourceEvent (s : State) (d : DieId) (asid : Option Asid) (info : Nat) : State :=
  s.report d
    { severity := 5, kind := 8, unit := 0, code := 9, address := 0, asid := asid, info := BitVec.ofNat 64 info } 4

end Sys2Proof.Machine
end

