-- ==== Sys2Proof/Machine/Carries.lean ====
section
/-!
DEFINITION. What synchronisation carries: the invalidations counted for writers, the releases that bytes carry, and what a
strand has acquired, read and fenced (spec/02_hierarchy.md R50, spec/05_ordering_near.md R105, R110, R112,
spec/06_ordering_far.md R118).
-/
namespace Sys2Proof.Machine

/-! ### Counts of cross-die invalidations (R50, R116) -/

/-- The invalidations counted for a writer that are not acknowledged (R50). -/
def State.pendingOn (s : State) (a : Agent) : Nat :=
  match a with
  | .core c => (s.core c).invCount
  | _ => ((s.order.counts.find? fun e => decide (e.1 = a)).map (·.2)).getD 0

/-- The state with a writer's count of invalidations changed. -/
def State.modPending (s : State) (a : Agent) (f : Nat → Nat) : State :=
  match a with
  | .core c => s.modCore c fun x => { x with invCount := f x.invCount }
  | _ =>
    let n := f (s.pendingOn a)
    let rest := s.order.counts.filter fun e => !decide (e.1 = a)
    { s with order := { s.order with counts := if n = 0 then rest else rest ++ [(a, n)] } }

/-- The writers of a list with invalidations that are not acknowledged. -/
def State.unsettled (s : State) (l : List Agent) : List Agent := l.filter fun a => decide (s.pendingOn a ≠ 0)

/-- A list with the elements of another that it lacks. -/
def joinNew {α : Type} [DecidableEq α] (l m : List α) : List α := l ++ m.filter fun a => !l.contains a

/-! ### Releases that bytes carry (R105, R110) -/

/-- Two cores are within a scope of each other (R105). -/
def within (scope : Nat) (a b : CoreId) : Bool :=
  match scope with
  | 0 => decide (a = b)
  | 1 => decide (coreCluster a = coreCluster b)
  | 2 => decide (coreDie a = coreDie b)
  | _ => true

/-- A release synchronises with an acquire at a scope by a strand of a core (R110). -/
def Sync.reaches (y : Sync) (scope : Nat) (c : CoreId) : Bool := within scope y.core c && within y.scope y.core c

/-- The writers of releases that a core acquires at a scope (R110). -/
def writersOf (scope : Nat) (c : CoreId) (l : List Sync) : List Agent :=
  (l.filter fun y => y.reaches scope c).foldl (fun a y => joinNew a y.writers) []

/-- The releases of a list that still carry something. -/
def State.unsettledSyncs (s : State) (l : List Sync) : List Sync := l.filter fun y => !(s.unsettled y.writers).isEmpty

/-- The state in which n bytes at a location carry a release; an atomic or counter operation keeps what they carried before
(R110). -/
def State.putSync (s : State) (c : CoreId) (scope loc n : Nat) (writers : List Agent) : State :=
  let y : Sync := { loc := loc, size := n, core := c, scope := scope, writers := writers }
  if writers.isEmpty ∨ s.order.syncs.contains y then s
  else { s with order := { s.order with syncs := s.order.syncs ++ [y] } }

/-! ### What a strand carries (R110, R112) -/

/-- A strand that carries nothing. -/
def Carry.empty (r : Nat) : Carry := { strand := r, carried := [], loaded := [], fenced := [] }

/-- What a strand has acquired, read and fenced. -/
def State.carry (s : State) (r : Nat) : Carry := (s.order.carries.find? fun c => decide (c.strand = r)).getD (Carry.empty r)

/-- The state with what a strand carries replaced; a strand that carries nothing is not listed. -/
def State.setCarry (s : State) (c : Carry) : State :=
  let rest := s.order.carries.filter fun x => !decide (x.strand = c.strand)
  { s with
    order := { s.order with
      carries := if c.carried = [] ∧ c.loaded = [] ∧ c.fenced = [] then rest else c :: rest } }

/-- The state in which a strand of a core that carries something takes releases at a scope: what it acquires is carried, and
the others wait for a fence of their scope (R110, R112). -/
def State.takeSyncs (s : State) (c : Carry) (core : CoreId) (scope : Nat) (l : List Sync) : State :=
  s.setCarry { c with
    carried := s.unsettled (joinNew c.carried (writersOf scope core l))
    loaded := s.unsettledSyncs (joinNew c.loaded (l.filter fun y => !y.reaches scope core)) }

/-- The state in which a strand on a core whose wait a counter's new value meets has acquired what the counter carries, at the
widest scope since the record names none (R90, R110; assumption log 36). -/
def State.joinWoken (s : State) (pa : Nat) (r : Nat) (c : CoreId) : State :=
  match s.order.syncs.filter fun y => y.meets pa 8 with
  | [] => s
  | l => s.takeSyncs (s.carry r) c 4 l

/-- The state after a strand has left its core, its accesses performed at `dev`: only what it has read stays to be acquired
(R104, R112). -/
def State.leaveCarry (s : State) (r : Nat) : State :=
  s.setCarry { Carry.empty r with loaded := s.unsettledSyncs (s.carry r).loaded }

end Sys2Proof.Machine
end

