-- ==== Sys2Proof/Machine/Caps.lean ====
section
/-!
DEFINITION. Capabilities: fields, bounds, malformed values, encoding of bounds, and the checks of an access
(spec/01_addresses.md R17 to R25, R28).
-/
namespace Sys2Proof.Machine

/-- The permissions of R18, by bit number of the permission byte. -/
inductive Perm where
  | load | store | execute | loadCap | storeCap | counter | engine | global
  deriving DecidableEq, Repr

/-- The bit of a permission in the permission byte (R18). -/
def Perm.bit : Perm → Nat
  | .load => 0
  | .store => 1
  | .execute => 2
  | .loadCap => 3
  | .storeCap => 4
  | .counter => 5
  | .engine => 6
  | .global => 7

/-- The exponent s of R17. -/
def capE (v : BitVec 128) : Nat := (v.extractLsb' 106 6).toNat

/-- The base field of R17. -/
def capB (v : BitVec 128) : Nat := (v.extractLsb' 92 14).toNat

/-- The top field of R17. -/
def capT (v : BitVec 128) : Nat := (v.extractLsb' 78 14).toNat

/-- The address field of R17. -/
def capAddrOf (v : BitVec 128) : Nat := (v.extractLsb' 0 64).toNat

/-- The permission byte of R17. -/
def capPerms (v : BitVec 128) : BitVec 8 := v.extractLsb' 112 8

/-- A permission is set. -/
def hasPerm (v : BitVec 128) (p : Perm) : Bool := (capPerms v).getLsbD p.bit

/-- The length of the bounds, in units of 2^s (R19). -/
def capSpan (v : BitVec 128) : Nat := (capT v + 0x4000 - capB v) % 0x4000

/-- The decoded base, on unbounded integers (R19). -/
def capBaseOf (v : BitVec 128) : Int :=
  let s := capE v
  let am := capAddrOf v / 2 ^ s % 0x4000
  let hi := capAddrOf v / 2 ^ (s + 14)
  if am ≥ capB v then (hi : Int) * 2 ^ (s + 14) + capB v * 2 ^ s
  else ((hi : Int) - 1) * 2 ^ (s + 14) + capB v * 2 ^ s

/-- The decoded length (R19). -/
def capLenOf (v : BitVec 128) : Nat := capSpan v * 2 ^ capE v

/-- The decoded top (R19). -/
def capTopOf (v : BitVec 128) : Int := capBaseOf v + capLenOf v

/-- The value is malformed as a capability (R20). -/
def capMalformed (v : BitVec 128) : Bool :=
  (v.extractLsb' 120 8 != 0) || (v.extractLsb' 64 14 != 0) || decide (capE v > 50) || decide (capSpan v > 0x3000)

/-- A capability as an instruction may write it to a register: a tagged malformed one loses its tag (R20). -/
def CapReg.settle (c : CapReg) : CapReg := { c with tag := c.tag && !capMalformed c.bits }

/-- A value with the address field replaced. -/
def withAddr (v : BitVec 128) (a : Word) : BitVec 128 := v.extractLsb' 64 64 ++ a

/-- The capability with another address: the tag stays only inside the representable region (R21). -/
def CapReg.moveTo (c : CapReg) (n : Word) : CapReg :=
  let base := capBaseOf c.bits
  let inside := decide (base ≤ (n.toNat : Int)) && decide ((n.toNat : Int) < base + 2 ^ (capE c.bits + 14))
  CapReg.settle { tag := c.tag && inside, bits := withAddr c.bits n }

/-- n / 2^s rounded up. -/
def ceilShift (n s : Nat) : Nat := (n + (2 ^ s - 1)) / 2 ^ s

/-- The smallest s from a start on, among k candidates, that encodes [b, t) (R22). -/
def findExp (b t : Nat) : Nat → Nat → Option Nat
  | _, 0 => none
  | s, k + 1 => if ceilShift t s - b / 2 ^ s ≤ 0x3000 then some s else findExp b t (s + 1) k

/-- The exponent, base and top of the encoding of [b, t) (R22). -/
def encodeBounds (b t : Nat) : Option (Nat × Nat × Nat) :=
  (findExp b t 0 51).map fun s => (s, b / 2 ^ s * 2 ^ s, ceilShift t s * 2 ^ s)

/-- A value with the fields E, B and T replaced by those of an encoding (R22). -/
def withBounds (v : BitVec 128) (s nb nt : Nat) : BitVec 128 :=
  v.extractLsb' 112 16 ++ BitVec.ofNat 6 s ++ BitVec.ofNat 14 (nb / 2 ^ s) ++ BitVec.ofNat 14 (nt / 2 ^ s) ++
    v.extractLsb' 0 78

/-- A value with the permission byte replaced. -/
def withPerms (v : BitVec 128) (p : BitVec 8) : BitVec 128 :=
  v.extractLsb' 120 8 ++ p ++ v.extractLsb' 0 112

/-- The capability with bounds [address, address + len) under R22: the tag stays only when the encoded bounds lie
inside its own (R233). -/
def CapReg.narrow (c : CapReg) (len : Nat) : CapReg :=
  let lo := capAddrOf c.bits
  let hi := lo + len
  match (if hi > 2 ^ 64 then none else encodeBounds lo hi) with
  | none => { c with tag := false }
  | some (s, nb, nt) =>
    let inside := decide (capBaseOf c.bits ≤ (nb : Int)) && decide ((nt : Int) ≤ capTopOf c.bits)
    CapReg.settle { tag := c.tag && inside, bits := withBounds c.bits s nb nt }

/-- A capability that covers [base, base + len) exactly at an address, with a permission byte; the bounds are
encoded under R22. -/
def makeCap (perms : BitVec 8) (base len addr : Nat) : CapReg :=
  match encodeBounds base (base + len) with
  | none => CapReg.zero
  | some (s, nb, nt) =>
    { tag := true, bits := withBounds (withPerms (BitVec.ofNat 128 (addr % 2 ^ 64)) perms) s nb nt }

/-- The subcode of cause 0x02 that the tag, the reserved fields and the permissions give (R23, steps 1 to 3). -/
def capRights (c : CapReg) (perms : List Perm) : Option Nat :=
  if !c.tag then some 0
  else if capMalformed c.bits then some 3
  else if !(perms.all (hasPerm c.bits ·)) then some 2
  else none

/-- The bytes [a, a + len) lie inside the capability's bounds (R23, step 4). -/
def inBounds (c : CapReg) (a len : Nat) : Bool :=
  decide (capBaseOf c.bits ≤ (a : Int)) && decide (((a + len : Nat) : Int) ≤ capTopOf c.bits)

/-- The subcode of cause 0x02 that an access of `len` bytes at `a` takes, in the order of R23 steps 1 to 4. -/
def capFault (c : CapReg) (a len : Nat) (perms : List Perm) : Option Nat :=
  match capRights c perms with
  | some sub => some sub
  | none => if inBounds c a len then none else some 1

end Sys2Proof.Machine
end

