-- ==== Sys2Proof/Machine/Flags.lean ====
section
/-!
DEFINITION. The fields of STATUS, the pending format code word, the scoreboard distances and the legality of format
codes (spec/11_encoding.md R200 to R209, spec/10_formats.md R185, spec/16_system_isa.md R333).
-/
namespace Sys2Proof.Machine

/-- Bits of a 64-bit register replaced by the low bits of a value. -/
def putField (w : Word) (lo len : Nat) (v : Nat) : Word :=
  BitVec.ofNat 64 (w.toNat - bitsOf w.toNat lo len * 2 ^ lo + v % 2 ^ len * 2 ^ lo)

/-- STATUS.PFX (R333). -/
def Strand.pfx (t : Strand) : Bool := t.status.getLsbD 7

/-- STATUS.PFXV (R333). -/
def Strand.pfxv (t : Strand) : BitVec 24 := t.status.extractLsb' 24 24

/-- STATUS.CHK (R333). -/
def Strand.chk (t : Strand) : Bool := t.status.getLsbD 5

/-- STATUS.IE (R333). -/
def Strand.ie (t : Strand) : Bool := t.status.getLsbD 3

/-- STATUS.Shield, the shield depth (R161). -/
def Strand.shield (t : Strand) : Nat := (t.status.extractLsb' 16 4).toNat

/-- A strand with STATUS.PFX cleared; PFXV keeps the payload (R209). -/
def Strand.clearPfx (t : Strand) : Strand := { t with status := putField t.status 7 1 0 }

/-- A strand with a format code word pending (R207). -/
def Strand.setPfx (t : Strand) (v : BitVec 24) : Strand :=
  { t with status := putField (putField t.status 7 1 1) 24 24 v.toNat }

/-- A strand with the shield depth written (R161). -/
def Strand.setShield (t : Strand) (n : Nat) : Strand := { t with status := putField t.status 16 4 n }

/-- A strand with STATUS.QLOW set (R198). -/
def Strand.setQlow (t : Strand) : Strand := { t with status := putField t.status 6 1 1 }

/-! ### Format codes (R185) -/

/-- The integer codes of R179. -/
def intCode (c : BitVec 8) : Bool := decide (1 ≤ c.toNat ∧ c.toNat ≤ 9)

/-- The binary floating codes of R180. -/
def binaryCode (c : BitVec 8) : Bool := decide (c = 0x10 ∨ c = 0x11 ∨ c = 0x12)

/-- The codes of the eight-bit family (R182). -/
def byteCode (c : BitVec 8) : Bool := decide ((c.toNat / 32 = 2) ∧ c.toNat % 8 ≠ 0)

/-- A legal format code (R185). -/
def legalCode (c : BitVec 8) : Bool := decide (c = 0) || intCode c || binaryCode c || byteCode c || decide (c = 0x80)

/-- fmtA of a payload. -/
def payA (v : BitVec 24) : BitVec 8 := v.extractLsb' 16 8

/-- fmtB of a payload. -/
def payB (v : BitVec 24) : BitVec 8 := v.extractLsb' 8 8

/-- The rounding code of a payload. -/
def payRnd (v : BitVec 24) : BitVec 3 := v.extractLsb' 5 3

/-- The saturation code of a payload. -/
def paySat (v : BitVec 24) : BitVec 2 := v.extractLsb' 3 2

/-- The payload has no bit set in [2:0], legal rounding and saturation and legal format codes (R209). -/
def payloadOk (v : BitVec 24) : Bool :=
  decide (v.extractLsb' 0 3 = 0) && decide ((payRnd v).toNat ≤ 4) && decide ((paySat v).toNat ≤ 2) &&
    legalCode (payA v) && legalCode (payB v)

/-! ### The scoreboard (R200 to R202) -/

/-- The register is one that a write changes: not c0 and not m0 (R202). -/
def RegName.real : RegName → Bool
  | .c i => i != 0
  | .v _ => true
  | .m i => i != 0

/-- The scoreboard entry that a register's use falls short of, if any (R202). -/
def shortOf (board : List BoardEntry) (uses : List RegName) : Option BoardEntry :=
  board.find? fun e => uses.contains e.reg && decide (e.dist < e.lat)

/-- The scoreboard after an instruction with a gap that writes registers: distances grow by 1 + g, and the written
registers have this latest writer, with its fixed latency or interlocked (R202). -/
def boardAfter (board : List BoardEntry) (g : Gap) (writes : List RegName) (lat : Option Nat) : List BoardEntry :=
  let ws := writes.filter RegName.real
  let fresh := match lat with
    | some l => ws.map fun r => { reg := r, dist := 0, lat := l : BoardEntry }
    | none => []
  ((fresh ++ board.filter fun e => !(ws.contains e.reg)).map fun e => { e with dist := e.dist + (1 + g.toNat) }).filter
    fun e => decide (e.dist < e.lat)

end Sys2Proof.Machine
end

