-- ==== Sys2Proof/Machine/Translate.lean ====
section
/-!
DEFINITION. Translation of virtual addresses: the cluster-memory window, the boot map, page tables, cached
translations, and the checks after a walk (spec/01_addresses.md R9, R16, R29 to R37, spec/03_leaf_pages.md R58,
spec/26_bringup_power.md R404).
-/
namespace Sys2Proof.Machine

/-- The kinds of access that the checks of R31 tell apart. -/
inductive Kind where
  | load | store | atomic | tagStore | ctrRead | ctrWrite | fetch
  /-- Vector loads and stores, which take no IO page (R269). -/
  | vecLoad | vecStore
  /-- A leaf-page operation that needs W (R75, R77). -/
  | leafOp
  /-- lf.stat, which takes no page fault for a page of another type (R79). -/
  | stat
  deriving DecidableEq, Repr

/-- The types of page (R31). -/
inductive PageType where
  | normal | counter | leaf | io
  deriving DecidableEq, Repr

/-- Who makes an access: its die, its core if it is a strand or an engine, its ASID, its team (0: none), and itself. -/
structure Party where
  die  : DieId
  core : Option CoreId
  asid : Asid
  team : Nat
  who  : Agent
  deriving DecidableEq, Repr

/-- Where an access goes. -/
structure Place where
  loc    : Nat
  ptype  : PageType
  /-- The place holds tags: the page has C = 1, and it is neither a counter page nor outside HBM, cluster memory and leaf
  lines (R26, R30). -/
  tags   : Bool
  /-- The cluster-memory window, or the physical range of cluster memory (R25). -/
  cmem   : Bool
  /-- The Spill attribute of a leaf page's entries (R63). -/
  spill  : Bool
  /-- The Owner field of the entry (R33). -/
  owner  : Nat
  deriving DecidableEq, Repr

/-- Why an access is not performed. -/
inductive Stop where
  /-- A fault with cause, subcode and TVAL (R336). -/
  | fault (cause subcode : Nat) (tval : Word)
  /-- A fault of the walk itself, which opens a record for the page (R37). -/
  | walkFault (subcode : Nat) (tval : Word)
  /-- A miss on a page whose record is open, with that record's subcode (R348). -/
  | join (seq sub : Nat) (tval : Word)
  /-- A poisoned sector (R55). -/
  | poison (loc : Nat) (tval : Word)
  /-- A dead ASID (R410). -/
  | dead
  /-- The access waits and is tried again. -/
  | wait
  /-- The strand is chained to a conversion or an ownership transfer (R69, R390). -/
  | chain (key : ChainKey) (tval : Word)
  /-- A refused allocation on a spill page starts its conversion (R68). -/
  | convert (die : DieId) (lpn : Nat) (tval : Word)
  deriving DecidableEq, Repr

/-! ### Entries (R30 to R32) -/

/-- The type of an entry. -/
def entryType (e : Nat) : PageType :=
  match bitsOf e 62 2 with
  | 0 => .normal
  | 1 => .counter
  | 2 => .leaf
  | _ => .io

/-- The frame of an entry as a physical address. -/
def entryFrame (e : Nat) : Nat := bitsOf e 12 40 * 4096

/-- The fields of a mapping entry at a level are legal (R30, R31, R58, R33); frames are judged apart. -/
def entryFieldsOk (e lvl : Nat) : Bool :=
  let t := entryType e
  let spill := bitsOf e 61 1
  let owner := bitsOf e 59 2
  let cv := bitsOf e 58 1
  let span := bitsOf e 11 1
  decide (bitsOf e 52 6 = 0) && decide (bitsOf e 2 3 = 0) && decide (owner ≠ 3) &&
    (decide (spill = 0) || decide (t = .leaf)) &&
    (decide (cv = 0) || (decide (t = .normal) && decide (span = 1) && decide (lvl = 0))) &&
    (decide (span = 0) || decide (lvl = 0)) &&
    (decide (t ≠ .leaf) || (decide (span = 1) && decide (bitsOf e 7 1 = 0) && decide (bitsOf e 26 26 = 0))) &&
    (decide (t ≠ .io) || (decide (bitsOf e 8 1 = 0) && decide (lvl = 0)))

/-- The physical address lies where the entry's type allows (R14, R33). -/
def frameOk (e pa : Nat) (asid : Asid) : Bool :=
  match entryType e, regionOf pa with
  | .normal, .hbm => true
  | .normal, .cluster => decide (asid = 0)
  | .normal, .host => decide (bitsOf e 59 2 = 1 ∨ bitsOf e 59 2 = 2)
  | .counter, .hbm => true
  | .counter, .cluster => decide (asid = 0)
  | .io, .host => true
  | .io, .peer => true
  | .io, .mmio => decide (asid = 0)
  | .leaf, _ => true
  | _, _ => false

/-- log2 of the bytes that an entry at a level maps. -/
def levelBits (lvl : Nat) : Nat := 12 + 9 * lvl

/-- An entry without A, D and the low four frame bits, as span groups are compared (R32). -/
def spanKey (e : Nat) : Nat := e - bitsOf e 9 2 * 0x200 - (if entryType e = .leaf then 0 else bitsOf e 12 4 * 0x1000)

/-- The 16 entries of a span group agree, entry i carrying frame bits [15:12] equal to i unless it is a leaf entry
(R32). -/
def spanOk (es : List Nat) : Bool :=
  match es with
  | [] => false
  | e0 :: _ =>
    es.zipIdx.all fun ei =>
      decide (spanKey ei.1 = spanKey e0) && (decide (entryType e0 = .leaf) || decide (bitsOf ei.1 12 4 = ei.2))

/-- How a walk ends: at an entry of a level, with the address of its entry or of its span group, or in a fault. -/
inductive WalkEnd where
  | page (entry bits at_ : Nat)
  | fault (subcode : Nat)
  | poisoned (loc : Nat)
  | fenced
  | held
  deriving DecidableEq, Repr

/-- The entries of the table line that holds a level-0 entry (R32). -/
def spanEntries (s : State) (line : Nat) : List Nat := (List.range 16).map fun i => s.mem64 (line + 8 * i)

/-- The walk of R30 below a table, from a level down. -/
def walkFrom (s : State) (va : Nat) : Nat → Nat → WalkEnd
  | lvl, table =>
    let a := table + bitsOf va (levelBits lvl) 9 * 8
    if s.fencedAt a then .fenced
    else if s.sliceHeld a 8 then .held
    else if s.poisoned a 8 then .poisoned a
    else
      let e := s.mem64 a
      if bitsOf e 0 1 = 0 then .fault 0
      else if bitsOf e 1 1 = 0 then
        match lvl with
        | 0 => .fault 3
        | l + 1 =>
          if e - bitsOf e 12 40 * 4096 ≠ 1 ∨ entryFrame e ≥ hbmTop then .fault 3 else walkFrom s va l (entryFrame e)
      else if lvl = 3 ∨ entryFieldsOk e lvl = false then .fault 3
      else if entryType e ≠ .leaf ∧ entryFrame e % 2 ^ levelBits lvl ≠ 0 then .fault 3
      else if lvl = 0 ∧ bitsOf e 11 1 = 1 then
        let line := a / 128 * 128
        if s.poisoned line 128 then .poisoned line
        else if spanOk (spanEntries s line) then .page (s.mem64 line) 16 line
        else .fault 3
      else .page e (levelBits lvl) a

/-- The entry with A set and, for a write, D (R34). -/
def markEntry (e : Nat) (write : Bool) : Nat :=
  let e := if bitsOf e 9 1 = 0 then e + 0x200 else e
  if write ∧ bitsOf e 10 1 = 0 then e + 0x400 else e

/-- The state with A and D set in an entry, or in all 16 entries of a span group (R34). -/
def State.markPage (s : State) (bits at_ : Nat) (write : Bool) : State :=
  if bits = 16 then
    (List.range 16).foldl (fun s i => s.put64 (at_ + 8 * i) (markEntry (s.mem64 (at_ + 8 * i)) write)) s
  else s.put64 at_ (markEntry (s.mem64 at_) write)

/-! ### Places and checks -/

/-- A page of a type at a location holds tags: counter words, the host window, peer windows and device MMIO do not (R26). -/
def holdsTags (t : PageType) (loc : Nat) : Bool :=
  decide (t = .normal ∨ t = .leaf) && decide (regionOf loc = .hbm ∨ regionOf loc = .cluster ∨ regionOf loc = .leaf)

/-- The place that an entry gives an address. -/
def placeOf (e bits va : Nat) : Place :=
  match entryType e with
  | .leaf =>
    { loc := leafLoc (bitsOf e 24 2) (bitsOf e 12 12) (va % 0x10000), ptype := .leaf, tags := decide (bitsOf e 8 1 = 1)
      cmem := false, spill := decide (bitsOf e 61 1 = 1), owner := bitsOf e 59 2 }
  | t =>
    let pa := entryFrame e / 2 ^ bits * 2 ^ bits + va % 2 ^ bits
    { loc := pa, ptype := t, tags := decide (bitsOf e 8 1 = 1) && holdsTags t pa, cmem := decide (regionOf pa = .cluster)
      spill := false, owner := bitsOf e 59 2 }

/-- An LPN entry with its page register (R62, R63); an LPN never written is Empty and unassigned. -/
def State.lpn (s : State) (d : DieId) (n : Nat) : Lpn :=
  mapGet (s.die d).lpns n
    { v := false, state := .empty, lines := [], queue := [], f := 0, lastAsid := 0, frame := 0, spill := false }

/-- The state with an LPN entry and page register changed. -/
def State.modLpn (s : State) (d : DieId) (n : Nat) (f : Lpn → Lpn) : State :=
  let v := f (s.lpn d n)
  s.modDie d fun x => { x with lpns := mapSet x.lpns n v }

/-- The LPN of a leaf group is assigned to the accessing ASID's function (R58). -/
def State.leafOk (s : State) (loc : Nat) (asid : Asid) : Bool :=
  let p := leafParts loc
  let e := s.lpn (dieOfNat p.1) p.2.1
  e.v && decide (e.f.toNat = (s.fnOf (dieOfNat p.1) asid).val)

/-- The page type is one the kind of access may use (R31, R84, R199, R269). -/
def Kind.typeOk : Kind → PageType → Bool
  | .load, _ => true
  | .stat, _ => true
  | .store, t => decide (t ≠ .counter)
  | .vecLoad, t => decide (t ≠ .io)
  | .vecStore, t => decide (t ≠ .counter ∧ t ≠ .io)
  | .atomic, t => decide (t ≠ .counter)
  | .tagStore, t => decide (t ≠ .counter)
  | .ctrRead, t => decide (t = .counter)
  | .ctrWrite, t => decide (t = .counter)
  | .fetch, t => decide (t = .normal)
  | .leafOp, t => decide (t = .leaf)

/-- The page's R, W and X rights allow the kind of access (R31). That lf.stat needs none of them, since R79 names none among
its faults, is the model's reading (DEDUCED, assumption log 35). -/
def Kind.rightOk : Kind → Bool → Bool → Bool → Bool
  | .load, r, _, _ => r
  | .stat, _, _, _ => true
  | .vecLoad, r, _, _ => r
  | .vecStore, _, w, _ => w
  | .store, _, w, _ => w
  | .tagStore, _, w, _ => w
  | .leafOp, _, w, _ => w
  | .atomic, r, w, _ => r && w
  | .ctrRead, r, _, _ => r
  | .ctrWrite, _, w, _ => w
  | .fetch, _, _, x => x

/-- The kind of access writes, for the D bit (R34). -/
def Kind.writes : Kind → Bool
  | .store => true
  | .vecStore => true
  | .atomic => true
  | .tagStore => true
  | .ctrWrite => true
  | .leafOp => true
  | _ => false

/-- The subcode of the first check after the walk that fails: type, right, C (R31). -/
def checkSub (k : Kind) (t : PageType) (r w x c : Bool) : Option Nat :=
  if !k.typeOk t then some 5
  else if !k.rightOk r w x then some 1
  else if decide (k = .tagStore) && !c then some 2
  else none

/-- The translation of an address that a core's or a cluster's TLB holds (R35). -/
def State.tlbAt (s : State) (x : TlbSite) (a : Asid) (va : Nat) : Option TlbEntry :=
  s.tlb.find? fun e => decide (e.site = x) && decide (e.asid = a) && decide (e.base ≤ va) && decide (va < e.base + 2 ^ e.bits)

/-- A cached translation of an address for a core: its own TLB's, else its cluster's (R35). -/
def State.tlbHit (s : State) (c : Option CoreId) (a : Asid) (va : Nat) : Option TlbEntry :=
  c.bind fun c => (s.tlbAt (.core c) a va).orElse fun _ => s.tlbAt (.cluster (coreCluster c)) a va

/-- A list without the last of its elements that a test names, if at least n of them do. -/
def dropOver {α : Type} (p : α → Bool) (n : Nat) (l : List α) : List α :=
  if l.countP p ≥ n then (l.reverse.eraseP p).reverse else l

/-- The set of a cluster TLB that a page lies in; the rule states 2,048 entries in 8 ways, not which set serves which page
(DESIGN CHOICE, assumption log 35). -/
def tlbSet (base : Nat) : Nat := base / 4096 % 256

/-- The translations cached with one more at a site, in place of any for the same address; the oldest of 64 entries of a
core, or of 8 of a cluster's set, makes room (R35; assumption log 35). -/
def tlbWith (l : List TlbEntry) (e : TlbEntry) : List TlbEntry :=
  let rest := l.filter fun x =>
    !(decide (x.site = e.site) && decide (x.asid = e.asid) && decide (x.base < e.base + 2 ^ e.bits) &&
      decide (e.base < x.base + 2 ^ x.bits))
  e :: (match e.site with
    | .core _ => dropOver (fun x => decide (x.site = e.site)) 64 rest
    | .cluster _ => dropOver (fun x => decide (x.site = e.site) && decide (tlbSet x.base = tlbSet e.base)) 8 rest)

/-- The state with a translation cached for a core and its cluster (R35). -/
def State.tlbPut (s : State) (c : Option CoreId) (a : Asid) (base bits : Nat) (entry : Nat) : State :=
  { s with
    tlb := match c with
      | none => s.tlb
      | some c =>
        let e : TlbEntry := { site := .cluster (coreCluster c), asid := a, base := base, bits := bits, entry := BitVec.ofNat 64 entry }
        tlbWith (tlbWith s.tlb e) { e with site := .core c } }

/-- The state with a translation that a core uses in its own TLB (R35). -/
def State.tlbFill (s : State) (c : Option CoreId) (e : TlbEntry) : State :=
  { s with
    tlb := match c with
      | none => s.tlb
      | some c => if e.site = .core c then s.tlb else tlbWith s.tlb { e with site := .core c } }

/-! ### The walk cache (R35) -/

/-- The address bits above the range that a table of a level covers. -/
def topOf (va lvl : Nat) : Nat := va / 2 ^ levelBits (lvl + 1)

/-- The lowest table that a die's walk cache gives for an address of an ASID, else the root (R35). -/
def State.walkStart (s : State) (d : DieId) (a : Asid) (va root : Nat) : Nat × Nat :=
  ([0, 1, 2].findSome? fun lvl =>
    (s.walks.find? fun w =>
      decide (w.die = d) && decide (w.asid = a) && decide (w.level = lvl) && decide (w.top = topOf va lvl)).map fun w =>
      (lvl, w.table)).getD (3, root)

/-- The tables that a walk goes through below a table, by level (R30). -/
def walkTables (s : State) (va : Nat) : Nat → Nat → List (Nat × Nat)
  | 0, _ => []
  | l + 1, table =>
    let e := s.mem64 (table + bitsOf va (levelBits (l + 1)) 9 * 8)
    if bitsOf e 0 2 = 1 then (l, entryFrame e) :: walkTables s va l (entryFrame e) else []

/-- The state with the table pointers of a walk from a table cached by its die (R35). -/
def State.walkPut (s : State) (d : DieId) (a : Asid) (va lvl table : Nat) : State :=
  { s with
    walks := (walkTables s va lvl table).foldl (fun l x =>
      { die := d, asid := a, level := x.1, top := topOf va x.1, table := x.2 } :: l.filter fun w =>
        !(decide (w.die = d) && decide (w.asid = a) && decide (w.level = x.1) && decide (w.top = topOf va x.1))) s.walks }

/-- The cluster-memory window (R16): its first address. -/
def windowBase : Nat := 0xFFFFFFE00000

/-- Others' operations on a team's allocation, held since it was swapped out, come before an agent's (R86). -/
def Team.heldBack (t : Team) (a : Agent) : Bool :=
  match t.held with
  | [] => false
  | x :: _ => !decide (x = a)

/-- The state in which an agent's operation on a team's allocation is held, behind those that came before it, or is not (R86). -/
def State.holdFor (s : State) (id : Nat) (a : Agent) (on : Bool) : State :=
  if s.teams.any fun t => decide (t.id = id) && (t.held.contains a != on) then
    { s with teams := s.teams.map fun t =>
        if t.id = id then { t with held := if on then t.held ++ [a] else t.held.filter fun x => !decide (x = a) } else t }
  else s

/-- An access waits. -/
def mustWait {α : Type} : Except Stop α → Bool
  | .error .wait => true
  | _ => false

/-- An address of the cluster-memory window (R16). -/
def windowAccess (s : State) (w : Party) (va : Word) (k : Kind) : Except Stop Place :=
  let o := va.toNat - windowBase
  match s.teams.find? fun t => decide (t.id = w.team) with
  | none => .error (.fault 3 6 va)
  | some t =>
    if o ≥ t.pages * 4096 then .error (.fault 3 6 va)
    else if !t.placed ∨ t.heldBack w.who then .error .wait
    else
      let ptype := if o < 4096 then PageType.counter else PageType.normal
      match checkSub k ptype true true false (decide (o ≥ 4096)) with
      | some sub => .error (.fault 3 sub va)
      | none =>
        .ok { loc := clusterLoc t.cluster + t.page0 * 4096 + o, ptype := ptype, tags := decide (o ≥ 4096), cmem := true
              spill := false, owner := 0 }

/-- The boot map of ASID 0 (R404). -/
def bootAccess (va : Word) (k : Kind) : Except Stop Place :=
  let a := va.toNat
  if a < hbmTop then
    match checkSub k .normal true true true true with
    | some sub => .error (.fault 3 sub va)
    | none => .ok { loc := a, ptype := .normal, tags := true, cmem := false, spill := false, owner := 0 }
  else if 0xF00000000000 ≤ a then
    match checkSub k .io true true false false with
    | some sub => .error (.fault 3 sub va)
    | none =>
      .ok { loc := mmioBase + (a - 0xF00000000000), ptype := .io, tags := false, cmem := false, spill := false, owner := 0 }
  else .error (.fault 3 0 va)

/-- The checks made on a translation that a walk or a cache gives (R31, R58), and its place. -/
def entryAccess (s : State) (asid : Asid) (va : Word) (k : Kind) (e bits : Nat) : Except Stop Place :=
  let p := placeOf e bits va.toNat
  if !frameOk e p.loc asid ∨ (p.ptype = .leaf ∧ !s.leafOk p.loc asid) then .error (.walkFault 3 va)
  else
    match checkSub k p.ptype (decide (bitsOf e 5 1 = 1)) (decide (bitsOf e 6 1 = 1)) (decide (bitsOf e 7 1 = 1))
        (decide (bitsOf e 8 1 = 1)) with
    | some sub => .error (.fault 3 sub va)
    | none => .ok p

/-- The record that is open for a page of an ASID on a die (R348). -/
def State.openFor (s : State) (d : DieId) (a : Asid) (page : Nat) : Option OpenFault :=
  (s.die d).openFaults.find? fun o => decide (o.asid = a) && decide (o.page = some page)

/-- A miss: the open record joins it, or the walk is made from the table that the die's walk cache gives, A and D are set
and the translation is cached (R34, R35, R37, R348, R410). -/
def missAccess (s : State) (w : Party) (va : Word) (k : Kind) : State × Except Stop Place :=
  match s.openFor w.die w.asid (va.toNat / 4096) with
  | some o => (s, .error (.join o.seq o.subcode.toNat va))
  | none =>
    let d := s.desc w.die w.asid
    if !d.live then (s, .error (if s.fencedAt (s.descAddr w.asid) then .fault 8 0 va else .dead))
    else if d.root ≥ hbmTop then (s, .error (.walkFault 3 va))
    else
      let start := s.walkStart w.die w.asid va.toNat d.root
      match walkFrom s va.toNat start.1 start.2 with
      | .fault sub => (s, .error (.walkFault sub va))
      | .poisoned l => (s, .error (.poison l va))
      | .fenced => (s, .error (.fault 8 0 va))
      | .held => (s, .error .wait)
      | .page e bits at_ =>
        match entryAccess s w.asid va k e bits with
        | .error x => (s, .error x)
        | .ok p =>
          ((((s.markPage bits at_ k.writes).walkPut w.die w.asid va.toNat start.1 start.2).tlbPut w.core w.asid
            (va.toNat / 2 ^ bits * 2 ^ bits) bits (markEntry e k.writes)).cacheDesc w.die w.asid, .ok p)

/-- Translation of an address (R9, R16, R29 to R37). A cached translation without D is walked again for a write (R34). -/
def translate (s : State) (w : Party) (va : Word) (k : Kind) : State × Except Stop Place :=
  if va.toNat ≥ 2 ^ 48 then (s, .error (.fault 3 4 va))
  else if w.asid ≠ 0 ∧ va.toNat ≥ windowBase then
    let r := windowAccess s w va k
    (s.holdFor w.team w.who (mustWait r), r)
  else if w.asid = 0 ∧ (s.astb = 0 ∨ (s.bootMap ∧ (Config.freeWord s.tick).getLsbD (va.toNat / 4096 % 64))) then
    (s, bootAccess va k)
  else
    match s.tlbHit w.core w.asid va.toNat with
    | some e =>
      if k.writes ∧ bitsOf e.entry.toNat 10 1 = 0 then missAccess s w va k
      else (s.tlbFill w.core e, entryAccess s w.asid va k e.entry.toNat e.bits)
    | none => missAccess s w va k

end Sys2Proof.Machine
end

