-- ==== Sys2Proof/Machine/Sched.lean ====
section
/-!
DEFINITION. Pools, continuation records, ready deques, and the waking of waiters
(spec/07_strands.md R131 to R137, spec/09_scheduling.md R168 to R173, spec/04_counters.md R91 to R95).
-/
namespace Sys2Proof.Machine

/-! ### Pools of blocks (R169) -/

/-- The pools of R169. -/
inductive Pool where
  | team | context | swap
  deriving DecidableEq, Repr

/-- The offset of a pool's register in the scheduler control block (R168). -/
def Pool.offset : Pool → Nat
  | .team => 0x20
  | .context => 0x28
  | .swap => 0x30

/-- The bytes of a pool's block (R169). -/
def Pool.size : Pool → Nat
  | .team => 8192
  | .context => 4096
  | .swap => 2056 * 1024

/-- A pool of a die. -/
def Die.pool (d : Die) : Pool → PoolReg
  | .team => d.teamPool
  | .context => d.ctxPool
  | .swap => d.swapPool

/-- A die with a pool replaced. -/
def Die.setPool (d : Die) (p : Pool) (l : PoolReg) : Die :=
  match p with
  | .team => { d with teamPool := l }
  | .context => { d with ctxPool := l }
  | .swap => { d with swapPool := l }

/-- The state with a resumption offered at a core, once (assumption log 1). -/
def State.kick (s : State) (c : CoreId) : State :=
  if s.agenda.contains (.strandResume c) then s else s.addAgenda (.strandResume c)

/-- The state in which the cores of a die whose pushes wait for a context block may make them (R172). -/
def State.kickPushes (s : State) (d : DieId) : State :=
  (s.cores.filter fun (e : Nat × Core) => decide (e.1 / 448 = d.val) && !e.2.pushes.isEmpty).foldl
    (fun s e => s.kick (coreOfNat e.1)) s

/-- The state with a block pushed onto a pool, linked through its first 8 bytes; a push, or a placement, that waits for it may be made
(R169, R170, R172). -/
def State.pushPool (s : State) (d : DieId) (p : Pool) (b : Nat) : State :=
  let s := (s.put64 b ((s.die d).pool p).top).modDie d fun x => x.setPool p { top := b, count := (x.pool p).count + 1 }
  match p with
  | .context => s.kickPushes d
  | .team => if (s.die d).teamQ.isEmpty then s else s.offer (.teamPlacement d)
  | .swap => s

/-- A block popped from a pool, and the state after it: the block's link names the next one. A pool that falls to zero is
reported (R169). -/
def State.popPool (s : State) (d : DieId) (p : Pool) : Option (Nat × State) :=
  let x := (s.die d).pool p
  if x.count = 0 then none
  else
    let s' := s.modDie d fun y => y.setPool p { top := s.mem64 x.top, count := x.count - 1 }
    some (x.top, if x.count = 1 then s'.resourceEvent d none p.offset else s')

/-- The block is one that a push accepts: 4 KiB-aligned in the HBM of the pool's die (R169). -/
def poolBlockOk (d : DieId) (p : Pool) (b : Nat) : Bool :=
  decide (b % 4096 = 0) && decide (b / hbmSpan = d.val) && decide ((b + p.size - 1) / hbmSpan = d.val)

/-! ### Continuation records (R131) -/

/-- The 64-bit form of a continuation handle (R134). -/
def Handle.word (h : Handle) : Nat := h.asid.toNat * 2 ^ 52 + h.addr

/-- The resume PC of a record. -/
def State.recPc (s : State) (r : Nat) : Nat := s.mem64 r

/-- The scope id of a record. -/
def State.recScope (s : State) (r : Nat) : BitVec 32 := BitVec.ofNat 32 (s.memN (r + 8) 4)

/-- The flags of a record. -/
def State.recFlags (s : State) (r : Nat) : Nat := s.memN (r + 12) 2

/-- The priority byte of a record. -/
def State.recPrio (s : State) (r : Nat) : Nat := s.memN (r + 14) 1

/-- The affinity byte of a record. -/
def State.recAff (s : State) (r : Nat) : Nat := s.memN (r + 15) 1

/-- The frame of a record, with its tag. -/
def State.recFrame (s : State) (r : Nat) : CapReg := s.memC (r + 16)

/-- The wait counter address field of a record. -/
def State.recWait (s : State) (r : Nat) : Nat := s.mem64 (r + 32)

/-- The wait threshold of a record. -/
def State.recThreshold (s : State) (r : Nat) : Nat := s.mem64 (r + 40)

/-- The carry of a record. -/
def State.recCarry (s : State) (r : Nat) : Nat := s.mem64 (r + 48)

/-- The context pointer of a record. -/
def State.recCtx (s : State) (r : Nat) : Nat := s.mem64 (r + 56)

/-- The core named in a record (R131). -/
def State.recCore (s : State) (r : Nat) : Nat := bitsOf (s.recWait r) 48 11

/-- Team flag of a record's flags. -/
def flagTeam (f : Nat) : Bool := decide (bitsOf f 11 1 = 1)

/-- Grant code of a record's flags. -/
def flagGrant (f : Nat) : Nat := bitsOf f 6 3

/-- The affinity a core acts on: a team strand's 2 and 3 count as 1 (R132). -/
def State.affinityOf (s : State) (r : Nat) : Nat :=
  if flagTeam (s.recFlags r) then min (s.recAff r) 1 else s.recAff r

/-- The flags that a strand's record takes (R135). -/
def Strand.flags (t : Strand) : Nat :=
  (if t.teamFlag then 0x800 else 0) + t.grant.toNat * 64 + (if t.chk then 32 else 0) + t.shield

/-- What a suspension or a stop writes beyond what the strand itself gives (R135, R136). -/
structure RecordTail where
  pc        : Word
  waitVa    : Nat
  threshold : Nat
  carry     : Nat
  ctx       : Nat
  deriving DecidableEq, Repr

/-- The state with the 64 bytes of a strand's record written whole (R55, R135, R136). -/
def State.writeRecord (s : State) (t : Strand) (e : RecordTail) : State :=
  let r := t.handle.addr
  let q1 := t.birth.toNat + t.flags * 2 ^ 32 + t.prio.toNat * 2 ^ 48 + t.affinity.toNat * 2 ^ 56
  (s.putBlock r (leBytes 8 e.pc.toNat ++ leBytes 8 q1 ++ leBytes 16 (t.creg 3).bits.toNat ++
    leBytes 8 (e.waitVa % 2 ^ 48 + t.core.val * 2 ^ 48) ++ leBytes 8 e.threshold ++ leBytes 8 e.carry ++
    leBytes 8 e.ctx)).putC (r + 16) (t.creg 3)

/-! ### Residents (R171) -/

/-- The resident strands. -/
def State.residents (s : State) : List Strand := (s.cur :: s.parked).filter fun t => !decide (t.run = .absent)

/-- The resident strands of a core. -/
def State.onCore (s : State) (c : CoreId) : List Strand := s.residents.filter fun t => decide (t.core = c)

/-- A core is one that runs user strands: in service and not its die's firmware core (R3, R4). -/
def State.userCore (s : State) (c : CoreId) : Bool :=
  !(s.core c).outOfService && decide ((s.die (coreDie c)).fw ≠ c.val % 448) && !(s.die (coreDie c)).fenced

/-- A core takes work: a test of it delays that (R398). -/
def State.openCore (s : State) (c : CoreId) : Bool := s.userCore c && !s.testing 0 c.val

/-- The in-service user cores of a cluster in ascending order; none in a cluster out of service (R143). -/
def State.userCores (s : State) (cl : ClusterId) : List CoreId :=
  if (s.cluster cl).outOfService then []
  else (List.range 4).filterMap fun k => if s.userCore (clusterCore cl k) then some (clusterCore cl k) else none

/-- Strands per core of a launch's teams on u cores (R143, R171). -/
def slotsPer (strands u : Nat) : Nat := (strands + u - 1) / u

/-- Placed teams that hold a reservation on a core (R171). -/
def State.teamsOn (s : State) (c : CoreId) : List Team :=
  s.teams.filter fun t => t.placed && (t.cores.contains c || t.twins.contains c)

/-- The launch of a team. -/
def State.launchOf (s : State) (t : Team) : Option Launch := s.launches.find? fun l => decide (l.id = t.launchId)

/-- Slots and vector registers that a placed team reserves on one of its cores (R171, R400). -/
def Team.reservation (t : Team) (c : CoreId) : Nat × Nat :=
  let n := slotsPer t.strands (max (if t.cores.contains c then t.cores else t.twins).length 1)
  (n, n * (8 * t.grant.toNat))

/-- Slots and vector registers reserved on a core by placed teams (R171). -/
def State.reservedOn (s : State) (c : CoreId) : Nat × Nat :=
  (s.teamsOn c).foldl (fun a t => (a.1 + (t.reservation c).1, a.2 + (t.reservation c).2)) (0, 0)

/-- The vector registers that strands hold. -/
def registersOf (l : List Strand) : Nat := l.foldl (fun a t => a + 8 * t.grant.toNat) 0

/-- The strands of no team whose second copies run on a core (R400). -/
def State.copiesOn (s : State) (c : CoreId) : List Strand :=
  s.residents.filter fun t =>
    decide (t.teamId = 0) && s.pairs.any fun p => decide (p.second = c) && decide (p.strand = t.handle.addr)

/-- Free unreserved slots and vector registers of a core (R139, R171). -/
def State.unreservedFree (s : State) (c : CoreId) : Nat × Nat :=
  let res := s.reservedOn c
  let loose := ((s.onCore c).filter fun t => decide (t.teamId = 0)) ++ s.copiesOn c
  (16 - res.1 - loose.length, 256 - res.2 - registersOf loose)

/-- A core has a free slot for a record: an unreserved one, or one that its team reserves there (R171, R172). -/
def State.slotFor (s : State) (c : CoreId) (team : Option Team) : Bool :=
  match team with
  | none => decide ((s.unreservedFree c).1 ≥ 1)
  | some t =>
    t.placed && t.cores.contains c &&
      decide (((s.onCore c).filter fun x => decide (x.teamId = t.id)).length < (t.reservation c).1)

/-- A core's register pool holds the grant of a record (R137, R171). -/
def State.registersFor (s : State) (c : CoreId) (team : Option Team) (grant : Nat) : Bool :=
  match team with
  | none => decide ((s.unreservedFree c).2 ≥ 8 * grant)
  | some t =>
    decide (registersOf ((s.onCore c).filter fun x => decide (x.teamId = t.id)) + 8 * grant ≤ (t.reservation c).2)

/-- The lowest slot of a core that no strand holds. -/
def State.freeSlot (s : State) (c : CoreId) : Fin 16 :=
  let used := (s.onCore c).map fun t => t.slot.val
  match (List.range 16).find? fun k => !used.contains k with
  | some k => ⟨k % 16, Nat.mod_lt _ (by decide)⟩
  | none => 0

/-- The team whose block holds a record, if the record's team is live (R132, R142). -/
def State.teamOfRecord (s : State) (r : Nat) : Option Team :=
  s.teams.find? fun t => decide (t.block ≤ r) && decide (r < t.block + 4096)

/-! ### Ready deques (R172): the head of a list is the bottom, its end the top -/

/-- A priority as a deque number. -/
def prioIx (p : Nat) : Fin 4 := ⟨p % 4, Nat.mod_lt _ (by decide)⟩

/-- A push to a deque can be made now: its hardware part has room, or a context block is free for a spill (R172). -/
def State.pushRoom (s : State) (c : CoreId) (p : Fin 4) : Bool :=
  decide (((s.core c).deques.get p).length < 256) || decide ((s.die (coreDie c)).ctxPool.count ≠ 0)

/-- A full hardware part moves its 128 topmost entries into a context-pool block (R172). -/
def State.spillDeque (s : State) (c : CoreId) (p : Fin 4) : State :=
  let d := (s.core c).deques.get p
  if d.length < 256 then s
  else
    match s.popPool (coreDie c) .context with
    | none => s
    | some (b, s) =>
      s.modCore c fun x =>
        { x with
          deques := x.deques.set p (d.take (d.length - 128))
          spills := x.spills.set p ({ block := b, entries := d.drop (d.length - 128) } :: x.spills.get p) }

/-- The state with a handle pushed to the bottom of a core's deque; a push ends a thief's wait (R172, R173). -/
def State.pushNow (s : State) (c : CoreId) (p : Nat) (h : Handle) : State :=
  ((s.spillDeque c (prioIx p)).modCore c fun x =>
    { x with deques := x.deques.set (prioIx p) (h :: x.deques.get (prioIx p)), stealWait := false }).kick c

/-- The state after a push to the bottom of a core's deque; with the deque full and the context pool empty the push waits,
behind those that wait already (R172). -/
def State.pushBottom (s : State) (c : CoreId) (p : Nat) (h : Handle) : State :=
  if s.pushRoom c (prioIx p) ∧ !((s.core c).pushes.any fun e => decide (prioIx e.1 = prioIx p)) then s.pushNow c p h
  else s.modCore c fun x => { x with pushes := x.pushes ++ [(p, h)] }

/-- The state in which a core's waiting pushes were made, in order, as far as there is room (R172). -/
def State.makePushes (s : State) (c : CoreId) : State :=
  match (s.core c).pushes with
  | [] => s
  | l => l.foldl (fun s e => s.pushBottom c e.1 e.2) (s.modCore c fun x => { x with pushes := [] })

/-- The state with a handle pushed to the top, or to the bottom if the hardware part is full (R172, R329). -/
def State.pushTop (s : State) (c : CoreId) (p : Nat) (h : Handle) : State :=
  if ((s.core c).deques.get (prioIx p)).length ≥ 256 then s.pushBottom c p h
  else
    (s.modCore c fun x =>
      { x with deques := x.deques.set (prioIx p) (x.deques.get (prioIx p) ++ [h]), stealWait := false }).kick c

/-- A hardware part that has emptied takes back its newest spilled block, of at most n that are left, until it has an entry
(R172). -/
def State.reloadFrom (s : State) (c : CoreId) (p : Fin 4) : Nat → State
  | 0 => s
  | n + 1 =>
    if ((s.core c).deques.get p).isEmpty then
      match (s.core c).spills.get p with
      | [] => s
      | b :: r =>
        State.reloadFrom (((s.modCore c fun x => { x with deques := x.deques.set p b.entries, spills := x.spills.set p r }).pushPool
          (homeDie b.block) .context b.block).makePushes c) c p n
    else s

/-- The state with the spilled blocks of a core's empty hardware part reloaded (R172). -/
def State.reload (s : State) (c : CoreId) (p : Fin 4) : State := s.reloadFrom c p ((s.core c).spills.get p).length

/-- The state after entries have left a core's deques: waiting pushes are made, and empty hardware parts take back what they have
spilled (R172). -/
def State.refill (s : State) (c : CoreId) : State :=
  ([0, 1, 2, 3] : List (Fin 4)).foldl (fun s p => s.reload c p) (s.makePushes c)

/-- The handle is that of the strand a die's boot started on its firmware core (R3, R404; assumption log 16). -/
def isFirmware (h : Handle) : Bool := decide (h.asid = 0) && decide ((h.addr + 64) % hbmSpan = 0)

/-- A core in service on a die that is not fenced (R4, R56). -/
def State.inService (s : State) (c : CoreId) : Bool := !(s.core c).outOfService && !(s.die (coreDie c)).fenced

/-- The core that a push of a handle for a core reaches: that core if it is an in-service user core, or the firmware
core for its own strand; otherwise the lowest-numbered in-service user core of its cluster, or of its die
(R3, R93, R132). -/
def State.pushTarget (s : State) (c : CoreId) (h : Handle) : CoreId :=
  if s.userCore c ∨ (isFirmware h ∧ s.inService c) then c
  else
    match s.userCores (coreCluster c) with
    | k :: _ => k
    | [] =>
      let d := coreDie c
      match (List.range 448).find? fun k => s.userCore (coreOfNat (d.val * 448 + k)) with
      | some k => coreOfNat (d.val * 448 + k)
      | none => c

/-- The team block that an entry of a team queue has taken (R170). -/
def QEntry.blocks : QEntry → List Nat
  | .fresh _ _ b => if b = 0 then [] else [b]
  | .swapped _ => []

/-- The physical address of a team block's swap state (R175). -/
def Team.swapState (t : Team) : Nat := t.block + 4096

/-- The state with the Ready bit of a swapped-out team's strand set (R175). -/
def State.setReady (s : State) (t : Team) (r : Nat) : State :=
  let a := t.swapState + 40
  s.put64 a (s.mem64 a ||| 2 ^ ((r - t.block) / 64))

/-- The state with a suspended strand's handle pushed for the core its record names; nothing is pushed to a fenced die
(R57, R93). -/
def State.pushHome (s : State) (h : Handle) : State :=
  let c := coreOfNat (s.recCore h.addr)
  if (s.die (coreDie c)).fenced then s else s.pushBottom (s.pushTarget c h) (s.recPrio h.addr) h

/-- The team of a record whose team is swapped out, or being swapped out (R175). -/
def State.swappedTeam (s : State) (r : Nat) : Option Team :=
  match s.teamOfRecord r with
  | some t => if t.area = 0 then none else some t
  | none => none

/-- The state with a handle pushed, or its Ready bit set if its team is swapped out or about to be (R93, R175). -/
def State.readyOr (s : State) (h : Handle) (push : State → State) : State :=
  match s.swappedTeam h.addr with
  | some t => s.setReady t h.addr
  | none => push s

/-- The state with a suspended strand's handle pushed, or its Ready bit set if its team is swapped out (R93, R175). -/
def State.deliver (s : State) (h : Handle) : State := s.readyOr h fun s => s.pushHome h

/-- The priorities of a core with entries, the highest first. -/
def Core.nonEmpty (c : Core) : List (Fin 4) := [3, 2, 1, 0].filter fun p => !(c.deques.get p).isEmpty

/-- The priority that a selection takes among those with entries, the highest first, with A and the aged priority after
it (R172). A is 0 after each aged pop, so that R172 does not tell when the rotation of the aged pops begins anew: here it does at a
selection that finds entries of one priority only (DESIGN CHOICE, assumption log 38). -/
def nextLevel (levels : List (Fin 4)) (age agedAt ageing : Nat) : Option (Fin 4 × Nat × Nat) :=
  match levels with
  | [] => none
  | [p] => some (p, age, 4)
  | p :: q :: r =>
    if age ≥ ageing then
      let lower := q :: r
      let pick := if agedAt ≥ 4 then q else (lower.find? fun x => decide (x.val < agedAt)).getD q
      some (pick, 0, pick.val)
    else some (p, age + 1, agedAt)

/-- The priority the next pop of a core takes, with A and the aged priority after it (R172). -/
def Core.nextPop (c : Core) (ageing : Nat) : Option (Fin 4 × Nat × Nat) := nextLevel c.nonEmpty c.age c.agedAt ageing

/-! ### Waiters (R92 to R94) -/

/-- A list with a waiter in ascending order of threshold, after those with its own (R93). -/
def waiterIns (w : Waiter) : List Waiter → List Waiter
  | [] => [w]
  | x :: r => if w.threshold.toNat < x.threshold.toNat then w :: x :: r else x :: waiterIns w r

/-- Waiters in ascending threshold order, in registration order among equals (R93). -/
def waiterSort (l : List Waiter) : List Waiter := l.foldl (fun acc w => waiterIns w acc) []

/-- The waiter table of a counter's home (R92). -/
def State.waitersAt (s : State) (pa : Nat) : List Waiter :=
  if regionOf pa = .cluster then (s.cluster (clusterOfNat (bitsOf pa 36 2 * 112 + bitsOf pa 21 15))).waiters
  else (s.die (homeDie pa)).waiters

/-- The state with the waiter table of a counter's home replaced. -/
def State.setWaiters (s : State) (pa : Nat) (l : List Waiter) : State :=
  if regionOf pa = .cluster then
    s.modCluster (clusterOfNat (bitsOf pa 36 2 * 112 + bitsOf pa 21 15)) fun x => { x with waiters := l }
  else s.modDie (homeDie pa) fun x => { x with waiters := l }

/-- The records of an overflow list from one on, at most n of them (R92). -/
def State.overflowFrom (s : State) (r : Nat) : Nat → List Nat
  | 0 => []
  | n + 1 => if r = 0 then [] else r :: State.overflowFrom s (s.recCtx r) n

/-- The overflow list of an ASID as a die finds it (R92). A list has no more records than memory has bytes other than
zero, since each record but the last holds the address of the next. -/
def State.overflowList (s : State) (d : DieId) (a : Asid) : List Nat :=
  s.overflowFrom (s.mem64 (s.desc d a).overflow) (s.mem.length + 1)

/-- The state with the records of an overflow list linked in an order. -/
def State.linkList (s : State) : List Nat → State
  | [] => s
  | [r] => s.put64 (r + 56) 0
  | r :: q :: l => State.linkList (s.put64 (r + 56) q) (q :: l)

/-- The state with an ASID's overflow list replaced. -/
def State.setOverflow (s : State) (d : DieId) (a : Asid) (l : List Nat) : State :=
  (s.put64 (s.desc d a).overflow (l.headD 0)).linkList l

/-- The state with a record that waits for a counter woken: its wait is met and acquires, its carry, threshold and context
pointer are written, its handle pushed (R90, R93). -/
def State.wake (s : State) (pa : Nat) (h : Handle) (value : Nat) : State :=
  let s := s.joinWoken pa h.addr (coreOfNat (s.recCore h.addr))
  (((s.put64 (h.addr + 48) value).put64 (h.addr + 40) 0).put64 (h.addr + 56) 0).deliver h

/-- The ASIDs with a live descriptor and a non-empty overflow list, ascending (R93). -/
def State.overflowAsids (s : State) (d : DieId) : List Asid :=
  (List.range 4096).filterMap fun n =>
    let a := BitVec.ofNat 12 n
    let x := s.desc d a
    if x.live ∧ s.mem64 x.overflow ≠ 0 then some a else none

/-- The state with the met records of an ASID's overflow list on a counter woken (R93). -/
def State.wakeListed (s : State) (pa v : Nat) (a : Asid) : State :=
  let l := s.overflowList (homeDie pa) a
  let met := l.filter fun r => decide (s.recCarry r = pa) && decide (s.recThreshold r ≤ v)
  let keep := l.filter fun r => !met.contains r
  if met.isEmpty then s
  else met.foldl (fun s r => s.wake pa { asid := a, addr := r } v) (s.setOverflow (homeDie pa) a keep)

/-- The mark of a counter line (R92). -/
def State.markOf (s : State) (pa : Nat) : Option (Option Asid) :=
  ((s.die (homeDie pa)).marks.find? fun m => decide (m.1 = pa / 128)).map (·.2)

/-- The state with a counter line's mark cleared. -/
def State.clearMark (s : State) (pa : Nat) : State :=
  s.modDie (homeDie pa) fun x => { x with marks := x.marks.filter fun m => !decide (m.1 = pa / 128) }

/-- Some listed record of an ASID waits on the counter line. -/
def State.listsLine (s : State) (pa : Nat) (a : Asid) : Bool :=
  (s.overflowList (homeDie pa) a).any fun r => decide (s.recCarry r / 128 = pa / 128)

/-- The state with every waiter of a counter that a new value meets woken, in the order of R93. -/
def State.wakeMet (s : State) (pa v : Nat) : State :=
  let here := (s.waitersAt pa).filter fun w => decide (w.pa = pa)
  let met := waiterSort (here.filter fun w => decide (w.threshold.toNat ≤ v))
  let s :=
    if met.isEmpty then s
    else
      met.foldl (fun s w => s.wake pa w.handle v)
        (s.setWaiters pa ((s.waitersAt pa).filter fun w => !met.contains w))
  match s.markOf pa with
  | none => s
  | some m =>
    let asids := match m with
      | some a => [a]
      | none => s.overflowAsids (homeDie pa)
    let s := asids.foldl (fun s a => s.wakeListed pa v a) s
    if asids.any (s.listsLine pa ·) then s else s.clearMark pa

/-- Some waiter of a counter exists, in its home's table or an overflow list (R89). -/
def State.hasWaiters (s : State) (pa : Nat) : Bool :=
  ((s.waitersAt pa).any fun w => decide (w.pa = pa)) ||
    match s.markOf pa with
    | none => false
    | some (some a) => (s.overflowList (homeDie pa) a).any fun r => decide (s.recCarry r = pa)
    | some none => (s.overflowAsids (homeDie pa)).any fun a => (s.overflowList (homeDie pa) a).any fun r => decide (s.recCarry r = pa)

/-- A wait takes an entry of its home's table: the home, a scratchpad's controller or a slice, has room, and an HBM counter
is homed on the waiting core's die (R85, R92). -/
def State.tableRoom (s : State) (pa : Nat) (d : DieId) : Bool :=
  if regionOf pa = .cluster then
    decide (((s.waitersAt pa).filter fun w => decide (w.pa / 0x80000 = pa / 0x80000)).length < 256)
  else
    decide (homeDie pa = d) &&
      decide (((s.waitersAt pa).filter fun w => decide (s.homeSlice w.pa = s.homeSlice pa)).length < 1024)

/-- The state with a wait registered at its home, or in its ASID's overflow list with the line marked (R92). -/
def State.registerWaiter (s : State) (pa : Nat) (threshold : Word) (h : Handle) (d : DieId) : State :=
  if s.tableRoom pa d then s.setWaiters pa (s.waitersAt pa ++ [{ pa := pa, threshold := threshold, handle := h }])
  else
    let l := s.overflowList d h.asid
    let s := (s.put64 (h.addr + 48) pa).setOverflow d h.asid (h.addr :: l)
    let mark := match s.markOf pa with
      | none => some h.asid
      | some (some a) => if a = h.asid then some a else none
      | some none => none
    (s.clearMark pa).modDie (homeDie pa) fun x => { x with marks := x.marks ++ [(pa / 128, mark)] }

/-- The waiter entries saved with a swapped-out team, by address (R175). -/
def State.savedWaiters (s : State) (t : Team) : List Nat :=
  (List.range (min (bitsOf (s.mem64 (t.swapState + 24)) 32 16) 256)).map fun i => t.area + 0x200000 + 32 * i

/-- The state with a swapped-out team's saved waiters of an ASID woken without a change of threshold: their strands become
Ready, and the entries of others stay saved (R94, R175). -/
def State.wakeSaved (s : State) (t : Team) (a : Asid) : State :=
  let l := s.savedWaiters t
  let mine := fun x => decide (bitsOf (s.mem64 (x + 24)) 0 12 = a.toNat)
  let keep := (l.filter fun x => !mine x).map fun x => s.bytes x 32
  let woken := (l.filter mine).map fun x => s.mem64 (x + 16)
  if woken.isEmpty then s
  else
    let q := s.mem64 (t.swapState + 24)
    let s := (s.put64 (t.swapState + 24) (q - bitsOf q 32 16 * 2 ^ 32 + keep.length * 2 ^ 32)).putBlock (t.area + 0x200000)
      (keep.flatMap fun b => b)
    woken.foldl (fun s r => s.deliver { asid := a, addr := r }) s

/-- The state with every waiter of an ASID pushed without a change of threshold, at a die's homes and among those saved
with the teams that its clusters have swapped out (R94). -/
def State.wakeDie (s : State) (d : DieId) (a : Asid) : State :=
  let mine := fun (w : Waiter) => decide (w.handle.asid = a)
  let l := (s.die d).waiters.filter mine
  let s := s.modDie d fun x => { x with waiters := x.waiters.filter fun w => !mine w }
  let s := l.foldl (fun s w => s.deliver w.handle) s
  let s := (s.clusters.filter fun e => decide (e.1 / 112 = d.val)).foldl
    (fun s e =>
      let c := clusterOfNat e.1
      (e.2.waiters.filter mine).foldl (fun s w => s.deliver w.handle)
        (s.modCluster c fun x => { x with waiters := x.waiters.filter fun w => !mine w })) s
  (s.teams.filter fun t => !t.placed && decide (t.die = d)).foldl (fun s t => s.wakeSaved t a) s

/-- The state with every record of an ASID's overflow list pushed without a change of threshold (R94). -/
def State.wakeOverflow (s : State) (d : DieId) (a : Asid) : State :=
  let l := s.overflowList d a
  if l.isEmpty then s
  else l.foldl (fun s r => (s.put64 (r + 56) 0).deliver { asid := a, addr := r }) (s.setOverflow d a [])

end Sys2Proof.Machine
end

