-- ==== Sys2Proof/Machine/Scopes.lean ====
section
/-!
DEFINITION. Scope tables, records, births, deaths, and what a cancel or kill reaches (spec/08_scopes.md R146 to R167).
-/
namespace Sys2Proof.Machine

/-- A usable scope table (R146). -/
structure ScopeTable where
  base : Nat
  n    : Nat
  deriving DecidableEq, Repr

/-- The table that a value of SCTB names, if it is usable (R146). -/
def scopeTableOf (w : Word) : Option ScopeTable :=
  let v := w.toNat
  let base := bitsOf v 12 40 * 4096
  let n := bitsOf v 0 5
  if bitsOf v 52 12 = 0 ∧ bitsOf v 5 7 = 0 ∧ 6 ≤ n ∧ n ≤ 24 ∧ base + 2 ^ n * 64 ≤ hbmTop ∧
      base / hbmSpan = (base + 2 ^ n * 64 - 1) / hbmSpan then some { base := base, n := n }
  else none

/-- The state of a record by its code; 7 and above count as free (R150). -/
def scopeStateOf (c : Nat) : ScopeState :=
  match c with
  | 1 => .opened
  | 2 => .sealed
  | 3 => .closing
  | 4 => .closed
  | 5 => .cancelled
  | 6 => .failed
  | _ => .free

/-- The code of a record's state (R150). -/
def ScopeState.code : ScopeState → Nat
  | .free => 0
  | .opened => 1
  | .sealed => 2
  | .closing => 3
  | .closed => 4
  | .cancelled => 5
  | .failed => 6

/-- A scope record as memory holds it; one with its reserved bit set is rejected as one in a state numbered 7 or above is (R6, R148,
R150). -/
def State.parseScope (s : State) (a : Nat) (asid : Asid) (id : BitVec 32) : ScopeRec :=
  let q0 := s.mem64 a
  let q3 := s.mem64 (a + 24)
  { asid := asid
    id := id
    parent := BitVec.ofNat 32 q0
    state := if bitsOf q3 56 1 = 1 then .free else scopeStateOf (bitsOf q0 32 8)
    depth := bitsOf q0 40 8
    attrs := BitVec.ofNat 16 (bitsOf q0 48 16)
    births := BitVec.ofNat 64 (s.mem64 (a + 8))
    deaths := BitVec.ofNat 64 (s.mem64 (a + 16))
    lost := bitsOf q3 0 40
    result := BitVec.ofNat 16 (bitsOf q3 40 16)
    cscope := BitVec.ofNat 3 (bitsOf q3 57 3)
    fl := decide (bitsOf q3 60 1 = 1)
    sc := decide (bitsOf q3 61 1 = 1)
    kl := decide (bitsOf q3 62 1 = 1)
    cx := decide (bitsOf q3 63 1 = 1)
    caddr := BitVec.ofNat 64 (s.mem64 (a + 32))
    cvalue := BitVec.ofNat 64 (s.mem64 (a + 40))
    handler := BitVec.ofNat 64 (s.mem64 (a + 48))
    leafBase := BitVec.ofNat 64 (s.mem64 (a + 56))
    opener := 0
    closeWait := false, swept := 0 }

/-- A flag as a bit at a place. -/
def flagBit (b : Bool) (k : Nat) : Nat := if b then 2 ^ k else 0

/-- The state with a record written to memory (R148, R149). -/
def State.storeScope (s : State) (a : Nat) (r : ScopeRec) : State :=
  let q0 := r.parent.toNat + r.state.code * 2 ^ 32 + r.depth % 256 * 2 ^ 40 + r.attrs.toNat * 2 ^ 48
  let q3 := r.lost % 2 ^ 40 + r.result.toNat * 2 ^ 40 + r.cscope.toNat * 2 ^ 57 + flagBit r.fl 60 + flagBit r.sc 61 +
    flagBit r.kl 62 + flagBit r.cx 63
  s.putBlock a (leBytes 8 q0 ++ leBytes 8 r.births.toNat ++ leBytes 8 r.deaths.toNat ++ leBytes 8 q3 ++
    leBytes 8 r.caddr.toNat ++ leBytes 8 r.cvalue.toNat ++ leBytes 8 r.handler.toNat ++ leBytes 8 r.leafBase.toNat)

/-- NC of a record. -/
def ScopeRec.nc (r : ScopeRec) : Bool := r.attrs.getLsbD 3

/-- LB of a record. -/
def ScopeRec.lb (r : ScopeRec) : Bool := r.attrs.getLsbD 2

/-- CF of a record. -/
def ScopeRec.cf (r : ScopeRec) : Bool := r.attrs.getLsbD 1

/-- TS of a record. -/
def ScopeRec.ts (r : ScopeRec) : Bool := r.attrs.getLsbD 0

/-- The length of a record's leaf region, in pages of 64 KiB. -/
def ScopeRec.pages (r : ScopeRec) : Nat := (r.attrs.extractLsb' 4 12).toNat

/-- The parent field of a root record (R152): the value that names it. -/
def noParent : BitVec 32 := 0xFFFFFFFF

/-- The record at an address: pinned in its home's scope cache, or as memory holds it (R149). -/
def State.scopeAt (s : State) (a : Nat) (asid : Asid) (id : BitVec 32) : ScopeRec :=
  match mapGet? (s.die (homeDie a)).scopes a with
  | some r => r
  | none => s.parseScope a asid id

/-- The record of an id in a table, with its address (R147, R148). -/
def State.scopeIn (s : State) (table : Word) (asid : Asid) (id : BitVec 32) : Option (Nat × ScopeRec) :=
  match scopeTableOf table with
  | none => none
  | some t =>
    if id = 0 ∨ id.toNat ≥ 2 ^ t.n then none
    else some (t.base + id.toNat * 64, s.scopeAt (t.base + id.toNat * 64) asid id)

/-- A record pinned under an ASID and an id, with its address. -/
def State.pinned (s : State) (asid : Asid) (id : BitVec 32) : Option (Nat × ScopeRec) :=
  (s.dies.toList.flatMap Die.scopes).find? fun e => decide (e.2.asid = asid) && decide (e.2.id = id)

/-- The record of an id of an ASID, pinned or in the table that the ASID's descriptor in memory names, with its
address. -/
def State.scopeOf (s : State) (asid : Asid) (id : BitVec 32) : Option (Nat × ScopeRec) :=
  match s.pinned asid id with
  | some e => some e
  | none => s.scopeIn (s.descMem asid).scopeTable asid id

/-- The record at an address is found in a state numbered 7 or above, or not free with its reserved bit set (R6, R150). -/
def State.badState (s : State) (a : Nat) : Bool :=
  (mapGet? (s.die (homeDie a)).scopes a).isNone &&
    (decide (s.memN (a + 4) 1 ≥ 7) || (decide (s.memN (a + 4) 1 ≠ 0) && decide (bitsOf (s.mem64 (a + 24)) 56 1 = 1)))

/-- The state with a record found in a state numbered 7 or above reported (R150). -/
def State.checkState (s : State) (a : Nat) (asid : Asid) : State :=
  if s.badState a then s.refuse (homeDie a) (some asid) else s

/-- The state with a record held in its home's scope cache (R149). -/
def State.pinScope (s : State) (a : Nat) (r : ScopeRec) : State :=
  s.modDie (homeDie a) fun x => { x with scopes := mapSet x.scopes a r }

/-- The state with a record no longer pinned (R149). -/
def State.unpinScope (s : State) (a : Nat) : State :=
  s.modDie (homeDie a) fun x => { x with scopes := mapDel x.scopes a }

/-- The ancestor path of a scope by the records that ids name: itself, its parent, and so on to the root, at most n records
(R158). -/
def pathFrom (find : BitVec 32 → Option (Nat × ScopeRec)) (id : BitVec 32) : Nat → List (Nat × ScopeRec)
  | 0 => []
  | n + 1 =>
    match find id with
    | none => []
    | some e => if e.2.depth = 0 then [e] else e :: pathFrom find e.2.parent n

/-- The ancestor path of a scope (R158); its depth is at most 64 (R152). -/
def State.path (s : State) (asid : Asid) (id : BitVec 32) : List ScopeRec := (pathFrom (s.scopeOf asid) id 65).map Prod.snd

/-- The state with each record of a path that is found in a state that no scope has reported (R150). -/
def State.checkAll (s : State) (asid : Asid) (l : List (Nat × ScopeRec)) : State :=
  l.foldl (fun s e => s.checkState e.1 asid) s

/-- The state with each such record of a scope's ancestor path reported (R150). -/
def State.checkPath (s : State) (asid : Asid) (id : BitVec 32) : State := s.checkAll asid (pathFrom (s.scopeOf asid) id 65)

/-- The scope is the other one or a descendant of it. -/
def State.inSubtree (s : State) (asid : Asid) (id top : BitVec 32) : Bool :=
  (s.path asid id).any fun r => decide (r.id = top)

/-- The deepest scope of a path whose cancel reaches a member: no NC scope lies on the way, but a scope that succeeded
reaches its own members (R159, R160). -/
def cancelledOn : List ScopeRec → Option (BitVec 32)
  | [] => none
  | r :: rest =>
    if r.cx ∧ (!r.nc ∨ r.sc ∨ r.kl) then some r.id
    else if r.nc then none
    else cancelledOn rest

/-- The deepest cancelled scope that reaches a member of a scope (R159). -/
def State.cancelOf (s : State) (asid : Asid) (id : BitVec 32) : Option (BitVec 32) := cancelledOn (s.path asid id)

/-- The cancel of a scope, whose id is broadcast, reaches a member of a path: no NC scope lies on the way, but a scope that
succeeded or was killed reaches its own members (R158, R159, R165). -/
def cancelReaches (id : BitVec 32) : List ScopeRec → Bool
  | [] => false
  | r :: rest => if r.id = id then r.cx && (!r.nc || r.sc || r.kl) else !r.nc && cancelReaches id rest

/-- A kill reaches the members of a scope (R165). -/
def State.killOf (s : State) (asid : Asid) (id : BitVec 32) : Bool := (s.path asid id).any fun r => r.kl

/-- The scope accepts a strand's birth or a child (R150, R154). -/
def ScopeRec.acceptsAll (r : ScopeRec) : Bool := (decide (r.state = .opened) || decide (r.state = .cancelled)) && !r.kl

/-- The scope accepts the birth of an engine command or a system call of a live member (R150, R154). -/
def ScopeRec.acceptsMember (r : ScopeRec) : Bool :=
  (decide (r.state = .opened) || decide (r.state = .cancelled) || decide (r.state = .sealed) ||
    decide (r.state = .failed)) && !r.kl

/-- The state with births counted in a scope (R153). -/
def State.addBirths (s : State) (a : Nat) (r : ScopeRec) (n : Nat) : State :=
  s.pinScope a { r with births := r.births + BitVec.ofNat 64 n }

/-- The state with an engine's or a call's birth counted in a scope, and the cause and subcode of its refusal if it is refused:
a sealed or failed scope accepts it only from a strand born in its subtree, and a record homed on a fenced die is not
reached (R150, R153, R154, R166). -/
def State.memberBirth (s : State) (asid : Asid) (id birth : BitVec 32) : State × Option (Nat × Nat) :=
  match s.scopeOf asid id with
  | none => (s, some (7, 2))
  | some (a, r) =>
    if s.fencedAt a then (s, some (8, 0))
    else if r.acceptsMember ∧ (r.acceptsAll ∨ s.inSubtree asid birth id) then (s.addBirths a r 1, none)
    else (s.checkState a asid, some (7, 2))

/-- A record after a death: a proxy death counts as lost and fails the scope, and equal counts in a sealed scope begin
its closing steps (R155, R166). -/
def ScopeRec.died (r : ScopeRec) (proxy : Bool) : ScopeRec :=
  let r := { r with deaths := r.deaths + 1 }
  let r :=
    if proxy then
      { r with
        lost := min (r.lost + 1) (2 ^ 40 - 1)
        fl := true
        state := if r.state = .opened ∨ r.state = .cancelled then .failed else r.state }
    else r
  if r.state = .sealed ∧ r.deaths = r.births then { r with state := .closing } else r

/-- The state with a death counted in a scope; a record homed on a fenced die is not reached (R153, R155, R166). -/
def State.countDeath (s : State) (asid : Asid) (id : BitVec 32) (proxy : Bool) : State :=
  match s.scopeOf asid id with
  | none => s
  | some (a, r) =>
    if s.fencedAt a then s
    else
      let r' := r.died proxy
      let s := (s.checkState a asid).pinScope a r'
      if r'.state = .closing ∧ r.state ≠ .closing then s.addDue (.scopeClosing asid id) else s

/-- The in-service dies. -/
def State.liveDies (s : State) : List DieId := [0, 1, 2, 3].filter fun d => !(s.die d).fenced

/-- The state with a cancelled id sent to every in-service die (R158). -/
def State.broadcast (s : State) (asid : Asid) (id : BitVec 32) : State :=
  s.liveDies.foldl (fun s d => s.addDue (.cancelBroadcast d asid id)) s

/-- A record after a cancel (R158). -/
def ScopeRec.cancel (r : ScopeRec) : ScopeRec :=
  { r with cx := true, state := if r.state = .opened then .cancelled else r.state }

/-- The state with a scope cancelled and the cancel broadcast; a record homed on a fenced die is not reached
(R158, R166). -/
def State.cancelScope (s : State) (asid : Asid) (id : BitVec 32) : State :=
  match s.scopeOf asid id with
  | none => s
  | some (a, r) => if s.fencedAt a then s else (s.pinScope a r.cancel).broadcast asid id

/-- The close result word of a record (R156). -/
def ScopeRec.resultWord (r : ScopeRec) : Word :=
  let st := if r.kl then 4 else if r.fl then 3 else if r.sc then 2 else if r.cx then 1 else 0
  BitVec.ofNat 64 (st * 2 ^ 56 + r.result.toNat * 2 ^ 40 + r.lost % 2 ^ 40)

/-- The state with a scope sealed, its closing steps begun at once if it is empty (R155). -/
def State.sealScope (s : State) (asid : Asid) (a : Nat) (r : ScopeRec) : State :=
  if r.deaths = r.births then (s.pinScope a { r with state := .closing }).addDue (.scopeClosing asid r.id)
  else s.pinScope a { r with state := .sealed }

/-- The scopes that a strand opened, by its record's address, that are open, cancelled or failed and not yet closed. A strand that
halts with none but failed ones retires without a trap, and they close as on a cancel, which R157 does not say (DESIGN CHOICE,
assumption log 38). -/
def State.openedBy (s : State) (rec : Nat) : List (Nat × ScopeRec) :=
  (s.liveDies.flatMap fun d => (s.die d).scopes).filter fun e =>
    decide (e.2.opener = rec) &&
      (decide (e.2.state = .opened) || decide (e.2.state = .cancelled) || decide (e.2.state = .failed))

/-- The state with every scope a strand opened and has not closed cancelled and closed without an opener (R157). -/
def State.closeOpened (s : State) (rec : Nat) : State :=
  (s.openedBy rec).foldl
    (fun s e =>
      let asid := e.2.asid
      let s := s.cancelScope asid e.2.id
      match s.scopeOf asid e.2.id with
      | none => s
      | some (a, r) => s.sealScope asid a { r with opener := 0 }) s

end Sys2Proof.Machine
end

