-- ==== Sys2Proof/Machine/Caches.lean ====
section
/-!
DEFINITION. The lines of the L1 data caches and of the last-level caches, and the directory: fills, write-backs,
recalls and evictions (spec/02_hierarchy.md R39, R44 to R49, spec/03_leaf_pages.md R64, R67). The data of a line stand in
memory and in read copies; the caches say where a line is held. What the rules leave open of replacement and of the
states after a fill is chosen in assumption log 34.
-/
namespace Sys2Proof.Machine

/-! ### Directory entries (R47) -/

/-- The directory entry of a line at a die: its home's, or that of a die that holds it; a line without one has every
field zero (R47). -/
def State.dirOn (s : State) (d : DieId) (line : Nat) : DirEntry :=
  mapGet s.dirs (line * 4 + d.val) { sharers := 0, owner := 0, ov := false, dieCopies := 0, remote := 0, rv := false }

/-- The directory entry of a line at its home (R47). -/
def State.dir (s : State) (line : Nat) : DirEntry := s.dirOn (homeDie (line * 128)) line

/-- The state with a directory entry changed. -/
def State.modDir (s : State) (d : DieId) (line : Nat) (f : DirEntry → DirEntry) : State :=
  { s with dirs := mapSet s.dirs (line * 4 + d.val) (f (s.dirOn d line)) }

/-- The state with a die's entry of a line gone, all fields zero. -/
def State.dropDir (s : State) (d : DieId) (line : Nat) : State := { s with dirs := mapDel s.dirs (line * 4 + d.val) }

/-- The place of a die among the others, in ascending order skipping the home (R47). -/
def otherIx (home d : DieId) : Nat := if d.val < home.val then d.val else d.val - 1

/-- The die at a place among those other than the home (R47). -/
def otherDie (home : DieId) (k : Nat) : DieId := dieOfNat (if k < home.val then k else k + 1)

/-- The die that owns a line: another die while RV is set, else its home (R47, R49). -/
def State.ownerDie (s : State) (line : Nat) : DieId :=
  let home := homeDie (line * 128)
  if (s.dir line).rv then otherDie home (s.dir line).remote.toNat else home

/-! ### L1 data caches (R44, R45) -/

/-- The line that a core's L1 holds (R44). -/
def State.l1At (s : State) (c : CoreId) (line : Nat) : Option L1Line :=
  s.caches.l1.find? fun x => decide (x.core = c) && decide (x.line = line)

/-- The state with what the L1s hold changed. -/
def State.setL1 (s : State) (l : List L1Line) : State := { s with caches := { s.caches with l1 := l } }

/-- The way that the pseudo-LRU bits of a set name next: the root bit, then those of the halves and quarters (R44). -/
def plruVictim (b : BitVec 7) : Nat :=
  let n0 := (b.getLsbD 0).toNat
  let n1 := (b.getLsbD (1 + n0)).toNat
  4 * n0 + 2 * n1 + (b.getLsbD (3 + 2 * n0 + n1)).toNat

/-- A set's bit with a value. -/
def putBit (b : BitVec 7) (k : Nat) (v : Bool) : BitVec 7 := if v then b ||| (1#7 <<< k) else b &&& ~~~(1#7 <<< k)

/-- Pseudo-LRU bits after an access to a way: each bit on its path points away from it (R44). -/
def plruTouch (b : BitVec 7) (w : Nat) : BitVec 7 :=
  let b2 := w / 4 % 2
  let b1 := w / 2 % 2
  putBit (putBit (putBit b 0 (decide (b2 = 0))) (1 + b2) (decide (b1 = 0))) (3 + 2 * b2 + b1) (decide (w % 2 = 0))

/-- The key of a core's L1 set that holds a line: 128 sets (R39). -/
def l1Set (c : CoreId) (line : Nat) : Nat := c.val * 128 + line % 128

/-- The state with a way of an L1 set noted as used latest (R44). -/
def State.touchL1 (s : State) (c : CoreId) (line way : Nat) : State :=
  { s with
    caches := { s.caches with
      plru := mapSet s.caches.plru (l1Set c line) (plruTouch (mapGet s.caches.plru (l1Set c line) 0) way) } }

/-- The state with an LLC line of a die marked dirty: a write-back brings its dirty sectors (R44, R47). -/
def State.dirtyLlc (s : State) (d : DieId) (line : Nat) : State :=
  { s with
    caches := { s.caches with llc := s.caches.llc.map fun x => if x.die = d ∧ x.line = line then { x with dirty := true } else x } }

/-- The state with a core's L1 line written back to its die's LLC: its sectors are no longer dirty (R44). -/
def State.writeBack (s : State) (c : CoreId) (line : Nat) : State :=
  match s.l1At c line with
  | none => s
  | some x =>
    if x.dirty = 0 then s
    else (s.setL1 (s.caches.l1.map fun y => if y = x then { y with dirty := 0 } else y)).dirtyLlc (coreDie c) line

/-- The state with a line gone from a core's L1, its dirty sectors written back; it no longer owns the line (R44,
R47). -/
def State.dropL1 (s : State) (c : CoreId) (line : Nat) : State :=
  let s := s.writeBack c line
  let s := s.setL1 (s.caches.l1.filter fun x => !(decide (x.core = c) && decide (x.line = line)))
  let e := s.dirOn (coreDie c) line
  if e.ov ∧ e.owner.toNat = c.val % 448 then s.modDir (coreDie c) line fun e => { e with owner := 0, ov := false } else s

/-- The cores of a die that hold a line in their L1. -/
def State.holders (s : State) (d : DieId) (line : Nat) : List CoreId :=
  (s.caches.l1.filter fun x => decide (coreDie x.core = d) && decide (x.line = line)).map L1Line.core

/-- The state with a line recalled from every L1 of a die: dirty sectors return and no L1 holds it (R45, R47, R48). -/
def State.recallL1 (s : State) (d : DieId) (line : Nat) : State := (s.holders d line).foldl (fun s c => s.dropL1 c line) s

/-- The lowest way below n that no line of a list uses. -/
def freeWay (used : List Nat) (n : Nat) : Option Nat := (List.range n).find? fun w => !used.contains w

/-- The state with a line in a way of a core's L1: a free way of its set, else the pseudo-LRU way, whose line goes
(R44). -/
def State.fillL1 (s : State) (c : CoreId) (line : Nat) (st : Moesi) (valid dirty : BitVec 2) : State :=
  let set := s.caches.l1.filter fun x => decide (x.core = c) && decide (x.line % 128 = line % 128)
  let way := (freeWay (set.map L1Line.way) 8).getD (plruVictim (mapGet s.caches.plru (l1Set c line) 0))
  let s := match set.find? fun x => decide (x.way = way) with
    | some x => s.dropL1 c x.line
    | none => s
  (s.setL1 ({ core := c, line := line, way := way, state := st, valid := valid, dirty := dirty } :: s.caches.l1)).touchL1 c
    line way

/-- A holder's state after another core of its die loads the line: M becomes O, which keeps its dirty sectors, and E
becomes S (R44; assumption log 34). -/
def Moesi.shared_ : Moesi → Moesi
  | .modified => .owned
  | .owned => .owned
  | .exclusive => .shared
  | .shared => .shared

/-- The state after a core's load of sectors of a line that its die may cache: a hit, or a fill of those sectors, in E
where no other L1 of the die holds the line and the die owns it, else in S (R44, R47; assumption log 34). -/
def State.l1Load (s : State) (c : CoreId) (line : Nat) (mask : BitVec 2) (owned : Bool) : State :=
  match s.l1At c line with
  | some x =>
    (s.setL1 (s.caches.l1.map fun y => if y = x then { y with valid := y.valid ||| mask } else y)).touchL1 c line x.way
  | none =>
    let d := coreDie c
    let alone := (s.holders d line).isEmpty && owned
    let s := s.setL1 (s.caches.l1.map fun y =>
      if coreDie y.core = d ∧ y.line = line then { y with state := y.state.shared_ } else y)
    let dirty := s.caches.l1.any fun y => decide (coreDie y.core = d) && decide (y.line = line) && decide (y.state = .owned)
    (s.fillL1 c line (if alone then .exclusive else .shared) mask 0).modDir d line fun e =>
      { e with
        sharers := e.sharers ||| (1#112 <<< ((coreCluster c).val % 112))
        owner := if alone then BitVec.ofNat 9 (c.val % 448) else if dirty then e.owner else 0
        ov := alone || (dirty && e.ov) }

/-- The state after a core's store to sectors of a line that its die owns: every other L1 of the die has given it up, and
the core holds it in M (R44, R45). -/
def State.l1Store (s : State) (c : CoreId) (line : Nat) (mask : BitVec 2) : State :=
  let d := coreDie c
  let s := ((s.holders d line).filter fun x => !decide (x = c)).foldl (fun s x => s.dropL1 x line) s
  let s := match s.l1At c line with
    | some x =>
      (s.setL1 (s.caches.l1.map fun y =>
        if y = x then { y with state := .modified, valid := y.valid ||| mask, dirty := y.dirty ||| mask } else y)).touchL1 c
        line x.way
    | none => s.fillL1 c line .modified mask mask
  s.modDir d line fun e => { e with sharers := 0, owner := BitVec.ofNat 9 (c.val % 448), ov := true }

/-! ### The last-level cache (R39, R46, R47, R49, R64) -/

/-- The LLC slice of a die that a line lies in: that of R46, by the die's own slices in service. -/
def State.sliceOn (s : State) (d : DieId) (line : Nat) : Nat := sliceFrom (s.die d).slicesOut (sliceKey (line * 128)) 128

/-- The set of its slice that a line lies in: bits [11:0] of its key (R64; DESIGN CHOICE for lines that are not leaf
lines, assumption log 34). -/
def llcSet (line : Nat) : Nat := sliceKey (line * 128) % 4096

/-- Ways of a set that a die's power state leaves in service (R73, R408). -/
def Die.waysOn (d : Die) : Nat :=
  match d.power.toNat with
  | 1 => 8
  | 2 => 4
  | _ => 12

/-- Ways of a set that leaf lines may hold (R64, R73). -/
def Die.leafWays (d : Die) : Nat := min d.waysOn 11

/-- The leaf lines in a set of a slice of a die: page, line in the page, and way (R64). -/
def State.leafInSet (s : State) (d : DieId) (slice set : Nat) : List (Nat × Nat × Nat) :=
  (s.die d).lpns.flatMap fun e =>
    (e.2.lines.filter fun l =>
      decide ((e.1 * 512 + l.1) % 4096 = set) && decide (s.homeSlice (leafLoc d.val e.1 (l.1 * 128)) = slice)).map fun l =>
      (e.1, l.1, l.2)

/-- The ordinary lines in a set of a slice of a die. -/
def State.llcInSet (s : State) (d : DieId) (slice set : Nat) : List LlcLine :=
  s.caches.llc.filter fun x => decide (x.die = d) && decide (llcSet x.line = set) && decide (s.sliceOn d x.line = slice)

/-- The line is a leaf line, which stands in its page's ways and not among the ordinary lines (R64, R67). -/
def leafLine (line : Nat) : Bool := decide (leafBase ≤ line * 128)

/-- The state with a line gone from the LLC of a die that is not its home: from its L1s first; its read copy is dropped,
and a line it owned returns to the home (R47, R49). -/
def State.dropFar (s : State) (d : DieId) (line : Nat) : State :=
  let s := s.recallL1 d line
  let owned := decide (s.ownerDie line = d)
  let s := { s with
    copies := s.copies.filter fun x => !(decide (x.die = d) && decide (x.line = line))
    caches := { s.caches with llc := s.caches.llc.filter fun x => !(decide (x.die = d) && decide (x.line = line)) } }
  let s := s.dropDir d line
  if owned then
    (s.modDir (homeDie (line * 128)) line fun e => { e with rv := false, remote := 0 }).dirtyLlc (homeDie (line * 128)) line
  else s

/-- The state with a line that another die owns recalled to its home, which it returns to (R49; that a read recalls it is
DEDUCED, assumption log 34). -/
def State.recallFar (s : State) (line : Nat) : State :=
  let d := s.ownerDie line
  if d = homeDie (line * 128) then s else s.dropFar d line

/-- The state with a line gone from its home's LLC: recalled from every L1 of the die, from an owner and from the dies with
copies, before its dirty data go to HBM (R47; that other dies give it up is DEDUCED, assumption log 34). -/
def State.dropHome (s : State) (line : Nat) : State :=
  let home := homeDie (line * 128)
  let s := ([0, 1, 2, 3].filter fun d => decide (d ≠ home)).foldl
    (fun s d =>
      if s.copies.any (fun x => decide (x.die = d) && decide (x.line = line)) ∨ s.ownerDie line = d then s.dropFar d line else s) s
  let s := s.recallL1 home line
  let s := { s with
    caches := { s.caches with llc := s.caches.llc.filter fun x => !(decide (x.die = home) && decide (x.line = line)) } }
  s.dropDir home line

/-- The state with an ordinary line evicted from the LLC of a die (R47, R49). -/
def State.evict (s : State) (d : DieId) (line : Nat) : State :=
  if homeDie (line * 128) = d then s.dropHome line else s.dropFar d line

/-- A way for a new line of a set: a free one, else that of an ordinary line, chosen freely, which is evicted; none where
leaf lines hold every way (R47; assumption log 34). -/
def State.makeWay (s : State) (d : DieId) (slice set : Nat) : Option (Nat × State) :=
  let plain := s.llcInSet d slice set
  let used := plain.map LlcLine.way ++ (s.leafInSet d slice set).map fun e => e.2.2
  match freeWay used (s.die d).waysOn with
  | some w => some (w, s)
  | none =>
    match plain[(Config.freeWord s.tick).toNat % plain.length]? with
    | none => none
    | some x => some (x.way, s.evict d x.line)

/-- The state with an ordinary line in the LLC of a die (R47, R49). -/
def State.putLlc (s : State) (d : DieId) (line : Nat) : State :=
  if (leafLine line && decide (homeDie (line * 128) = d)) ||
      s.caches.llc.any fun x => decide (x.die = d) && decide (x.line = line) then s
  else
    match s.makeWay d (s.sliceOn d line) (llcSet line) with
    | none => s
    | some (w, s') =>
      { s' with caches := { s'.caches with llc := { die := d, line := line, way := w, dirty := false } :: s'.caches.llc } }

/-- The LLC of a die holds a line: a leaf line stands in its page's way at its home (R47, R64). -/
def State.hasLlc (s : State) (d : DieId) (line : Nat) : Bool :=
  (leafLine line && decide (homeDie (line * 128) = d)) ||
    s.caches.llc.any fun x => decide (x.die = d) && decide (x.line = line)

/-- The LLCs of a die and of a line's home hold the line or have a way for it: without one neither the L1s of the die nor the
directory can hold it (R47; assumption log 34). -/
def State.hasWays (s : State) (d : DieId) (line : Nat) : Bool :=
  [d, homeDie (line * 128)].all fun e => s.hasLlc e line || (s.makeWay e (s.sliceOn e line) (llcSet line)).isSome

/-- The state after a core's load of sectors of a line: the line is in its die's LLC if that has a way for it, and then in the
core's L1, since the LLC is inclusive (R47). -/
def State.loadKept (s : State) (c : CoreId) (line : Nat) (mask : BitVec 2) (owned : Bool) : State :=
  let s := s.putLlc (coreDie c) line
  if s.hasLlc (coreDie c) line then s.l1Load c line mask owned else s

/-- The sectors of a line that n bytes at a location touch (R44). -/
def sectorMask (line loc n : Nat) : BitVec 2 :=
  let hit := fun k => decide (loc / 64 ≤ line * 2 + k) && decide (line * 2 + k ≤ (loc + n - 1) / 64)
  (if hit 0 then 1 else 0) ||| (if hit 1 then 2 else 0)

/-- The state with every cached line of a range of lines gone from every die's caches and directory. -/
def State.forgetLines (s : State) (lo hi : Nat) : State :=
  let out := fun l => !(decide (lo ≤ l) && decide (l < hi))
  { s with
    copies := s.copies.filter fun x => out x.line
    dirs := s.dirs.filter fun x => out (x.1 / 4)
    caches := { s.caches with
      l1 := s.caches.l1.filter fun x => out x.line
      llc := s.caches.llc.filter fun x => out x.line } }

/-- The state with everything a die's caches hold gone (R54). -/
def State.forgetDie (s : State) (d : DieId) : State :=
  { s with
    copies := s.copies.filter fun x => !decide (x.die = d)
    dirs := s.dirs.filter fun x => !decide (x.1 % 4 = d.val)
    caches := { s.caches with
      l1 := s.caches.l1.filter fun x => !decide (coreDie x.core = d)
      llc := s.caches.llc.filter fun x => !decide (x.die = d) } }

/-! ### Cache operations (R114) -/

/-- The state after a core's L1 line is written back, and dropped if the operation drops it (R114). -/
def State.cleanL1 (s : State) (c : CoreId) (line : Nat) (drop : Bool) : State :=
  if drop then s.dropL1 c line else s.writeBack c line

end Sys2Proof.Machine
end

