-- ==== Sys2Proof/Machine/Ordering.lean ====
section
/-!
DEFINITION. When an access becomes visible and to whom: cross-die invalidations and who counts them, stores that are not
yet die-visible, and what a release carries to those who acquire it (spec/02_hierarchy.md R45 to R51,
spec/05_ordering_near.md R98 to R113, spec/06_ordering_far.md R116 to R127).
-/
namespace Sys2Proof.Machine

/-! ### Parties -/

/-- A queued `mx.st` of the issuing strand has not run: its writes count as the strand's stores, on whichever core it was
issued (R125, R306). -/
def State.storeQueued (s : State) : Bool :=
  s.cores.any fun c => c.2.queue.any fun q => decide (q.op = .st) && decide (q.issuer = s.cur.handle.addr)

/-- The party of the strand that issues (R124). -/
def State.me (s : State) : Party :=
  { die := s.myDie, core := some s.cur.core, asid := s.cur.asid, team := s.cur.teamId, who := .strand s.cur.handle.addr }

/-- The party is a strand. -/
def Party.isStrand (w : Party) : Bool :=
  match w.who with
  | .strand _ => true
  | _ => false

/-- The party is an engine command. -/
def Party.isEngine (w : Party) : Bool :=
  match w.who with
  | .ladle _ _ => true
  | .crucible _ _ => true
  | _ => false

/-- Who counts the invalidations of a party's writes: a strand's core, an engine command or a requester itself (R50,
R122, R124). -/
def Party.writer (w : Party) : Agent :=
  match w.who, w.core with
  | .strand _, some c => .core c
  | a, _ => a

/-! ### Invalidations (R49, R50, R116) -/

/-- The dies that hold a read copy of a line or may hold one by the directory, but for its home and one other, the writer's,
whose copy goes with the write: those that are sent an invalidation (R49, R116; DESIGN CHOICE, assumption log 34). -/
def State.copyDies (s : State) (but : DieId) (line : Nat) : List DieId :=
  let home := homeDie (line * 128)
  [0, 1, 2, 3].filter fun d =>
    decide (d ≠ home) && decide (d ≠ but) &&
      ((s.dir line).dieCopies.getLsbD (otherIx home d) ||
        s.copies.any fun c => decide (c.die = d) && decide (c.line = line))

/-- The state with an invalidation of a line sent to a die and counted for its writer, unless one of that writer's is on
its way (R49, R50). -/
def State.sendInvalidation (s : State) (d : DieId) (line : Nat) (a : Agent) : State :=
  let e := Instr.crossDieInvalidation d line a
  if s.agenda.contains e then s else (s.addAgenda e).modPending a (· + 1)

/-- The state with the read copies of a line told to go for a party's write, and no die marked as holding one (R49,
R50). -/
def State.invalidate (s : State) (w : Party) (line : Nat) : State :=
  let s := (s.copyDies w.die line).foldl (fun s d => s.sendInvalidation d line w.writer) s
  if (s.dir line).dieCopies = 0 then s else s.modDir (homeDie (line * 128)) line fun e => { e with dieCopies := 0 }

/-- The state in which a die's read copy of a line and its L1s' are gone, unless it has come to own the line since (R50). -/
def State.dropInvalidated (s : State) (d : DieId) (line : Nat) : State :=
  if s.ownerDie line = d then s else s.dropFar d line

/-- The state after a die has applied an invalidation and acknowledged it (R50). -/
def State.applyInvalidation (s : State) (d : DieId) (line : Nat) (a : Agent) : State :=
  (s.dropInvalidated d line).modPending a (· - 1)

/-- The invalidations on their way to a die. -/
def State.invalidationsTo (s : State) (d : DieId) : List (Nat × Agent) :=
  s.agenda.filterMap fun e => match e with
    | .crossDieInvalidation x line a => if x = d then some (line, a) else none
    | _ => none

/-- The state after a die has applied every invalidation on its way to it (R99, R104, R119). -/
def State.applyAll (s : State) (d : DieId) : State :=
  let l := s.invalidationsTo d
  if l.isEmpty then s
  else
    l.foldl (fun s e => s.applyInvalidation d e.1 e.2)
      { s with agenda := s.agenda.filter fun e => match e with
          | .crossDieInvalidation x _ _ => !decide (x = d)
          | _ => true }

/-! ### Lines that are stored to or read (R45, R49, R51) -/

/-- The state after an operation of a party performed at a line's home: any owner and every L1 copy recalled, copies
invalidated (R45, R51, R122). -/
def State.noteHome (s : State) (w : Party) (line : Nat) : State :=
  let home := homeDie (line * 128)
  let s := (s.recallFar line).recallL1 home line
  let s := (s.invalidate w line).recallL1 w.die line
  let s := if w.die = home then s else s.dropFar w.die line
  (s.putLlc home line).dirtyLlc home line

/-- The state in which a die owns a line: recalled from another owner, and from the home's L1s where the home gives it
away (R49). -/
def State.takeLine (s : State) (d : DieId) (line : Nat) : State :=
  let home := homeDie (line * 128)
  let s := if s.ownerDie line = d then s else s.recallFar line
  if d = home then s
  else
    (((s.recallL1 home line).putLlc home line).modDir home line fun e =>
      { e with rv := true, remote := BitVec.ofNat 2 (otherIx home d) }).putLlc d line

/-- The state after a store of a party to sectors of a line is performed: copies invalidated, the line in M in the storing
core's L1, on a die that owns it; the host's, a peer's and those of a line for which no LLC has a way are performed at the home
(R45, R47, R49, R122, R124; assumption log 34). -/
def State.noteStore (s : State) (w : Party) (line : Nat) (mask : BitVec 2) : State :=
  match w.core with
  | none => s.noteHome w line
  | some c =>
    if !s.hasWays w.die line then s.noteHome w line
    else
    let s := (s.takeLine w.die line).invalidate w line
    let s : State := { s with copies := s.copies.filter fun x => !(decide (x.die = w.die) && decide (x.line = line)) }
    (s.putLlc w.die line).l1Store c line mask

/-- The line exists: any but a leaf line that its page does not hold (R66). -/
def State.lineExists (s : State) (line : Nat) : Bool :=
  !leafLine line ||
    let k := leafParts (line * 128)
    (s.lpn (dieOfNat k.1) k.2.1).lines.any fun l => decide (l.1 = k.2.2 / 128)

/-- Some store to a line is not yet die-visible (R106). -/
def State.earlyIn (s : State) (line : Nat) : Bool := s.order.early.any fun e => decide (e.loc / 128 = line)

/-- A read copy that a die holds of a line (R49). -/
def State.copyOf (s : State) (d : DieId) (line : Nat) : Option ReadCopy :=
  s.copies.find? fun c => decide (c.die = d) && decide (c.line = line)

/-- The state in which a die other than a line's home has taken a read copy of it (R49). -/
def State.takeCopy (s : State) (d : DieId) (line : Nat) : State :=
  let home := homeDie (line * 128)
  let s := (s.recallFar line).putLlc home line
  let copy : ReadCopy :=
    { die := d, line := line, data := s.bytes (line * 128) 128
      tags := (List.range 8).map fun i => s.tagAt (line * 128 + 16 * i) }
  (({ s with copies := s.copies ++ [copy] } : State).modDir home line fun e =>
    { e with dieCopies := e.dieCopies ||| (1#3 <<< otherIx home d) }).putLlc d line

/-- The die can take a read copy of a line: it is not the home nor the owner, both are in service and have a way for it, the
line exists and no store to it is hidden (R47, R49, R56, R66, R106). -/
def State.canCopy (s : State) (d : DieId) (line : Nat) : Bool :=
  let home := homeDie (line * 128)
  decide (d ≠ home) && decide (s.ownerDie line ≠ d) && !(s.die home).fenced && !(s.die d).fenced && s.lineExists line &&
    !s.earlyIn line && (s.copyOf d line).isNone && s.hasWays d line

/-- The state after a load of a party from sectors of a line: its die's L1 and LLC where the die owns the line or holds a
copy; otherwise the read is made at the home, and whether a die other than the home keeps a read copy is open (R44, R47, R49,
R66, R122; assumption log 1). An engine's read of its source is taken as a load of the core that issued its command (DESIGN
CHOICE, assumption log 34). -/
def State.noteLoad (s : State) (w : Party) (line : Nat) (mask : BitVec 2) : State :=
  let home := homeDie (line * 128)
  if !s.lineExists line then s
  else
    match w.core with
    | none =>
      let s := s.recallFar line
      (s.holders home line).foldl (fun s c => s.writeBack c line) s
    | some c =>
      if s.ownerDie line = w.die then s.loadKept c line mask true
      else if (s.copyOf w.die line).isSome then s.loadKept c line mask false
      else if s.canCopy w.die line ∧ (Config.freeWord s.tick).getLsbD (line % 64) then
        (s.takeCopy w.die line).loadKept c line mask false
      else if w.die = home then (s.recallFar line).loadKept c line mask true
      else s.recallFar line

/-- The lines of n bytes at a location. -/
def linesOf (loc n : Nat) : List Nat := (List.range ((loc + n - 1) / 128 - loc / 128 + 1)).map (loc / 128 + ·)

/-! ### Stores that are not yet die-visible (R106) -/

/-- The party that an early store is of. -/
def Early.party (e : Early) : Party :=
  { die := coreDie e.core, core := some e.core, asid := 0, team := 0, who := e.who }

/-- A party does not see an early store: it is neither whose store it is nor, once the store is core-visible, a strand of its
core (R106, R124). -/
def Early.hiddenFrom (e : Early) (w : Party) : Bool :=
  !decide (w.who = e.who) && !(e.coreVis && w.isStrand && decide (w.core = some e.core))

/-- The early stores left when one of them has become die-visible: its granule's tag is then the one that it wrote, for it
and for the others of the granule (R26, R106). -/
def dropEarly (e : Early) (l : List Early) : List Early :=
  (l.filter fun x => !decide (x.loc = e.loc)).map fun x => if x.loc / 16 = e.loc / 16 then { x with oldTag := false } else x

/-- The state after early stores have become die-visible (R45, R106). -/
def State.performAll (s : State) (l : List Early) : State :=
  l.foldl (fun s e =>
    let s := { s with order := { s.order with early := dropEarly e s.order.early } }
    if regionOf e.loc = .cluster then s
    else s.noteStore e.party (e.loc / 128) (sectorMask (e.loc / 128) e.loc e.old.length)) s

/-- The early stores to granules of n bytes at a location. -/
def State.earlyAt (s : State) (loc n : Nat) : List Early :=
  s.order.early.filter fun e => decide (loc / 16 ≤ e.loc / 16) && decide (e.loc / 16 ≤ (loc + n - 1) / 16)

/-- The state after the early stores to granules of n bytes at a location have become die-visible (R98, R106). -/
def State.performAt (s : State) (loc n : Nat) : State := s.performAll (s.earlyAt loc n)

/-- An early store is the issuing strand's, or a core-visible one of its core, which it may have read (R104, R108). -/
def State.mine (s : State) (e : Early) : Bool :=
  decide (e.who = .strand s.cur.handle.addr) || (e.coreVis && decide (e.core = s.cur.core))

/-- The state after the issuing strand's stores, and the core-visible ones of its core, have become die-visible (R104,
R107, R108). -/
def State.quiet (s : State) : State :=
  s.performAll (s.order.early.filter s.mine)

/-- The state after the issuing strand's stores have become core-visible (R107, R108). -/
def State.toCore (s : State) : State :=
  { s with
    order := { s.order with
      early := s.order.early.map fun e => if e.who = .strand s.cur.handle.addr then { e with coreVis := true } else e } }

/-- The state after the early stores of an agent have become die-visible. -/
def State.performOf (s : State) (a : Agent) : State := s.performAll (s.order.early.filter fun e => decide (e.who = a))

/-- The state after one early store has taken a step that the spec leaves open, or none has; an engine's is never core-visible
first (R106, R124; assumption log 1). -/
def State.drain (s : State) : State :=
  match s.order.early with
  | [] => s
  | l =>
    let v := Config.freeWord s.tick
    match l[v.toNat % l.length]? with
    | none => s
    | some e =>
      if v.getLsbD 62 then s.performAll [e]
      else if v.getLsbD 61 ∧ e.party.isStrand then
        { s with order := { s.order with early := l.map fun x => if x = e then { x with coreVis := true } else x } }
      else s

/-- The pieces of a store, each within an aligned 8-byte word, or the granule of a strand's 16-byte one, with their old bytes
(R40, R106, R128). -/
def earlyPieces (c : CoreId) (a : Agent) (s : State) (loc n : Nat) : List Early :=
  let whole := match a with
    | .strand _ => decide (n = 16) && decide (loc % 16 = 0)
    | _ => false
  if whole then
    [{ loc := loc, old := s.bytes loc n, oldTag := s.tagAt loc, syncs := s.order.syncs.flatMap fun y => y.clip loc n
       who := a, core := c, coreVis := false }]
  else
    (List.range ((loc + n - 1) / 8 - loc / 8 + 1)).map fun i =>
      let lo := max loc ((loc / 8 + i) * 8)
      let hi := min (loc + n) ((loc / 8 + i + 1) * 8)
      { loc := lo, old := s.bytes lo (hi - lo), oldTag := s.tagAt lo
        syncs := s.order.syncs.flatMap fun y => y.clip lo (hi - lo), who := a, core := c, coreVis := false }

/-! ### What a release carries (R105, R110, R118) -/

/-- The releases that n bytes at a location carry as a party sees them: what the bytes of an early store that it does not see
carried before it (R106, R110). -/
def State.syncsAt (s : State) (w : Party) (loc n : Nat) : List Sync :=
  let hidden := (s.earlyAt loc n).filter fun e => e.hiddenFrom w
  let shown := hidden.foldl (fun l e => l.flatMap fun y => y.without e.loc e.old.length) s.order.syncs
  (shown ++ hidden.flatMap Early.syncs).filter fun y => y.meets loc n

/-- The state after a party's strand has read bytes without acquiring: its next fence may (R112). -/
def State.noteRead (s : State) (w : Party) (loc n : Nat) : State :=
  match w.who, s.syncsAt w loc n with
  | .strand r, y :: l => s.setCarry { s.carry r with loaded := joinNew (s.carry r).loaded (y :: l) }
  | _, _ => s

/-- The state after the issuing strand has acquired what bytes carry at a scope; what it has read of other releases its next
fence of their scope may acquire (R109, R110, R112). -/
def State.acquire (s : State) (scope loc n : Nat) : State :=
  match s.syncsAt s.me loc n with
  | [] => s
  | l => s.takeSyncs (s.carry s.cur.handle.addr) s.cur.core scope l

/-- The writers whose invalidations happen before the issuing strand's next release (R110, R118). -/
def State.happened (s : State) : List Agent :=
  s.unsettled (joinNew [.core s.cur.core] (s.carry s.cur.handle.addr).carried)

/-- The state in which n bytes at a location carry what a strand's fences release with later stores (R112). -/
def State.putFenced (s : State) (r : Nat) (c : CoreId) (loc n : Nat) : State :=
  (s.carry r).fenced.foldl (fun s e => s.putSync c e.1 loc n (s.unsettled e.2)) s

/-- The state in which n bytes at a location carry a release of the issuing strand at a scope, and what its fences release
(R108, R110, R112). -/
def State.releaseWord (s : State) (scope loc n : Nat) : State :=
  (s.putSync s.cur.core scope loc n s.happened).putFenced s.cur.handle.addr s.cur.core loc n

/-- The state after a store to n bytes at a location, which carry no earlier release and, for a strand, what its fences
release (R110, R112). -/
def State.noteWrite (s : State) (w : Party) (loc n : Nat) : State :=
  let s :=
    if s.order.syncs.isEmpty then s
    else { s with order := { s.order with syncs := s.order.syncs.flatMap fun y => y.without loc n } }
  match w.who, w.core with
  | .strand r, some c => s.putFenced r c loc n
  | _, _ => s

/-- The state after a fence of the issuing strand at a scope has acquired what its earlier loads read, as far as that
synchronises with it (R110, R112). -/
def State.fenceAcquire (s : State) (scope : Nat) : State :=
  let c := s.carry s.cur.handle.addr
  s.takeSyncs { c with loaded := [] } s.cur.core scope c.loaded

/-- The state in which the issuing strand's later stores release what happened before its fence at a scope; what it has
fenced at a wider scope they release too (R110, R112). -/
def State.fenceRelease (s : State) (scope : Nat) : State :=
  let c := s.carry s.cur.handle.addr
  let wider := (c.fenced.map fun e => (e.1, s.unsettled e.2)).filter fun e => decide (scope < e.1) && !e.2.isEmpty
  s.setCarry { c with fenced := if s.happened.isEmpty then wider else (scope, s.happened) :: wider }

/-- The issuing strand's earlier accesses, and the writes that happen before, are performed at `dev`: no early store and no
queued `mx.st` of it is left, and neither its core nor a writer that it carries waits for a cross-die invalidation
(R50, R104, R116, R118, R306). -/
def State.settled (s : State) : Bool :=
  decide ((s.core s.cur.core).invCount = 0) && !s.order.early.any s.mine && !s.storeQueued &&
    (s.carry s.cur.handle.addr).carried.all fun a => decide (s.pendingOn a = 0)

end Sys2Proof.Machine
end

