-- ==== Sys2Proof/Machine/Access.lean ====
section
/-!
DEFINITION. Reads and writes of memory at a place: fenced dies, leaf pages, processor-owned regions, poison, and what a
party sees (spec/02_hierarchy.md R45 to R57, spec/03_leaf_pages.md R63 to R78, spec/05_ordering_near.md R106).
-/
namespace Sys2Proof.Machine

/-- The place is one that caches may hold a copy of (R44). -/
def Place.cacheable (p : Place) : Bool :=
  (decide (p.ptype = .normal) && !p.cmem) || decide (p.ptype = .leaf)

/-! ### What stands before an access is performed -/

/-- Someone waits at a leaf page: it is Moving, or others that waited there come first (R74, R78). -/
def Lpn.holds (e : Lpn) (a : Agent) : Bool :=
  decide (e.state = .moving) || (match e.queue with
    | [] => false
    | x :: _ => !decide (x = a))

/-- A leaf page is in the middle of an operation, or others wait for it first: an operation of the device that reaches it waits
(R74). -/
def State.pageBusy (s : State) (d : DieId) (lpn : Nat) (who : Agent) : Bool :=
  decide ((s.lpn d lpn).state = .converting) || (s.lpn d lpn).holds who

/-- The stop of an access to a processor-owned page of any type: the transfer of the 2 MiB region that holds its location, by
which the region of a page outside the host window is named (R33, R390; DESIGN CHOICE, assumption log 31). -/
def Place.transfer (p : Place) (va : Word) : Stop := .chain (.ownership (p.loc / 0x200000 * 0x200000)) va

/-- A fenced home, a unit under test, a processor-owned region or a leaf page's state that keeps an access of n bytes from being
performed: of a stack under test the failing bursts, those that are poisoned, stall. Whose write caused a conversion that lost the page
is told so, whatever has become of the page since (R33, R56, R69, R70, R71, R78, R398). A page that became Backed under another
ASID's entry gives subcode 5 there (DESIGN CHOICE, assumption log 38). -/
def State.gate (s : State) (w : Party) (p : Place) (va : Word) (n : Nat) : Option Stop :=
  if s.fencedAt p.loc then some (.fault 8 0 va)
  else if s.sliceHeld p.loc n ∨ (s.burstHeld p.loc ∧ s.poisoned p.loc n) then some .wait
  else if p.owner = 1 then some (p.transfer va)
  else if p.ptype = .leaf then
    let k := leafParts p.loc
    let e := s.lpn (dieOfNat k.1) k.2.1
    if e.state = .converting then some (.chain (.conversion (dieOfNat k.1) k.2.1) va)
    else if s.chains.any fun c => decide (c.1 = .causer (dieOfNat k.1) k.2.1 w.who) then some (.fault 0x0B 2 va)
    else
      match e.state with
      | .lost => some (.fault 0x0B 1 va)
      | .backed => some (.fault 3 5 va)
      | _ => if e.holds w.who then some .wait else none
  else none

/-- The state in which an agent waits at a leaf page, behind those that came before it (R74, R78). -/
def State.arriveAt (s : State) (d : DieId) (lpn : Nat) (a : Agent) : State :=
  if (s.lpn d lpn).queue.contains a then s else s.modLpn d lpn fun e => { e with queue := e.queue ++ [a] }

/-- The state in which an agent no longer waits at a leaf page. -/
def State.departAt (s : State) (d : DieId) (lpn : Nat) (a : Agent) : State :=
  if (s.lpn d lpn).queue.contains a then
    s.modLpn d lpn fun e => { e with queue := e.queue.filter fun x => !decide (x = a) }
  else s

/-- The state in which no agent that a test accepts waits at a leaf page or for an allocation. -/
def State.leaveWhere (s : State) (p : Agent → Bool) : State :=
  { s with
    teams := if s.teams.any (fun t => t.held.any p) then
        s.teams.map fun t => { t with held := t.held.filter fun x => !p x }
      else s.teams
    dies := s.dies.map fun x =>
      if x.lpns.any (fun e => e.2.queue.any p) then
        { x with lpns := x.lpns.map fun e => (e.1, { e.2 with queue := e.2.queue.filter fun y => !p y }) }
      else x }

/-- The state in which an agent waits at no leaf page and for no allocation. -/
def State.leaveQueues (s : State) (a : Agent) : State := s.leaveWhere fun x => decide (x = a)

/-- The state in which an operation of the device waits at a leaf page, and at no other (R74). -/
def State.waitAt (s : State) (d : DieId) (lpn : Nat) (a : Agent) : State :=
  if (s.lpn d lpn).queue.contains a then s else (s.leaveQueues a).arriveAt d lpn a

/-- The state after a party has come to a place and been kept from it or not: it waits there in arrival order, or goes on
(R78). -/
def State.arrive (s : State) (w : Party) (p : Place) (x : Option Stop) : State :=
  if p.ptype = .leaf then
    let k := leafParts p.loc
    if x = some .wait then s.arriveAt (dieOfNat k.1) k.2.1 w.who else s.departAt (dieOfNat k.1) k.2.1 w.who
  else s

/-- The state after a party has come to several places of one access: while one keeps it waiting, it waits at each that does
(R78). -/
def State.arriveAll (s : State) (w : Party) (l : List (Place × Word × Nat)) (x : Option Stop) : State :=
  l.foldl (fun s y =>
    let g := s.gate w y.1 y.2.1 y.2.2
    if x = some .wait ∧ g ≠ some .wait then s else s.arrive w y.1 x) s

/-! ### What a party sees (R26, R50, R106) -/

/-- A byte of a place as a party sees it: of its die's read copy, or what stood there before an early store that it does
not see, or what memory holds (R50, R106). The host's and a peer's reads are made at the home (R122). -/
def State.seenByte (s : State) (w : Party) (cached : Bool) (a : Nat) : Byte :=
  match (if cached && w.core.isSome then s.copyOf w.die (a / 128) else none) with
  | some c => c.data.getD (a % 128) 0
  | none =>
    match s.order.early.find? fun e =>
      decide (e.loc ≤ a) && decide (a < e.loc + e.old.length) && e.hiddenFrom w with
    | some e => e.old.getD (a - e.loc) 0
    | none => s.mem.read a

/-- The n bytes at a place as a party sees them; only a cacheable place has copies (R44, R50, R106). -/
def State.seen (s : State) (w : Party) (p : Place) (n : Nat) : List Byte :=
  if s.copies.isEmpty && s.order.early.isEmpty then s.bytes p.loc n
  else (List.range n).map fun i => s.seenByte w p.cacheable (p.loc + i)

/-- The n bytes at a location that no cache holds as a party sees them (R106). -/
def State.seenAt (s : State) (w : Party) (a n : Nat) : List Byte :=
  if s.order.early.isEmpty then s.bytes a n else (List.range n).map fun i => s.seenByte w false (a + i)

/-- The tag of a granule as a party sees it; only places that hold tags have one. The old tag stands only while the party sees
no part of the granule's store (R26, R27, R106). -/
def State.seenTag (s : State) (w : Party) (p : Place) : Bool :=
  if !p.tags then false
  else
    match (if p.cacheable && w.core.isSome then s.copyOf w.die (p.loc / 128) else none) with
    | some c => c.tags.getD (p.loc % 128 / 16) false
    | none =>
      let l := s.order.early.filter fun e => decide (e.loc / 16 = p.loc / 16)
      match l.find? fun e => e.hiddenFrom w with
      | none => s.tagAt p.loc
      | some e => e.oldTag && l.all fun x => x.hiddenFrom w

/-! ### Reads -/

/-- The state after a read of n bytes of a place by a party is performed (R44, R47, R112). -/
def State.noteReads (s : State) (w : Party) (p : Place) (n : Nat) : State :=
  (if p.cacheable then (linesOf p.loc n).foldl (fun s l => s.noteLoad w l (sectorMask l p.loc n)) s else s).noteRead w p.loc n

/-- Why n bytes at a place are not read, if they are not (R55, R56). -/
def State.readStop (s : State) (w : Party) (p : Place) (va : Word) (n : Nat) : Option Stop :=
  match s.gate w p va n with
  | some x => some x
  | none => if s.poisoned p.loc n then some (.poison (s.poisonSector p.loc n * 64) va) else none

/-- The n bytes that a party reads at a place of memory (R55, R56). -/
def State.readPlace (s : State) (w : Party) (p : Place) (va : Word) (n : Nat) : State × Except Stop (List Byte) :=
  match s.readStop w p va n with
  | some x => (s.arrive w p (some x), .error x)
  | none => ((s.noteReads w p n).arrive w p none, .ok (s.seen w p n))

/-- The bytes that a party reads at several places in one access, with their addresses and lengths, all or none. -/
def State.readPlaces (s : State) (w : Party) (l : List (Place × Word × Nat)) : State × Except Stop (List (List Byte)) :=
  match l.findSome? fun x => s.readStop w x.1 x.2.1 x.2.2 with
  | some x => (s.arriveAll w l (some x), .error x)
  | none => ((l.foldl (fun s x => s.noteReads w x.1 x.2.2) s).arriveAll w l none, .ok (l.map fun x => s.seen w x.1 x.2.2))

/-! ### Writes, with the allocation of leaf lines (R63, R65) -/

/-- Leaf lines held in the set of a line of a page of a die (R64). -/
def State.leafSet (s : State) (d : DieId) (lpn line : Nat) : List (Nat × Nat × Nat) :=
  s.leafInSet d (s.homeSlice (leafLoc d.val lpn (line * 128))) ((lpn * 512 + line) % 4096)

/-- The way that a new leaf line of a set takes: the lowest of the leaf ways that holds no leaf line, else of the others;
none in a full set (R64, R65). -/
def State.leafWay (s : State) (d : DieId) (lpn line : Nat) : Option Nat :=
  let used := (s.leafSet d lpn line).map fun e => e.2.2
  if used.length ≥ (s.die d).leafWays then none else freeWay used (s.die d).waysOn

/-- The state with an ordinary line evicted from a way that a leaf line takes (R64). -/
def State.clearWay (s : State) (d : DieId) (lpn line way : Nat) : State :=
  match (s.llcInSet d (s.homeSlice (leafLoc d.val lpn (line * 128))) ((lpn * 512 + line) % 4096)).find? fun x =>
      decide (x.way = way) with
  | some x => s.evict d x.line
  | none => s

/-- The state with a leaf line allocated for a write, or why the allocation is refused; none is made while a shrink runs
(R65, R68, R72). Where the reservation is used up and the set is full too, subcode 0 is reported; the rules give no order (DESIGN
CHOICE, assumption log 38). -/
def State.allocLine (s : State) (p : Place) (asid : Asid) (va : Word) (line : Nat) : State × Option Stop :=
  let k := leafParts (line * 128)
  let d := dieOfNat k.1
  let lpn := k.2.1
  let ln := k.2.2 / 128
  let e := s.lpn d lpn
  if e.lines.any (fun l => decide (l.1 = ln)) then (s, none)
  else
    let r := (s.die d).resv.get e.f.toFin
    let refuse := fun (sub : Nat) => (s, some (if p.spill then Stop.convert d lpn va else .fault 0x0B sub va))
    if r.resident ≥ r.reservation.toNat * 512 ∨ s.agenda.contains (.leafShrink d e.f.toFin) then refuse 0
    else
      match s.leafWay d lpn ln with
      | none => refuse 3
      | some way =>
        let s := (s.clearWay d lpn ln way).modLpn d lpn fun e =>
          { e with state := .resident, lines := mapSet e.lines ln way, lastAsid := asid, spill := p.spill }
        let s := s.modDie d fun x =>
          { x with resv := x.resv.set e.f.toFin { r with resident := r.resident + 1 } }
        (s.zeroRange (line * 128) 128, none)

/-- The state with every leaf line of a write allocated, or why one is refused. -/
def State.allocLines (s : State) (p : Place) (asid : Asid) (va : Word) : List Nat → State × Option Stop
  | [] => (s, none)
  | l :: r =>
    match s.allocLine p asid va l with
    | (s', none) => State.allocLines s' p asid va r
    | (_, some x) => (s, some x)

/-- The state ready for a write of n bytes at a place that no one keeps it from, earlier stores to its granules performed, or
why the write is not performed (R55, R65, R98). -/
def State.readyFree (s : State) (w : Party) (p : Place) (va : Word) (n : Nat) : State × Option Stop :=
  if s.partlyPoisoned p.loc n then (s, some (.poison (s.poisonSector p.loc n * 64) va))
  else if p.ptype = .leaf then
    match s.allocLines p w.asid va (linesOf p.loc n) with
    | (s', none) => (s'.performAt p.loc n, none)
    | (_, some x) => (s, some x)
  else (s.performAt p.loc n, none)

/-- The state ready for a write of n bytes at a place, or why the write is not performed (R55, R56, R65). -/
def State.readyWrite (s : State) (w : Party) (p : Place) (va : Word) (n : Nat) : State × Option Stop :=
  match s.gate w p va n with
  | some x => (s.arrive w p (some x), some x)
  | none => (s.arrive w p none).readyFree w p va n

/-- A party's store to n bytes of a place may become visible in steps, word by word: a strand's or an engine's, to a place that
caches or a scratchpad hold, unless it takes away a poison mark (R40, R55, R106, R128). -/
def State.isEarly (s : State) (w : Party) (p : Place) (n : Nat) : Bool :=
  (w.isStrand || w.isEngine) && w.core.isSome && (p.cacheable || p.cmem) && decide (p.ptype ≠ .counter) && decide (p.ptype ≠ .io) &&
    !s.poisoned p.loc n

/-- The state before the bytes of a party's store are written: an early one drops its die's read copies; another is performed
at once (R45, R49, R106). -/
def State.noteStores (s : State) (w : Party) (p : Place) (n : Nat) : State :=
  if s.isEarly w p n then
    if s.copies.isEmpty then s
    else (linesOf p.loc n).foldl (fun s l => if (s.copyOf w.die l).isSome then s.dropFar w.die l else s) s
  else if p.cacheable then (linesOf p.loc n).foldl (fun s l => s.noteStore w l (sectorMask l p.loc n)) s
  else s

/-- The early stores that a store of a party to n bytes of a place makes (R106). -/
def State.earlyOf (s : State) (w : Party) (p : Place) (n : Nat) : List Early :=
  match w.core with
  | some c => if s.isEarly w p n then earlyPieces c w.who s p.loc n else []
  | none => []

/-- The state with early stores added. -/
def State.addEarly (s : State) (l : List Early) : State :=
  if l.isEmpty then s else { s with order := { s.order with early := s.order.early ++ l } }

/-- The state with bytes that a party stores at a place that is ready for them: what they were stands in early stores, if the
store may become visible in steps (R106). -/
def State.storeBytes (s : State) (w : Party) (p : Place) (bs : List Byte) : State :=
  (((s.noteStores w p bs.length).putBytes p.loc bs).noteWrite w p.loc bs.length).addEarly (s.earlyOf w p bs.length)

/-- The state with bytes that a party writes at a place of memory, or why they are not written; a write that is not
performed changes nothing. -/
def State.writePlace (s : State) (w : Party) (p : Place) (va : Word) (bs : List Byte) : State × Option Stop :=
  match s.readyWrite w p va bs.length with
  | (s', some x) => (s', some x)
  | (s', none) => (s'.storeBytes w p bs, none)

/-- The state with a granule and its tag written at a place that holds tags (R26, R28). -/
def State.writeCap (s : State) (w : Party) (p : Place) (va : Word) (c : CapReg) : State × Option Stop :=
  match s.readyWrite w p va 16 with
  | (s', some x) => (s', some x)
  | (s', none) =>
    ((((s'.noteStores w p 16).putGranule p.loc { c with tag := c.tag && p.tags }).noteWrite w p.loc 16).addEarly
      (s'.earlyOf w p 16), none)

/-- The state with several runs of bytes written to places that no one keeps them from, all or none. -/
def State.runsFree (s : State) (w : Party) : List (Place × Word × List Byte) → State × Option Stop
  | [] => (s, none)
  | (p, va, bs) :: r =>
    match s.readyFree w p va bs.length with
    | (_, some x) => (s, some x)
    | (s', none) =>
      match State.runsFree (s'.storeBytes w p bs) w r with
      | (_, some x) => (s, some x)
      | (s'', none) => (s'', none)

/-- The state with several runs of bytes written, all or none; whoever waits has come to every page of theirs (R78). -/
def State.writeRuns (s : State) (w : Party) (l : List (Place × Word × List Byte)) : State × Option Stop :=
  let at_ := l.map fun x => (x.1, x.2.1, x.2.2.length)
  match at_.findSome? fun x => s.gate w x.1 x.2.1 x.2.2 with
  | some x => (s.arriveAll w at_ (some x), some x)
  | none => (s.arriveAll w at_ none).runsFree w l

/-- The old word and the state after an operation on an aligned 64-bit word performed at its home; a `none` result
writes nothing (R45, R51, R113). -/
def State.atHome (s : State) (w : Party) (p : Place) (va : Word) (f : Word → Option Word) :
    State × Except Stop Word :=
  match s.gate w p va 8 with
  | some x => (s.arrive w p (some x), .error x)
  | none =>
    if s.poisoned p.loc 8 then (s, .error (.poison p.loc va))
    else
      let old := BitVec.ofNat 64 (s.mem64 p.loc)
      match f old with
      | none =>
        let s := (s.performAt p.loc 8).arrive w p none
        ((if p.cacheable then s.noteHome w (p.loc / 128) else s), .ok old)
      | some v =>
        match s.readyWrite w p va 8 with
        | (s', some x) => (s', .error x)
        | (s', none) =>
          let s' := if p.cacheable then s'.noteHome w (p.loc / 128) else s'
          (s'.putBytes p.loc (leBytes 8 v.toNat), .ok old)

end Sys2Proof.Machine
end

