-- ==== Sys2Proof/Machine/Outward.lean ====
section
/-!
DEFINITION. Peers that a job reaches, accesses outside the device that are outstanding, and what a release at `sys` waits for
(spec/21_links_collectives.md R359, R361, R364, spec/06_ordering_far.md R108, R116, R120).
-/
namespace Sys2Proof.Machine

/-! ### Peers and paths (R359, R361, R364) -/

/-- The rank that a peer window of a function's job names, if it names one; the map is as it stood when firmware last wrote
the Job pointer (R359). -/
def State.peerRank (s : State) (f : FnId) (window : Nat) : Option Nat :=
  match s.jobs.get f with
  | none => none
  | some j =>
    let e := (j.peers.getD window 0).toNat
    if j.peerMap = 0 ∨ window ≥ 224 ∨ bitsOf e 15 1 = 0 ∨ bitsOf e 12 3 ≠ 0 ∨ bitsOf e 0 12 ≥ j.ranks then none
    else some (bitsOf e 0 12)

/-- The path entry of a rank in a job's Hallmark table (R364). -/
def State.pathEntry (s : State) (j : Job) (rank : Nat) : Nat := s.mem64 (j.hallmark + 0x1000 + rank * 8)

/-- A path entry has V and no reserved bit set; another is rejected (R6, R364). -/
def pathOk (e : Nat) : Bool :=
  decide (bitsOf e 63 1 = 1) && decide (bitsOf e 60 2 = 0) && decide (bitsOf e 32 12 = 0) && decide (bitsOf e 0 16 = 0)

/-- A rank of a job can be reached: its path entry has V and a port of it is in service (R361). -/
def State.reachable (s : State) (f : FnId) (rank : Nat) : Bool :=
  match s.jobs.get f with
  | none => false
  | some j =>
    let e := s.pathEntry j rank
    pathOk e && s.anyUp (BitVec.ofNat 12 (bitsOf e 48 12))

/-- Every port in service on the path of a reachable rank has stopped at its flit limit or is under test (R356, R398). -/
def State.pathHeld (s : State) (f : FnId) (rank : Nat) : Bool :=
  match s.jobs.get f with
  | none => false
  | some j =>
    s.allHeld f (BitVec.ofNat 12 (bitsOf (s.pathEntry j rank) 48 12))

/-! ### Accesses that are outstanding (R120) -/

/-- An outstanding access of the issuing strand under the next number. -/
def State.pendingOf (s : State) (va : Word) (n : Nat) (peer : Option (FnId × Nat)) (posted : Bool) : Outstanding :=
  { id := s.nextId, strand := s.cur.handle.addr, dest := 0, size := n, sext := false, addr := va, peer := peer
    atomic := false, posted := posted }

/-- The state with a message sent whose completion is outstanding. -/
def State.depart (s : State) (o : Outstanding) (m : Sent) : State :=
  { s with nextId := s.nextId + 1, outstanding := s.outstanding ++ [o], sent := s.sent ++ [m] }

/-! ### What a release waits for (R108, R116, R120, R361) -/

/-- The posted writes of a strand or an engine command, by its key. -/
def State.postedOf (s : State) (who : Nat) : List Outstanding :=
  s.outstanding.filter fun o => o.posted && decide (o.strand = who)

/-- An access waits for a peer that has become unreachable, or for the host behind the fenced die 0 (R56, R361). -/
def State.lostPeer (s : State) (o : Outstanding) : Bool :=
  match o.peer with
  | some (f, q) => !s.reachable f q
  | none => (s.die 0).fenced

/-- Whether the writes outside the device of a strand or an engine command are sys-visible; a zero-length read is sent when
one is needed, and an unreachable peer raises cause 0x08 with the first unacknowledged address (R120, R361). -/
def State.sysReady (s : State) (who : Nat) : State × Option Stop :=
  let mine := s.postedOf who
  match mine.find? s.lostPeer with
  | some o => ({ s with outstanding := s.outstanding.filter fun x => !(mine.contains x && s.lostPeer x) }, some (.fault 8 0 o.addr))
  | none =>
    if mine.isEmpty then (s, none)
    else
      let host := mine.filter fun o => o.peer.isNone
      if host.isEmpty ∨ (host.any fun o => decide (o.size = 0)) then (s, some .wait)
      else
        (s.depart { s.pendingOf 0 0 none true with strand := who } (.hostRead s.nextId 0 0), some .wait)

/-- Whether the writes outside the device are sys-visible, before a completion add that releases there: those of all
strands are waited for (R90, R120; assumption log 20). -/
def State.allPosted (s : State) (key : Nat) : State × Bool :=
  let mine := s.outstanding.filter fun o => o.posted && !s.lostPeer o
  if mine.isEmpty then (s, true)
  else
    let host := mine.filter fun o => o.peer.isNone
    if host.isEmpty ∨ (host.any fun o => decide (o.size = 0)) then (s, false)
    else (s.depart { s.pendingOf 0 0 none true with strand := key } (.hostRead s.nextId 0 0), false)

end Sys2Proof.Machine
end

