-- ==== Sys2Proof/Machine/Ops.lean ====
section
/-!
DEFINITION. Operations that many meanings share: counters at their homes, fault queues, leases, suspension, involuntary
stops, retirement, taking an exception and returning from one (spec/04_counters.md R87, R88, spec/17_traps.md R336 to
R345, R350, spec/16_system_isa.md R328, R330, spec/07_strands.md R135, R136, R144, R145, spec/15_engine_isa.md R299,
R300).
-/
namespace Sys2Proof.Machine

/-! ### Counters at their homes (R87, R93) -/

/-- The state with a counter set and every waiter it meets woken (R93). -/
def State.counterSet (s : State) (pa v : Nat) : State := (s.put64 pa v).wakeMet pa v

/-- A sum of counter values, saturating (R88). -/
def satAdd (old x : Nat) : Nat := min (old + x) (2 ^ 64 - 1)

/-- The state with FQCTR's counter raised by one for a record that a die posts; a counter that is poisoned or homed on a
fenced die is left unchanged (R55, R56, R332, R342). -/
def State.fqAdd (s : State) (d : DieId) : State :=
  let pa := (s.die d).fqctr.toNat
  if pa = 0 ∨ s.fencedAt pa ∨ s.poisoned pa 8 then s else s.counterSet pa (satAdd (s.mem64 pa) 1)

/-! ### Fault queues (R342 to R345) -/

/-- n of a fault queue's Size field, if it is in range and the header's reserved bytes are zero; a queue homed on a fenced
die, where nothing can be posted, counts as one that is always full (R6, R342; assumption log 35). -/
def State.queueBits (s : State) (fq : Nat) : Option Nat :=
  let z := s.mem64 (fq + 16)
  if 6 ≤ z ∧ z ≤ 20 ∧ s.memN (fq + 32) 32 = 0 ∧ !s.fencedAt fq then some z else none

/-- The address of the slot of a sequence in a fault queue (R342). -/
def slotAddr (fq n seq : Nat) : Nat := fq + 64 + 64 * (seq % 2 ^ n)

/-- The next record of a fault queue finds its slot free (R344). -/
def State.slotFree (s : State) (fq n : Nat) : Bool :=
  let p := s.mem64 fq
  decide (p < 2 ^ n) ||
    (decide (p - 2 ^ n < s.mem64 (fq + 8)) && decide (bitsOf (s.mem64 (slotAddr fq n p)) 16 1 = 1))

/-- The ASID's queue takes a record of a die now (R342, R344). -/
def State.queueReady (s : State) (d : DieId) (a : Asid) : Bool :=
  match s.queueBits (s.desc d a).faultQueue with
  | none => false
  | some n => s.slotFree (s.desc d a).faultQueue n

/-- The state in which a queue with a Size out of range, that a record waits for, is reported to a die's bank once until it is in
range (R342). -/
def State.checkQueue (s : State) (d : DieId) (a : Asid) : State :=
  let known := s.chains.any fun c => decide (c.1 = .badQueue a)
  if (s.queueBits (s.desc d a).faultQueue).isNone then
    (if known then s else { s with chains := s.chains ++ [(ChainKey.badQueue a, [])] }.refuse d (some a))
  else if known then { s with chains := s.chains.filter fun c => !decide (c.1 = .badQueue a) }
  else s

/-- The 64 bytes of a fault record with a sequence (R343). -/
def FaultRec.image (r : FaultRec) (seq : Nat) : List Byte :=
  let resolved := if r.kind = 0 ∨ r.kind = 1 then 0 else 1
  let q0 := r.cause.toNat + r.subcode.toNat * 2 ^ 8 + resolved * 2 ^ 16 + r.kind.toNat * 2 ^ 24
  let q2 := r.asid.toNat + r.die.val * 2 ^ 16 + r.scope.toNat * 2 ^ 32
  leBytes 8 q0 ++ leBytes 8 seq ++ leBytes 8 q2 ++ leBytes 8 r.record ++ leBytes 8 r.tval.toNat ++
    leBytes 8 r.epc.toNat ++ leBytes 8 r.info.toNat ++ leBytes 8 r.time.toNat

/-- A die with only those requests in its functions' queues that a test accepts; a queue that empties keeps no deficit (R386). -/
def Die.keepReqs (x : Die) (keep : BenchReq → Bool) : Die :=
  { x with
    benchQ := x.benchQ.map fun q => q.filter keep
    deficits := Vector.ofFn fun k =>
      if ((x.benchQ.get k).filter keep).isEmpty && !(x.benchQ.get k).isEmpty then 0 else x.deficits.get k }

/-- A function's request queue at a die's Bench cores with a request added (R385). -/
def State.benchPush (s : State) (d : DieId) (f : FnId) (r : BenchReq) : State :=
  (s.modDie d fun x => { x with benchQ := x.benchQ.set f (x.benchQ.get f ++ [r]) }).addAgenda (.benchRequestDispatch d)

/-- The state with a record written to its queue, whose slot is free: the record, then Produced, then FQCTR; a record
of kind 0 or 1 stays open and goes to the Bench cores (R342, R343, R348, R385). -/
def State.writeFault (s : State) (r : FaultRec) (n : Nat) : State :=
  let fq := (s.desc r.die r.asid).faultQueue
  let p := s.mem64 fq
  let s := ((s.putBlock (slotAddr fq n p) ({ r with time := s.time }.image p)).put64 fq (p + 1)).fqAdd r.die
  if r.kind = 0 ∨ r.kind = 1 then
    let page := if r.kind = 0 ∧ r.walk ∧ (r.subcode = 0 ∨ r.subcode = 3) then some (r.tval.toNat / 4096) else none
    (s.modDie r.die fun x =>
      { x with
        openFaults := x.openFaults ++
          [{ asid := r.asid, seq := p, page := page, head := { asid := r.asid, addr := r.record }, chain := []
             kind := r.kind, subcode := r.subcode }] }).benchPush r.die (s.fnOf r.die r.asid) (.fault r.asid p)
  else s

/-- The state with a record posted, if its queue has a free slot; a queue with a Size out of range is full (R342,
R344). -/
def State.postFault (s : State) (r : FaultRec) : State × Bool :=
  match s.queueBits (s.desc r.die r.asid).faultQueue with
  | none => (s, false)
  | some n => if s.slotFree (s.desc r.die r.asid).faultQueue n then (s.writeFault r n, true) else (s, false)

/-- The state with a record of kind 2 to 5 posted, held behind those its die already holds for the queue, or dropped
(R345); a queue with a Size out of range is reported (R342). Of an ASID whose descriptor is dead an error record takes the place
of any such record, as R410 says of those of engine commands (DESIGN CHOICE for kinds 3 to 5, assumption log 38). -/
def State.postEvent (s : State) (r : FaultRec) : State :=
  if !(s.desc r.die r.asid).live then s.refuse r.die (some r.asid)
  else
    let s := if (s.queueBits (s.desc r.die r.asid).faultQueue).isNone then s.refuse r.die (some r.asid) else s
    let waiting := (s.die r.die).hold.any fun h => decide (h.asid = r.asid)
    let res := if waiting then (s, false) else s.postFault r
    if res.2 then res.1
    else if (res.1.die r.die).hold.length < 256 then
      (res.1.modDie r.die fun x => { x with hold := x.hold ++ [r] }).offer (.faultQueueSlotFree r.asid)
    else
      let fq := (s.desc r.die r.asid).faultQueue
      (res.1.put64 (fq + 24) (res.1.mem64 (fq + 24) + 1)).resourceEvent r.die (some r.asid) 0

/-- The records of a list posted in order until one finds no slot, and those left (R345). -/
def State.postHeld (s : State) : List FaultRec → State × List FaultRec
  | [] => (s, [])
  | r :: l =>
    match s.postFault r with
    | (s', true) => State.postHeld s' l
    | (s', false) => (s', r :: l)

/-- A record with only its common fields set (R343). -/
def State.blankFault (s : State) (d : DieId) (a : Asid) (kind : BitVec 8) (cause subcode : Nat) : FaultRec :=
  { time := s.time, info := 0, epc := 0, tval := 0, record := 0, scope := 0, die := d, asid := a, kind := kind
    subcode := BitVec.ofNat 8 subcode, cause := BitVec.ofNat 8 cause }

/-- The old value of a counter and the state after an add on behalf of an ASID: saturation posts a record of kind 3,
and met waiters wake (R87, R88, R93). -/
def State.counterAdd (s : State) (a : Asid) (pa : Nat) (va : Word) (x : Word) : Word × State :=
  let old := s.mem64 pa
  let v := satAdd old x.toNat
  let s' := s.counterSet pa v
  (BitVec.ofNat 64 old,
    if old + x.toNat > 2 ^ 64 - 1 ∧ old < 2 ^ 64 - 1 then
      s'.postEvent { s.blankFault (homeDie pa) a 3 6 0 with info := BitVec.ofNat 64 pa, tval := va }
    else s')

/-- A counter reached by a party at a virtual address: its physical address, or why it is not reached
(R83, R84, R253 steps 5 and 6). -/
def State.counterPlace (s : State) (w : Party) (va : Word) (k : Kind) : State × Except Stop Place :=
  match translate s w va k with
  | (s', .error x) => (s', .error x)
  | (s', .ok p) =>
    match s'.gate w p va 8 with
    | some x => (s', .error x)
    | none => if s'.poisoned p.loc 8 then (s', .error (.poison p.loc va)) else (s', .ok p)

/-- The cause and subcode that an engine or a completion add reports for a stop; a poisoned counter gives the cause of
R55, for R320 speaks of a counter that fails translation (R297, R320; assumption log 36). The last three stops make the
access wait and are never reported. -/
def Stop.code : Stop → Nat × Nat
  | .fault c sub _ => (c, sub)
  | .walkFault sub _ => (3, sub)
  | .join _ sub _ => (3, sub)
  | .poison _ _ => (8, 0)
  | .dead => (3, 3)
  | .convert _ _ _ => (0x0B, 0)
  | .wait => (0, 0)
  | .chain _ _ => (0, 0)

/-- A completion add waits at its counter: its team is swapped out, or the home is under test (R86, R398). -/
def State.addWaits (s : State) (w : Party) (va : Word) : Bool :=
  mustWait (s.counterPlace w va .ctrWrite).2

/-- The state after a completion add of a launch, a scope or an engine command that does not wait: the add, or a record that
says why it was skipped (R145, R155, R320). -/
def State.completionAdd (s : State) (w : Party) (va value : Word) (kind : BitVec 8) (scope : BitVec 32) (info : Word) :
    State :=
  match s.counterPlace w va .ctrWrite with
  | (s', .ok p) => (s'.counterAdd w.asid p.loc va value).2
  | (s', .error x) =>
    s'.postEvent
      { s'.blankFault w.die w.asid kind x.code.1 x.code.2 with tval := va, scope := scope, info := info }

/-! ### Anvil grants and leases (R299, R300) -/

/-- The next core index of a cluster in round-robin order among those that wait, starting after one (R299). -/
def nextGrant (waiting : List (Fin 4)) (last : Fin 4) : Option (Fin 4) :=
  [last + 1, last + 2, last + 3, last].find? fun k => waiting.contains k

/-- The index of a core in its cluster. -/
def coreIx (c : CoreId) : Fin 4 := ⟨c.val % 4, Nat.mod_lt _ (by decide)⟩

/-- The state with the next command of the core that holds the grant about to run, if it has one (R298). -/
def State.offerAnvil (s : State) (cl : ClusterId) : State :=
  match (s.cluster cl).grant with
  | none => s
  | some k => if (s.core (clusterCore cl k.val)).queue.isEmpty then s else s.offer (.anvilCommandRun cl)

/-- The state with the Anvil's grant opened for a core: a run of 64 commands and 4,096 cycles, whose end is pending
(R299). -/
def State.openRun (s : State) (cl : ClusterId) (k : Fin 4) : State :=
  ((s.modCluster cl fun x =>
    { x with
      grant := some k, cmdsLeft := 64, cyclesLeft := 4096, lastGrant := k
      waiting := x.waiting.filter fun j => !decide (j = k) }).offer (.anvilRunEnd cl)).offerAnvil cl

/-- The state with the grant passed to the next waiting core, or to none (R299). -/
def State.passGrant (s : State) (cl : ClusterId) : State :=
  match nextGrant (s.cluster cl).waiting (s.cluster cl).lastGrant with
  | some k => s.openRun cl k
  | none => s.modCluster cl fun x => { x with grant := none, cmdsLeft := 0, cyclesLeft := 0 }

/-- The cores that wait for a grant with a core among them, once, or without it. -/
def waitFor (k : Fin 4) (l : List (Fin 4)) (wanted : Bool) : List (Fin 4) :=
  if !wanted then l.filter fun j => !decide (j = k) else if l.contains k then l else l ++ [k]

/-- The state in which a core without a lease waits for the Anvil only if a strand of it asks for a lease; a grant that it holds
passes on (R299, R307). -/
def State.yieldGrant (s : State) (c : CoreId) : State :=
  let cl := coreCluster c
  let s := s.modCluster cl fun x => { x with waiting := waitFor (coreIx c) x.waiting (!(s.core c).asks.isEmpty) }
  if (s.cluster cl).grant = some (coreIx c) then s.passGrant cl else s

/-- The state with a lease over whose queued commands have run: its grant passes on and its death is counted
(R153, R300). -/
def State.finishLease (s : State) (c : CoreId) (l : Lease) : State :=
  ((s.modCore c fun x => { x with lease := none }).yieldGrant c).addDue (.scopeDeath l.asid l.scope)

/-- The state with a strand's lease on a core ended; queued commands still run first (R300). -/
def State.endLease (s : State) (c : CoreId) (holder : Nat) : State :=
  match (s.core c).lease with
  | none => s
  | some l =>
    if l.holder = holder ∧ l.ended = false then
      if (s.core c).queue.isEmpty then s.finishLease c l
      else s.modCore c fun x => { x with lease := some { l with ended := true } }
    else s

/-- The state with a lease of the issuing strand that a cancel has reached ended, at its next Anvil instruction or cancellation point
(R300). -/
def State.endDropped (s : State) : State :=
  match (s.core s.cur.core).lease with
  | none => s
  | some l => if l.holder = s.cur.handle.addr ∧ l.cut then s.endLease s.cur.core l.holder else s

/-! ### Leaving a core -/

/-- The state in which a strand of a core asks for no lease: what stalls at `mx.lease` has not issued (R296, R299). -/
def State.dropRequest (s : State) (c : CoreId) (who : Nat) : State :=
  if (s.core c).asks.contains who then
    let s := s.modCore c fun x => { x with asks := x.asks.filter fun r => r != who }
    if (s.core c).lease.isSome ∨ (s.core c).asks.isEmpty = false then s else s.yieldGrant c
  else s

/-- The state in which the issuing strand is no longer resident, nor its second copy (R400), waits at no leaf page and
carries only what it has read; resumptions are offered where slots are free, and placement on its die if teams wait there (R170,
R172). -/
def State.leave (s : State) : State :=
  let who := s.cur.handle.addr
  let twins := (s.pairs.filter fun p => decide (p.strand = who)).map Pair.second
  let s := (twins.foldl (fun s c => s.kick c) ((s.dropRequest s.cur.core who).leaveQueues (.strand who))).leaveCarry who
  let s := ({ s with pairs := s.pairs.filter fun p => !decide (p.strand = s.cur.handle.addr) }.modCur fun t =>
    { t with run := .absent, board := [], wait := none, waitBack := none, resuming := none, held := [] }).kick s.cur.core
  if (s.die s.myDie).teamQ.isEmpty then s else s.offer (.teamPlacement s.myDie)

/-- The state after a voluntary suspension of the issuing strand (R135). -/
def State.suspendCur (s : State) (pc : Word) (carry waitVa threshold : Nat) : State :=
  ((s.writeRecord s.cur { pc := pc, waitVa := waitVa, threshold := threshold, carry := carry, ctx := 0 }).endLease
    s.cur.core s.cur.handle.addr).leave

/-! ### Context blocks (R340) -/

/-- The bytes of the granules of capability registers. -/
def capBytes (l : List CapReg) : List Byte := l.flatMap fun c => leBytes 16 c.bits.toNat

/-- The tags of a list of registers as bits from bit 0. -/
def tagBits : List CapReg → Nat
  | [] => 0
  | c :: r => (if c.tag then 1 else 0) + 2 * tagBits r

/-- The bytes 0x000 to 0x5D7 of a context block (R340). -/
def ctxBytes (t : Strand) (trap : Trap) (vblock : Nat) : List Byte :=
  capBytes t.regs.toList ++ leBytes 8 (tagBits t.regs.toList) ++ leBytes 8 t.status.toNat ++ leBytes 8 t.idem.toNat ++
    leBytes 8 trap.epc.toNat ++ leBytes 8 (trap.cause.toNat + trap.subcode.toNat * 256) ++ leBytes 8 trap.tval.toNat ++
    leBytes 8 vblock ++ leBytes 8 0 ++ (t.masks.toList.flatMap fun m => leBytes 16 m.toNat) ++ capBytes t.lad.toList ++
    capBytes t.cru.toList ++ leBytes 8 (tagBits t.lad.toList + tagBits t.cru.toList * 2 ^ 16)

/-- The bytes of a vector block: the registers of the grant (R340). -/
def vecBytes (t : Strand) : List Byte := (t.vregs.toList.take (8 * t.grant.toNat)).flatMap fun v => leBytes 128 v.toNat

/-- The blocks that a stop takes from its die's pool, both at once (R340). -/
def State.takeBlocks (s : State) (d : DieId) (two : Bool) : Option (Nat × Nat × State) :=
  match s.popPool d .context with
  | none => none
  | some (b, s1) =>
    if two then
      match s1.popPool d .context with
      | none => none
      | some (v, s2) => some (b, v, s2)
    else some (b, 0, s1)

/-- The state after an involuntary stop of the issuing strand: context and vector blocks and record written, its lease
ended; none while the pool lacks blocks or earlier accesses are not performed (R104, R136, R178, R300, R340). -/
def State.stopCur (s : State) (trap : Trap) : Option State :=
  if !s.settled then none
  else
    match s.takeBlocks s.myDie (decide (s.cur.grant ≠ 0)) with
    | none => none
    | some (b, v, s) =>
      let t := s.cur
      let s := (s.zeroRange b 4096).putBlock b (ctxBytes t trap v)
      let s := if t.grant = 0 then s else (s.zeroRange v 4096).putBlock v (vecBytes t)
      let w := match t.wait with
        | some w => (w.va.toNat, w.threshold.toNat)
        | none => (0, 0)
      let s := s.writeRecord t
        { pc := trap.epc, waitVa := w.1, threshold := w.2, carry := (Config.freeWord s.tick).toNat, ctx := b }
      some (({ s with tick := s.tick + 1 }.endLease t.core t.handle.addr).leave)

/-! ### Teams and launches that end (R144, R145) -/

/-- The Live mask of a team (R175). -/
def State.liveMask (s : State) (t : Team) : Nat := s.mem64 (t.swapState + 32)

/-- An engine command of the team's strands is still alive, on whichever core it was issued (R144). -/
def State.teamBusy (s : State) (t : Team) : Bool :=
  s.cores.any fun c =>
    (c.2.lads.any fun x => decide (x.teamId = t.id)) || (c.2.crus.any fun x => decide (x.teamId = t.id)) ||
      (c.2.queue.any fun x => decide (t.block ≤ x.issuer) && decide (x.issuer < t.block + 4096))

/-- The state with a resumption offered at each of a team's cores, whose reserved slots are free (R172). -/
def State.kickTeam (s : State) (t : Team) : State := (t.cores ++ t.twins).foldl (fun s c => s.kick c) s

/-- The state in which the placed time of a team's function is counted up to now (R170). -/
def State.countTime (s : State) (id : Nat) : State :=
  match s.teams.find? fun t => decide (t.id = id) with
  | none => s
  | some t =>
    ({ s with teams := s.teams.map fun x => if x.id = id then { x with since := s.time } else x } : State).modDie t.die fun x =>
      { x with placed := x.placed.set t.f (x.placed.get t.f + (s.time - t.since).toNat) }

/-- The state with a team's allocation and block freed, and a swap area that it holds, when no strand and no engine command of it is
left (R144). -/
def State.freeTeam (s : State) (id : Nat) : State :=
  match s.teams.find? fun t => decide (t.id = id) with
  | none => s
  | some t =>
    if s.liveMask t = 0 ∧ !s.teamBusy t then
      let s := if t.placed then s.countTime id else s
      let s := if t.area = 0 then s else s.pushPool (homeDie t.area) .swap t.area
      let s := s.modDie t.die fun x => { x with teamQ := x.teamQ.filter fun e => !decide (e = .swapped id) }
      let s := { s with teams := s.teams.filter fun x => !decide (x.id = id) }
      let s := s.modCluster t.cluster fun x => { x with allocs := x.allocs.filter fun a => !decide (a.1 = id) }
      ((s.pushPool (homeDie t.block) .team t.block).kickTeam t).addAgenda (.teamPlacement t.die)
    else s

/-- The state with a launch changed. -/
def State.modLaunch (s : State) (id : Nat) (f : Launch → Launch) : State :=
  { s with launches := s.launches.map fun l => if l.id = id then f l else l }

/-- The state with the completion record of a host launch ready to be written (R380). -/
def State.readyRecord (s : State) (f : FnId) (q : Fin 4) (seq : BitVec 32) (status : BitVec 8) (lost : Nat) : State :=
  (s.modFn f fun x =>
    { x with queues := x.queues.set q { x.queues.get q with ready := (x.queues.get q).ready ++ [(seq, status, lost)] } }).addDue
    (.completionRecord f q)

/-- The party of a launch's completion add, at its last strand's core. It is of no team, so that an address of the cluster-memory
window translates to no counter and the add is skipped (R16, R145; DESIGN CHOICE, assumption log 38). -/
def Launch.party (l : Launch) (c : CoreId) : Party :=
  { die := coreDie c, core := some c, asid := l.asid, team := 0, who := .device (coreDie c) }

/-- A launch's completion add can be performed at once: its counter is at hand, and no write outside the device is in the way of
a release at `sys` (R86, R90, R120, R398). -/
def State.addNow (s : State) (w : Party) (l : Launch) : Bool :=
  decide (l.caddr = 0) ||
    (!(decide (l.cscope = 4) && s.outstanding.any Outstanding.posted) && !s.addWaits w l.caddr)

/-- The state after a launch's completion add is performed, or why it was skipped recorded (R145). -/
def State.performAdd (s : State) (w : Party) (l : Launch) : State :=
  if l.caddr = 0 then s else s.completionAdd w l.caddr l.cvalue 5 l.scope 0

/-- The launch whose completion add comes before the death of a strand: it is the last, and the launch was not killed and lost no
strand (R145, R165). -/
def State.lastOf (s : State) (t : Strand) (proxy : Bool) : Option Launch :=
  (s.launches.find? fun l => decide (l.id = t.launchId)).bind fun l =>
    if l.left ≤ 1 ∧ l.lost = 0 ∧ !(l.killed || t.killed || proxy) ∧ l.caddr ≠ 0 then some l else none

/-- A strand's end waits for its launch's completion add (R86, R90, R145, R330, R398). -/
def State.endWaits (s : State) (t : Strand) (proxy : Bool) : Bool :=
  match s.lastOf t proxy with
  | some l => !s.addNow (l.party t.core) l
  | none => false

/-- The state after a strand of a launch has ended: with the last one, the add is made unless the launch was killed or lost a strand
(R145, R165). -/
def State.launchStep (s : State) (t : Strand) (proxy : Bool) : State :=
  match s.launches.find? fun l => decide (l.id = t.launchId) with
  | none => s
  | some l =>
    let s := match s.lastOf t proxy with
      | some l => s.performAdd (l.party t.core) l
      | none => s
    let l := { l with left := l.left - 1, lost := if proxy then l.lost + 1 else l.lost, killed := l.killed || t.killed }
    if l.left = 0 then { s with launches := s.launches.filter fun x => !decide (x.id = l.id) } else s.modLaunch l.id fun _ => l

/-- The state in which what a strand's end waits for at `sys` is on its way: a zero-length read, where one is needed (R120). -/
def State.askPosted (s : State) (t : Strand) : State :=
  match s.lastOf t false with
  | some l => if l.cscope = 4 then (s.allPosted t.handle.addr).1 else s
  | none => s

/-- The host launch whose last strand this is: its completion record follows the death (R380). -/
def State.launchRecord (s : State) (t : Strand) (proxy : Bool) : Option (FnId × Fin 4 × BitVec 32 × BitVec 8 × Nat) :=
  match s.launches.find? fun l => decide (l.id = t.launchId) with
  | none => none
  | some l =>
    match l.queue with
    | none => none
    | some (f, q, n) =>
      let lost := if proxy then l.lost + 1 else l.lost
      if l.left ≤ 1 then some (f, q, n, if l.killed ∨ t.killed then 7 else if lost ≠ 0 then 8 else 0, lost) else none

/-- The state with the Live bit of a team strand cleared and its team freed if it is over (R144, R175). -/
def State.teamStep (s : State) (t : Strand) : State :=
  match s.teams.find? fun x => decide (x.id = t.teamId) with
  | none => s
  | some x =>
    let a := x.swapState + 32
    let bit := 2 ^ ((t.handle.addr - x.block) / 64)
    let m := s.mem64 a
    (s.put64 a (if m / bit % 2 = 1 then m - bit else m)).freeTeam x.id

/-- The state in which a strand takes part in no settle round. -/
def State.leaveSettle (s : State) (who : Nat) : State :=
  { s with
    settle := { s.settle with
      joined := s.settle.joined.filter fun x => x != who
      queued := s.settle.queued.filter fun x => x != who
      finished := s.settle.finished.filter fun x => x != who } }

/-- The state with the completion record of a host launch ready, if there is one (R380). -/
def State.readyIf (s : State) (r : Option (FnId × Fin 4 × BitVec 32 × BitVec 8 × Nat)) : State :=
  match r with
  | some (f, q, n, st, lost) => s.readyRecord f q n st lost
  | none => s

/-- The state in which an agent is told of no loss that its write caused. -/
def State.clearCauser (s : State) (a : Agent) : State :=
  { s with
    chains := s.chains.filter fun c => match c.1 with
      | .causer _ _ b => !decide (b = a)
      | _ => true }

/-- The state after a strand, resident or not, has ended: completion add of its launch, its death and the completion record, and
its team. A strand that is not resident is held while the add waits (R144, R145, R153, R166, R330). -/
def State.strandEnds (s : State) (t : Strand) (proxy : Bool) : State :=
  if s.endWaits t proxy then { s with adds := s.adds ++ [t] }
  else
    let rec_ := s.launchRecord t proxy
    let s := ((((s.launchStep t proxy).leaveSettle t.handle.addr).leaveQueues (.strand t.handle.addr)).clearCauser
      (.strand t.handle.addr)).setCarry (Carry.empty t.handle.addr)
    let s :=
      (if proxy then s.countDeath t.handle.asid t.birth true else s.addDue (.scopeDeath t.handle.asid t.birth)).readyIf rec_
    if t.teamId = 0 then s else s.teamStep t

/-- The state after the issuing strand, whose end does not wait, has retired (R157, R330). -/
def State.retireCur (s : State) : State :=
  let t := s.cur
  (((s.closeOpened t.handle.addr).endLease t.core t.handle.addr).leave).strandEnds t false

/-- The state after the issuing strand was stopped for good by a dead ASID (R410). -/
def State.proxyCur (s : State) (a : Asid) : State :=
  let s := s.quiet
  let t := s.cur
  (((s.endLease t.core t.handle.addr).leave).strandEnds t true).refuse (coreDie t.core) (some a)

/-! ### Taking an exception (R328, R336, R337, R350) -/

/-- CAUSE as a register holds it (R332). -/
def Trap.causeWord (t : Trap) : Word := BitVec.ofNat 64 (t.cause.toNat + t.subcode.toNat * 256)

/-- A privileged strand at its handler (R328): the status and the trap registers saved, PFX and IE cleared, PC at
TVEC; the distances restart (R202), and a wait that was presented again is kept for a return to it (R94). -/
def Strand.enterHandler (t : Strand) (trap : Trap) : Strand :=
  { t with
    pstatus := t.status
    epc := trap.epc
    cause := trap.causeWord
    tval := trap.tval
    status := putField (putField t.status 7 1 0) 3 1 0
    pc := t.tvec
    board := []
    wait := none
    waitBack := match t.wait with
      | some w => some (trap.epc, w)
      | none => t.waitBack }

/-- A strand after `eret`: STATUS from PSTATUS with PRV kept, PC from EPC, distances restarted; a wait that the trap interrupted is
presented afresh if EPC still names it (R94, R202, R328). -/
def Strand.leaveHandler (t : Strand) : Strand :=
  { t with
    status := putField t.pstatus 0 1 (t.status.toNat % 2)
    pc := t.epc
    board := []
    wait := t.waitBack.bind fun x => if x.1 = t.epc then some x.2 else none
    waitBack := none }

/-- The causes that cancel a scope with CF = 1 (R163). -/
def cfCause (c : BitVec 8) : Bool :=
  [0x01, 0x02, 0x04, 0x07, 0x08, 0x09, 0x0A, 0x0D, 0x0E, 0x0F].contains c.toNat

/-- The state with the issuing strand's scope cancelled if it asks for it on a fault (R163). -/
def State.cancelOnFault (s : State) (cause : BitVec 8) : State :=
  match s.scopeOf s.cur.handle.asid s.cur.birth with
  | none => s
  | some (_, r) => if r.cf ∧ cfCause cause then s.cancelScope s.cur.handle.asid s.cur.birth else s

/-- The state with a strand's record linked at the tail of the chain of an open record (R348). -/
def State.joinFault (s : State) (d : DieId) (a : Asid) (seq : Nat) (h : Handle) : State :=
  match (s.die d).openFaults.find? fun o => decide (o.asid = a) && decide (o.seq = seq) with
  | none => s
  | some o =>
    let tail := o.chain.getLastD o.head
    (s.put64 (s.recCtx tail.addr + 0x438) h.addr).modDie d fun x =>
      { x with
        openFaults := x.openFaults.map fun y => if y.asid = a ∧ y.seq = seq then { y with chain := y.chain ++ [h] } else y }

/-- The fault record of a strand's fault (R343). -/
def State.strandFault (s : State) (t : Strand) (trap : Trap) : FaultRec :=
  { s.blankFault (coreDie t.core) t.handle.asid 0 trap.cause.toNat trap.subcode.toNat with
    epc := trap.epc, tval := trap.tval, record := t.handle.addr, scope := t.birth, walk := trap.walk }

/-- The state after a user strand's fault, its accesses performed: that of a walk joins the record that is open for its page; another
stops and posts its own. One that finds no block or slot waits, and a joiner walks afresh once its record is no longer open (R337, R344,
R348). A queue with a Size out of range is reported once (R342). A strand whose ASID is dead ends by proxy for any fault, as R410 says
of walks (DESIGN CHOICE for the others, assumption log 38). -/
def State.userTrap (s : State) (trap : Trap) : State :=
  let s := s.quiet
  let t := s.cur
  let page := if trap.walk ∧ (trap.subcode = 0 ∨ trap.subcode = 3) then
      s.openFor s.myDie t.handle.asid (trap.tval.toNat / 4096)
    else none
  match page with
  | some o =>
    match s.stopCur trap with
    | none => s.modCur fun t => { t with run := .trapStalled { trap with joining := true } }
    | some s' => s'.joinFault (coreDie t.core) t.handle.asid o.seq t.handle
  | none =>
    if trap.joining then s.modCur fun t => { t with run := .ready }
    else if !(s.desc s.myDie t.handle.asid).live then s.proxyCur t.handle.asid
    else
      let s := s.checkQueue s.myDie t.handle.asid
      let stalled := s.modCur fun t => { t with run := .trapStalled trap }
      if !s.queueReady s.myDie t.handle.asid then stalled
      else
        match s.stopCur trap with
        | none => stalled
        | some s' => (s'.postFault (s.strandFault t trap)).1

/-- The state after the issuing strand takes a trap: a privileged strand in place, a user strand under R337 after the
cancel that CF asks for (R163, R328, R337, R338). -/
def State.takeTrap (s : State) (trap : Trap) : State :=
  if s.priv then s.modCur fun t => t.enterHandler trap
  else (s.cancelOnFault trap.cause).userTrap trap

/-- A trap of the instruction at PC. -/
def State.trapAt (s : State) (cause subcode : Nat) (tval : Word) : Trap :=
  { cause := BitVec.ofNat 8 cause, subcode := BitVec.ofNat 8 subcode, tval := tval, epc := s.cur.pc }

/-- The unit and address that a restart record names: the HBM stack, or the LLC slice for a leaf line (R350). -/
def State.poisonReport (s : State) (loc : Nat) (a : Asid) : ErrorReport :=
  let sector := s.poisonSector loc 1 * 64
  if regionOf loc = .leaf then
    { severity := 1, kind := 2, unit := BitVec.ofNat 16 ((homeDie loc).val * 64 + s.homeSlice loc), code := 2
      address := 0, asid := some a, info := 0 }
  else
    { severity := 1, kind := 3, unit := BitVec.ofNat 16 (stackOf loc), code := 2, address := BitVec.ofNat 64 sector
      asid := some a, info := 0 }

/-- The state after the issuing strand consumes poison: a restart of its open idempotent region, or cause 0x08
(R55, R243, R350). -/
def State.consumePoison (s : State) (loc : Nat) (tval : Word) : State :=
  let i := s.cur.idem.toNat
  if bitsOf i 0 1 = 1 ∧ bitsOf i 1 1 = 0 then
    (s.modCur fun t =>
      { t.clearPfx with
        idem := putField t.idem 1 1 1, pc := BitVec.ofNat 64 (bitsOf i 2 46 * 4), board := [], wait := none
        resuming := none }).report
      (homeDie loc) (s.poisonReport loc s.cur.asid) 4
  else s.takeTrap (s.trapAt 8 0 tval)

end Sys2Proof.Machine
end

