-- ==== Sys2Proof/Machine/Operands.lean ====
section
/-!
DEFINITION. The issue of an instruction: the checks of R203 in their order, cancellation points, source registers, the
access through a capability, and how an instruction concludes (spec/11_encoding.md R202 to R209, R214,
spec/08_scopes.md R160, spec/12_scalar_isa.md R224, spec/01_addresses.md R23).
-/
namespace Sys2Proof.Machine

/-- What the issue of an instruction needs to know of it. -/
structure Form where
  instr  : Instr
  gap    : Gap
  /-- The registers it reads, in the order of the encoding. -/
  reads  : List RegName
  writes : List RegName
  /-- The fixed latency of its result; none if interlocked (R201). -/
  lat    : Option Nat
  /-- Majors 0x28 to 0x2E (R214). -/
  vector : Bool
  /-- Whether it takes formats, and which payloads it accepts, none standing for no format code word pending (R208). -/
  takes  : Option (Option (BitVec 24) → Bool)
  /-- It is a cancellation point (R160). -/
  point  : Bool
  /-- A malformed source raises nothing (`dc.pf`, R252). -/
  mild   : Bool := false

/-- What an instruction's own entry decides. -/
inductive Res where
  /-- It completes, and the strand goes on at the next instruction. -/
  | done (s : State)
  /-- It completes, and the strand goes on at a target. -/
  | jump (s : State) (pc : Word)
  /-- It raises a cause at its own address. -/
  | fault (s : State) (cause subcode : Nat) (tval : Word)
  /-- It raises a trap. -/
  | trap (s : State) (t : Trap)
  /-- An access of it is not performed. -/
  | stop (s : State) (x : Stop)
  /-- It stalls and issues again. -/
  | stall (s : State)
  /-- The strand has suspended, retired or returned from a handler. -/
  | away (s : State)

/-! ### Checks at issue (R203) -/

/-- The instruction and the pending format code word, or its absence, do not go together (R208, R209). -/
def Form.badWord (f : Form) (t : Strand) : Bool :=
  match f.takes with
  | none => t.pfx
  | some ok => if t.pfx then !(payloadOk t.pfxv && ok (some t.pfxv)) else !ok none

/-- The vector registers that the instruction names. -/
def Form.vregs (f : Form) : List Nat :=
  (f.reads ++ f.writes).filterMap fun r => match r with
    | .v i => some i.toNat
    | _ => none

/-- TVAL of cause 0x0D: 0xFF without a grant, or the lowest register at or above the grant (R214). -/
def Form.grantFault (f : Form) (t : Strand) : Option Nat :=
  if !f.vector then none
  else if t.grant = 0 then some 0xFF
  else (f.vregs.filter fun v => decide (v ≥ 8 * t.grant.toNat)).min?

/-- TVAL of cause 0x05: the distance and the latency of a short instruction (R202). -/
def Form.shortFault (f : Form) (t : Strand) : Option Nat :=
  if t.chk then (shortOf t.board (f.reads ++ f.writes)).map fun e => e.dist % 16 + e.lat % 16 * 16 else none

/-- The state after the first failing check of R203, steps 1 to 3, if one fails. -/
def Form.issueFault (f : Form) (s : State) : Option State :=
  if f.badWord s.cur then some ((s.modCur Strand.clearPfx).takeTrap (s.trapAt 1 0 (f.instr.word.setWidth 64)))
  else
    match f.grantFault s.cur with
    | some v => some (s.takeTrap (s.trapAt 0x0D 0 (BitVec.ofNat 64 v)))
    | none =>
      match f.shortFault s.cur with
      | some v => some (s.takeTrap (s.trapAt 5 0 (BitVec.ofNat 64 v)))
      | none => none

/-! ### Cancellation points (R160) -/

/-- The handler of the issuing strand's scope, 0 for none (R160). -/
def State.cancelHandler (s : State) : Word :=
  match s.scopeOf s.cur.handle.asid s.cur.birth with
  | some (_, r) => r.handler
  | none => 0

/-- The issuing strand can act on a cancel now: a retirement waits until its accesses are performed at `dev`, and for the completion
add of its launch (R115, R145). -/
def State.canAct (s : State) : Bool := decide (s.cancelHandler ≠ 0) || (s.settled && !s.endWaits s.cur false)

/-- The state after the issuing strand acts on a cancel at a point: at its scope's handler, or retired, once it can be (R160). -/
def State.actOnCancel (s : State) (at_ : Word) : State :=
  let s := s.quiet
  let t := s.cur
  if !s.canAct then s.askPosted s.cur
  else if s.cancelHandler = 0 then s.retireCur
  else
    let id := (s.cancelOf t.handle.asid t.birth).getD t.birth
    ((s.endLease t.core t.handle.addr).dropRequest t.core t.handle.addr).modCur fun t =>
      { ((((t.setCreg 1 (CapReg.untagged at_)).setCreg 5 (CapReg.untagged (id.setWidth 64))).setShield 1).clearPfx) with
        wait := none, resuming := none, idem := 0, pc := s.cancelHandler }

/-- A cancel has reached the issuing strand and its shield does not hold it (R160). -/
def State.cancelDue (s : State) : Bool := s.cur.cancelled && decide (s.cur.shield = 0)

/-! ### Sources (R224) -/

/-- The first scalar source that holds a tagged malformed capability (R20, R224). -/
def Form.badSource (f : Form) (t : Strand) : Option CapReg :=
  (f.reads.filterMap fun r => match r with
    | .c i => some (t.creg i)
    | _ => none).find? fun c => c.tag && capMalformed c.bits

/-- The record of a malformed register: a parity error of the core (R20, R395; assumption log 15). -/
def State.registerError (s : State) : State :=
  s.report s.myDie
    { severity := 2, kind := 0, unit := BitVec.ofNat 16 s.cur.core.val, code := 4, address := 0
      asid := some s.cur.asid, info := 0 } 0

/-! ### How an instruction concludes -/

/-- The state with a handle chained to a conversion or an ownership transfer (R69, R390). -/
def State.chainAdd (s : State) (k : ChainKey) (h : Chained) : State :=
  match s.chains.find? fun c => decide (c.1 = k) with
  | some _ => { s with chains := s.chains.map fun c => if c.1 = k then (c.1, c.2 ++ [h]) else c }
  | none => { s with chains := s.chains ++ [(k, [h])] }

/-- The state with the transfer of a processor-owned region asked for, once, for the ASID of the access that needs it (R388, R390). -/
def State.askTransfer (s : State) (d : DieId) (a : Asid) (k : ChainKey) : State :=
  match k with
  | .ownership region =>
    if (s.chains.any fun c => decide (c.1 = k)) then s
    else { s with chains := s.chains ++ [(k, [])] }.benchPush d (s.fnOf d a) (.transfer (s.fnOf d a) (BitVec.ofNat 64 region) a)
  | _ => s

/-- The agent's write caused the conversion that a key names (R70). -/
def State.caused (s : State) (k : ChainKey) (a : Agent) : Bool :=
  match k with
  | .conversion d lpn => s.chains.any fun c => decide (c.1 = .causer d lpn a)
  | _ => false

/-- The state with the issuing strand stopped, its accesses performed, and chained; CAUSE and TVAL of its block are not stated
(R69, R390; assumption log 8). A privileged strand, and one that finds no block, waits instead. -/
def State.chainCur (s : State) (k : ChainKey) (va : Word) : State :=
  let s := s.askTransfer s.myDie s.cur.asid k
  if s.priv then s
  else
    let s := s.quiet
    let v := s.freePair
    let w := v.2.free
    match w.2.stopCur { cause := BitVec.ofNat 8 v.1.1, subcode := BitVec.ofNat 8 v.1.2, tval := w.1, epc := s.cur.pc } with
    | none => s
    | some s' =>
      s'.chainAdd k { handle := s.cur.handle, va := va, caused := s.caused k (.strand s.cur.handle.addr) }

/-- The state with a leaf page's conversion begun for a write of an agent, or for none (R69, R70, R385). -/
def State.beginConversion (s : State) (d : DieId) (lpn : Nat) (a : Asid) (who : Option Agent) : State :=
  if (s.lpn d lpn).state = .converting then s
  else
    let s := match who with
      | some w => { s.clearCauser w with chains := (s.clearCauser w).chains ++ [(ChainKey.causer d lpn w, [])] }
      | none => s
    (s.modLpn d lpn fun e => { e with state := .converting }).benchPush d (fnOfNat (s.lpn d lpn).f.toNat)
      (.convert d (BitVec.ofNat 12 lpn) a who.isSome)

/-- The state after an access of the issuing strand was not performed (R37, R55, R70, R337, R410). -/
def State.stopped (s : State) : Stop → State
  | .fault c sub tval =>
    (if c = 0x0B ∧ sub = 2 then s.clearCauser (.strand s.cur.handle.addr) else s).takeTrap (s.trapAt c sub tval)
  | .walkFault sub tval => s.takeTrap { s.trapAt 3 sub tval with walk := true }
  | .join _ sub tval => s.takeTrap { s.trapAt 3 sub tval with walk := true }
  | .poison loc tval => if s.burstHeld loc then s else s.consumePoison loc tval
  | .dead => s.proxyCur s.cur.asid
  | .wait => s
  | .chain k va => s.chainCur k va
  | .convert d lpn va =>
    (s.beginConversion d lpn s.cur.asid (some (.strand s.cur.handle.addr))).chainCur (.conversion d lpn) va

/-- The state after an instruction that completes and goes on at an address: the format code word it was issued with is
used up, and its distances count (R202, R207). -/
def Form.finish (f : Form) (before : Strand) (s : State) (pc : Word) : State :=
  s.modCur fun t =>
    { (if before.pfx then t.clearPfx else t) with
      pc := pc, board := boardAfter before.board f.gap f.writes f.lat }

/-- The state with memory, caches and cached translations as they were before an instruction that has no effect (R8). -/
def State.undo (s before : State) : State :=
  { s with
    mem := before.mem, tags := before.tags, poison := before.poison, tlb := before.tlb, walks := before.walks
    descs := before.descs, dirs := before.dirs, copies := before.copies, caches := before.caches, order := before.order }

/-- The state after an instruction has decided. -/
def Form.conclude (f : Form) (b : State) : Res → State
  | .done s => f.finish b.cur s (b.cur.pc + 4)
  | .jump s pc => f.finish b.cur s pc
  | .fault s c sub tval => (s.undo b).takeTrap (s.trapAt c sub tval)
  | .trap s t => s.takeTrap t
  | .stop s x => (s.undo b).stopped x
  | .stall s => s
  | .away s => s

/-- The issue of an instruction: the checks of R203 in order, the cancellation point, malformed sources, then its own
entry. -/
def Form.issue (f : Form) (s : State) (entry : State → Res) : State :=
  match f.issueFault s with
  | some s' => s'
  | none =>
    if f.point ∧ s.cancelDue then s.actOnCancel s.cur.pc
    else
      let s := if f.point then s.endDropped else s
      match (if f.mild then none else f.badSource s.cur) with
      | some c => s.registerError.takeTrap (s.trapAt 2 3 c.lo)
      | none => f.conclude s (entry s)

/-- The outcome of an instruction: the state after its issue. -/
def Form.run (f : Form) (s : State) (entry : State → Res) : Host.Outcome State Fault Refusal := .next (f.issue s entry)

/-- A form that takes no formats and is no cancellation point. -/
def plain (i : Instr) (g : Gap) (reads writes : List RegName) (lat : Option Nat) : Form :=
  { instr := i, gap := g, reads := reads, writes := writes, lat := lat, vector := false, takes := none, point := false }

/-! ### Accesses through a capability (R23) -/

/-- The place of an access of `len` bytes through a capability: tag, reserved fields, permission, bounds, alignment,
then translation (R23). -/
def State.capAccess (s : State) (w : Party) (c : CapReg) (va : Word) (len align : Nat) (perms : List Perm) (k : Kind) :
    State × Except Stop Place :=
  match capFault c va.toNat len perms with
  | some sub => (s, .error (.fault 2 sub va))
  | none => if va.toNat % align ≠ 0 then (s, .error (.fault 4 0 va)) else translate s w va k

/-- The n bytes read through a capability by the issuing strand. -/
def State.capRead (s : State) (c : CapReg) (va : Word) (len align : Nat) (perms : List Perm) :
    State × Except Stop (Place × List Byte) :=
  match s.capAccess s.me c va len align perms .load with
  | (s', .error x) => (s', .error x)
  | (s', .ok p) =>
    match s'.readPlace s'.me p va len with
    | (s'', .error x) => (s'', .error x)
    | (s'', .ok bs) => (s'', .ok (p, bs))

/-- The places of n pieces of 16 bytes from an address on. -/
def State.piecePlaces (s : State) (va : Word) : Nat → State × Except Stop (List (Place × Word × Nat))
  | 0 => (s, .ok [])
  | n + 1 =>
    match translate s s.me va .load with
    | (s', .error x) => (s', .error x)
    | (s', .ok p) =>
      match State.piecePlaces s' (va + 16) n with
      | (t, .error x) => (t, .error x)
      | (t, .ok rest) => (t, .ok ((p, va, 16) :: rest))

/-- n pieces of 16 bytes read through translation, after the capability check is made. -/
def State.readPieces (s : State) (va : Word) (n : Nat) : State × Except Stop (List Byte) :=
  match s.piecePlaces va n with
  | (s', .error x) => (s', .error x)
  | (s', .ok l) =>
    match s'.readPlaces s'.me l with
    | (t, .error x) => (t, .error x)
    | (t, .ok bs) => (t, .ok bs.flatten)

end Sys2Proof.Machine
end

