-- ==== Sys2Proof/Machine/Mmio.lean ====
section
/-!
DEFINITION. What reads of device MMIO and of a function's BAR0 return (spec/03_leaf_pages.md R59 to R63,
spec/09_scheduling.md R168, spec/17_traps.md R346, spec/21_links_collectives.md R357, spec/22_host_service.md R377,
R384, R388, R391, spec/25_reliability.md R394 to R401, spec/26_bringup_power.md R408).
-/
namespace Sys2Proof.Machine

/-! ### Registers as words -/

/-- The code of a leaf page's state (R62). -/
def LpnState.code : LpnState → Nat
  | .empty => 0
  | .resident => 1
  | .moving => 2
  | .converting => 3
  | .lost => 4
  | .backed => 5

/-- The sum of a die's Reservation fields (R60). -/
def Die.totalReserved (d : Die) : Nat := d.resv.toList.foldl (fun a r => a + r.reservation.toNat) 0

/-- An LPN entry as firmware reads it (R62). -/
def Lpn.word (e : Lpn) : Nat :=
  flagBit e.v 31 + e.state.code * 2 ^ 28 + e.lines.length * 2 ^ 18 + e.f.toNat

/-- A page register as firmware reads it (R63). -/
def Lpn.pageWord (e : Lpn) : Nat := e.lastAsid.toNat * 2 ^ 52 + e.frame / 0x10000 * 0x10000 + flagBit e.spill 0

/-- The control word of an error record (R395). -/
def ErrSlot.control (e : ErrSlot) : Nat := e.assay.toNat * 16 + flagBit e.removed 2 + e.cls.toNat

/-- The status word of an error record (R395). -/
def ErrSlot.status (e : ErrSlot) : Nat :=
  let r := e.report
  2 ^ 63 + flagBit e.ovf 62 + flagBit r.asid.isSome 61 + (r.asid.getD 0).toNat * 2 ^ 48 + r.severity.toNat * 2 ^ 44 +
    r.kind.toNat * 2 ^ 40 + r.unit.toNat * 2 ^ 24 + e.merged.toNat * 2 ^ 16 + r.code.toNat

/-- Qword i of an error record (R395). -/
def ErrSlot.qword (e : ErrSlot) (i : Nat) : Nat :=
  match i with
  | 0 => e.control
  | 1 => e.status
  | 2 => e.report.address.toNat
  | 3 => e.report.info.toNat
  | 4 => e.time.toNat
  | _ => 0

/-- A cluster's Patina register (R401). -/
def Cluster.patina (c : Cluster) : Nat := c.birth.toNat * 2 ^ 40 + c.now.toNat * 2 ^ 24 + c.steps.toNat * 2 ^ 20

/-- A port's status (R357). -/
def Port.word (p : Port) : Nat := min p.replays (2 ^ 32 - 1) * 2 ^ 32 + p.lanes * 2 ^ 16 + flagBit p.keyed 1 + flagBit p.up 0

/-- The Assay register (R398). -/
def AssayReg.word (a : AssayReg) : Nat :=
  flagBit a.busy 63 + flagBit a.pass 62 + a.kind.toNat * 2 ^ 40 + a.unit.toNat * 2 ^ 24

/-- The queue's configuration is in range (R384). -/
def Queue.configured (q : Queue) : Bool := decide (4 ≤ q.n ∧ q.n ≤ 16 ∧ 4 ≤ q.m ∧ q.m ≤ 16)

/-- A queue's State register (R377, R384). -/
def Queue.stateWord (q : Queue) : Nat := if q.configured then q.state.toNat else 3

/-! ### Blocks of device MMIO -/

/-- An 8-byte register of a leaf control block (R59). -/
def State.leafReg (s : State) (d : DieId) (o : Nat) : Nat :=
  let x := s.die d
  if o = 0 then x.ceiling
  else if o = 8 then x.totalReserved
  else if 0x200 ≤ o ∧ o < 0x400 then
    let r := x.resv.get (fnOfNat ((o - 0x200) / 8))
    r.resident * 2 ^ 32 + r.reservation.toNat
  else if 0x8000 ≤ o ∧ o < 0x10000 then (s.lpn d ((o - 0x8000) / 8)).pageWord
  else 0

/-- An 8-byte register of a scheduler control block (R168). -/
def State.schedReg (s : State) (d : DieId) (o : Nat) : Nat :=
  let p := s.pol d
  if o = 0 then p.quantum
  else if o = 8 then p.ageing
  else if o = 0x10 then flagBit p.pack 0
  else if o = 0x20 then (s.die d).teamPool.count
  else if o = 0x28 then (s.die d).ctxPool.count
  else if o = 0x30 then (s.die d).swapPool.count
  else if 0x200 ≤ o ∧ o < 0x400 then (p.weights.get (fnOfNat ((o - 0x200) / 8))).toNat
  else if 0x400 ≤ o ∧ o < 0x800 then
    let m := (p.cmasks.get (fnOfNat ((o - 0x400) / 16))).toNat
    if o % 16 = 0 then bitsOf m 0 64 else bitsOf m 64 48
  else 0

/-- An 8-byte register of an error bank (R394, R398, R401). -/
def State.errReg (s : State) (d : DieId) (o : Nat) : Nat :=
  let x := s.die d
  if o = 0 then x.errProduced
  else if o = 8 then x.errConsumed
  else if o = 0x10 then x.errDropped
  else if o = 0x18 then x.assay.word
  else if 0x100 ≤ o ∧ o < 0x480 then (s.cluster (clusterOfNat (d.val * 112 + (o - 0x100) / 8))).patina
  else if 0x1000 ≤ o ∧ o < 0x5000 then
    match mapGet? x.errSlots ((o - 0x1000) / 64) with
    | some e => e.qword (o % 64 / 8)
    | none => 0
  else 0

/-- An 8-byte register of a function's control block (R384, R392). -/
def State.fnReg (s : State) (f : FnId) (o : Nat) : Nat :=
  let x := s.fn f
  if o = 0 then x.windowAsid.toNat * 2 ^ 52 + x.wb.toNat + x.windowSize
  else if o = 8 then x.weight.toNat
  else if 0x10 ≤ o ∧ o < 0x30 then (x.frames.get (dieOfNat ((o - 0x10) / 8))).length
  else if o = 0x30 then x.ring.toNat
  else if o = 0x38 then x.ringSize
  else if 0x100 ≤ o ∧ o < 0x200 then
    let q := x.queues.get (dieOfNat ((o - 0x100) / 0x40))
    match o % 0x40 with
    | 0x00 => q.base.toNat
    | 0x08 => q.n
    | 0x10 => q.cbase.toNat
    | 0x18 => q.m
    | 0x20 => q.asid.toNat
    | 0x30 => bitsOf q.cap.bits.toNat 0 64
    | 0x38 => bitsOf q.cap.bits.toNat 64 64
    | _ => 0
  else if o = 0x40 then x.apAsid.toNat * 2 ^ 52 + x.ab.toNat
  else if o = 0x48 then x.apSize
  else 0

/-- An 8-byte register of device MMIO at an offset of a die's block. -/
def State.mmioReg (s : State) (d : DieId) (o : Nat) : Nat :=
  if 0x100000 ≤ o ∧ o < 0x110000 then s.leafReg d (o - 0x100000)
  else if 0x200000 ≤ o ∧ o < 0x201000 then s.schedReg d (o - 0x200000)
  else if o = 0x300008 then (s.die d).hold.length
  else if 0x400000 ≤ o ∧ o < 0x400200 ∧ d = 0 then (s.jobPtrs.get (fnOfNat ((o - 0x400000) / 8))).toNat
  else if 0x400200 ≤ o ∧ o < 0x400260 ∧ d = 0 then
    (s.ports.get ⟨(o - 0x400200) / 8 % 12, Nat.mod_lt _ (by decide)⟩).word
  else if 0x500000 ≤ o ∧ o < 0x540000 ∧ d = 0 then s.fnReg (fnOfNat ((o - 0x500000) / 0x1000)) (o % 0x1000)
  else if 0x600000 ≤ o ∧ o < 0x605000 then s.errReg d (o - 0x600000)
  else if o = 0x700000 then (s.die d).power.toNat * 2 ^ 8 + (s.die d).powerReq.toNat
  else 0

/-- What a read of device MMIO returns: aligned 8-byte registers, aligned 4-byte LPN entries, and zero for any other
access (R59, R168). -/
def State.mmioRead (s : State) (loc size : Nat) : Nat :=
  let d := bitsOf loc 32 4
  let o := loc % 2 ^ 32
  if d ≥ 4 ∨ loc ≥ mmioBase + 0x400000000 then 0
  else if size = 4 then
    (if 0x104000 ≤ o ∧ o < 0x108000 then (s.lpn (dieOfNat d) ((o - 0x104000) / 4)).word else 0)
  else if size = 8 ∧ ¬(0x104000 ≤ o ∧ o < 0x108000) then s.mmioReg (dieOfNat d) o
  else 0

/-- The function and queue whose queue capability lies at a location of device MMIO (R384). -/
def queueCapAt (loc : Nat) : Option (FnId × Fin 4) :=
  let o := loc - mmioBase
  if mmioBase + 0x500000 ≤ loc ∧ o < 0x540000 ∧ 0x100 ≤ o % 0x1000 ∧ o % 0x1000 < 0x200 ∧ o % 0x40 = 0x30 then
    some (fnOfNat ((o - 0x500000) / 0x1000), dieOfNat ((o % 0x1000 - 0x100) / 0x40))
  else none

/-! ### BAR0 (R377, R388, R391, R397, R402) -/

/-- What an aligned 8-byte read of a function's BAR0 returns; an offset not listed reads as zero (R376). -/
def State.bar0Read (s : State) (f : FnId) (o : Nat) : Nat :=
  let x := s.fn f
  if o < 0x100 then
    let q := x.queues.get (dieOfNat (o / 0x40))
    match o % 0x40 with
    | 0x08 => q.consumed.toNat
    | 0x10 => q.completed.toNat
    | 0x18 => q.head.toNat
    | 0x20 => q.stateWord
    | _ => 0
  else if o = 0x208 then x.xferReg.toNat
  else if o = 0x210 then x.produced.toNat
  else if o = 0x218 then x.consumed.toNat
  else if o = 0x300 then x.err0.toNat
  else if o = 0x308 then x.err13.toNat
  else if o = 0x3F0 ∧ f = 0 then s.boot.status.toNat
  else 0

end Sys2Proof.Machine
end

