-- ==== Sys2Proof/Machine/Inbound.lean ====
section
/-!
DEFINITION. Accesses that the host or a peer sends into the device, and jobs with their paths
(spec/21_links_collectives.md R358 to R361, R364, spec/22_host_service.md R376, spec/23_nvme_read_program.md R392,
spec/04_counters.md R96, R97, spec/06_ordering_far.md R122).
-/
namespace Sys2Proof.Machine

/-- What became of a request from outside: performed, refused, or waiting at the home. -/
inductive Inbound where
  | done (s : State) (data : List Byte)
  | rejected (s : State)
  | waits (s : State)
  deriving DecidableEq, Repr

/-- The party of an inbound request, which enters at die 0 (R122). -/
def outsider (a : Asid) (who : Agent) : Party := { die := 0, core := none, asid := a, team := 0, who := who }

/-- An inbound request that was not performed: a page that converts or moves, or a transfer, makes it wait; a spill
page whose allocation was refused converts first; anything else rejects it (R69, R360, R392). -/
def State.inboundStop (s : State) (a : Asid) (who : Agent) : Stop → Inbound
  | .wait => .waits s
  | .chain k _ => .waits (s.askTransfer 0 a k)
  | .poison loc _ => if s.burstHeld loc then .waits s else .rejected s
  | .convert d lpn _ => .waits (s.beginConversion d lpn a (some who))
  | _ => .rejected (s.clearCauser who)

/-- The pieces of a range, each inside one aligned 4 KiB: start and length. -/
def pagePieces (a : Nat) : Nat → Nat → List (Nat × Nat)
  | _, 0 => []
  | n, k + 1 =>
    if n = 0 then []
    else
      let m := min n (4096 - a % 4096)
      (a, m) :: pagePieces (a + m) (n - m) k

/-- The places of the pieces of an inbound access, all translated, or why one is not reached; the page must be normal
or leaf with the right the access needs (R360, R392). -/
def inboundPlaces (s : State) (w : Party) (k : Kind) : List (Nat × Nat) → State × Except Stop (List (Place × Nat × Nat))
  | [] => (s, .ok [])
  | (a, n) :: r =>
    match translate s w (BitVec.ofNat 64 a) k with
    | (s', .error x) => (s', .error x)
    | (s', .ok p) =>
      if p.ptype ≠ .normal ∧ p.ptype ≠ .leaf then (s', .error (.fault 3 5 (BitVec.ofNat 64 a)))
      else
        match inboundPlaces s' w k r with
        | (s'', .error x) => (s'', .error x)
        | (s'', .ok l) => (s'', .ok ((p, a, n) :: l))

/-- The bytes at places, each read at its home, or why they are not read (R122). -/
def State.readAll (s : State) (w : Party) (l : List (Place × Nat × Nat)) : State × Except Stop (List Byte) :=
  match s.readPlaces w (l.map fun x => (x.1, BitVec.ofNat 64 x.2.1, x.2.2)) with
  | (s', .error x) => (s', .error x)
  | (s', .ok bs) => (s', .ok bs.flatten)

/-- The runs of bytes that an inbound write makes. -/
def runsOf : List (Place × Nat × Nat) → List Byte → List (Place × Word × List Byte)
  | [], _ => []
  | (p, a, n) :: r, bs => (p, BitVec.ofNat 64 a, bs.take n) :: runsOf r (bs.drop n)

/-- A read of an ASID's memory on behalf of the outside, of n bytes at a virtual address: it returns the latest value
at the home (R122). Nothing goes in through a fenced die 0 (R57). -/
def State.inboundRead (s : State) (a : Asid) (who : Agent) (va n : Nat) : Inbound :=
  let w := outsider a who
  if va + n > 2 ^ 48 ∨ (s.die 0).fenced then .rejected s
  else
    match inboundPlaces s w .load (pagePieces va n n) with
    | (s', .error x) => s'.inboundStop a who x
    | (s', .ok l) =>
      match s'.readAll w l with
      | (s'', .error x) => s''.inboundStop a who x
      | (s'', .ok bs) => .done s'' bs

/-- A write of an ASID's memory on behalf of the outside, performed whole or not at all (R122, R360, R392). -/
def State.inboundWrite (s : State) (a : Asid) (who : Agent) (va : Nat) (bs : List Byte) : Inbound :=
  let w := outsider a who
  if va + bs.length > 2 ^ 48 ∨ (s.die 0).fenced then .rejected s
  else
    match inboundPlaces s w .store (pagePieces va bs.length bs.length) with
    | (s', .error x) => s'.inboundStop a who x
    | (s', .ok l) =>
      match s'.writeRuns w (runsOf l bs) with
      | (s'', some x) => s''.inboundStop a who x
      | (s'', none) => .done s'' []

/-! ### Atomics (R250) -/

/-- The word after an atomic's step; none writes nothing (R113, R250). -/
def amoResult (op : AmoOp) (old y e : Word) : Option Word :=
  match op with
  | .add => some (old + y)
  | .and => some (old &&& y)
  | .or => some (old ||| y)
  | .xor => some (old ^^^ y)
  | .min => some (if old.slt y then old else y)
  | .max => some (if old.slt y then y else old)
  | .swp => some y
  | .cas => if old = e then some y else none

/-- An atomic on an ASID's memory on behalf of the outside (R360). -/
def State.inboundAtomic (s : State) (a : Asid) (who : Agent) (va : Nat) (op : AmoOp) (y e : Word) : Inbound :=
  let w := outsider a who
  if va + 8 > 2 ^ 48 ∨ va % 8 ≠ 0 ∨ (s.die 0).fenced then .rejected s
  else
    match inboundPlaces s w .atomic [(va, 8)] with
    | (s', .ok [(p, _, _)]) =>
      match s'.atHome w p (BitVec.ofNat 64 va) (fun old => amoResult op old y e) with
      | (s'', .error x) => s''.inboundStop a who x
      | (s'', .ok old) => .done s'' (leBytes 8 old.toNat)
    | (s', .error x) => s'.inboundStop a who x
    | (s', .ok _) => .rejected s'

/-! ### Add windows (R96, R97) -/

/-- An add of the outside to a counter of an ASID: it releases its requester's earlier writes, whose invalidations it waits
for (R96, R97, R116, R122). -/
def State.inboundAdd (s : State) (a : Asid) (who : Agent) (va size : Nat) (x : Word) : Inbound :=
  if !((size = 8 ∨ size = 4) && va % 8 = 0) ∨ va + 8 > 2 ^ 48 ∨ (s.die 0).fenced then .rejected s
  else if s.pendingOn who ≠ 0 then .waits s
  else
    let v : Word := if size = 4 then (x.setWidth 32).setWidth 64 else x
    match s.counterPlace (outsider a who) (BitVec.ofNat 64 va) .ctrWrite with
    | (s', .error x) => s'.inboundStop a who x
    | (s', .ok p) => .done (s'.counterAdd a p.loc (BitVec.ofNat 64 va) v).2 []

/-- A read of a counter of an ASID by the outside; a 4-byte read returns the addressed half (R96, R97). -/
def State.inboundCounter (s : State) (a : Asid) (who : Agent) (va size : Nat) : Inbound :=
  if !((size = 8 && va % 8 = 0) || (size = 4 && va % 4 = 0)) ∨ va + size > 2 ^ 48 ∨ (s.die 0).fenced then .rejected s
  else
    match s.counterPlace (outsider a who) (BitVec.ofNat 64 (va / 8 * 8)) .ctrRead with
    | (s', .error x) => s'.inboundStop a who x
    | (s', .ok p) => .done s' (s'.bytes (p.loc + va % 8) size)

/-! ### Jobs, peers and paths (R358 to R361, R364) -/

/-- The start of a peer window's add half (R15). -/
def addHalf : Nat := 0x80000000000

/-- The virtual address of a peer's offset in a job, if Peer base admits it (R360). -/
def Job.target (j : Job) (o : Nat) : Option Nat :=
  let va := j.peerBase + o % addHalf
  if j.peerBase = 0 ∨ va ≥ 2 ^ 48 then none else some va

/-- The state with a rejected inbound request recorded in a die's bank against an ASID (R96, R360, R392). -/
def State.refuseInbound (s : State) (a : Asid) : State := s.refuse 0 (some a)

/-- A peer's write at a window offset, a plain one or an add (R360). -/
def State.fromPeerWrite (s : State) (f : FnId) (who : Agent) (o : Nat) (bs : List Byte) : Inbound :=
  match s.jobs.get f with
  | none => .rejected (s.refuse 0 none)
  | some j =>
    let r := match j.target o with
      | none => Inbound.rejected s
      | some va =>
        if o < addHalf then s.inboundWrite j.peerAsid who va bs
        else s.inboundAdd j.peerAsid who va bs.length (BitVec.ofNat 64 (leNat bs))
    match r with
    | .rejected s' => .rejected (s'.refuseInbound j.peerAsid)
    | x => x

/-- A peer's read at a window offset; a rejected one returns all ones (R360). -/
def State.fromPeerRead (s : State) (f : FnId) (who : Agent) (o n : Nat) : Inbound :=
  match s.jobs.get f with
  | none => .done (s.refuse 0 none) (List.replicate n 0xFF)
  | some j =>
    let r := match j.target o with
      | none => Inbound.rejected s
      | some va => if o < addHalf then s.inboundRead j.peerAsid who va n else s.inboundCounter j.peerAsid who va n
    match r with
    | .rejected s' => .done (s'.refuseInbound j.peerAsid) (List.replicate n 0xFF)
    | x => x

/-- A peer's atomic at a window offset; a rejected one returns all ones (R360). -/
def State.fromPeerAtomic (s : State) (f : FnId) (who : Agent) (o : Nat) (op : AmoOp) (y e : Word) : Inbound :=
  match s.jobs.get f with
  | none => .done (s.refuse 0 none) (List.replicate 8 0xFF)
  | some j =>
    let r := match j.target o with
      | none => Inbound.rejected s
      | some va => if o < addHalf then s.inboundAtomic j.peerAsid who va op y e else .rejected s
    match r with
    | .rejected s' => .done (s'.refuseInbound j.peerAsid) (List.replicate 8 0xFF)
    | x => x

end Sys2Proof.Machine
end

