-- ==== Sys2Proof/Machine/Io.lean ====
section
/-!
DEFINITION. Accesses of a strand that leave through a port: device MMIO, the host window and peer windows; and the waits
of a release (spec/01_addresses.md R14, R15, R31, spec/13_memory_isa.md R251, spec/06_ordering_far.md R108, R120, R121,
spec/21_links_collectives.md R359, R361).
-/
namespace Sys2Proof.Machine

/-- The value that a load writes: 16 bytes untagged, fewer extended to 64 bits (R247). -/
def loadValue (bs : List Byte) (sext : Bool) : CapReg :=
  let v := leNat bs
  let k := 8 * bs.length
  if bs.length = 16 then { tag := false, bits := BitVec.ofNat 128 v }
  else CapReg.untagged (if sext ∧ bitsOf v (k - 1) 1 = 1 then BitVec.ofNat 64 (v + 2 ^ 64 - 2 ^ k) else BitVec.ofNat 64 v)

/-- The number of a peer window and the offset in it (R14, R15). -/
def peerParts (loc : Nat) : Nat × Nat := ((loc - peerBase) / 2 ^ 44, loc % 2 ^ 44)

/-- The PCIe address of a location of the host window (R14). -/
def hostAddr (loc : Nat) : Nat := loc - hostBase

/-- The rank a job gives this device. -/
def State.ownRank (s : State) (f : FnId) : Option Nat := (s.jobs.get f).map Job.rank

/-- The state in which the issuing strand waits for an access outside the device. -/
def State.awaitIo (s : State) (o : Outstanding) (m : Sent) : State :=
  (s.depart o m).modCur fun t => { t with run := .waitIo o.id }

/-- Where an access through a peer window goes. -/
inductive PeerRoute where
  | none
  | own
  | unreachable
  | held
  | rank (q : Nat)
  deriving DecidableEq, Repr

/-- The route of a peer window in the job of a function; it is held while every port of the path has stopped (R356, R359,
R361). -/
def State.peerRoute (s : State) (f : FnId) (window : Nat) : PeerRoute :=
  match s.peerRank f window with
  | .none => .none
  | some q => if s.ownRank f = some q then .own
    else if !s.reachable f q then .unreachable
    else if s.pathHeld f q then .held
    else .rank q

/-- What becomes of an access that this device performs for itself as for a peer (R359). -/
def ownResult (r : Inbound) (k : State → List Byte → Res) : Res :=
  match r with
  | .done s bs => k s bs
  | .rejected s => k s []
  | .waits s => .stall s

/-- The function whose job the issuing strand's peer accesses use (R359). -/
def State.myFn (s : State) : FnId := s.fnOf s.myDie s.cur.asid

/-- Who counts the invalidations of an access of the issuing strand that comes back to this device: its core (R50). -/
def State.myself (s : State) : Agent := .core s.cur.core

/-- An access of the issuing strand at a port, which first transfers a processor-owned page (R33, R390). -/
def State.ioOwned (s : State) (p : Place) (va : Word) (r : Res) : Res := if p.owner = 1 then .stop s (p.transfer va) else r

/-- A load at a port, into a scalar register (R31, R247). -/
def State.ioLoad (s : State) (p : Place) (va : Word) (n : Nat) (sext : Bool) (d : CIdx) : Res :=
  match regionOf p.loc with
  | .mmio =>
    if s.fencedAt p.loc then .fault s 8 0 va
    else .done (s.setC d (loadValue (leBytes n (s.mmioRead p.loc n)) sext))
  | .host =>
    if s.fencedAt p.loc then .fault s 8 0 va
    else
      .done (s.awaitIo { s.pendingOf va n none false with dest := d, sext := sext }
        (.hostRead s.nextId (hostAddr p.loc) n))
  | .peer =>
    let w := peerParts p.loc
    let f := s.myFn
    match s.peerRoute f w.1 with
    | .none => .fault s 3 3 va
    | .unreachable => .fault s 8 0 va
    | .held => .stall s
    | .own => ownResult (s.fromPeerRead f s.myself w.2 n) fun s bs => .done (s.setC d (loadValue bs sext))
    | .rank q =>
      .done (s.awaitIo { s.pendingOf va n (some (f, q)) false with dest := d, sext := sext }
        (.peerRead s.nextId f q w.2 n))
  | _ => .fault s 3 3 va

/-! ### Releases (R108, R116, R120, R361) -/

/-- Whether the issuing strand's earlier accesses are performed at a scope, its queued `mx.st` among them, and the state in
which those that can be are (R107, R108, R116, R120, R306). -/
def State.releaseAt (s : State) (scope : Nat) : State × Option Stop :=
  if s.storeQueued then (s, some .wait)
  else if scope = 0 then (s.toCore, none)
  else
    let s := s.quiet
    if scope < 3 then (s, none)
    else if !s.settled then (s, some .wait)
    else if scope = 3 then (s, none)
    else s.sysReady s.cur.handle.addr

/-- What an instruction does once its strand's earlier accesses are performed at a scope. Until then it has no effect but
that they go on being performed: `b` is the state it was issued in (R8, R108). -/
def State.released (s b : State) (scope : Nat) (k : State → Res) : Res :=
  match s.releaseAt scope with
  | (_, some .wait) => .stall (b.releaseAt scope).1
  | (s', some x) => .stop s' x
  | (s', none) => k s'

/-! ### Stores and atomics at a port (R31, R247, R251) -/

/-- The location is the Resolve register of a die, whose write waits for the writer's accesses (R346, R347). -/
def isResolve (loc : Nat) : Bool := decide (regionOf loc = .mmio) && decide (loc % 2 ^ 32 = 0x300000)

/-- A store at a port (R31, R247). -/
def State.ioStore (s : State) (p : Place) (va : Word) (bs : List Byte) : Res :=
  match regionOf p.loc with
  | .mmio =>
    if s.fencedAt p.loc then .fault s 8 0 va
    else
      let write := fun (s : State) => Res.done (s.addDue (.registerWrite (.mmio p.loc bs.length) (BitVec.ofNat 64 (leNat bs))))
      if isResolve p.loc then s.released s 4 write else write s
  | .host =>
    if s.fencedAt p.loc then .fault s 8 0 va
    else .done (s.depart (s.pendingOf va bs.length none true) (.hostWrite (hostAddr p.loc) bs))
  | .peer =>
    let w := peerParts p.loc
    let f := s.myFn
    match s.peerRoute f w.1 with
    | .none => .fault s 3 3 va
    | .unreachable => .fault s 8 0 va
    | .held => .stall s
    | .own => ownResult (s.fromPeerWrite f s.myself w.2 bs) fun s _ => .done s
    | .rank q => .done (s.depart (s.pendingOf va bs.length (some (f, q)) true) (.peerWrite s.nextId f q w.2 bs))
  | _ => .fault s 3 3 va

/-- The port takes the atomic: device MMIO takes none, the host three (R251). -/
def portTakes (op : AmoOp) (loc : Nat) : Bool :=
  match regionOf loc with
  | .peer => true
  | .host => decide (op = .add ∨ op = .swp ∨ op = .cas)
  | _ => false

/-- An atomic at a port that takes it (R251). -/
def State.ioAtomic (s : State) (p : Place) (va : Word) (op : AmoOp) (y e : Word) (d : CIdx) : Res :=
  match regionOf p.loc with
  | .host =>
    if s.fencedAt p.loc then .fault s 8 0 va
    else
      .done (s.awaitIo { s.pendingOf va 8 none false with dest := d, atomic := true }
        (.hostAtomic s.nextId (hostAddr p.loc) op y e))
  | .peer =>
    let w := peerParts p.loc
    let f := s.myFn
    match s.peerRoute f w.1 with
    | .none => .fault s 3 3 va
    | .unreachable => .fault s 8 0 va
    | .held => .stall s
    | .own => ownResult (s.fromPeerAtomic f s.myself w.2 op y e) fun s bs => .done (s.setX d (BitVec.ofNat 64 (leNat bs)))
    | .rank q =>
      .done (s.awaitIo { s.pendingOf va 8 (some (f, q)) false with dest := d, atomic := true }
        (.peerAtomic s.nextId f q w.2 op y e))
  | _ => .fault s 3 5 va

end Sys2Proof.Machine
end

