-- ==== Sys2Proof/Machine/Births.lean ====
section
/-!
DEFINITION. What brings strands to life: valid continuation records, kernel headers and launches
(spec/07_strands.md R132, R138 to R143, spec/09_scheduling.md R170).
-/
namespace Sys2Proof.Machine

/-! ### Valid records (R132) -/

/-- The swap state of a team block as one number (R175). -/
def State.swapWord (s : State) (t : Team) : Nat := s.memN t.swapState 64

/-- The record is a slot of a live team block of an ASID, whose reserved bits are zero (R6, R132, R142, R175). -/
def State.teamSlotOk (s : State) (h : Handle) : Bool :=
  match s.teamOfRecord h.addr with
  | none => false
  | some t =>
    let w := s.swapWord t
    decide (bitsOf w 0 187 = 0) && decide (bitsOf w 187 12 = h.asid.toNat) && decide (bitsOf w (256 + (h.addr - t.block) / 64) 1 = 1)

/-- The record is valid, its context pointer apart (R132). -/
def State.recordOk (s : State) (h : Handle) : Bool :=
  let f := s.recFlags h.addr
  decide (bitsOf f 12 4 = 0) && decide (bitsOf f 9 2 = 0) && decide (bitsOf f 4 1 = 0) &&
    decide (bitsOf (s.recWait h.addr) 59 5 = 0) && decide (s.recPrio h.addr ≤ 3) && decide (s.recAff h.addr ≤ 3) &&
    decide (flagGrant f ≤ 4) && (!flagTeam f || s.teamSlotOk h)

/-! ### Kernel headers (R138, R139) -/

/-- A qword of a list of bytes. -/
def qwordOf (bs : List Byte) (i : Nat) : Nat := leNat ((bs.drop (8 * i)).take 8)

/-- The grant code of a request of at most 32 vector registers (R139). -/
def grantCode (q : Nat) : Nat := (q + 7) / 8

/-- Strands of a launch that one core can hold (R139). -/
def occupancy (code : Nat) : Nat := if code = 0 then 16 else min 16 (256 / (8 * code))

/-- The header's fields are legal: status 1 otherwise (R140). -/
def headerOk (bs : List Byte) : Bool :=
  let q0 := qwordOf bs 0
  let q2 := qwordOf bs 2
  decide (bitsOf q0 0 32 = 0x47484B31) && decide (bitsOf q0 35 1 = 0) && decide (bitsOf q0 38 26 = 0) &&
    decide (bitsOf (qwordOf bs 3) 48 16 = 0) && decide (bitsOf q0 32 3 ≤ 4) && decide (1 ≤ bitsOf q2 8 8) &&
    decide (bitsOf q2 8 8 ≤ 64) && decide (bitsOf q2 0 8 ≤ 32) && decide (bitsOf q2 16 16 ≤ 2048) &&
    decide (qwordOf bs 1 % 4 = 0) && decide (bitsOf q2 8 8 ≤ 4 * occupancy (grantCode (bitsOf q2 0 8)))

/-- The launch that a header describes, with nothing yet born (R138). -/
def headerLaunch (bs : List Byte) (tag : Bool) (arena : CapReg) : Launch :=
  let q0 := qwordOf bs 0
  let q2 := qwordOf bs 2
  let q3 := qwordOf bs 3
  { id := 0, asid := 0, f := 0, scope := 0
    entry := BitVec.ofNat 64 (qwordOf bs 1)
    param := { tag := tag, bits := BitVec.ofNat 128 (leNat ((bs.drop 32).take 16)) }
    arena := arena
    frame := bitsOf q2 32 32
    strands := bitsOf q2 8 8
    dimX := bitsOf q3 0 16, dimY := bitsOf q3 16 16, dimZ := bitsOf q3 32 16
    kib := bitsOf q2 16 16
    grant := BitVec.ofNat 3 (grantCode (bitsOf q2 0 8))
    prio := BitVec.ofNat 8 (bitsOf q0 36 2)
    cscope := BitVec.ofNat 3 (bitsOf q0 32 3)
    caddr := BitVec.ofNat 64 (qwordOf bs 6)
    cvalue := BitVec.ofNat 64 (qwordOf bs 7)
    left := 0, lost := 0, killed := false, queue := none }

/-- The teams of a launch (R140). -/
def Launch.teams (l : Launch) : Nat := l.dimX * l.dimY * l.dimZ

/-- The least s with ceil(F / 2^s) ≤ 0x3000, among k candidates from one on (R142). -/
def frameShift (f : Nat) : Nat → Nat → Nat
  | s, 0 => s
  | s, k + 1 => if ceilShift f s ≤ 0x3000 then s else frameShift f (s + 1) k

/-- The frame granule of a frame size (R142). -/
def frameGranule (f : Nat) : Nat := max 64 (2 ^ frameShift f 0 32)

/-- The frame size rounded up to its granule (R142). -/
def frameSpan (f : Nat) : Nat := (f + frameGranule f - 1) / frameGranule f * frameGranule f

/-- The frame arena serves the launch: status 2 otherwise (R140). -/
def arenaOk (l : Launch) : Bool :=
  let c := l.arena
  c.tag && !capMalformed c.bits && [Perm.load, .store, .loadCap, .storeCap].all (hasPerm c.bits ·) &&
    decide (capAddrOf c.bits % frameGranule l.frame = 0) &&
    decide ((capAddrOf c.bits + l.teams * l.strands * frameSpan l.frame : Nat) ≤ capTopOf c.bits) &&
    decide (capBaseOf c.bits ≤ (capAddrOf c.bits : Int))

/-- A completion counter that a descriptor or header names: none, or an aligned word inside the capability, which has
counter permission, on a counter page with W (R140, R152). -/
def State.completionOk (s : State) (w : Party) (c : CapReg) (va : Word) : Bool :=
  decide (va = 0) ||
    (decide (va.toNat % 8 = 0) && inBounds c va.toNat 8 && hasPerm c.bits .counter &&
      match (translate s w va .ctrWrite).2 with
      | .ok _ => true
      | .error _ => false)

/-- A cluster whose cores can hold a team of a launch, free or not (R143). -/
def State.couldHold (s : State) (l : Launch) (cl : ClusterId) : Bool :=
  let u := (s.userCores cl).length
  decide (0 < u) && decide (slotsPer l.strands u ≤ occupancy l.grant.toNat)

/-- The clusters of a die that a function's mask opens (R168). -/
def State.openClusters (s : State) (d : DieId) (f : FnId) : List ClusterId :=
  let m := (s.pol d).cmasks.get f
  (List.range 112).filterMap fun k =>
    if m = 0 ∨ m.getLsbD k then some (clusterOfNat (d.val * 112 + k)) else none

/-- A completion counter cannot be checked now: a walk to it meets a unit under test (R398). -/
def State.completionHeld (s : State) (w : Party) (c : CapReg) (va : Word) : Bool :=
  decide (va ≠ 0) && decide (va.toNat % 8 = 0) && inBounds c va.toNat 8 && hasPerm c.bits .counter &&
    mustWait (translate s w va .ctrWrite).2

/-- Some in-service cluster of the device can hold a team: status 5 otherwise (R140, R143). -/
def State.anyFit (s : State) (l : Launch) : Bool :=
  (List.range 448).any fun k => s.couldHold l (clusterOfNat k)

/-! ### Launching (R140) -/

/-- The state after the births of a launch, with its teams in a die's queue; a launch of no team has only its
completion add, and its record if it came through a queue (R140). -/
def State.beginLaunch (s : State) (w : Party) (d : DieId) (l : Launch) (at_ : Nat) (r : ScopeRec) : State :=
  if l.teams = 0 then (s.performAdd w l).readyIf (l.queue.map fun q => (q.1, q.2.1, q.2.2, 0, 0))
  else
    let l := { l with id := s.nextId, left := l.teams * l.strands }
    let s := s.addBirths at_ r l.left
    ({ s with nextId := s.nextId + 1, launches := s.launches ++ [l] }.modDie d fun x =>
      { x with teamQ := x.teamQ ++ [QEntry.fresh l.id 0 0] }).addAgenda (.teamPlacement d)

/-- The status of a launch whose header has been read, 0 if it goes on, in the order of the status table (R140). -/
def State.launchStatus (s : State) (w : Party) (hdr : CapReg) (bs : List Byte) (l : Launch) (r : Option ScopeRec) : Nat :=
  if !headerOk bs then 1
  else if !arenaOk l then 2
  else if !s.completionOk w hdr l.caddr then 3
  else if !((r.map ScopeRec.acceptsAll).getD false) then 4
  else if !s.anyFit l then 5
  else 0

/-- The state in which what the add of a launch of no team waits for at `sys` is on its way, under a key (R120). -/
def State.askAdd (s : State) (key : Nat) (l : Launch) : State :=
  if l.teams = 0 ∧ l.caddr ≠ 0 ∧ l.cscope = 4 then (s.allPosted key).1 else s

/-- A launch waits before its outcome is known: its completion counter cannot be checked now, or it has no team and its completion
add waits (R86, R90, R120, R140, R398). -/
def State.launchHeld (s : State) (w : Party) (hdr : CapReg) (bs : List Byte) (l : Launch) (r : Option ScopeRec) : Bool :=
  headerOk bs && arenaOk l &&
    (s.completionHeld w hdr l.caddr ||
      (decide (l.teams = 0) && decide (s.launchStatus w hdr bs l r = 0) && !s.addNow w l))

end Sys2Proof.Machine
end

