-- ==== Sys2Proof/Machine/Vector.lean ====
section
/-!
DEFINITION. Lanes of vector registers, and vector memory, major 0x28 (spec/11_encoding.md R214, R215,
spec/14_vector_isa.md R268 to R273).
-/
namespace Sys2Proof.Machine

/-! ### Lanes (R215) -/

/-- Lane k of b bits of a vector register. -/
def laneOf (b : Nat) (v : VReg) (k : Nat) : Nat := bitsOf v.toNat (k * b) b

/-- Lane k of b bits is active under a mask: the mask bit of the lane's first byte (R215). -/
def laneOn (b : Nat) (m : MReg) (k : Nat) : Bool := m.getLsbD (k * b / 8)

/-- Lanes of b bits as one number, lane 0 lowest. -/
def packLanes (b : Nat) : List Nat → Nat
  | [] => 0
  | x :: r => x % 2 ^ b + 2 ^ b * packLanes b r

/-- The vector register with given lanes of b bits. -/
def vecOf (b : Nat) (f : Nat → Nat) : VReg := BitVec.ofNat 1024 (packLanes b ((List.range (1024 / b)).map f))

/-- A vector register with its active lanes replaced (R215, R268). -/
def mapLanes (b : Nat) (m : MReg) (old : VReg) (f : Nat → Nat) : VReg :=
  vecOf b fun k => if laneOn b m k then f k else laneOf b old k

/-- A vector register with lane k replaced. -/
def putLane (b : Nat) (v : VReg) (k x : Nat) : VReg := vecOf b fun j => if j = k then x else laneOf b v j

/-- A lane's value as two's complement. -/
def signedOf (b x : Nat) : Int := if x ≥ 2 ^ (b - 1) then (x : Int) - 2 ^ b else x

/-- An integer modulo 2^b. -/
def wrapTo (b : Nat) (x : Int) : Nat := (x % 2 ^ b).toNat

/-- A form of majors 0x28 to 0x2D that takes no format. -/
def vform (i : Instr) (g : Gap) (reads writes : List RegName) (lat : Option Nat) : Form :=
  { instr := i, gap := g, reads := reads, writes := writes, lat := lat, vector := true, takes := none, point := false }

/-- A form of major 0x28: its sources are judged only where an element is active (R20, R269). -/
def vmem (i : Instr) (g : Gap) (reads writes : List RegName) : Form := { vform i g reads writes none with mild := true }

/-! ### Elements (R269) -/

/-- An element of a vector access: its number and its address. -/
structure Elem where
  k  : Nat
  va : Word
  deriving DecidableEq, Repr

/-- The places of elements of n bytes in order, each checked for bounds, alignment, address bits [63:48] and
translation, or why the first that fails is not reached; `last` is the place of the element before it, which serves the
same 4 KiB page (R269). -/
def State.vecPlaces (s : State) (c : CapReg) (n : Nat) (kd : Kind) (last : Option (Word × Place)) :
    List Elem → State × Except Stop (List (Place × Elem))
  | [] => (s, .ok [])
  | e :: r =>
    if !inBounds c e.va.toNat n then (s, .error (.fault 2 1 e.va))
    else if e.va.toNat % n ≠ 0 then (s, .error (.fault 4 0 e.va))
    else
      let here : State × Except Stop Place := match last with
        | some (va, p) =>
          if va.toNat / 4096 = e.va.toNat / 4096 then (s, .ok { p with loc := p.loc / 4096 * 4096 + e.va.toNat % 4096 })
          else translate s s.me e.va kd
        | none => translate s s.me e.va kd
      match here with
      | (s', .error x) => (s', .error x)
      | (s', .ok p) =>
        match State.vecPlaces s' c n kd (some (e.va, p)) r with
        | (s'', .error x) => (s'', .error x)
        | (s'', .ok l) => (s'', .ok ((p, e) :: l))

/-- The places of an access's elements of n bytes after its checks: the capability once, a malformed one recorded, the base's
alignment once, then each element (R20, R269). -/
def State.vecCheck (s : State) (c : CapReg) (n : Nat) (kd : Kind) (perm : Perm) (base : Option Word) (l : List Elem) :
    State × Except Stop (List (Place × Elem)) :=
  let first := (l.head?.map Elem.va).getD 0
  match capRights c [perm] with
  | some sub => (if sub = 3 then s.registerError else s, .error (.fault 2 sub first))
  | none =>
    match base with
    | some b => if b.toNat % 8 ≠ 0 then (s, .error (.fault 4 0 b)) else s.vecPlaces c n kd none l
    | none => s.vecPlaces c n kd none l

/-! ### Loads -/

/-- The elements' values, or why one is not read (R55, R269). -/
def State.vecRead (s : State) (n : Nat) (l : List (Place × Elem)) : State × Except Stop (List (Nat × Nat)) :=
  match s.readPlaces s.me (l.map fun x => (x.1, x.2.va, n)) with
  | (s', .error x) => (s', .error x)
  | (s', .ok bs) => (s', .ok ((l.map fun x => x.2.k).zip (bs.map leNat)))

/-- A vector register with the elements read placed in its lanes of b bits. -/
def gathered (b : Nat) (old : VReg) (l : List (Nat × Nat)) : VReg :=
  vecOf b fun k => ((l.find? fun x => decide (x.1 = k)).map Prod.snd).getD (laneOf b old k)

/-- A vector load of elements of n bytes (R269). -/
def State.vecLoad (s : State) (d : VIdx) (c : CapReg) (n : Nat) (base : Option Word) (l : List Elem) : Res :=
  if l.isEmpty then .done s
  else if s.storeQueued then .stall s
  else
    match s.vecCheck c n .vecLoad .load base l with
    | (s', .error x) => .stop s' x
    | (s', .ok ps) =>
      match s'.vecRead n ps with
      | (s'', .error x) => .stop s'' x
      | (s'', .ok xs) => .done (s''.setV d (gathered (8 * n) (s''.cur.vreg d) xs))

/-! ### Stores -/

/-- A byte location is one that elements of n bytes write. -/
def writtenBy (n : Nat) (l : List (Place × Elem)) (a : Nat) : Bool :=
  l.any fun x => decide (x.1.loc ≤ a) && decide (a < x.1.loc + n)

/-- Every byte of a sector is written by the elements. -/
def coversSector (n : Nat) (l : List (Place × Elem)) (sector : Nat) : Bool :=
  (List.range 64).all fun i => writtenBy n l (sector * 64 + i)

/-- The first element that is not written: its home, its page's state, or a poisoned sector that the store covers only
in part (R55, R56, R269). -/
def State.vecGate (s : State) (n : Nat) (all : List (Place × Elem)) : List (Place × Elem) → Option Stop
  | [] => none
  | (p, e) :: r =>
    match s.gate s.me p e.va n with
    | some x => some x
    | none =>
      if s.poisoned p.loc n ∧ !coversSector n all (s.poisonSector p.loc n) then
        some (.poison (s.poisonSector p.loc n * 64) e.va)
      else State.vecGate s n all r

/-- The state with every leaf line of a store allocated, with the first refusal on a nospill page and the first
conversion that is needed (R68, R269). -/
def State.vecAlloc (s : State) : List (Place × Elem) → State × Option Stop × Option Stop
  | [] => (s, none, none)
  | (p, e) :: r =>
    if p.ptype ≠ .leaf then State.vecAlloc s r
    else
      match s.allocLine p s.cur.asid e.va (p.loc / 128) with
      | (s', none) => State.vecAlloc s' r
      | (s', some x) =>
        let t := State.vecAlloc s' r
        if p.spill then (t.1, t.2.1, some x) else (t.1, some x, t.2.2)

/-- The distinct lines of elements in cacheable places. -/
def vecLines : List (Place × Elem) → List Nat
  | [] => []
  | (p, _) :: r => if p.cacheable then setIns (vecLines r) (p.loc / 128) else vecLines r

/-- The sectors of a line that elements of n bytes touch. -/
def vecMask (n : Nat) (l : List (Place × Elem)) (line : Nat) : BitVec 2 :=
  l.foldl (fun m x => m ||| sectorMask line x.1.loc n) 0

/-- The distinct aligned 8-byte words that elements write. -/
def vecWords : List (Place × Elem) → List Nat
  | [] => []
  | (p, _) :: r => setIns (vecWords r) (p.loc / 8)

/-- The state with the elements' bytes written in ascending order, so that the highest-numbered element that writes a
byte gives its value, and the marks of sectors written whole cleared (R55, R269). -/
def State.vecPut (s : State) (n : Nat) (v : VReg) (l : List (Place × Elem)) : State :=
  let s' := l.foldl (fun s x => s.putBytes x.1.loc (leBytes n (laneOf (8 * n) v x.2.k))) s
  { s' with poison := s'.poison.filter fun q => !coversSector n l q }

/-- The state with the elements of a store written: each word is its own early store, or all are performed at once (R106,
R269). -/
def State.vecWrite (s : State) (v : VReg) (n : Nat) (ps : List (Place × Elem)) : State :=
  let s := ps.foldl (fun s x => s.performAt x.1.loc n) s
  let early := ps.all fun x => s.isEarly s.me x.1 n
  let pieces := if early then (vecWords ps).flatMap fun w => earlyPieces s.cur.core (.strand s.cur.handle.addr) s (w * 8) 8 else []
  let s :=
    if early then
      (vecLines ps).foldl (fun s l => if (s.copyOf s.myDie l).isSome then s.dropFar s.myDie l else s) s
    else (vecLines ps).foldl (fun s l => s.noteStore s.me l (vecMask n ps l)) s
  ((vecWords ps).foldl (fun s w => s.noteWrite s.me (w * 8) 8) (s.vecPut n v ps)).addEarly pieces

/-- A vector store of elements of n bytes (R269). -/
def State.vecStore (s : State) (v : VReg) (c : CapReg) (n : Nat) (base : Option Word) (l : List Elem) : Res :=
  if l.isEmpty then .done s
  else if s.storeQueued then .stall s
  else
    match s.vecCheck c n .vecStore .store base l with
    | (s', .error x) => .stop s' x
    | (s', .ok ps) =>
      let gate := s'.vecGate n ps ps
      let s' := s'.arriveAll s'.me (ps.map fun x => (x.1, x.2.va, n)) gate
      match gate with
      | some x => .stop s' x
      | none =>
        match s'.vecAlloc ps with
        | (_, some x, _) => .stop s' x
        | (_, none, some x) => .stop s' x
        | (s'', none, none) => .done (s''.vecWrite v n ps)

/-! ### The instructions (R270 to R273) -/

/-- The active elements of `vld`, `vst` and `vldb`: bytes at an offset of the byte's number (R269, R270). -/
def byteElems (m : MReg) (base : Word) (f : Nat → Nat) : List Elem :=
  ((List.range 128).filter (laneOn 8 m ·)).map fun k => { k := k, va := base + BitVec.ofNat 64 (f k) }

/-- The active elements of the strided and indexed forms: 32-bit lanes (R269, R271). -/
def wordElems (m : MReg) (f : Nat → Word) : List Elem :=
  ((List.range 32).filter (laneOn 32 m ·)).map fun k => { k := k, va := f k }

/-- What a form of major 0x28 with a scalar index does: with an element active, a tagged malformed index is reported first, as
for another source (R20, R224; assumption log 36). -/
def State.withIndex (s : State) (x : CIdx) (l : List Elem) (r : Res) : Res :=
  if !l.isEmpty && (s.cur.creg x).tag && capMalformed (s.cur.creg x).bits then .fault s.registerError 2 3 (s.x x) else r

/-- The base of a contiguous access (R270). -/
def State.vecBase (s : State) (c x : CIdx) : Word := s.x c + s.x x

/-- The address of lane k of a strided access (R271). -/
def State.strided (s : State) (c x : CIdx) (k : Nat) : Word := s.x c + BitVec.ofNat 64 k * s.x x

/-- The address of lane k of an indexed access (R272). -/
def State.indexed (s : State) (c : CIdx) (x : VIdx) (k : Nat) : Word := s.x c + BitVec.ofNat 64 (laneOf 32 (s.cur.vreg x) k)

/-- `vld` (R270). -/
def execVld (g : Gap) (v : VIdx) (c x : CIdx) (m : MIdx) (s : State) : Host.Outcome State Fault Refusal :=
  (vmem (.vld g v c x m) g [.c c, .c x, .m m] [.v v]).run s fun s =>
    let l := byteElems (s.cur.mreg m) (s.vecBase c x) fun k => k
    s.withIndex x l (s.vecLoad v (s.cur.creg c) 1 (some (s.vecBase c x)) l)

/-- `vst` (R270). -/
def execVst (g : Gap) (v : VIdx) (c x : CIdx) (m : MIdx) (s : State) : Host.Outcome State Fault Refusal :=
  (vmem (.vst g v c x m) g [.v v, .c c, .c x, .m m] []).run s fun s =>
    let l := byteElems (s.cur.mreg m) (s.vecBase c x) fun k => k
    s.withIndex x l (s.vecStore (s.cur.vreg v) (s.cur.creg c) 1 (some (s.vecBase c x)) l)

/-- `vlds` (R271). -/
def execVlds (g : Gap) (v : VIdx) (c x : CIdx) (m : MIdx) (s : State) : Host.Outcome State Fault Refusal :=
  (vmem (.vlds g v c x m) g [.c c, .c x, .m m] [.v v]).run s fun s =>
    let l := wordElems (s.cur.mreg m) (s.strided c x)
    s.withIndex x l (s.vecLoad v (s.cur.creg c) 4 none l)

/-- `vsts` (R271). -/
def execVsts (g : Gap) (v : VIdx) (c x : CIdx) (m : MIdx) (s : State) : Host.Outcome State Fault Refusal :=
  (vmem (.vsts g v c x m) g [.v v, .c c, .c x, .m m] []).run s fun s =>
    let l := wordElems (s.cur.mreg m) (s.strided c x)
    s.withIndex x l (s.vecStore (s.cur.vreg v) (s.cur.creg c) 4 none l)

/-- `vgat` (R272). -/
def execVgat (g : Gap) (v : VIdx) (c : CIdx) (x : VIdx) (m : MIdx) (s : State) : Host.Outcome State Fault Refusal :=
  (vmem (.vgat g v c x m) g [.c c, .v x, .m m] [.v v]).run s fun s =>
    s.vecLoad v (s.cur.creg c) 4 none (wordElems (s.cur.mreg m) (s.indexed c x))

/-- `vsct` (R272). -/
def execVsct (g : Gap) (v : VIdx) (c : CIdx) (x : VIdx) (m : MIdx) (s : State) : Host.Outcome State Fault Refusal :=
  (vmem (.vsct g v c x m) g [.v v, .c c, .v x, .m m] []).run s fun s =>
    s.vecStore (s.cur.vreg v) (s.cur.creg c) 4 none (wordElems (s.cur.mreg m) (s.indexed c x))

/-- `vldb`: byte k of the register takes byte k mod 8 at the base (R273). -/
def execVldb (g : Gap) (v : VIdx) (c x : CIdx) (m : MIdx) (s : State) : Host.Outcome State Fault Refusal :=
  (vmem (.vldb g v c x m) g [.c c, .c x, .m m] [.v v]).run s fun s =>
    let l := byteElems (s.cur.mreg m) (s.vecBase c x) fun k => k % 8
    s.withIndex x l (s.vecLoad v (s.cur.creg c) 1 (some (s.vecBase c x)) l)

end Sys2Proof.Machine
end

