-- ==== Sys2Proof/Machine/Lanes.lean ====
section
/-!
DEFINITION. Vector integer operations, compares, masks, permutes and integer reductions, majors 0x29, 0x2B and 0x2C
(spec/14_vector_isa.md R274, R277, R279 to R288).
-/
namespace Sys2Proof.Machine

/-- The lane width in bits that a width code gives (R274). -/
def widthBits (w : BitVec 2) : Nat := 8 * 2 ^ w.toNat

/-! ### Integer lanes (R274) -/

/-- An integer operation on va and vb, lane by lane (R274). -/
def vbinary (i : Instr) (g : Gap) (d a b : VIdx) (m : MIdx) (w : BitVec 2) (f : Nat → Nat → Nat → Int) (s : State) :
    Host.Outcome State Fault Refusal :=
  (vform i g [.v a, .v b, .m m] [.v d] (some 2)).run s fun s =>
    let n := widthBits w
    let x := s.cur.vreg a
    let y := s.cur.vreg b
    .done (s.setV d (mapLanes n (s.cur.mreg m) (s.cur.vreg d) fun k => wrapTo n (f n (laneOf n x k) (laneOf n y k))))

/-- A quotient of an integer by 2^k, rounded down. -/
def shiftDown (x : Int) (k : Nat) : Int := x / 2 ^ k

/-- `vadd` (R274). -/
def execVadd (g : Gap) (d a b : VIdx) (m : MIdx) (w : BitVec 2) (s : State) : Host.Outcome State Fault Refusal :=
  vbinary (.vadd g d a b m w) g d a b m w (fun _ x y => (x : Int) + y) s

/-- `vsub` (R274). -/
def execVsub (g : Gap) (d a b : VIdx) (m : MIdx) (w : BitVec 2) (s : State) : Host.Outcome State Fault Refusal :=
  vbinary (.vsub g d a b m w) g d a b m w (fun _ x y => (x : Int) - y) s

/-- `vmul` (R274). -/
def execVmul (g : Gap) (d a b : VIdx) (m : MIdx) (w : BitVec 2) (s : State) : Host.Outcome State Fault Refusal :=
  vbinary (.vmul g d a b m w) g d a b m w (fun _ x y => (x : Int) * y) s

/-- `vmulh` (R274). -/
def execVmulh (g : Gap) (d a b : VIdx) (m : MIdx) (w : BitVec 2) (s : State) : Host.Outcome State Fault Refusal :=
  vbinary (.vmulh g d a b m w) g d a b m w (fun n x y => shiftDown (signedOf n x * signedOf n y) n) s

/-- `vand` (R274). -/
def execVand (g : Gap) (d a b : VIdx) (m : MIdx) (w : BitVec 2) (s : State) : Host.Outcome State Fault Refusal :=
  vbinary (.vand g d a b m w) g d a b m w (fun _ x y => (x &&& y : Nat)) s

/-- `vor` (R274). -/
def execVor (g : Gap) (d a b : VIdx) (m : MIdx) (w : BitVec 2) (s : State) : Host.Outcome State Fault Refusal :=
  vbinary (.vor g d a b m w) g d a b m w (fun _ x y => (x ||| y : Nat)) s

/-- `vxor` (R274). -/
def execVxor (g : Gap) (d a b : VIdx) (m : MIdx) (w : BitVec 2) (s : State) : Host.Outcome State Fault Refusal :=
  vbinary (.vxor g d a b m w) g d a b m w (fun _ x y => (x ^^^ y : Nat)) s

/-- `vsll` (R274). -/
def execVsll (g : Gap) (d a b : VIdx) (m : MIdx) (w : BitVec 2) (s : State) : Host.Outcome State Fault Refusal :=
  vbinary (.vsll g d a b m w) g d a b m w (fun n x y => (x * 2 ^ (y % n) : Nat)) s

/-- `vsrl` (R274). -/
def execVsrl (g : Gap) (d a b : VIdx) (m : MIdx) (w : BitVec 2) (s : State) : Host.Outcome State Fault Refusal :=
  vbinary (.vsrl g d a b m w) g d a b m w (fun n x y => (x / 2 ^ (y % n) : Nat)) s

/-- `vsra` (R274). -/
def execVsra (g : Gap) (d a b : VIdx) (m : MIdx) (w : BitVec 2) (s : State) : Host.Outcome State Fault Refusal :=
  vbinary (.vsra g d a b m w) g d a b m w (fun n x y => shiftDown (signedOf n x) (y % n)) s

/-- `vmin` (R274). -/
def execVmin (g : Gap) (d a b : VIdx) (m : MIdx) (w : BitVec 2) (s : State) : Host.Outcome State Fault Refusal :=
  vbinary (.vmin g d a b m w) g d a b m w (fun n x y => if signedOf n x < signedOf n y then signedOf n x else signedOf n y) s

/-- `vmax` (R274). -/
def execVmax (g : Gap) (d a b : VIdx) (m : MIdx) (w : BitVec 2) (s : State) : Host.Outcome State Fault Refusal :=
  vbinary (.vmax g d a b m w) g d a b m w (fun n x y => if signedOf n x < signedOf n y then signedOf n y else signedOf n x) s

/-! ### Compares and masks (R277, R279 to R281) -/

/-- The mask with the byte bits of active lanes of b bits replaced (R277). -/
def mapMask (b : Nat) (m old : MReg) (f : Nat → Bool) : MReg :=
  BitVec.ofNat 128 (packLanes 1 ((List.range 128).map fun i =>
    if laneOn b m (i * 8 / b) then (if f (i * 8 / b) then 1 else 0) else (if old.getLsbD i then 1 else 0)))

/-- The condition of `vcmp` on two lanes of n bits (R277). -/
def laneCond (c : BitVec 3) (n x y : Nat) : Bool :=
  match c.toNat with
  | 0 => decide (x = y)
  | 1 => decide (x ≠ y)
  | 2 => decide (signedOf n x < signedOf n y)
  | 3 => decide (signedOf n x ≤ signedOf n y)
  | 4 => decide (x < y)
  | _ => decide (x ≤ y)

/-- `vcmp` (R277). -/
def execVcmp (g : Gap) (w : BitVec 2) (d : MIdx) (a b : VIdx) (m : MIdx) (c : BitVec 3) (s : State) :
    Host.Outcome State Fault Refusal :=
  (vform (.vcmp g w d a b m c) g [.v a, .v b, .m m] [.m d] (some 2)).run s fun s =>
    let n := widthBits w
    .done (s.setM d (mapMask n (s.cur.mreg m) (s.cur.mreg d) fun k =>
      laneCond c n (laneOf n (s.cur.vreg a) k) (laneOf n (s.cur.vreg b) k)))

/-- `vsel`: the mask selects, and every byte is written (R279). -/
def execVsel (g : Gap) (d a b : VIdx) (m : MIdx) (s : State) : Host.Outcome State Fault Refusal :=
  (vform (.vsel g d a b m) g [.v a, .v b, .m m] [.v d] (some 2)).run s fun s =>
    .done (s.setV d (mapLanes 8 (s.cur.mreg m) (s.cur.vreg b) fun k => laneOf 8 (s.cur.vreg a) k))

/-- A mask operation; n = 1 complements the second source (R280). -/
def maskOp (i : Instr) (g : Gap) (d a b n : BitVec 3) (f : MReg → MReg → MReg) (s : State) :
    Host.Outcome State Fault Refusal :=
  (vform i g [.m a, .m b] [.m d] (some 2)).run s fun s =>
    .done (s.setM d (f (s.cur.mreg a) (if n = 1 then ~~~(s.cur.mreg b) else s.cur.mreg b)))

/-- `mand` (R280). -/
def execMand (g : Gap) (d a b n : BitVec 3) (s : State) : Host.Outcome State Fault Refusal :=
  maskOp (.mand g d a b n) g d a b n (fun x y => x &&& y) s

/-- `mor` (R280). -/
def execMor (g : Gap) (d a b n : BitVec 3) (s : State) : Host.Outcome State Fault Refusal :=
  maskOp (.mor g d a b n) g d a b n (fun x y => x ||| y) s

/-- `mxor` (R280). -/
def execMxor (g : Gap) (d a b n : BitVec 3) (s : State) : Host.Outcome State Fault Refusal :=
  maskOp (.mxor g d a b n) g d a b n (fun x y => x ^^^ y) s

/-- `mpop` (R281). -/
def execMpop (g : Gap) (d : CIdx) (a : BitVec 3) (m : MIdx) (w : BitVec 2) (s : State) :
    Host.Outcome State Fault Refusal :=
  (vform (.mpop g d a m w) g [.m a, .m m] [.c d] (some 2)).run s fun s =>
    let n := widthBits w
    .done (s.setX d (BitVec.ofNat 64 ((List.range (1024 / n)).countP fun k =>
      laneOn n (s.cur.mreg a) k && laneOn n (s.cur.mreg m) k)))

/-! ### Permutes and moves (R283 to R287) -/

/-- Lane j of b bits of the concatenation of two registers; 0 past its end (R283, R285). -/
def laneOfTwo (b : Nat) (lo hi : VReg) (j : Nat) : Nat :=
  if j < 1024 / b then laneOf b lo j else if j < 2 * (1024 / b) then laneOf b hi (j - 1024 / b) else 0

/-- `vperm`: the index of a lane is its old value (R283). -/
def execVperm (g : Gap) (d a b : VIdx) (m : MIdx) (w : BitVec 2) (s : State) : Host.Outcome State Fault Refusal :=
  (vform (.vperm g d a b m w) g [.v d, .v a, .v b, .m m] [.v d] (some 2)).run s fun s =>
    let n := widthBits w
    let old := s.cur.vreg d
    .done (s.setV d (mapLanes n (s.cur.mreg m) old fun k =>
      laneOfTwo n (s.cur.vreg a) (s.cur.vreg b) (laneOf n old k)))

/-- `vshf` (R284). -/
def execVshf (g : Gap) (d a b : VIdx) (m : MIdx) (w : BitVec 2) (s : State) : Host.Outcome State Fault Refusal :=
  (vform (.vshf g d a b m w) g [.v a, .v b, .m m] [.v d] (some 2)).run s fun s =>
    let n := widthBits w
    .done (s.setV d (mapLanes n (s.cur.mreg m) (s.cur.vreg d) fun k =>
      laneOf n (s.cur.vreg a) (laneOf n (s.cur.vreg b) k % (1024 / n))))

/-- `vsld` (R285). -/
def execVsld (g : Gap) (d a : VIdx) (n : BitVec 7) (w : BitVec 2) (s : State) : Host.Outcome State Fault Refusal :=
  (vform (.vsld g d a n w) g [.v d, .v a] [.v d] (some 2)).run s fun s =>
    .done (s.setV d (vecOf (widthBits w) fun k => laneOfTwo (widthBits w) (s.cur.vreg a) (s.cur.vreg d) (k + n.toNat)))

/-- `vbc` (R286). -/
def execVbc (g : Gap) (d a : VIdx) (n : BitVec 7) (w : BitVec 2) (s : State) : Host.Outcome State Fault Refusal :=
  (vform (.vbc g d a n w) g [.v a] [.v d] (some 2)).run s fun s =>
    .done (s.setV d (vecOf (widthBits w) fun _ => laneOf (widthBits w) (s.cur.vreg a) n.toNat))

/-- `vext`: d is a scalar register (R286). -/
def execVext (g : Gap) (d a : VIdx) (n : BitVec 7) (w : BitVec 2) (s : State) : Host.Outcome State Fault Refusal :=
  (vform (.vext g d a n w) g [.v a] [.c (d.setWidth 6)] (some 2)).run s fun s =>
    .done (s.setX (d.setWidth 6) (BitVec.ofNat 64 (laneOf (widthBits w) (s.cur.vreg a) n.toNat)))

/-- `vins`: the source is a scalar register (R286). -/
def execVins (g : Gap) (d r : VIdx) (n : BitVec 7) (w : BitVec 2) (s : State) : Host.Outcome State Fault Refusal :=
  (vform (.vins g d r n w) g [.c (r.setWidth 6)] [.v d] (some 2)).run s fun s =>
    .done (s.setV d (putLane (widthBits w) (s.cur.vreg d) n.toNat (s.x (r.setWidth 6)).toNat))

/-- `vzip` (R287). -/
def execVzip (g : Gap) (d a b : VIdx) (h : BitVec 1) (w : BitVec 2) (s : State) : Host.Outcome State Fault Refusal :=
  (vform (.vzip g d a b h w) g [.v a, .v b] [.v d] (some 2)).run s fun s =>
    let n := widthBits w
    .done (s.setV d (vecOf n fun k =>
      laneOf n (if k % 2 = 0 then s.cur.vreg a else s.cur.vreg b) (h.toNat * (1024 / n / 2) + k / 2)))

/-- `vuzp` (R287). -/
def execVuzp (g : Gap) (d a b : VIdx) (h : BitVec 1) (w : BitVec 2) (s : State) : Host.Outcome State Fault Refusal :=
  (vform (.vuzp g d a b h w) g [.v a, .v b] [.v d] (some 2)).run s fun s =>
    let n := widthBits w
    .done (s.setV d (vecOf n fun k => laneOfTwo n (s.cur.vreg a) (s.cur.vreg b) (2 * k + h.toNat)))

/-! ### Integer reductions (R288) -/

/-- The active lanes of b bits of a register, signed (R288). -/
def activeLanes (b : Nat) (m : MReg) (v : VReg) : List Int :=
  ((List.range (1024 / b)).filter (laneOn b m ·)).map fun k => signedOf b (laneOf b v k)

/-- An integer reduction: bytes 0 to 7 hold the result, the others zero (R288). -/
def vreduce (i : Instr) (g : Gap) (d a : VIdx) (m : MIdx) (w : BitVec 2) (f : Nat → List Int → Int) (s : State) :
    Host.Outcome State Fault Refusal :=
  (vform i g [.v a, .m m] [.v d] none).run s fun s =>
    let n := widthBits w
    .done (s.setV d (BitVec.ofNat 1024 (wrapTo 64 (f n (activeLanes n (s.cur.mreg m) (s.cur.vreg a))))))

/-- `vredadd` (R288). -/
def execVredadd (g : Gap) (d a : VIdx) (m : MIdx) (w : BitVec 2) (s : State) : Host.Outcome State Fault Refusal :=
  vreduce (.vredadd g d a m w) g d a m w (fun _ l => l.foldl (· + ·) 0) s

/-- `vredmax` (R288). -/
def execVredmax (g : Gap) (d a : VIdx) (m : MIdx) (w : BitVec 2) (s : State) : Host.Outcome State Fault Refusal :=
  vreduce (.vredmax g d a m w) g d a m w (fun n l => l.foldl (fun x y => if x < y then y else x) (-(2 ^ (n - 1)))) s

/-- `vredmin` (R288). -/
def execVredmin (g : Gap) (d a : VIdx) (m : MIdx) (w : BitVec 2) (s : State) : Host.Outcome State Fault Refusal :=
  vreduce (.vredmin g d a m w) g d a m w (fun n l => l.foldl (fun x y => if y < x then y else x) (2 ^ (n - 1) - 1)) s

end Sys2Proof.Machine
end

