-- ==== Sys2Proof/Machine/Number.lean ====
section
/-!
DEFINITION. Number formats, exact values, rounding, the unary functions, summation trees and block quantisation
(spec/10_formats.md R179 to R198, spec/14_vector_isa.md R276).
-/
namespace Sys2Proof.Machine

/-! ### Exact values -/

/-- An exact value: a NaN, an infinity, or ±m × 2^e; a zero keeps its sign (R186). -/
inductive FpNum where
  | nan
  | inf (neg : Bool)
  | fin (neg : Bool) (m : Nat) (e : Int)
  deriving DecidableEq, Repr

/-- Plus zero. -/
def FpNum.zero : FpNum := .fin false 0 0

/-- An integer as an exact value. -/
def FpNum.ofInt (v : Int) : FpNum := .fin (decide (v < 0)) v.natAbs 0

/-- The value is a NaN. -/
def FpNum.isNan : FpNum → Bool
  | .nan => true
  | _ => false

/-- The value is an infinity. -/
def FpNum.isInf : FpNum → Bool
  | .inf _ => true
  | _ => false

/-- The value with its sign changed. -/
def FpNum.neg : FpNum → FpNum
  | .nan => .nan
  | .inf s => .inf !s
  | .fin s m e => .fin (!s) m e

/-- The magnitude. -/
def FpNum.abs : FpNum → FpNum
  | .nan => .nan
  | .inf _ => .inf false
  | .fin _ m e => .fin false m e

/-- m × 2^e as an integer multiple of 2^q, for q ≤ e. -/
def scaled (s : Bool) (m : Nat) (e q : Int) : Int :=
  let v : Int := (m * 2 ^ (e - q).toNat : Nat)
  if s then -v else v

/-- The exact sum; an exact zero sum takes its sign from the mode (R186 step 4). -/
def FpNum.add (mode : Nat) : FpNum → FpNum → FpNum
  | .nan, _ => .nan
  | _, .nan => .nan
  | .inf s, .inf t => if s = t then .inf s else .nan
  | .inf s, .fin .. => .inf s
  | .fin .., .inf t => .inf t
  | .fin s m e, .fin t n f =>
    let q := min e f
    let v := scaled s m e q + scaled t n f q
    if m = 0 ∧ n = 0 ∧ s = t then .fin s 0 0
    else if v = 0 then .fin (decide (mode = 2)) 0 0
    else .fin (decide (v < 0)) v.natAbs q

/-- The exact product; 0 × ∞ is invalid (R181). -/
def FpNum.mul : FpNum → FpNum → FpNum
  | .nan, _ => .nan
  | _, .nan => .nan
  | .inf s, .inf t => .inf (s ^^ t)
  | .inf s, .fin t n _ => if n = 0 then .nan else .inf (s ^^ t)
  | .fin s m _, .inf t => if m = 0 then .nan else .inf (s ^^ t)
  | .fin s m e, .fin t n f => .fin (s ^^ t) (m * n) (e + f)

/-- The exact product of two inputs of an Anvil; integers, valued as integers, have no −0 (R193). -/
def FpNum.mulAs (ints : Bool) (x y : FpNum) : FpNum :=
  match FpNum.mul x y with
  | .fin s m e => if ints ∧ m = 0 then .zero else .fin s m e
  | z => z

/-- A value times 2^k. -/
def FpNum.scale (k : Int) : FpNum → FpNum
  | .fin s m e => .fin s m (e + k)
  | x => x

/-- The value a is less than b; false with a NaN (R278). -/
def FpNum.lt : FpNum → FpNum → Bool
  | .nan, _ => false
  | _, .nan => false
  | .inf s, .inf t => s && !t
  | .inf s, .fin .. => s
  | .fin .., .inf t => !t
  | .fin s m e, .fin t n f =>
    let q := min e f
    decide (scaled s m e q < scaled t n f q)

/-- The values are equal; false with a NaN, and +0 equals −0 (R278). -/
def FpNum.eq : FpNum → FpNum → Bool
  | .nan, _ => false
  | _, .nan => false
  | .inf s, .inf t => s == t
  | .inf _, .fin .. => false
  | .fin .., .inf _ => false
  | .fin s m e, .fin t n f =>
    let q := min e f
    decide (scaled s m e q = scaled t n f q)

/-- The sign of a value. -/
def FpNum.sign : FpNum → Bool
  | .nan => false
  | .inf s => s
  | .fin s _ _ => s

/-- Minimum: a NaN gives NaN, and −0 is less than +0 (R181). -/
def FpNum.min (a b : FpNum) : FpNum :=
  if a.isNan || b.isNan then .nan
  else if a.eq b then (if a.sign then a else b)
  else if a.lt b then a else b

/-- Maximum: a NaN gives NaN, and −0 is less than +0 (R181). -/
def FpNum.max (a b : FpNum) : FpNum :=
  if a.isNan || b.isNan then .nan
  else if a.eq b then (if a.sign then b else a)
  else if a.lt b then b else a

/-! ### Formats (R179 to R184) -/

/-- The width of a format code, in bits. -/
def fmtBits (c : BitVec 8) : Nat :=
  match c.toNat with
  | 0x08 => 4
  | 0x09 => 4
  | 0x03 => 16
  | 0x04 => 16
  | 0x05 => 32
  | 0x06 => 32
  | 0x07 => 64
  | 0x10 => 32
  | 0x11 => 16
  | 0x12 => 16
  | _ => 8

/-- An integer format is signed (R179). -/
def intSigned (c : BitVec 8) : Bool :=
  match c.toNat with
  | 0x02 => false
  | 0x04 => false
  | 0x06 => false
  | 0x09 => false
  | _ => true

/-- A code of the eight-bit family is unsigned (R182). -/
def byteUnsigned (c : BitVec 8) : Bool := c.getLsbD 4

/-- A code of the eight-bit family is extended (R182). -/
def byteExtended (c : BitVec 8) : Bool := c.getLsbD 3

/-- The precision P of a floating format, with its leading bit (R180, R182). -/
def fmtPrec (c : BitVec 8) : Nat :=
  match c.toNat with
  | 0x10 => 24
  | 0x11 => 8
  | 0x12 => 11
  | n => n % 8

/-- The exponent bias of a floating format (R180, R182). -/
def fmtBias (c : BitVec 8) : Int :=
  match c.toNat with
  | 0x10 => 127
  | 0x11 => 127
  | 0x12 => 15
  | n => 2 ^ ((if byteUnsigned c then 8 else 7) - n % 8)

/-- The exponent field's width of a floating format. -/
def fmtExpBits (c : BitVec 8) : Nat :=
  match c.toNat with
  | 0x10 => 8
  | 0x11 => 8
  | 0x12 => 5
  | n => (if byteUnsigned c then 9 else 8) - n % 8

/-- The exponent of the least normal value. -/
def fmtEmin (c : BitVec 8) : Int := 1 - fmtBias c

/-- The format has a −0 (R180, R182). -/
def hasNegZero (c : BitVec 8) : Bool := binaryCode c

/-- The format has infinities (R180, R182). -/
def hasInf (c : BitVec 8) : Bool := binaryCode c || byteExtended c

/-- The sign bit's place, for a format that has one. -/
def signPlace (c : BitVec 8) : Nat := fmtBits c - 1

/-- The code of a format's largest finite value (R180, R182). -/
def largestCode (c : BitVec 8) : Nat :=
  match c.toNat with
  | 0x10 => 0x7F7FFFFF
  | 0x11 => 0x7F7F
  | 0x12 => 0x7BFF
  | _ =>
    (if byteUnsigned c then 0xFE else 0x7F) - (if byteExtended c then 1 else 0)

/-- The code of a format's +∞ (R180, R182). -/
def infCode (c : BitVec 8) : Nat :=
  match c.toNat with
  | 0x10 => 0x7F800000
  | 0x11 => 0x7F80
  | 0x12 => 0x7C00
  | _ => if byteUnsigned c then 0xFE else 0x7F

/-- The canonical NaN of a format (R180, R182). -/
def nanCode (c : BitVec 8) : Nat :=
  match c.toNat with
  | 0x10 => 0x7FC00000
  | 0x11 => 0x7FC0
  | 0x12 => 0x7E00
  | _ => if byteUnsigned c then 0xFF else 0x80

/-- A code with the sign set, for a format that has a sign. -/
def withSign (c : BitVec 8) (neg : Bool) (v : Nat) : Nat :=
  if neg ∧ !(byteCode c && byteUnsigned c) then v + 2 ^ signPlace c else v

/-- A finite code's value from its fields (R180, R182). -/
def finiteValue (c : BitVec 8) (v : Nat) : FpNum :=
  let m := fmtPrec c - 1
  let t := bitsOf v 0 m
  let e := bitsOf v m (fmtExpBits c)
  let neg := !(byteCode c && byteUnsigned c) && decide (bitsOf v (signPlace c) 1 = 1)
  if e = 0 then .fin neg t (fmtEmin c - m) else .fin neg (2 ^ m + t) (fmtEmin c - m + ((e : Int) - 1))

/-- The value of a binary code (R180). -/
def binaryValue (c : BitVec 8) (v : Nat) : FpNum :=
  let m := fmtPrec c - 1
  if bitsOf v m (fmtExpBits c) = 2 ^ fmtExpBits c - 1 then
    (if bitsOf v 0 m = 0 then .inf (decide (bitsOf v (signPlace c) 1 = 1)) else .nan)
  else finiteValue c v

/-- The value of a code of the eight-bit family, with its special codes (R182). -/
def byteValue (c : BitVec 8) (v : Nat) : FpNum :=
  if v = nanCode c then .nan
  else if byteExtended c ∧ v = infCode c then .inf false
  else if byteExtended c ∧ !byteUnsigned c ∧ v = 0xFF then .inf true
  else finiteValue c v

/-- The value of an integer code (R179). -/
def intValue (c : BitVec 8) (v : Nat) : FpNum :=
  let w := fmtBits c
  if intSigned c ∧ bitsOf v (w - 1) 1 = 1 then .ofInt ((v : Int) - 2 ^ w) else .ofInt v

/-- The value of a code in a format. -/
def valueOf (c : BitVec 8) (v : Nat) : FpNum :=
  if intCode c then intValue c v else if binaryCode c then binaryValue c v else byteValue c v

/-! ### Rounding (R186 to R189) -/

/-- m / 2^k rounded to an integer: whether to go up is decided by the mode (R186). -/
def roundShift (mode : Nat) (neg : Bool) (m k : Nat) : Nat :=
  if k = 0 then m
  else
    let far := decide (k > m.log2 + 2)
    let n := if far then 0 else m / 2 ^ k
    let above := !far && decide (m % 2 ^ k > 2 ^ (k - 1))
    let tie := !far && decide (m % 2 ^ k = 2 ^ (k - 1))
    let inexact := if far then decide (m ≠ 0) else decide (m % 2 ^ k ≠ 0)
    let up := match mode with
      | 0 => above || (tie && decide (n % 2 = 1))
      | 1 => false
      | 2 => neg && inexact
      | 3 => !neg && inexact
      | _ => above || tie
    if up then n + 1 else n

/-- The result of an overflow (R187). -/
def overflowCode (c : BitVec 8) (mode sat : Nat) (neg : Bool) : Nat :=
  let big := withSign c neg (largestCode c)
  if sat ≠ 0 then big
  else if !hasInf c then nanCode c
  else if mode = 1 ∨ (mode = 2 ∧ !neg) ∨ (mode = 3 ∧ neg) then big
  else withSign c neg (infCode c)

/-- The code of n × 2^q in a floating format, for n of at most the format's precision or 2^P (R180, R182). -/
def packFinite (c : BitVec 8) (mode sat : Nat) (neg : Bool) (n : Nat) (q : Int) : Nat :=
  let p := fmtPrec c
  let carry := decide (n = 2 ^ p)
  let n := if carry then 2 ^ (p - 1) else n
  let q := if carry then q + 1 else q
  let field : Int := if n < 2 ^ (p - 1) then 0 else q + (p - 1 : Nat) - fmtEmin c + 1
  let code := field.toNat * 2 ^ (p - 1) + (if n < 2 ^ (p - 1) then n else n - 2 ^ (p - 1))
  if n = 0 then (if hasNegZero c then withSign c neg 0 else 0)
  else if byteCode c ∧ byteUnsigned c ∧ neg then (if sat = 0 then nanCode c else 0)
  else if field.toNat > 2 ^ fmtExpBits c ∨ code > largestCode c then overflowCode c mode sat neg
  else withSign c neg code

/-- The code of an infinite input (R187, R188). -/
def packInf (c : BitVec 8) (sat : Nat) (neg : Bool) : Nat :=
  if byteCode c ∧ byteUnsigned c ∧ neg then (if sat = 0 then nanCode c else 0)
  else if sat = 1 then withSign c neg (largestCode c)
  else if hasInf c then withSign c neg (infCode c)
  else if sat = 0 then nanCode c
  else withSign c neg (largestCode c)

/-- `round(x, fmt, mode)` with a saturation code, for a binary or eight-bit format (R186 to R188). -/
def roundFloat (c : BitVec 8) (mode sat : Nat) : FpNum → Nat
  | .nan => if sat = 1 then 0 else nanCode c
  | .inf neg => packInf c sat neg
  | .fin neg m e =>
    if m = 0 then packFinite c mode sat neg 0 0
    else
      let p := fmtPrec c
      let q := max (e + m.log2) (fmtEmin c) - (p - 1 : Nat)
      if q ≤ e then packFinite c mode sat neg (m * 2 ^ (e - q).toNat) q
      else packFinite c mode sat neg (roundShift mode neg m (q - e).toNat) q

/-- The range of an integer format (R179). -/
def intRange (c : BitVec 8) : Int × Int :=
  let w := fmtBits c
  if intSigned c then (-(2 ^ (w - 1)), 2 ^ (w - 1) - 1) else (0, 2 ^ w - 1)

/-- An integer clamped to a format's range, as its code (R189). -/
def clampInt (c : BitVec 8) (v : Int) : Nat :=
  let r := intRange c
  ((if v < r.1 then r.1 else if r.2 < v then r.2 else v) % 2 ^ fmtBits c).toNat

/-- A value rounded to an integer format and clamped (R189). -/
def roundInt (c : BitVec 8) (mode : Nat) : FpNum → Nat
  | .nan => 0
  | .inf neg => clampInt c (if neg then (intRange c).1 else (intRange c).2)
  | .fin neg m e =>
    let n : Nat :=
      if e < 0 then roundShift mode neg m (-e).toNat
      else if e > 64 ∧ m ≠ 0 then 2 ^ 65
      else m * 2 ^ e.toNat
    clampInt c (if neg then -(n : Int) else n)

/-- A value rounded to a format (R186 to R189). -/
def roundTo (c : BitVec 8) (mode sat : Nat) (x : FpNum) : Nat := if intCode c then roundInt c mode x else roundFloat c mode sat x

/-- The code of fp32. -/
def fp32 : BitVec 8 := 0x10

/-- A value rounded to fp32, as a value. -/
def toFp32 (mode : Nat) (x : FpNum) : FpNum := binaryValue fp32 (roundFloat fp32 mode 0 x)

/-! ### Unary functions (R276) -/

/-- The integer square root, found bit by bit from bit k - 1 down. -/
def isqrtFrom (n acc : Nat) : Nat → Nat
  | 0 => acc
  | k + 1 => isqrtFrom n (if (acc + 2 ^ k) * (acc + 2 ^ k) ≤ n then acc + 2 ^ k else acc) k

/-- An inexact value just above n × 2^e, or n × 2^e itself: the last bit keeps what was cut off. -/
def sticky (neg : Bool) (n : Nat) (e : Int) (inexact : Bool) : FpNum := .fin neg (2 * n + (if inexact then 1 else 0)) (e - 1)

/-- 1 / x (R276). -/
def FpNum.recip : FpNum → FpNum
  | .nan => .nan
  | .inf s => .fin s 0 0
  | .fin s m e =>
    if m = 0 then .inf s
    else
      let k := m.log2 + 64
      sticky s (2 ^ k / m) (-(k : Int) - e) (decide (2 ^ k % m ≠ 0))

/-- 1 / √x (R276). -/
def FpNum.rsqrt : FpNum → FpNum
  | .nan => .nan
  | .inf s => if s then .nan else .zero
  | .fin s m e =>
    if m = 0 then .inf s
    else if s then .nan
    else
      let odd := decide (e % 2 ≠ 0)
      let m := if odd then 2 * m else m
      let e := if odd then e - 1 else e
      let k := m.log2 / 2 + 64
      let r := isqrtFrom (2 ^ (2 * k) / m) 0 (k + 1)
      sticky false r (-(k : Int) - e / 2) (decide (r * r * m ≠ 2 ^ (2 * k)))

/-- The bits of fixed-point fractions in the functions below. -/
def fracBits : Nat := 256

/-- The sum of the odd powers of the inverse hyperbolic tangent of t / 2^fracBits, from a term on. -/
def atanhSum (tt : Nat) : Nat → Nat → Nat → Nat
  | _, _, 0 => 0
  | term, k, n + 1 => term / (2 * k + 1) + atanhSum tt (term * tt / 2 ^ fracBits) (k + 1) n

/-- The inverse hyperbolic tangent of a fraction of at most 1/3, in fixed point. -/
def atanhFrac (t : Nat) : Nat := atanhSum (t * t / 2 ^ fracBits) t 0 90

/-- The natural logarithm of 2 in fixed point: twice the inverse hyperbolic tangent of 1/3. -/
def lnTwo : Nat := 2 * atanhFrac (2 ^ fracBits / 3)

/-- The exponential series of y / 2^fracBits, from a term on. -/
def expSum (y : Nat) : Nat → Nat → Nat → Nat
  | _, _, 0 => 0
  | term, k, n + 1 => term + expSum y (term * y / 2 ^ fracBits / (k + 1)) (k + 1) n

/-- 2^x (R276): exact for an integer x, else an irrational number given to far more bits than any format holds. -/
def FpNum.exp2 : FpNum → FpNum
  | .nan => .nan
  | .inf s => if s then .zero else .inf false
  | .fin s m e =>
    if m = 0 then .fin false 1 0
    else if e + m.log2 > 12 then .fin false 1 (if s then -8192 else 8192)
    else
      let v := scaled s m (e + fracBits) 0
      let whole := v / 2 ^ fracBits
      let frac := (v % 2 ^ fracBits).toNat
      if frac = 0 then .fin false 1 whole
      else sticky false (expSum (frac * lnTwo / 2 ^ fracBits) (2 ^ fracBits) 0 70) (whole - fracBits) true

/-- log2 x (R276): exact for a power of two, else an irrational number given to far more bits than any format holds. -/
def FpNum.log2 : FpNum → FpNum
  | .nan => .nan
  | .inf s => if s then .nan else .inf false
  | .fin s m e =>
    if m = 0 then .inf true
    else if s then .nan
    else
      let k := m.log2
      if m = 2 ^ k then .ofInt (e + k)
      else
        let t := (m - 2 ^ k) * 2 ^ fracBits / (m + 2 ^ k)
        let v : Int := (e + k) * 2 ^ fracBits + (2 * atanhFrac t * 2 ^ fracBits / lnTwo : Nat)
        sticky (decide (v < 0)) v.natAbs (-(fracBits : Int)) true

/-! ### Sums (R190, R192, R193) -/

/-- One level of the canonical tree: pairs added and rounded to fp32; an inactive term is skipped (R190). -/
def treeLevel (mode : Nat) : List (Option FpNum) → List (Option FpNum)
  | [] => []
  | [x] => [x]
  | some a :: some b :: r => some (toFp32 mode (FpNum.add mode a b)) :: treeLevel mode r
  | some a :: none :: r => some a :: treeLevel mode r
  | none :: b :: r => b :: treeLevel mode r

/-- The canonical tree by levels; n levels serve 2^n terms (R190). -/
def treeSum (mode : Nat) : Nat → List (Option FpNum) → FpNum
  | 0, l => ((l.headD none)).getD .zero
  | n + 1, l => treeSum mode n (treeLevel mode l)

/-- The exact sum of products, in wide fixed point (R192, R193). -/
def exactSum : List FpNum → FpNum
  | [] => .zero
  | x :: r => r.foldl (FpNum.add 0) x

/-! ### Block scales and quantisation (R184, R195 to R197) -/

/-- A value times 2^(c − 127); a NaN scale gives NaN (R184). -/
def scaleBy (c : Nat) (x : FpNum) : FpNum := if c = 0xFF then .nan else x.scale ((c : Int) - 127)

/-- floor(log2 |x|) of a non-zero finite value. -/
def FpNum.exponent : FpNum → Int
  | .fin _ m e => e + m.log2
  | _ => 0

/-- E of R196: floor(log2 of the target's largest finite value). -/
def targetExp (c : BitVec 8) : Int :=
  if intCode c then ((fmtBits c : Nat) : Int) - 2 else (finiteValue c (largestCode c)).exponent

/-- The greatest magnitude of values; a NaN gives NaN (R181, R196). -/
def amaxOf (l : List FpNum) : FpNum := l.foldl (fun a x => FpNum.max a x.abs) .zero

/-- The quantisation of a block's values: the scale code, the elements, and whether QLOW is set (R196). -/
def quantBlock (c : BitVec 8) (mode sat : Nat) (l : List FpNum) : Nat × List Nat × Bool :=
  let a := amaxOf l
  match a with
  | .fin _ m _ =>
    if m = 0 then (127, l.map fun _ => 0, false)
    else
      let k := a.exponent - targetExp c + 127
      let code := (min (max k 0) 254).toNat
      (code, l.map fun x => roundTo c mode sat (x.scale (127 - (code : Int))), decide (k < 0))
  | _ => (0xFF, l.map fun _ => if intCode c then 0 else nanCode c, false)

end Sys2Proof.Machine
end

