-- ==== Sys2Proof/Machine/Floats.lean ====
section
/-!
DEFINITION. Vector floating point: major 0x2A, `vfcmp`, `vfredadd` and `vfamax` (spec/14_vector_isa.md R275, R276, R278,
R289, R290, spec/10_formats.md R190, R191).
-/
namespace Sys2Proof.Machine

/-! ### Types and payloads (R208, R275) -/

/-- The format of a type code below 3 (R205). -/
def typeFmt (t : BitVec 2) : BitVec 8 :=
  match t.toNat with
  | 0 => 0x10
  | 1 => 0x11
  | _ => 0x12

/-- fp32, bf16, fp16 or a code of the eight-bit family (R275). -/
def floatCode (c : BitVec 8) : Bool := binaryCode c || byteCode c

/-- The source format of an instruction with a type field (R275). -/
def srcFmt (t : BitVec 2) (p : Option (BitVec 24)) : BitVec 8 := if t = 3 then payA (p.getD 0) else typeFmt t

/-- The destination format of an instruction with a type field; 0x00 means the source format (R275). -/
def dstFmt (t : BitVec 2) (p : Option (BitVec 24)) : BitVec 8 :=
  if t = 3 then (if payB (p.getD 0) = 0 then payA (p.getD 0) else payB (p.getD 0)) else typeFmt t

/-- The pending format code word that an instruction issues with (R207). -/
def Strand.pending (t : Strand) : Option (BitVec 24) := if t.pfx then some t.pfxv else none

/-- The rounding code that an instruction uses (R208). -/
def modeOf (p : Option (BitVec 24)) : Nat := (payRnd (p.getD 0)).toNat

/-- The saturation code that an instruction uses (R208). -/
def satOf (p : Option (BitVec 24)) : Nat := (paySat (p.getD 0)).toNat

/-- Types 0 to 2 take no format codes; type 3 needs them, with sources and destinations that a test accepts (R275). -/
def typeTakes (t : BitVec 2) (ok : BitVec 8 → BitVec 8 → Bool) (p : Option (BitVec 24)) : Bool :=
  match p with
  | none => decide (t ≠ 3)
  | some v =>
    if t = 3 then floatCode (payA v) && ok (payA v) (if payB v = 0 then payA v else payB v)
    else decide (payA v = 0) && decide (payB v = 0)

/-- The destination is a code of the source's width from the set (R275). -/
def sameWidth (a b : BitVec 8) : Bool := floatCode b && decide (fmtBits a = fmtBits b)

/-! ### Operations (R275, R276) -/

/-- An operation of major 0x2A: lane k from the exact result, given the sources and the addend (R275). -/
def vfloat (i : Instr) (g : Gap) (reads : List RegName) (d a b : VIdx) (m : MIdx) (t : BitVec 2)
    (f : Nat → FpNum → FpNum → FpNum → FpNum) (s : State) : Host.Outcome State Fault Refusal :=
  Form.run { vform i g reads [.v d] (some 4) with takes := some (typeTakes t sameWidth) } s fun s =>
    let p := s.cur.pending
    let fa := srcFmt t p
    let fb := dstFmt t p
    let n := fmtBits fa
    .done (s.setV d (mapLanes n (s.cur.mreg m) (s.cur.vreg d) fun k =>
      roundTo fb (modeOf p) (satOf p) (f (modeOf p) (valueOf fa (laneOf n (s.cur.vreg a) k))
        (valueOf fa (laneOf n (s.cur.vreg b) k)) (valueOf fb (laneOf n (s.cur.vreg d) k)))))

/-- `vfadd` (R275). -/
def execVfadd (g : Gap) (d a b : VIdx) (m : MIdx) (t : BitVec 2) (s : State) : Host.Outcome State Fault Refusal :=
  vfloat (.vfadd g d a b m t) g [.v a, .v b, .m m] d a b m t (fun r x y _ => FpNum.add r x y) s

/-- `vfsub` (R275). -/
def execVfsub (g : Gap) (d a b : VIdx) (m : MIdx) (t : BitVec 2) (s : State) : Host.Outcome State Fault Refusal :=
  vfloat (.vfsub g d a b m t) g [.v a, .v b, .m m] d a b m t (fun r x y _ => FpNum.add r x y.neg) s

/-- `vfmul` (R275). -/
def execVfmul (g : Gap) (d a b : VIdx) (m : MIdx) (t : BitVec 2) (s : State) : Host.Outcome State Fault Refusal :=
  vfloat (.vfmul g d a b m t) g [.v a, .v b, .m m] d a b m t (fun _ x y _ => FpNum.mul x y) s

/-- `vfma` (R275). -/
def execVfma (g : Gap) (d a b : VIdx) (m : MIdx) (t : BitVec 2) (s : State) : Host.Outcome State Fault Refusal :=
  vfloat (.vfma g d a b m t) g [.v d, .v a, .v b, .m m] d a b m t (fun r x y z => FpNum.add r (FpNum.mul x y) z) s

/-- `vfms` (R275). -/
def execVfms (g : Gap) (d a b : VIdx) (m : MIdx) (t : BitVec 2) (s : State) : Host.Outcome State Fault Refusal :=
  vfloat (.vfms g d a b m t) g [.v d, .v a, .v b, .m m] d a b m t (fun r x y z => FpNum.add r (FpNum.mul x y) z.neg) s

/-- `vfnma` (R275). -/
def execVfnma (g : Gap) (d a b : VIdx) (m : MIdx) (t : BitVec 2) (s : State) : Host.Outcome State Fault Refusal :=
  vfloat (.vfnma g d a b m t) g [.v d, .v a, .v b, .m m] d a b m t (fun r x y z => FpNum.add r (FpNum.mul x y).neg z) s

/-- `vfmin` (R275). -/
def execVfmin (g : Gap) (d a b : VIdx) (m : MIdx) (t : BitVec 2) (s : State) : Host.Outcome State Fault Refusal :=
  vfloat (.vfmin g d a b m t) g [.v a, .v b, .m m] d a b m t (fun _ x y _ => FpNum.min x y) s

/-- `vfmax` (R275). -/
def execVfmax (g : Gap) (d a b : VIdx) (m : MIdx) (t : BitVec 2) (s : State) : Host.Outcome State Fault Refusal :=
  vfloat (.vfmax g d a b m t) g [.v a, .v b, .m m] d a b m t (fun _ x y _ => FpNum.max x y) s

/-- `vfabs` (R275, R276). -/
def execVfabs (g : Gap) (d a : VIdx) (m : MIdx) (t : BitVec 2) (s : State) : Host.Outcome State Fault Refusal :=
  vfloat (.vfabs g d a m t) g [.v a, .m m] d a a m t (fun _ x _ _ => x.abs) s

/-- `vfrcp` (R275, R276). -/
def execVfrcp (g : Gap) (d a : VIdx) (m : MIdx) (t : BitVec 2) (s : State) : Host.Outcome State Fault Refusal :=
  vfloat (.vfrcp g d a m t) g [.v a, .m m] d a a m t (fun _ x _ _ => x.recip) s

/-- `vfrsq` (R275, R276). -/
def execVfrsq (g : Gap) (d a : VIdx) (m : MIdx) (t : BitVec 2) (s : State) : Host.Outcome State Fault Refusal :=
  vfloat (.vfrsq g d a m t) g [.v a, .m m] d a a m t (fun _ x _ _ => x.rsqrt) s

/-- `vfex2` (R275, R276). -/
def execVfex2 (g : Gap) (d a : VIdx) (m : MIdx) (t : BitVec 2) (s : State) : Host.Outcome State Fault Refusal :=
  vfloat (.vfex2 g d a m t) g [.v a, .m m] d a a m t (fun _ x _ _ => x.exp2) s

/-- `vflg2` (R275, R276). -/
def execVflg2 (g : Gap) (d a : VIdx) (m : MIdx) (t : BitVec 2) (s : State) : Host.Outcome State Fault Refusal :=
  vfloat (.vflg2 g d a m t) g [.v a, .m m] d a a m t (fun _ x _ _ => x.log2) s

/-! ### Compare (R278) -/

/-- The condition of `vfcmp` on two values (R278). -/
def numCond (c : BitVec 3) (x y : FpNum) : Bool :=
  match c.toNat with
  | 0 => FpNum.eq x y
  | 1 => !FpNum.eq x y
  | 2 => FpNum.lt x y
  | 3 => FpNum.lt x y || FpNum.eq x y
  | _ => x.isNan || y.isNan

/-- `vfcmp` (R278). -/
def execVfcmp (g : Gap) (t : BitVec 2) (d : MIdx) (a b : VIdx) (m : MIdx) (c : BitVec 3) (s : State) :
    Host.Outcome State Fault Refusal :=
  Form.run
    { vform (.vfcmp g t d a b m c) g [.v a, .v b, .m m] [.m d] (some 4) with
      takes := some (typeTakes t fun x y => decide (x = y)) } s fun s =>
    let fa := srcFmt t s.cur.pending
    let n := fmtBits fa
    .done (s.setM d (mapMask n (s.cur.mreg m) (s.cur.mreg d) fun k =>
      numCond c (valueOf fa (laneOf n (s.cur.vreg a) k)) (valueOf fa (laneOf n (s.cur.vreg b) k))))

/-! ### Reductions (R289, R290) -/

/-- The lanes of a register as values, none for an inactive one. -/
def numLanes (f : BitVec 8) (m : MReg) (v : VReg) : List (Option FpNum) :=
  (List.range (1024 / fmtBits f)).map fun k =>
    if laneOn (fmtBits f) m k then some (valueOf f (laneOf (fmtBits f) v k)) else none

/-- A floating reduction: the low bytes hold the code of the result, the others zero (R289, R290). -/
def vfreduce (i : Instr) (g : Gap) (d a : VIdx) (m : MIdx) (t : BitVec 2)
    (f : BitVec 8 → BitVec 8 → Nat → Nat → List (Option FpNum) → Nat) (s : State) : Host.Outcome State Fault Refusal :=
  Form.run { vform i g [.v a, .m m] [.v d] none with takes := some (typeTakes t fun _ b => floatCode b) } s fun s =>
    let p := s.cur.pending
    .done (s.setV d (BitVec.ofNat 1024
      (f (srcFmt t p) (dstFmt t p) (modeOf p) (satOf p) (numLanes (srcFmt t p) (s.cur.mreg m) (s.cur.vreg a)))))

/-- The tree sum in fp32, rounded once more to another format (R191, R289). -/
def sumCode (_ b : BitVec 8) (mode sat : Nat) (l : List (Option FpNum)) : Nat :=
  if b = fp32 then roundTo fp32 mode 0 (treeSum mode 7 l) else roundTo b mode sat (treeSum mode 7 l)

/-- The greatest magnitude, rounded once if the format changes (R290). -/
def amaxCode (a b : BitVec 8) (mode sat : Nat) (l : List (Option FpNum)) : Nat :=
  let x := amaxOf (l.filterMap fun y => y)
  if a = b then roundTo b 0 0 x else roundTo b mode sat x

/-- `vfredadd` (R289). -/
def execVfredadd (g : Gap) (d a : VIdx) (m : MIdx) (t : BitVec 2) (s : State) : Host.Outcome State Fault Refusal :=
  vfreduce (.vfredadd g d a m t) g d a m t sumCode s

/-- `vfamax` (R290). -/
def execVfamax (g : Gap) (d a : VIdx) (m : MIdx) (t : BitVec 2) (s : State) : Host.Outcome State Fault Refusal :=
  vfreduce (.vfamax g d a m t) g d a m t amaxCode s

end Sys2Proof.Machine
end

