-- ==== Sys2Proof/Machine/Anvil.lean ====
section
/-!
DEFINITION. The Anvil: leases, grants and runs, operands in cluster memory, the command queue, and the commands
(spec/15_engine_isa.md R297 to R314, R411, spec/10_formats.md R192, R193, spec/02_hierarchy.md R43).
-/
namespace Sys2Proof.Machine

/-! ### Lease status (R301) -/

/-- A command of the strand with a record is queued on some core (R314). -/
def State.anvilPending (s : State) (rec : Nat) : Bool :=
  s.cores.any fun e => e.2.queue.any fun q => decide (q.issuer = rec)

/-- The lease of a core, if a strand is its holder. -/
def Core.leaseOf (c : Core) (rec : Nat) : Option Lease :=
  match c.lease with
  | none => none
  | some l => if l.holder = rec then some l else none

/-- The strand's lease on its core, not ended (R300). -/
def State.heldLease (s : State) : Option Lease :=
  match (s.core s.cur.core).leaseOf s.cur.handle.addr with
  | none => none
  | some l => if l.ended then none else some l

/-- The lease status word: the lease it reports on, if any, and whether the strand holds it (R301). -/
def State.leaseWord (s : State) (l : Option Lease) (held : Bool) : Word :=
  let c := s.core s.cur.core
  let cl := s.cluster (coreCluster s.cur.core)
  let left := if cl.grant = some (coreIx s.cur.core) then cl.cmdsLeft else 0
  let own := match l with
    | none => 0
    | some l => min l.completed (2 ^ 32 - 1) * 2 ^ 32 + flagBit l.dropped 4 + flagBit l.rerun 3
  BitVec.ofNat 64
    (own + left * 2 ^ 24 + flagBit c.accPoison 2 + flagBit (c.aHist.contains s.cur.handle.addr) 1 + flagBit held 0)

/-! ### Operand geometry (R302, R303, R43) -/

/-- The classes of operand formats (R303). -/
inductive MxClass where
  | byte | nibble | wide
  deriving DecidableEq, Repr

/-- The class of a format that the Anvil accepts for A and B (R303). -/
def mxClass (c : BitVec 8) : Option MxClass :=
  if c = 0x01 ∨ c = 0x02 ∨ byteCode c then some .byte
  else if c = 0x08 ∨ c = 0x09 then some .nibble
  else if c = 0x11 ∨ c = 0x12 then some .wide
  else none

/-- A class's number as a core records it. -/
def MxClass.code : MxClass → BitVec 2
  | .byte => 0
  | .nibble => 1
  | .wide => 2

/-- K per command of a class (R303). -/
def MxClass.depth : MxClass → Nat
  | .wide => 64
  | _ => 128

/-- Groups of 32 per command of a class (R303). -/
def MxClass.groups (c : MxClass) : Nat := c.depth / 32

/-- The formats of an accumulator image (R303). -/
def imageCode (c : BitVec 8) : Bool := binaryCode c

/-- The rows of an operand and the bytes of each. -/
structure MxShape where
  rows     : Nat
  rowBytes : Nat
  deriving DecidableEq, Repr

/-- The shape of B: K rows of 128 elements (R303). -/
def shapeB (fmt : BitVec 8) : MxShape :=
  { rows := ((mxClass fmt).getD .byte).depth, rowBytes := 128 * fmtBits fmt / 8 }

/-- The shape of A: 128 rows of K elements (R303). -/
def shapeA (fmt : BitVec 8) : MxShape :=
  { rows := 128, rowBytes := ((mxClass fmt).getD .byte).depth * fmtBits fmt / 8 }

/-- The shape of an accumulator image (R303). -/
def shapeImage (fmt : BitVec 8) : MxShape := { rows := 128, rowBytes := 128 * fmtBits fmt / 8 }

/-- The row pitch of a geometry word (R302). -/
def rowPitch (w : Word) : Nat := bitsOf w.toNat 0 16

/-- The tile pitch of a geometry word after replacing 0 (R302). -/
def tilePitch (w : Word) : Nat := if bitsOf w.toNat 16 16 = 0 then 32 * rowPitch w else bitsOf w.toNat 16 16

/-- The rotation code of a geometry word (R302). -/
def rotation (w : Word) : Nat := bitsOf w.toNat 32 4

/-- The format code of a geometry word (R302). -/
def geomFmt (w : Word) : BitVec 8 := BitVec.ofNat 8 (bitsOf w.toNat 40 8)

/-- The place of 64-byte chunk j of row i in a row of a pitch under a rotation code (R43). In a pitch of no chunk the rule's
remainder has no value: it is taken as the dividend (DESIGN CHOICE, assumption log 36). -/
def chunkSlot (pitch q i j : Nat) : Nat := if q = 0 then j else (j + i * 2 ^ (q - 1)) % (pitch / 64)

/-- The address of chunk j of row r of an operand (R302, R43). -/
def chunkAt (base : Nat) (w : Word) (r j : Nat) : Nat :=
  base + r / 32 * tilePitch w + r % 32 * rowPitch w + 64 * chunkSlot (rowPitch w) (rotation w) r j

/-- The first address beyond an operand's bytes. -/
def operandTop (base : Nat) (w : Word) (z : MxShape) : Nat :=
  (List.range z.rows).foldl
    (fun m r => (List.range (z.rowBytes / 64)).foldl (fun m j => max m (chunkAt base w r j + 64)) m) base

/-- The subcode of the first failing check of a geometry word (R297, R302, R303, R310). -/
def geomFault (w : Word) (base : Nat) (fmtOk : Bool) (z : MxShape) : Option Nat :=
  let rp := rowPitch w
  if bitsOf w.toNat 48 16 ≠ 0 ∨ bitsOf w.toNat 36 4 ≠ 0 then some 1
  else if !fmtOk then some 2
  else if rotation w > 5 ∨ (rotation w ≠ 0 ∧ rp % 64 ≠ 0) then some 3
  else if base % 64 ≠ 0 ∨ rp % 64 ≠ 0 ∨ rp < z.rowBytes ∨
      (z.rows > 32 ∧ (tilePitch w % 64 ≠ 0 ∨ tilePitch w < 32 * rp)) then some 4
  else none

/-- Cause 0x0A for an operand (R297). -/
def descFault (s : State) (sub operand : Nat) : Res := .fault s 0x0A sub (BitVec.ofNat 64 (sub + operand * 256))

/-! ### Operands in the cluster-memory window (R302, R304) -/

/-- The end of the window addresses that the strand's team has (R16). -/
def State.windowTop (s : State) : Nat :=
  match s.teams.find? fun t => decide (t.id = s.cur.teamId) with
  | none => windowBase
  | some t => windowBase + t.pages * 4096

/-- The physical address of a byte of the strand's team's window (R16). -/
def State.windowPa (s : State) (va : Nat) : Nat :=
  match s.teams.find? fun t => decide (t.id = s.cur.teamId) with
  | none => va
  | some t => clusterLoc t.cluster + t.page0 * 4096 + (va - windowBase)

/-- Why the bytes [base, top) cannot be an operand: the capability, the window, the team's allocation
(R302, R304). -/
def State.windowFault (s : State) (c : CapReg) (base top operand : Nat) (perm : Perm) : Option Res :=
  match capFault c base (top - base) [perm, .engine] with
  | some sub => some (.fault s 2 sub (BitVec.ofNat 64 base))
  | none =>
    if s.cur.asid = 0 ∨ base < windowBase ∨ top > 2 ^ 48 then some (descFault s 5 operand)
    else if top > s.windowTop then some (.fault s 3 6 (BitVec.ofNat 64 (max base s.windowTop)))
    else none

/-- The physical address of the scales that a register names, none for c0, or the fault (R304, R309 step 5). -/
def State.scaleOperand (s : State) (d : CIdx) (groups : Nat) : Except Res (Option Nat) :=
  if d = 0 then .ok none
  else
    let c := s.cur.creg d
    match s.windowFault c c.lo.toNat (c.lo.toNat + 128 * groups) 1 .load with
    | some r => .error r
    | none => .ok (some (s.windowPa c.lo.toNat))

/-! ### Queueing (R300, R309) -/

/-- The state with a strand's latest Anvil command on a core (R301, flag A). -/
def State.noteCommand (s : State) (c : CoreId) (rec : Nat) : State :=
  ({ s with
    cores := s.cores.map fun (e : Nat × Core) =>
      if e.1 = c.val then e else (e.1, { e.2 with aHist := e.2.aHist.filter fun r => r != rec }) }).modCore c fun x =>
    { x with aHist := if x.aHist.contains rec then x.aHist else x.aHist ++ [rec] }

/-- The state with a command at the end of the core's queue. -/
def State.enqueue (s : State) (q : AnvilCmd) : State :=
  ((s.noteCommand s.cur.core q.issuer).modCore s.cur.core fun x => { x with queue := x.queue ++ [q] }).offerAnvil
    (coreCluster s.cur.core)

/-- What a command does under a lease: without one cause 0x09; under one that a cancel has reached it is accepted and
dropped, and the lease ends (R300). -/
def State.underLease (s : State) (f : State → Res) : Res :=
  match s.heldLease with
  | none => .fault s 9 0 0
  | some l => if l.cut then .done (s.endLease s.cur.core s.cur.handle.addr) else f s

/-- A command queued, or a stall while the queue holds 8 (R309). -/
def State.queueCmd (s : State) (q : AnvilCmd) : Res :=
  if (s.core s.cur.core).queue.length ≥ 8 then .stall s else .done (s.enqueue q)

/-- Where the issuing strand's stores to cluster memory are that are not performed yet (R125). -/
def State.earlyCluster (s : State) : List Nat :=
  (s.order.early.filter fun e => decide (e.who = .strand s.cur.handle.addr) && decide (regionOf e.loc = .cluster)).map Early.loc

/-- The command that an instruction with an operand gives. -/
def State.cmdOf (s : State) (op : AnvilOp) (base : Nat) (w : Word) (fmt : BitVec 8) (scales : Option Nat) : AnvilCmd :=
  { op := op, base := s.windowPa base, geom := w, fmt := fmt, scales := scales, issuer := s.cur.handle.addr
    first := s.earlyCluster, got := [], bad := false }

/-- The format of a geometry word, with a pending code in place of 0x00 (R208, R302). -/
def fmtFrom (w : Word) (pending : Option (BitVec 8)) : BitVec 8 :=
  if geomFmt w = 0 then pending.getD 0 else geomFmt w

/-- A code that a pending format code word may give the Anvil: 0x00 or one of its operand formats (R185, R208). -/
def mxCodeOk (c : BitVec 8) : Bool := decide (c = 0) || (mxClass c).isSome

/-- The A or B operand and its scales, in the order of R309, steps 3 to 5, and what follows. -/
def State.withOperand (s : State) (a b d : CIdx) (fmt : BitVec 8) (kOk : Bool) (z : MxShape)
    (f : Nat → Option Nat → Res) : Res :=
  let c := s.cur.creg a
  let base := c.lo.toNat
  match geomFault (s.x b) base ((mxClass fmt).isSome && kOk) z with
  | some sub => descFault s sub 0
  | none =>
    match s.windowFault c base (operandTop base (s.x b) z) 0 .load with
    | some r => r
    | none =>
      match s.scaleOperand d ((mxClass fmt).getD .byte).groups with
      | .error r => r
      | .ok sc => f base sc

/-- The accumulator image's operand and what follows (R311, R312). -/
def State.withImage (s : State) (a b : CIdx) (perm : Perm) (f : Nat → Res) : Res :=
  let c := s.cur.creg a
  let base := c.lo.toNat
  let fmt := geomFmt (s.x b)
  match geomFault (s.x b) base (imageCode fmt) (shapeImage fmt) with
  | some sub => descFault s sub 2
  | none =>
    match s.windowFault c base (operandTop base (s.x b) (shapeImage fmt)) 2 perm with
    | some r => r
    | none => f base

/-- A form of major 0x34. -/
def mxForm (i : Instr) (g : Gap) (reads writes : List RegName) : Form := plain i g reads writes none

/-! ### Instructions (R307 to R314) -/

/-- An Assay of the cluster's Anvil withholds its grants (R398). -/
def State.anvilTested (s : State) (cl : ClusterId) : Bool := s.testing 1 cl.val

/-- The fault of a refused birth in a scope (R154, R166). -/
def birthFault (s : State) (a : Asid) (id : BitVec 32) (x : Nat × Nat) : Res :=
  .fault s x.1 x.2
    (if x.1 = 8 then
      match s.scopeOf a id with
      | some (at_, _) => BitVec.ofNat 64 at_
      | none => 0
    else id.setWidth 64)

/-- The lease that the strand takes (R307, step 5). -/
def State.newLease (s : State) : Lease :=
  { holder := s.cur.handle.addr, asid := s.cur.asid, scope := s.cur.scope.setWidth 32, completed := 0
    rerun := false, dropped := false, cut := false, ended := false }

/-- The last steps of `mx.lease` on a core that has been granted the Anvil (R307, steps 5 and 6). -/
def State.takeLease (s : State) (d : CIdx) : Res :=
  let l := s.newLease
  let s := s.modCore s.cur.core fun x => { x with asks := x.asks.filter fun r => r != l.holder }
  match s.memberBirth l.asid l.scope s.cur.birth with
  | (s', some x) => birthFault (s'.yieldGrant s.cur.core) l.asid l.scope x
  | (s', none) =>
    let s' := s'.modCore s.cur.core fun x => { x with lease := some l }
    .done (s'.setX d (s'.leaseWord (some l) true))

/-- The state in which the issuing strand asks for a lease on its core (R299, R307). -/
def State.askLease (s : State) : State :=
  s.modCore s.cur.core fun x =>
    { x with asks := if x.asks.contains s.cur.handle.addr then x.asks else x.asks ++ [s.cur.handle.addr] }

/-- `mx.lease` (R307). -/
def execMxLease (g : Gap) (d : CIdx) (s : State) : Host.Outcome State Fault Refusal :=
  Form.run { mxForm (.mxLease g d) g [] [.c d] with point := true } s fun s =>
    let c := s.cur.core
    let cl := coreCluster c
    match s.heldLease with
    | some l => .done (s.setX d (s.leaseWord (some l) true))
    | none =>
      if (s.cluster cl).anvilOut then .fault (s.dropRequest c s.cur.handle.addr) 9 1 0
      else if (s.core c).lease.isSome then .stall s.askLease
      else if s.anvilTested cl then .stall s
      else
        match (s.cluster cl).grant with
        | none => (s.openRun cl (coreIx c)).takeLease d
        | some k =>
          if k = coreIx c then s.takeLease d
          else
            .stall (s.askLease.modCluster cl fun x => { x with waiting := waitFor (coreIx c) x.waiting true })

/-- `mx.free` (R308). -/
def execMxFree (g : Gap) (s : State) : Host.Outcome State Fault Refusal :=
  (mxForm (.mxFree g) g [] []).run s fun s => .done (s.endLease s.cur.core s.cur.handle.addr)

/-- `mx.opb` (R309). -/
def execMxOpb (g : Gap) (a b d : CIdx) (s : State) : Host.Outcome State Fault Refusal :=
  Form.run
    { mxForm (.mxOpb g a b d) g [.c a, .c b, .c d] [] with
      takes := some fun p => match p with
        | none => true
        | some v => decide (payA v = 0) && mxCodeOk (payB v) } s fun s =>
    s.underLease fun s =>
      let fmt := fmtFrom (s.x b) (s.cur.pending.map payB)
      s.withOperand a b d fmt true (shapeB fmt) fun base sc =>
        match s.queueCmd (s.cmdOf .opb base (s.x b) fmt sc) with
        | .done t => .done (t.modCore t.cur.core fun x => { x with bClass := ((mxClass fmt).getD .byte).code })
        | r => r

/-- A's K is that of the class the core recorded for its latest `mx.opb` (R310). -/
def depthsAgree (fmt : BitVec 8) (cls : BitVec 2) : Bool :=
  decide (((mxClass fmt).getD .byte).depth = if cls = 2 then 64 else 128)

/-- `mx.mma` (R310). -/
def execMxMma (g : Gap) (a b d : CIdx) (s : State) : Host.Outcome State Fault Refusal :=
  Form.run
    { mxForm (.mxMma g a b d) g [.c a, .c b, .c d] [] with
      takes := some fun p => match p with
        | none => true
        | some v => mxCodeOk (payA v) && decide (payB v = 0) } s fun s =>
    s.underLease fun s =>
      let fmt := fmtFrom (s.x b) (s.cur.pending.map payA)
      s.withOperand a b d fmt (depthsAgree fmt (s.core s.cur.core).bClass) (shapeA fmt) fun base sc =>
        s.queueCmd (s.cmdOf .mma base (s.x b) fmt sc)

/-- `mx.ld` (R311). -/
def execMxLd (g : Gap) (a b : CIdx) (s : State) : Host.Outcome State Fault Refusal :=
  (mxForm (.mxLd g a b) g [.c a, .c b] []).run s fun s =>
    s.underLease fun s =>
      s.withImage a b .load fun base => s.queueCmd (s.cmdOf .ld base (s.x b) (geomFmt (s.x b)) none)

/-- `mx.st` (R312). A write to the team's cluster counter page takes page fault subcode 5 (R84). -/
def execMxSt (g : Gap) (a b : CIdx) (s : State) : Host.Outcome State Fault Refusal :=
  (mxForm (.mxSt g a b) g [.c a, .c b] []).run s fun s =>
    s.underLease fun s =>
      s.withImage a b .store fun base =>
        if base < windowBase + 4096 then .fault s 3 5 (BitVec.ofNat 64 base)
        else if !(s.core s.cur.core).queue.isEmpty then .stall s
        else if (s.core s.cur.core).accPoison then .fault s 8 0 (BitVec.ofNat 64 base)
        else s.queueCmd (s.cmdOf .st base (s.x b) (geomFmt (s.x b)) none)

/-- `mx.zero` (R313). -/
def execMxZero (g : Gap) (s : State) : Host.Outcome State Fault Refusal :=
  (mxForm (.mxZero g) g [] []).run s fun s =>
    s.underLease fun s => s.queueCmd (s.cmdOf .zero 0 0 0 none)

/-- `mx.chk`: a lease that a cancel has reached ends here (R300, R314). -/
def execMxChk (g : Gap) (d : CIdx) (s : State) : Host.Outcome State Fault Refusal :=
  (mxForm (.mxChk g d) g [] [.c d]).run s fun s =>
    if s.anvilPending s.cur.handle.addr then .stall s
    else
      let l := (s.core s.cur.core).leaseOf s.cur.handle.addr
      let s' := s.endDropped
      .done (s'.setX d (s'.leaseWord l s'.heldLease.isSome))

/-! ### Commands as they run (R125, R192, R193, R309 to R313, R411) -/

/-- The party of a command: its accesses are its strand's (R124, R125). -/
def AnvilCmd.party (q : AnvilCmd) (c : CoreId) : Party :=
  { die := coreDie c, core := some c, asid := 0, team := 0, who := .strand q.issuer }

/-- A command's shape of operand: none for what reads nothing (R309 to R313). -/
def AnvilCmd.shape (q : AnvilCmd) : MxShape :=
  match q.op with
  | .opb => shapeB q.fmt
  | .mma => shapeA q.fmt
  | .ld => shapeImage q.fmt
  | .st => { rows := 0, rowBytes := 0 }
  | .zero => { rows := 0, rowBytes := 0 }

/-- The scale bytes of a command (R304). -/
def AnvilCmd.scaleBytes (q : AnvilCmd) : Nat := if q.scales.isSome then 128 * ((mxClass q.fmt).getD .byte).groups else 0

/-- The pieces of n bytes at a location that lie each within an aligned unit. -/
def piecesOf (u loc n : Nat) : List (Nat × Nat) :=
  if n = 0 then []
  else
    (List.range ((loc + n - 1) / u - loc / u + 1)).map fun i =>
      let lo := max loc ((loc / u + i) * u)
      (lo, min (loc + n) ((loc / u + i + 1) * u) - lo)

/-- A location of cluster memory is on the counter page of an allocation (R84, R143). -/
def State.counterPageAt (s : State) (c : CoreId) (loc : Nat) : Bool :=
  (s.cluster (coreCluster c)).allocs.any fun a => decide ((loc - clusterLoc (coreCluster c)) / 4096 = a.2.1)

/-- What a command reads at one point each, in the order of its operand's rows and then its scales: aligned 64-byte sectors, and
aligned 8-byte words of a counter page (R84, R126, R302, R304). -/
def State.anvilReads (s : State) (c : CoreId) (q : AnvilCmd) : List (Nat × Nat) :=
  let z := q.shape
  let rows := (List.range z.rows).flatMap fun r => (List.range (z.rowBytes / 64)).map fun j => (chunkAt q.base q.geom r j, 64)
  (rows ++ [(q.scales.getD 0, q.scaleBytes)]).flatMap fun x =>
    piecesOf (if s.counterPageAt c x.1 then 8 else 64) x.1 x.2

/-- The numbers of what a command has still to read. -/
def State.anvilUnread (s : State) (c : CoreId) (q : AnvilCmd) : List Nat :=
  (List.range (s.anvilReads c q).length).filter fun i => !q.got.any fun g => decide (g.1 = i)

/-- The party of a command's reads: they see what has been performed (R126). -/
def anvilReader (c : CoreId) : Party :=
  { die := coreDie c, core := some c, asid := 0, team := 0, who := .device (coreDie c) }

/-- A command after it has read one of its pieces (R126, R411). -/
def State.readPiece (s : State) (c : CoreId) (q : AnvilCmd) (i : Nat) : AnvilCmd :=
  let x := (s.anvilReads c q).getD i (0, 0)
  { q with got := q.got ++ [(i, s.seenAt (anvilReader c) x.1 x.2)], bad := q.bad || (decide (x.2 ≠ 0) && s.poisoned x.1 x.2) }

/-- The bytes that a command has read, in order. -/
def AnvilCmd.data (q : AnvilCmd) : List Byte :=
  (List.range q.got.length).flatMap fun i => ((q.got.find? fun g => decide (g.1 = i)).map (·.2)).getD []

/-- The rows of the operand that a command has read. -/
def AnvilCmd.rows (q : AnvilCmd) : List (List Byte) :=
  (List.range q.shape.rows).map fun r => (q.data.drop (r * q.shape.rowBytes)).take q.shape.rowBytes

/-- The scale bytes that a command has read, none for 2^0. -/
def AnvilCmd.scaleData (q : AnvilCmd) : Option (List Byte) :=
  q.scales.map fun _ => q.data.drop (q.shape.rows * q.shape.rowBytes)

/-- The codes of packed elements of a width, from a row's bytes; the low half of a byte comes first (R179). -/
def unpack (bits : Nat) (bs : List Byte) : List Nat :=
  let v := leNat bs
  (List.range (bs.length * 8 / bits)).map fun k => bitsOf v (k * bits) bits

/-- The values of a row's elements. -/
def rowValues (fmt : BitVec 8) (bs : List Byte) : List FpNum := (unpack (fmtBits fmt) bs).map (valueOf fmt)

/-- A list cut into groups of 32. -/
def groupsOf : Nat → List FpNum → List (List FpNum)
  | 0, _ => []
  | n + 1, l => l.take 32 :: groupsOf n (l.drop 32)

/-- A scale code, 127 without scales (R304). -/
def scaleCode (sc : Option (List Byte)) (groups r g : Nat) : Nat :=
  match sc with
  | none => 127
  | some l => (l.getD (r * groups + g) 0).toNat

/-- A group's value: the exact sum of its products, scaled, and rounded once (R192 step 3, R193). -/
def groupValue (ints : Bool) (xs ys : List FpNum) (ca cb : Nat) : FpNum :=
  toFp32 0 (scaleBy ca (scaleBy cb (exactSum (List.zipWith (FpNum.mulAs ints) xs ys))))

/-- A cell after its groups are added in ascending order (R192 step 4). -/
def cellSum : FpNum → List FpNum → FpNum
  | c, [] => c
  | c, g :: r => cellSum (toFp32 0 (FpNum.add 0 c g)) r

/-- The group values of row i of A and column j of B. -/
def groupList (ints : Bool) (as_ bs : List (List FpNum)) (sa sb : Nat → Nat) (n : Nat) : List FpNum :=
  (List.range n).map fun g => groupValue ints (as_.getD g []) (bs.getD g []) (sa g) (sb g)

/-- The accumulator after a multiply (R310). -/
def multiply (ints : Bool) (acc : List (BitVec 32)) (arows : List (List FpNum)) (bcols : List (List FpNum))
    (sa sb : Option (List Byte)) (n : Nat) : List (BitVec 32) :=
  let bg := bcols.map (groupsOf n)
  arows.zipIdx.flatMap fun ri =>
    let ag := groupsOf n ri.1
    bg.zipIdx.map fun cj =>
      let cell := binaryValue fp32 (acc.getD (ri.2 * 128 + cj.2) 0).toNat
      BitVec.ofNat 32 (roundFloat fp32 0 0
        (cellSum cell (groupList ints ag cj.1 (scaleCode sa n ri.2) (scaleCode sb n cj.2) n)))

/-- The columns of B from its rows. -/
def columns (rows : List (List FpNum)) : List (List FpNum) :=
  (List.range 128).map fun j => rows.map fun r => r.getD j .zero

/-- The rows of a core's staged B; without bytes it holds si8 zeros (R298). -/
def StagedB.rows (b : StagedB) : List (List FpNum) :=
  let z := shapeB b.fmt
  (List.range z.rows).map fun k =>
    rowValues b.fmt ((List.range z.rowBytes).map fun i => b.bytes.getD (k * z.rowBytes + i) 0)

/-- The state with a core's accumulator and its poison mark. -/
def State.setAcc (s : State) (c : CoreId) (acc : List (BitVec 32)) (poison : Bool) : State :=
  s.modCore c fun x => { x with acc := acc, accPoison := poison }

/-- The effect of `mx.opb` that has read its operand (R309, R411). -/
def State.runOpb (s : State) (c : CoreId) (q : AnvilCmd) : State :=
  s.modCore c fun x =>
    { x with staged := { bytes := q.rows.flatten, fmt := q.fmt, scales := q.scaleData, poison := q.bad } }

/-- The effect of `mx.mma` that has read its operand (R310, R411). Where a staged B of another depth meets A, because the
`mx.opb` whose class the core recorded was dropped, the cells are not stated (assumption log 8). -/
def State.runMma (s : State) (c : CoreId) (q : AnvilCmd) : State :=
  let x := s.core c
  let cls := (mxClass q.fmt).getD .byte
  if q.bad ∨ x.staged.poison ∨ x.accPoison then s.setAcc c x.acc true
  else if ((mxClass x.staged.fmt).getD .byte).depth ≠ cls.depth then
    { s.setAcc c ((List.range 16384).map fun k => (Config.freeWord (s.tick + k)).setWidth 32) false with
      tick := s.tick + 16384 }
  else
    s.setAcc c
      (multiply (intCode q.fmt && intCode x.staged.fmt) x.acc (q.rows.map (rowValues q.fmt)) (columns x.staged.rows) q.scaleData
        x.staged.scales cls.groups) false

/-- The state after `mx.mma` on a cluster's Anvil with its checksum: the accumulator is updated after the check has passed, on a
first mismatch by a rerun, which takes its cycles from the run; on a second one it is poisoned as it stood, and the error
is reported for the lease's ASID (R298, R305, R395). -/
def State.checkedMma (s : State) (cl : ClusterId) (c : CoreId) (q : AnvilCmd) : State :=
  match (s.cluster cl).mismatch with
  | none => s.runMma c q
  | some r =>
    let s := (s.modCluster cl fun x => { x with mismatch := none, cyclesLeft := x.cyclesLeft - 128 }).modCore c fun x =>
      { x with lease := x.lease.map fun l => { l with rerun := true } }
    if r.severity = 0 then s.runMma c q
    else
      (s.setAcc c (s.core c).acc true).report (clusterDie cl) { r with asid := ((s.core c).lease.map Lease.asid).or r.asid } 0

/-- The effect of `mx.ld` that has read its image (R311, R411). -/
def State.runLd (s : State) (c : CoreId) (q : AnvilCmd) : State :=
  if q.bad then s.setAcc c (s.core c).acc true
  else s.setAcc c ((q.rows.map (rowValues q.fmt)).flatten.map fun v => BitVec.ofNat 32 (roundFloat fp32 0 0 v)) false

/-- The bytes of a row of the accumulator image (R312). -/
def imageRow (fmt : BitVec 8) (acc : List (BitVec 32)) (r : Nat) : List Byte :=
  (List.range 128).flatMap fun j =>
    leBytes (fmtBits fmt / 8) (roundFloat fmt 0 0 (binaryValue fp32 (acc.getD (r * 128 + j) 0).toNat))

/-- The chunks of an accumulator image with their addresses (R43, R312). -/
def imageChunks (acc : List (BitVec 32)) (q : AnvilCmd) : List (Nat × List Byte) :=
  (List.range 128).flatMap fun r =>
    let bs := imageRow q.fmt acc r
    (List.range (bs.length / 64)).map fun k => (chunkAt q.base q.geom r k, (bs.drop (64 * k)).take 64)

/-- The effect of `mx.st` as it runs: stores of its strand, each single-copy atomic per aligned 8-byte word (R40, R306,
R312). -/
def State.runSt (s : State) (c : CoreId) (q : AnvilCmd) : State :=
  let l := imageChunks (s.core c).acc q
  let early := l.flatMap fun x => if s.poisoned x.1 64 then [] else earlyPieces c (.strand q.issuer) s x.1 64
  let w := q.party c
  (l.foldl (fun s x => (s.putBlock x.1 x.2).noteWrite w x.1 64) s).addEarly early

/-- The effect of a command that has read its operand. -/
def State.runCmd (s : State) (cl : ClusterId) (c : CoreId) (q : AnvilCmd) : State :=
  match q.op with
  | .opb => s.runOpb c q
  | .mma => s.checkedMma cl c q
  | .ld => s.runLd c q
  | .st => s.runSt c q
  | .zero => s.setAcc c [] false

/-- The state in which the stores to cluster memory that a command's strand made before it are performed (R125). -/
def State.performFirst (s : State) (q : AnvilCmd) : State :=
  if q.first = [] then s
  else
    s.performAll (s.order.early.filter fun e => decide (e.who = .strand q.issuer) && q.first.contains e.loc)

/-- The state after the command at the head of a core's queue, the others of which follow, has read one of the pieces it has still
to read, in no given order, once its strand's earlier stores are performed (R125, R126, R306). -/
def State.stepCmd (s : State) (c : CoreId) (q : AnvilCmd) (rest : List AnvilCmd) (l : List Nat) : State :=
  let s := if q.got = [] then s.performFirst q else s
  let i := l.getD ((Config.freeWord s.tick).toNat % l.length) 0
  s.modCore c fun y => { y with queue := s.readPiece c q i :: rest }

/-- The cycles of a command, without contention and without a rerun (R298). -/
def AnvilOp.cycles : AnvilOp → Nat
  | .opb => 32
  | .mma => 128
  | .ld => 64
  | .st => 64
  | .zero => 4

/-- The command changes the accumulator or the staged B (R301, flag A). -/
def AnvilOp.writes : AnvilOp → Bool
  | .st => false
  | _ => true

/-- The state after a command has completed: counted in its lease and its run, flag A of other strands gone
(R299, R301). -/
def State.countCmd (s : State) (c : CoreId) (q : AnvilCmd) : State :=
  let s := s.modCore c fun x =>
    { x with
      lease := x.lease.map fun l => { l with completed := min (l.completed + 1) (2 ^ 32 - 1) }
      aHist := if q.op.writes then x.aHist.filter fun r => r == q.issuer else x.aHist }
  s.modCluster (coreCluster c) fun x => { x with cmdsLeft := x.cmdsLeft - 1, cyclesLeft := x.cyclesLeft - q.op.cycles }

/-- The state with a lease over whose holder has left and whose queue is empty (R300). -/
def State.closeLease (s : State) (c : CoreId) : State :=
  match (s.core c).lease with
  | none => s
  | some l => if l.ended ∧ (s.core c).queue.isEmpty then s.finishLease c l else s

/-- The state with the team of a record freed if its last command has run (R144). -/
def State.teamAfter (s : State) (rec : Nat) : State :=
  match s.teamOfRecord rec with
  | none => s
  | some t => s.freeTeam t.id

/-- The state with a run at its end if its commands or cycles are spent (R299). -/
def State.checkRun (s : State) (cl : ClusterId) : State :=
  let x := s.cluster cl
  if x.grant.isSome ∧ (x.cmdsLeft = 0 ∨ x.cyclesLeft = 0) then s.addDue (.anvilRunEnd cl) else s.offerAnvil cl

/-- The command at the head of the queue of the core that holds the grant takes a step: it reads a piece of its operand, or, with
all read, it takes effect and completes; an Anvil under test runs none (R126, R298, R299, R398). -/
def execAnvilCommandRun (cl : ClusterId) (s : State) : Host.Outcome State Fault Refusal :=
  let x := s.cluster cl
  match x.grant with
  | none => .next s
  | some k =>
    let c := clusterCore cl k.val
    match (s.core c).queue with
    | [] => .next s
    | q :: rest =>
      if x.cmdsLeft = 0 ∨ x.cyclesLeft = 0 then .next s
      else if s.anvilTested cl then .next { s with stays := true }
      else
        match s.anvilUnread c q with
        | i :: l => .next { s.stepCmd c q rest (i :: l) with stays := true }
        | [] =>
          let s := ((s.modCore c fun y => { y with queue := rest }).runCmd cl c q).countCmd c q
          .next (((s.closeLease c).teamAfter q.issuer).checkRun cl)

/-- The command at the head of a core's queue is in progress: it completes whatever happens (R299, R300). -/
def Core.inProgress (c : Core) : Bool :=
  match c.queue with
  | [] => false
  | q :: _ => !q.got.isEmpty

/-- A run ends: the grant passes to the next waiting core; a core with a lease waits for its next run, which begins at
once if no other core waits; a command in progress completes first, and an Anvil under test passes no grant (R299, R398). -/
def execAnvilRunEnd (cl : ClusterId) (s : State) : Host.Outcome State Fault Refusal :=
  match (s.cluster cl).grant with
  | none => .next s
  | some k =>
    let c := clusterCore cl k.val
    if (s.core c).inProgress ∨ s.anvilTested cl then .next { s with stays := true }
    else if (s.core c).lease.isSome then
      .next ((s.modCluster cl fun x => { x with waiting := waitFor k x.waiting true }).passGrant cl)
    else .next (s.yieldGrant c)

end Sys2Proof.Machine
end

