-- ==== Sys2Proof/Machine/Atomics.lean ====
section
/-!
DEFINITION. Atomics, fences and cache operations, majors 0x22 and 0x23 (spec/13_memory_isa.md R250 to R252,
spec/05_ordering_near.md R112 to R114, spec/06_ordering_far.md R119).
-/
namespace Sys2Proof.Machine

/-! ### Atomics (R250, R251) -/

/-- An atomic's step at a place: it acquires what the word carries, which then carries its release too (R110, R113, R250,
R251). -/
def State.atomicAt (s : State) (p : Place) (va : Word) (op : AmoOp) (y e : Word) (d : CIdx) (scope : Nat) : Res :=
  if p.ptype = .io then s.ioOwned p va (s.ioAtomic p va op y e d)
  else
    match s.atHome s.me p va fun old => amoResult op old y e with
    | (s', .error x) => .stop s' x
    | (s', .ok old) => .done (((s'.acquire scope p.loc 8).releaseWord scope p.loc 8).setX d old)

/-- The page of an atomic lies at a port that does not take it: that comes before its rights (R31, R251). -/
def State.portRefuses (s : State) (op : AmoOp) (va : Word) : Bool :=
  match (translate s s.me va .stat).2 with
  | .ok p => decide (p.ptype = .io) && !portTakes op p.loc
  | .error _ => false

/-- An atomic: checks, the wait of its release, its step (R108, R250, R251). -/
def State.memAtomic (s : State) (c : CapReg) (op : AmoOp) (y e : Word) (d : CIdx) (scope : BitVec 3) : Res :=
  let va := c.lo
  if s.storeQueued then .stall s
  else if capFault c va.toNat 8 [.load, .store] = none ∧ va.toNat % 8 = 0 ∧ s.portRefuses op va then .fault s 3 5 va
  else
    match s.capAccess s.me c va 8 8 [.load, .store] .atomic with
    | (s', .error x) => .stop s' x
    | (s', .ok p) =>
      if p.ptype = .io ∧ !portTakes op p.loc then .fault s' 3 5 va
      else
        s'.released s (if p.ptype = .io then 4 else scope.toNat) fun s => s.atomicAt p va op y e d scope.toNat

/-- An atomic instruction; `amo.cas` also reads d, its comparand (R250). -/
def amo (i : Instr) (g : Gap) (a b d : CIdx) (scope : BitVec 3) (op : AmoOp) (s : State) :
    Host.Outcome State Fault Refusal :=
  (plain i g (if op = .cas then [.c a, .c b, .c d] else [.c a, .c b]) [.c d] none).run s fun s =>
    s.memAtomic (s.cur.creg a) op (s.x b) (s.x d) d scope

/-- `amo.add` (R250). -/
def execAmoAdd (g : Gap) (a b d : CIdx) (k : BitVec 3) (s : State) : Host.Outcome State Fault Refusal :=
  amo (.amoAdd g a b d k) g a b d k .add s

/-- `amo.and` (R250). -/
def execAmoAnd (g : Gap) (a b d : CIdx) (k : BitVec 3) (s : State) : Host.Outcome State Fault Refusal :=
  amo (.amoAnd g a b d k) g a b d k .and s

/-- `amo.or` (R250). -/
def execAmoOr (g : Gap) (a b d : CIdx) (k : BitVec 3) (s : State) : Host.Outcome State Fault Refusal :=
  amo (.amoOr g a b d k) g a b d k .or s

/-- `amo.xor` (R250). -/
def execAmoXor (g : Gap) (a b d : CIdx) (k : BitVec 3) (s : State) : Host.Outcome State Fault Refusal :=
  amo (.amoXor g a b d k) g a b d k .xor s

/-- `amo.min` (R250). -/
def execAmoMin (g : Gap) (a b d : CIdx) (k : BitVec 3) (s : State) : Host.Outcome State Fault Refusal :=
  amo (.amoMin g a b d k) g a b d k .min s

/-- `amo.max` (R250). -/
def execAmoMax (g : Gap) (a b d : CIdx) (k : BitVec 3) (s : State) : Host.Outcome State Fault Refusal :=
  amo (.amoMax g a b d k) g a b d k .max s

/-- `amo.swp` (R250). -/
def execAmoSwp (g : Gap) (a b d : CIdx) (k : BitVec 3) (s : State) : Host.Outcome State Fault Refusal :=
  amo (.amoSwp g a b d k) g a b d k .swp s

/-- `amo.cas` (R250). -/
def execAmoCas (g : Gap) (a b d : CIdx) (k : BitVec 3) (s : State) : Host.Outcome State Fault Refusal :=
  amo (.amoCas g a b d k) g a b d k .cas s

/-! ### Fences (R112, R119) -/

/-- The state after a fence of the issuing strand that is complete: it releases with later stores what happened before it,
and the strand's fetched words are discarded (R103, R110, R112). -/
def State.fenced (s : State) (scope : Nat) : State :=
  (s.fenceRelease scope).modCur fun t => { t with held := [] }

/-- `fence`: earlier accesses are performed at the scope before the strand goes on (R112). -/
def execFence (g : Gap) (k : BitVec 3) (s : State) : Host.Outcome State Fault Refusal :=
  (plain (.fence g k) g [] [] none).run s fun s =>
    let s := s.fenceAcquire k.toNat
    s.released s k.toNat fun s => .done (s.fenced k.toNat)

/-- The state in which the issuing strand has asked for a settle round (R119). -/
def State.askSettle (s : State) : State :=
  let s := { s with settle := { s.settle with queued := s.settle.queued ++ [s.cur.handle.addr] } }
  if s.settle.isOpen ∨ s.agenda.contains .settleRoundOpen then s else s.addAgenda .settleRoundOpen

/-- `fence.sc`: as `fence.sys`, then a settle round (R119). -/
def execFenceSc (g : Gap) (s : State) : Host.Outcome State Fault Refusal :=
  (plain (.fenceSc g) g [] [] none).run s fun s =>
    let s := s.fenceAcquire 4
    s.released s 4 fun s =>
      let me := s.cur.handle.addr
      if s.settle.finished.contains me then .done ((s.leaveSettle me).fenced 4)
      else if s.settle.joined.contains me ∨ s.settle.queued.contains me then .stall s
      else .stall s.askSettle

/-! ### Cache operations (R114, R252) -/

/-- A cache operation on the line at a's address: its checks, after the strand's stores to the line; the line's dirty sectors
go from the core's L1 to the home, and the copy stays or goes (R114, R252). -/
def cacheOp (i : Instr) (g : Gap) (a : CIdx) (drop : Bool) (s : State) : Host.Outcome State Fault Refusal :=
  (plain i g [.c a] [] none).run s fun s =>
    match s.capAccess s.me (s.cur.creg a) (s.x a) 1 1 [.load] .load with
    | (s', .error x) => .stop s' x
    | (s', .ok p) =>
      if p.cacheable then
        match s'.gate s'.me p (s'.x a) 8 with
        | some x => .stop (s'.arrive s'.me p (some x)) x
        | none => .done (((s'.arrive s'.me p none).performAt (p.loc / 128 * 128) 128).cleanL1 s'.cur.core (p.loc / 128) drop)
      else .done s'

/-- `dc.wb` (R252). -/
def execDcWb (g : Gap) (a : CIdx) (s : State) : Host.Outcome State Fault Refusal := cacheOp (.dcWb g a) g a false s

/-- `dc.inv`, which acts as `dc.flush` (R114, R252). -/
def execDcInv (g : Gap) (a : CIdx) (s : State) : Host.Outcome State Fault Refusal := cacheOp (.dcInv g a) g a true s

/-- `dc.flush` (R252). -/
def execDcFlush (g : Gap) (a : CIdx) (s : State) : Host.Outcome State Fault Refusal := cacheOp (.dcFlush g a) g a true s

/-- The state after a prefetch: the sector at an address in the core's L1 for reading, or nothing where a check, the
translation, the home or poison is in the way (R252). -/
def State.prefetch (s : State) (c : CapReg) : State :=
  match s.capAccess s.me c c.lo 1 1 [.load] .load with
  | (_, .error _) => s
  | (s', .ok p) =>
    if p.cacheable ∧ (s'.gate s'.me p c.lo 1).isNone ∧ !s'.poisoned p.loc 1 then
      s'.noteLoad s'.me (p.loc / 128) (sectorMask (p.loc / 128) p.loc 1)
    else s

/-- `dc.pf`: it never faults, and it changes no value that a load returns (R114, R252). -/
def execDcPf (g : Gap) (a : CIdx) (s : State) : Host.Outcome State Fault Refusal :=
  Form.run { plain (.dcPf g a) g [.c a] [] none with mild := true } s fun s => .done (s.prefetch (s.cur.creg a))

end Sys2Proof.Machine
end

