-- ==== Sys2Proof/Machine/Fetch.lean ====
section
/-!
DEFINITION. What a step does around an instruction: a wait presented again, the stop that a request asks for, the fetch
of an instruction, and the choice of the strand that issues (spec/04_counters.md R91, R94, spec/09_scheduling.md R174,
R178, spec/11_encoding.md R199, spec/17_traps.md R339).
-/
namespace Sys2Proof.Machine

/-! ### Waits (R91, R94) -/

/-- The state after a wait of the issuing strand that its counter does not meet: suspended, with the home holding the
waiter; the suspension waits until earlier accesses are performed at `dev` (R91, R92, R135). -/
def State.suspendWait (s : State) (pa : Nat) (va : Word) (threshold : Word) : State :=
  let s := s.quiet
  if !s.settled then s
  else
    let h := s.cur.handle
    (s.suspendCur (s.cur.pc + 4) (s.recCarry h.addr) va.toNat threshold.toNat).registerWaiter pa threshold h s.myDie

/-- The state after the issuing strand presents a pending wait again. PC names the `ctr.wait` until the wait is met; a met
one acquires, at the widest scope since the record names none (R90, R94; assumption log 36). -/
def State.presentWait (s : State) (w : PendingWait) : State :=
  let va : Word := w.va.setWidth 64
  match s.counterPlace s.me va .ctrRead with
  | (s', .error x) => (s'.undo s).stopped x
  | (s', .ok p) =>
    let s' := s'.performAt p.loc 8
    let v := BitVec.ofNat 64 (s'.mem64 p.loc)
    if w.threshold.toNat ≤ v.toNat then
      ((s'.acquire 4 p.loc 8).setX 5 v).modCur fun t => { t with wait := none, pc := t.pc + 4 }
    else s'.suspendWait p.loc va w.threshold

/-! ### Requests at a boundary (R178, R339) -/

/-- The state after a pre-emption request is met: the strand stopped once its accesses are performed, its handle at the
bottom of its core's deque, or of another core's if its own is out of service; a strand of a team that is being swapped out is
Ready (R104, R172, R175, R178). -/
def State.preEmpt (s : State) : State :=
  let s := s.quiet
  let t := s.cur
  match s.stopCur { cause := 0, subcode := 0, tval := 0, epc := t.pc } with
  | none => s
  | some s' => s'.readyOr t.handle fun s' => s'.pushBottom (s'.pushTarget t.core t.handle) t.prio.toNat t.handle

/-- The pool has the blocks for the stop that a pre-emption request asks for; without them the strand runs on (R178,
R340). -/
def State.canStop (s : State) : Bool := decide ((s.die s.myDie).ctxPool.count ≥ (if s.cur.grant = 0 then 1 else 2))

/-- The state after a killed strand retires at a boundary, once its accesses are performed; an outcome that its page operation
left is not reported (R165, R339). -/
def State.killCur (s : State) : State :=
  let s := s.quiet
  if s.settled then
    ({ s with
      dies := s.dies.map fun x =>
        { x with leafDone := x.leafDone.filter fun r => !decide (r.issuer = s.cur.handle.addr) } } : State).retireCur
  else s

/-- The outcome that a strand's operation has left, with its die (R267). -/
def State.leafResult (s : State) (who : Nat) : Option (DieId × Nat) :=
  ([0, 1, 2, 3] : List DieId).findSome? fun d =>
    ((s.die d).leafDone.find? fun r => decide (r.issuer = who)).map fun r => (d, r.outcome)

/-- A strand's page operation waits, is in progress or has an outcome to collect (R74, R267). -/
def State.leafBusy (s : State) (who : Nat) : Bool :=
  (s.leafResult who).isSome || s.dies.toList.any fun d =>
    (d.moves.any fun m => decide (m.issuer = who)) || d.lpns.any fun e => e.2.queue.contains (.strand who)

/-- A strand's page operation has failed (R267). -/
def State.leafFailed (s : State) (who : Nat) : Bool :=
  match s.leafResult who with
  | some (_, _ + 1) => true
  | _ => false

/-- A kill that has reached the issuing strand acts now: at the boundary after a page operation of it, and before the fault
of one that failed (R165, R267, R339). -/
def State.killNow (s : State) : Bool :=
  s.cur.killed && !s.priv && (s.leafFailed s.cur.handle.addr || !s.leafBusy s.cur.handle.addr)

/-- A pre-emption request for the issuing strand acts now (R178, R267, R339). -/
def State.stopNow (s : State) : Bool := s.cur.stopWanted && !s.priv && s.canStop && !s.leafBusy s.cur.handle.addr

/-- An interrupt is taken by the issuing strand now (R338, R339). -/
def State.interruptNow (s : State) : Bool :=
  s.priv && s.cur.ie && !(s.die s.myDie).ints.isEmpty && !s.leafBusy s.cur.handle.addr

/-! ### Fetch (R199) -/

/-- The word that the issuing strand holds for its pc (R103). -/
def State.heldWord (s : State) : Option HeldWord :=
  s.cur.held.find? fun h => decide (h.asid = s.cur.asid) && decide (h.va = s.cur.pc)

/-- The state in which the issuing strand no longer holds the word at its pc. -/
def State.dropHeld (s : State) : State :=
  s.modCur fun t => { t with held := t.held.filter fun h => !(decide (h.asid = t.asid) && decide (h.va = t.pc)) }

/-- The place of a word that the issuing strand may fetch ahead: its page's translation is at hand and allows fetching, and
nothing keeps the fetch from being made (R103, R199). -/
def State.aheadPlace (s : State) (va : Word) : Option Place :=
  match s.tlbHit (some s.cur.core) s.cur.asid va.toNat with
  | none => none
  | some e =>
    match entryAccess s s.cur.asid va .fetch e.entry.toNat e.bits with
    | .error _ => none
    | .ok p => if (s.gate s.me p va 4).isSome ∨ s.poisoned p.loc 4 then none else some p

/-- The state in which the issuing strand has fetched some word ahead, or none: which, and when, is open. It is a read, of what
the strand sees now, noted where some bytes carry a release (R103, R112, R199; assumption log 36). -/
def State.fetchAhead (s : State) : State :=
  let v := Config.freeWord s.tick
  let va : Word := s.cur.pc + (v.extractLsb' 0 24).signExtend 64 * 4
  let place := if v.getLsbD 60 then s.aheadPlace va else none
  { s with
    cur := { s.cur with
      held := match place with
        | none => s.cur.held
        | some p =>
          { asid := s.cur.asid, va := va, word := BitVec.ofNat 32 (leNat (s.seen s.me p 4)) } ::
            s.cur.held.filter fun h => !(decide (h.asid = s.cur.asid) && decide (h.va = va)) }
    order := { s.order with
      carries := match s.order.early.isEmpty && s.order.syncs.isEmpty, place with
        | false, some p => (s.noteRead s.me p.loc 4).order.carries
        | _, _ => s.order.carries } }

/-- The four bytes at PC, held or read now, or the state after the fetch has faulted (R103, R199). -/
def State.fetch (s : State) : Except State (State × List Byte) :=
  let pc := s.cur.pc
  if pc.toNat % 4 ≠ 0 then .error (s.takeTrap (s.trapAt 4 0 pc))
  else
    match s.heldWord with
    | some h => .ok (s.dropHeld, leBytes 4 h.word.toNat)
    | none =>
      match translate s s.me pc .fetch with
      | (s', .error x) => .error ((s'.undo s).stopped x)
      | (s', .ok p) =>
        match s'.gate s'.me p pc 4 with
        | some x => .error ((s'.undo s).stopped x)
        | none =>
          if s'.poisoned p.loc 4 then .error ((s'.undo s).stopped (.poison (s'.poisonSector p.loc 4 * 64) pc))
          else .ok ((s'.noteRead s'.me p.loc 4).fetchAhead, s'.seen s'.me p 4)

/-- The instruction that four fetched bytes are; a word that is not one is illegal (R217). -/
def readInstr (bs : List Byte) : Instr :=
  match decodeBytes bs with
  | .ok (i, _) => i
  | .error _ => .illegalInstruction (BitVec.ofNat 32 (leNat bs))

/-! ### Which strand issues (R174) -/

/-- The strand may be chosen: it issues, or it tries again a stop that found no block or slot. -/
def Strand.runnable (t : Strand) : Bool :=
  match t.run with
  | .ready => true
  | .trapStalled _ => true
  | _ => false

/-- The strand's distance in slot order after the slot of its core that issued last (R174). -/
def State.slotDistance (s : State) (t : Strand) : Nat := (t.slot.val + 31 - (s.core t.core).lastSlot.val) % 16

/-- The strand is the next of its core in slot order among the runnable ones (R174). -/
def State.nextOfCore (s : State) (l : List Strand) (t : Strand) : Bool :=
  l.all fun u => decide (u.core ≠ t.core) || decide (s.slotDistance t ≤ s.slotDistance u)

/-- The strands that may issue next, one for each core that has a runnable one. -/
def State.candidates (s : State) : List Strand :=
  let l := s.residents.filter Strand.runnable
  l.filter (s.nextOfCore l ·)

/-- The element of a list that a number picks, with its place; a list of one leaves no choice. -/
def pickAt {α : Type} (k : Nat) : List α → Option (α × Nat)
  | [] => none
  | [x] => some (x, 0)
  | l => (l[k % l.length]?).map fun x => (x, k % l.length)

/-- The list without the first strand of a core and slot. -/
def dropSlot (c : CoreId) (k : Fin 16) : List Strand → List Strand
  | [] => []
  | t :: r => if t.core = c ∧ t.slot = k then r else t :: dropSlot c k r

/-- The state in which a resident strand is the one that issues. -/
def State.choose (s : State) (t : Strand) : State :=
  if s.cur.core = t.core ∧ s.cur.slot = t.slot ∧ s.cur.run ≠ .absent then s
  else
    let rest := dropSlot t.core t.slot s.parked
    { s with cur := t, parked := if s.cur.run = .absent then rest else s.cur :: rest }

/-- The state with the issuing strand's slot noted as the one that issued last (R174). -/
def State.noteSlot (s : State) : State := s.modCore s.cur.core fun x => { x with lastSlot := s.cur.slot }

/-! ### Time (R334) -/

/-- A time after some more of it has passed; it never goes back (R334). -/
def later (t : Word) (n : Nat) : Word := BitVec.ofNat 64 (min (t.toNat + n) (2 ^ 64 - 1))

/-- The state after a step has taken its time: TIME and the issuing core's CYCLE advance by amounts the spec does not
state, a store may become visible to more strands, and the next agent is chosen (R106; assumption log 1, 6). -/
def State.pass (s : State) : State :=
  let s := s.drain
  { (s.modCore s.cur.core fun x => { x with cycle := later x.cycle (Config.freeCycles s.tick) }) with
    time := later s.time (Config.freeNanos s.tick)
    turn := Config.freeTurn s.tick
    tick := s.tick + 1 }

/-- The state with the event at a place of the agenda taken out. -/
def State.takeAgenda (s : State) (k : Nat) : State := { s with agenda := s.agenda.eraseIdx k }

/-- The state with a word's four bytes at physical address 0 and the firmware strand of core 0 about to fetch there
through the boot map (assumption log 2). -/
def State.placeWord (s : State) (bytes : List Byte) : State :=
  { s with
    cur := { s.cur with run := .ready, pc := 0, held := [] }
    due := []
    agenda := []
    adds := []
    copies := s.copies.filter fun c => !decide (c.line = 0)
    order := s.order.expose 0 bytes.length
    mem := s.mem.writeBytes 0 bytes }

end Sys2Proof.Machine
end

