-- ==== Sys2Proof/Machine/Leaf.lean ====
section
/-!
DEFINITION. Leaf-page instructions, major 0x32, and what becomes of leaf pages: discard, move, conversion, loss and
shrink (spec/03_leaf_pages.md R58 to R82, spec/13_memory_isa.md R266, R267).
-/
namespace Sys2Proof.Machine

/-! ### Leaving (R71, R75) -/

/-- The state with a leaf page's lines dropped at its home and everywhere else, and its function's count reduced; the
page takes a state (R71, R75). -/
def State.dropPage (s : State) (d : DieId) (lpn : Nat) (st : LpnState) : State :=
  let e := s.lpn d lpn
  let base := leafLoc d.val lpn 0
  let s := (s.zeroRange base 65536).forgetLines (base / 128) (base / 128 + 512)
  let s := s.modLpn d lpn fun x => { x with state := st, lines := [] }
  s.modDie d fun x =>
    let r := x.resv.get e.f.toFin
    { x with resv := x.resv.set e.f.toFin { r with resident := r.resident - e.lines.length } }

/-- The key is that of a write that caused the conversion of a page. -/
def ChainKey.causes (k : ChainKey) (d : DieId) (lpn : Nat) : Bool :=
  match k with
  | .causer x n _ => decide (x = d) && decide (n = lpn)
  | _ => false

/-- The state in which no one is held to have caused a conversion of a page. -/
def State.clearPage (s : State) (d : DieId) (lpn : Nat) : State :=
  { s with chains := s.chains.filter fun c => !c.1.causes d lpn }

/-- The state after the discard of a leaf page (R75). -/
def State.discardPage (s : State) (d : DieId) (lpn : Nat) : State := s.dropPage d lpn .empty

/-- The state after the loss of a leaf page (R71). -/
def State.losePage (s : State) (d : DieId) (lpn : Nat) : State := s.dropPage d lpn .lost

/-! ### The entries of a leaf page (R38, R58, R69) -/

/-- The addresses of the entries of a table that are not zero. -/
def State.tableEntries (s : State) (table : Nat) : List Nat :=
  (s.mem.slice table 4096).foldr (fun c l => if l.head? = some (c.1 / 8 * 8) then l else c.1 / 8 * 8 :: l) []

/-- An entry is a leaf entry that names a page (R58). -/
def namesPage (e : Nat) (d : DieId) (lpn : Nat) : Bool :=
  decide (bitsOf e 0 2 = 3) && decide (entryType e = .leaf) && decide (bitsOf e 24 2 = d.val) &&
    decide (bitsOf e 12 12 = lpn)

/-- The span groups below a table of a level that name a leaf page, by the address of their table line. -/
def groupsBelow (s : State) (d : DieId) (lpn : Nat) : Nat → Nat → List Nat
  | 0, table =>
    ((s.tableEntries table).filter fun a => decide (a % 128 = 0) && namesPage (s.mem64 a) d lpn)
  | lvl + 1, table =>
    (s.tableEntries table).flatMap fun a =>
      let e := s.mem64 a
      if bitsOf e 0 2 = 1 ∧ entryFrame e < hbmTop then groupsBelow s d lpn lvl (entryFrame e) else []

/-- The span groups of an ASID that name a leaf page, as the page's die finds them. The rules say 'the 16 entries', which leaves open
what becomes of other mappings of the page: every group of this ASID is rewritten, and none of another (DESIGN CHOICE, assumption
log 38). -/
def State.leafGroups (s : State) (a : Asid) (d : DieId) (lpn : Nat) : List Nat :=
  if (s.desc d a).live then groupsBelow s d lpn 3 (s.desc d a).root else []

/-- The state with the 16 entries of a span group rewritten, each by its place in the group. -/
def State.rewriteGroup (s : State) (line : Nat) (f : Nat → Nat → Nat) : State :=
  (List.range 16).foldl (fun s i => s.put64 (line + 8 * i) (f i (s.mem64 (line + 8 * i)))) s

/-- The state with every cached translation of a leaf page dropped device-wide (R36, R38). -/
def State.dropLeafTlb (s : State) (d : DieId) (lpn : Nat) : State :=
  { s with tlb := s.tlb.filter fun e => !namesPage e.entry.toNat d lpn }

/-- Entry i of a converted page: type normal, Spill 0, Cv 1, its part of the frame, and R, W, C, A, D and Span kept
(R69). -/
def convertedEntry (frame i e : Nat) : Nat := e % 4096 + (frame + i * 4096) + 2 ^ 58

/-- An entry of a moved page: die and LPN replaced (R38, R78). -/
def movedEntry (d : DieId) (lpn _ e : Nat) : Nat :=
  e - bitsOf e 12 14 * 4096 + (d.val * 4096 + lpn) * 4096

/-! ### Conversion (R69, R70) -/

/-- The state with the strands chained under a key pushed to try again (R69, R390). -/
def State.releaseChain (s : State) (k : ChainKey) : State :=
  match s.chains.find? fun c => decide (c.1 = k) with
  | none => s
  | some c =>
    c.2.foldl (fun s h => s.deliver h.handle) { s with chains := s.chains.filter fun x => !decide (x.1 = k) }

/-- The state after a page was given a frame: its lines copied, its entries rewritten and invalidated, the LPN Backed
(R69, steps 3 to 6). -/
def State.backPage (s : State) (d : DieId) (lpn : Nat) (a : Asid) (frame : Nat) : State :=
  let base := leafLoc d.val lpn 0
  let groups := s.leafGroups a d lpn
  let s := (s.copyRange base frame 65536).forgetLines (frame / 128) (frame / 128 + 512)
  let s := groups.foldl (fun s l => s.rewriteGroup l (convertedEntry frame)) s
  ((s.dropLeafTlb d lpn).dropPage d lpn .backed).modLpn d lpn fun x => { x with frame := frame, queue := [] }

/-- The state with the late-frame record of a conversion, for the ASID of the access or the page's last one; a dead
ASID leaves an error record (R69, step 7). -/
def State.lateFrameRecord (s : State) (d : DieId) (a : Asid) (frame : Nat) : State :=
  s.postEvent { s.blankFault d a 4 0 0 with info := BitVec.ofNat 64 frame }

/-- A frame of the late-frame pool of a page's function on its die. -/
def State.lateFrame (s : State) (d : DieId) (lpn : Nat) : Option Nat :=
  ((s.fn (s.lpn d lpn).f.toFin).frames.get d).head?

/-- The state after a page was converted with a frame of its pool, or was lost for want of one (R69, R70). -/
def State.convertOrLose (s : State) (d : DieId) (lpn : Nat) (a : Asid) : State :=
  match s.lateFrame d lpn with
  | none => s.losePage d lpn
  | some frame =>
    let f : FnId := (s.lpn d lpn).f.toFin
    let s := s.modFn f fun x => { x with frames := x.frames.set d ((x.frames.get d).drop 1) }
    ((s.clearPage d lpn).backPage d lpn a frame).lateFrameRecord d a frame

/-- The state after a page has left: converted with spill, else lost (R68). -/
def State.leavePage (s : State) (d : DieId) (n : Nat) : State :=
  if (s.lpn d n).spill then s.convertOrLose d n (s.lpn d n).lastAsid else s.losePage d n

/-- The chained strand whose write caused a page's conversion. Any other causer is told when it tries again (R70). -/
def State.causer (s : State) (d : DieId) (lpn : Nat) : Option Chained :=
  ((s.chains.find? fun c => decide (c.1 = .conversion d lpn)).map (·.2)).bind fun l => l.find? Chained.caused

/-- The state with a stopped strand's fault posted: cause and TVAL in its context block, a record of kind 0 (R70,
R337). -/
def State.stoppedFault (s : State) (d : DieId) (h : Handle) (cause sub : Nat) (tval : Word) : State :=
  let b := s.recCtx h.addr
  let s := (s.put64 (b + 0x420) (cause + sub * 256)).put64 (b + 0x428) tval.toNat
  (s.postFault { s.blankFault d h.asid 0 cause sub with
    epc := BitVec.ofNat 64 (s.recPc h.addr), tval := tval, record := h.addr, scope := s.recScope h.addr }).1

/-- The state after a page in Converting is lost for want of a frame: its chained strands try again, but for the one whose
write caused the conversion, which takes cause 0x0B subcode 2 once its queue has room; until then the conversion stays
pending (R70, R342). -/
def State.loseConverting (s : State) (d : DieId) (lpn : Nat) (h : Chained) (again : Instr) : State :=
  let lost := fun (s : State) => (s.losePage d lpn).releaseChain (.conversion d lpn)
  if !(s.desc d h.handle.asid).live then lost s
  else if s.queueReady d h.handle.asid then
    let s := (s.checkQueue d h.handle.asid).clearCauser (.strand h.handle.addr)
    let s := { s with chains := s.chains.map fun (c : ChainKey × List Chained) =>
      if c.1 = ChainKey.conversion d lpn then (c.1, c.2.filter fun x => !decide (x = h)) else c }
    ((s.losePage d lpn).stoppedFault d h.handle 0x0B 2 h.va).releaseChain (.conversion d lpn)
  else (s.checkQueue d h.handle.asid).addAgenda again

/-- `LEAF_CONVERSION`: a page in Converting is given a frame, or is lost with the empty pool; then its chained strands
try again (R69, R70). Nothing of a fenced die changes (R56, R57). -/
def execLeafConversion (d : DieId) (n : BitVec 12) (a : Asid) (byAccess : Bool) (s : State) :
    Host.Outcome State Fault Refusal :=
  let lpn := n.toNat
  if (s.lpn d lpn).state ≠ .converting ∨ (s.die d).fenced then .next s
  else if (s.lateFrame d lpn).isSome then .next ((s.convertOrLose d lpn a).releaseChain (.conversion d lpn))
  else
    match (if byAccess then s.causer d lpn else none) with
    | none => .next ((s.losePage d lpn).releaseChain (.conversion d lpn))
    | some h => .next (s.loseConverting d lpn h (.leafConversion d n a byAccess))

/-! ### Shrink (R72) -/

/-- A function holds more lines on a die than its reservation allows (R72). -/
def State.overReserved (s : State) (d : DieId) (f : FnId) : Bool :=
  let r := (s.die d).resv.get f
  decide (r.resident > r.reservation.toNat * 512)

/-- The pages of a function on a die with a Spill attribute that hold lines, in ascending LPN order (R72). -/
def State.pagesOf (s : State) (d : DieId) (f : FnId) (spill : Bool) : List Nat :=
  ((s.die d).lpns.filter fun e =>
    !e.2.lines.isEmpty && decide (e.2.f.toFin = f) && decide (e.2.spill = spill)).map Prod.fst

/-- How a pass of a shrink over pages ends: the function fits, an operation on a page comes first, a conversion has found the pool
empty, or every page has left (R72, R74). -/
inductive ShrinkEnd where
  | fits | waits | noFrame | through
  deriving DecidableEq, Repr

/-- The state after pages were made to leave in order until the function fits, a page must be waited for, or, in a first pass, a
conversion finds the pool empty, and which of them ended the pass (R70, R72, R74). -/
def State.shrinkPass (s : State) (d : DieId) (f : FnId) (first : Bool) : List Nat → State × ShrinkEnd
  | [] => (s, .through)
  | n :: r =>
    if !s.overReserved d f then (s, .fits)
    else if s.pageBusy d n (.shrink d f) then (s.waitAt d n (.shrink d f), .waits)
    else
      let t := (s.departAt d n (.shrink d f)).leavePage d n
      if first ∧ (s.lateFrame d n).isNone then (t, .noFrame) else State.shrinkPass t d f first r

/-- The state with a shrink noted as having turned to pages without spill, or no longer. -/
def State.setShrunk (s : State) (d : DieId) (f : FnId) (on : Bool) : State :=
  s.modDie d fun x => { x with shrunk := if on then setIns x.shrunk f.val else x.shrunk.filter (· != f.val) }

/-- The state after a shrink has come to its end. -/
def State.endShrink (s : State) (d : DieId) (f : FnId) : State := (s.setShrunk d f false).leaveQueues (.shrink d f)

/-- The state after steps 3 and 4 of a shrink, which waits for the page operations in its way (R72, R74). -/
def State.shrinkLate (s : State) (d : DieId) (f : FnId) : State :=
  match s.shrinkPass d f false (s.pagesOf d f false) with
  | (t, .waits) => (t.setShrunk d f true).offer (.leafShrink d f)
  | (t, .fits) => t.endShrink d f
  | (t, _) =>
    match t.shrinkPass d f false (t.pagesOf d f true) with
    | (u, .waits) => (u.setShrunk d f true).offer (.leafShrink d f)
    | (u, _) => u.endShrink d f

/-- The state after a shrink has gone as far as it can (R72). -/
def State.shrink (s : State) (d : DieId) (f : FnId) : State :=
  if (s.die d).shrunk.contains f.val then s.shrinkLate d f
  else
    match s.shrinkPass d f true (s.pagesOf d f true) with
    | (t, .waits) => t.offer (.leafShrink d f)
    | (t, .fits) => t.endShrink d f
    | (t, _) => t.shrinkLate d f

/-- `LEAF_SHRINK` (R72). Nothing of a fenced die changes (R56, R57). -/
def execLeafShrink (d : DieId) (f : FnId) (s : State) : Host.Outcome State Fault Refusal :=
  .next (if (s.die d).fenced then s else s.shrink d f)

/-! ### Move (R77, R78) -/

/-- The state with lines of a move delivered to their target in order, each in a way of its set; none if a set is full (R64,
R78, step 2). -/
def State.deliverLines (s : State) (d : DieId) (lpn : Nat) : List Nat → Option State
  | [] => some s
  | l :: r =>
    match s.leafWay d lpn l with
    | none => none
    | some w =>
      State.deliverLines ((s.clearWay d lpn l w).modLpn d lpn fun e => { e with lines := mapSet e.lines l w }) d lpn r

/-- The state with an operation's outcome for the strand that issued it (R267, R78). -/
def State.leafOutcome (s : State) (d : DieId) (issuer outcome : Nat) : State :=
  s.modDie d fun x => { x with leafDone := x.leafDone ++ [{ issuer := issuer, outcome := outcome }] }

/-- The state with a function's count of lines on a die changed. -/
def State.addResident (s : State) (d : DieId) (f : FnId) (g : Nat → Nat) : State :=
  s.modDie d fun x =>
    { x with resv := x.resv.set f { x.resv.get f with resident := g (x.resv.get f).resident } }

/-- A page with no line is Empty, one with lines Resident (R62). -/
def settledState (lines : List (Nat × Nat)) : LpnState := if lines.isEmpty then .empty else .resident

/-- An agent that waits at a page goes on at the page's new place: not a shrink or a power change, which are of the die. -/
def Agent.follows : Agent → Bool
  | .shrink _ _ => false
  | .power _ => false
  | _ => true

/-- The state after a move that has delivered its lines; those who wait at the page go on at the target, in their order (R78,
steps 3 to 5). Last ASID and Spill of the target's page register, which the rules change at an allocation only, come from
the source's (DESIGN CHOICE, assumption log 36). -/
def State.finishMove (s : State) (d : DieId) (lpn : Nat) (m : LeafMove) : State :=
  let e := s.lpn d lpn
  let groups := s.leafGroups m.asid d lpn
  let from_ := leafLoc d.val lpn 0
  let to_ := leafLoc m.dstDie.val m.dstLpn 0
  let s := s.copyRange from_ to_ 65536
  let s := groups.foldl (fun s l => s.rewriteGroup l (movedEntry m.dstDie m.dstLpn)) s
  let s := (s.dropLeafTlb d lpn).dropPage d lpn .empty
  let s := if d = m.dstDie then s.addResident d e.f.toFin (· + e.lines.length) else s
  let s := s.modLpn m.dstDie m.dstLpn fun x =>
    { x with state := settledState x.lines, lastAsid := e.lastAsid, spill := e.spill, queue := e.queue.filter Agent.follows }
  let s := s.modLpn d lpn fun x => { x with queue := [] }
  s.leafOutcome d m.issuer 0

/-- The state after a move that found a set full: the page stays at its source (R78). -/
def State.failMove (s : State) (d : DieId) (lpn : Nat) (m : LeafMove) : State :=
  let e := s.lpn d lpn
  let s := if d = m.dstDie then s else s.addResident m.dstDie e.f.toFin (· - e.lines.length)
  let s := s.modLpn m.dstDie m.dstLpn fun x => { x with state := .empty, lines := [] }
  (s.modLpn d lpn fun x => { x with state := settledState x.lines }).leafOutcome d m.issuer 4

/-- `LEAF_MOVE_DONE` (R78). -/
def execLeafMoveDone (d : DieId) (n : BitVec 12) (s : State) : Host.Outcome State Fault Refusal :=
  let lpn := n.toNat
  match (s.die d).moves.find? fun m => decide (m.lpn = lpn) with
  | none => .next s
  | some m =>
    let s := s.modDie d fun x => { x with moves := x.moves.filter fun y => !decide (y.lpn = lpn) }
    match s.deliverLines m.dstDie m.dstLpn ((s.lpn d lpn).lines.map Prod.fst) with
    | none => .next (s.failMove d lpn m)
    | some s' => .next (s'.finishMove d lpn m)

/-! ### The instructions (R266, R267) -/

/-- The base of the 64 KiB page that holds an address. -/
def leafPage (va : Word) : Word := BitVec.ofNat 64 (va.toNat / 65536 * 65536)

/-- What an operation does with the whole leaf page that a register names: capability over the page with store
permission, leaf type, W, a home that is not fenced, and no other operation in progress or waiting before it (R74, R75, R77). The access is
one of 64 KiB at the page's base, which is its address for TVAL (R23; assumption log 22). -/
def State.withLeafPage (s : State) (c : CapReg) (f : State → DieId → Nat → Res) : Res :=
  let page := leafPage c.lo
  match capFault c page.toNat 65536 [.store] with
  | some sub => .fault s 2 sub page
  | none =>
    match translate s s.me page .leafOp with
    | (s', .error x) => .stop s' x
    | (s', .ok p) =>
      let k := leafParts p.loc
      let d := dieOfNat k.1
      if s'.fencedAt p.loc then .fault s' 8 0 page
      else
        let who := Agent.strand s.cur.handle.addr
        let e := s'.lpn d k.2.1
        if e.state = .backed then .fault s' 3 5 page
        else if e.state = .converting ∨ e.holds who then .stall (s'.arriveAt d k.2.1 who)
        else f (s'.departAt d k.2.1 who) d k.2.1

/-- The state with a strand's outcome collected. -/
def State.takeLeafResult (s : State) (d : DieId) (who : Nat) : State :=
  s.modDie d fun x => { x with leafDone := x.leafDone.filter fun r => !decide (r.issuer = who) }

/-- The subcode of cause 0x0B that a move to a target word takes, if any (R77). -/
def State.moveRefused (s : State) (d : DieId) (lpn : Nat) (target : Word) : Option Nat :=
  let td := dieOfNat (bitsOf target.toNat 12 2)
  let t := s.lpn td (target.toNat % 4096)
  let e := s.lpn d lpn
  let r := (s.die td).resv.get e.f.toFin
  if (s.die td).fenced ∨ !t.v ∨ t.f ≠ e.f ∨ t.state ≠ .empty then some 4
  else if td ≠ d ∧ (r.reservation.toNat * 512 : Int) - r.resident < e.lines.length then some 0
  else none

/-- The state after a move has begun: both LPNs Moving, the lines counted on another target die (R78, step 1). -/
def State.startMove (s : State) (d : DieId) (lpn : Nat) (td : DieId) (tl : Nat) (va : Word) : State :=
  let e := s.lpn d lpn
  let s := if td = d then s else s.addResident td e.f.toFin (· + e.lines.length)
  let s := (s.modLpn d lpn fun x => { x with state := .moving }).modLpn td tl fun x => { x with state := .moving }
  (s.modDie d fun x =>
    { x with
      moves := x.moves ++
        [{ lpn := lpn, dstDie := td, dstLpn := tl, asid := s.cur.asid, va := va.toNat, issuer := s.cur.handle.addr }]
    }).addAgenda (.leafMoveDone d (BitVec.ofNat 12 lpn))

/-- What a page operation comes to. One that would fault while a kill is pending for its strand ends without a trap instead: the kill acts
at this boundary, and no record is posted (R267, R339). -/
def Res.spared (r : Res) (s : State) : Res :=
  if !s.cur.killed ∨ s.priv then r
  else
    let gone := Res.stall (s.leaveQueues (.strand s.cur.handle.addr))
    match r with
    | .fault _ _ _ _ => gone
    | .trap _ _ => gone
    | .stop t .wait => .stop t .wait
    | .stop t (.chain k v) => .stop t (.chain k v)
    | .stop _ _ => gone
    | x => x

/-- `lf.discard` (R75, R76, R266). -/
def execLfDiscard (g : Gap) (a : CIdx) (s : State) : Host.Outcome State Fault Refusal :=
  (plain (.lfDiscard g a) g [.c a] [] none).run s fun s =>
    if s.storeQueued then .stall s
    else (s.withLeafPage (s.cur.creg a) fun s d lpn => .done (s.discardPage d lpn)).spared s

/-- A move that the strand issued is in progress. -/
def State.moveRuns (s : State) (who : Nat) : Bool := s.dies.toList.any fun d => d.moves.any fun m => decide (m.issuer = who)

/-- `lf.move`: it stalls until the move is done (R77, R78, R266, R267). A page that is Lost gives subcode 1 whatever the target
is; R74 and R77 state no order (DESIGN CHOICE, assumption log 36). -/
def execLfMove (g : Gap) (a b : CIdx) (s : State) : Host.Outcome State Fault Refusal :=
  (plain (.lfMove g a b) g [.c a, .c b] [] none).run s fun s =>
    let who := s.cur.handle.addr
    match s.leafResult who with
    | some (d, 0) => .done (s.takeLeafResult d who)
    | some (d, n + 1) => .fault (s.takeLeafResult d who) 0x0B n (leafPage (s.x a))
    | none =>
      if s.moveRuns who ∨ s.storeQueued then .stall s
      else
        (s.withLeafPage (s.cur.creg a) fun s d lpn =>
          let t := s.x b
          let td := dieOfNat (bitsOf t.toNat 12 2)
          if (s.lpn d lpn).state = .lost then .fault s 0x0B 1 (leafPage (s.x a))
          else if t.toNat ≥ 2 ^ 14 then .fault s 0x0B 4 (leafPage (s.x a))
          else if td = d ∧ t.toNat % 4096 = lpn then .done s
          else
            match s.moveRefused d lpn t with
            | some sub => .fault s 0x0B sub (leafPage (s.x a))
            | none => .stall (s.startMove d lpn td (t.toNat % 4096) (leafPage (s.x a)))).spared s

/-- The status word of a place (R79). -/
def State.leafStatus (s : State) (p : Place) : Word :=
  if p.ptype ≠ .leaf then 7
  else
    let k := leafParts p.loc
    let e := s.lpn (dieOfNat k.1) k.2.1
    BitVec.ofNat 64 (k.2.1 * 65536 + k.1 * 16384 + e.lines.length * 16 + flagBit p.spill 3 + e.state.code)

/-- `lf.stat`: it never stalls, and takes no fault for a page of another type or the cluster-memory window (R79). -/
def execLfStat (g : Gap) (a d : CIdx) (s : State) : Host.Outcome State Fault Refusal :=
  (plain (.lfStat g a d) g [.c a] [.c d] none).run s fun s =>
    let c := s.cur.creg a
    match capFault c c.lo.toNat 1 [.load] with
    | some sub => .fault s 2 sub c.lo
    | none =>
      if s.cur.asid ≠ 0 ∧ windowBase ≤ c.lo.toNat ∧ c.lo.toNat < 2 ^ 48 then .done (s.setX d 7)
      else
        match translate s s.me c.lo .stat with
        | (s', .error x) => .stop s' x
        | (s', .ok p) =>
          if p.ptype = .leaf ∧ s'.fencedAt p.loc then .fault s' 8 0 c.lo else .done (s'.setX d (s'.leafStatus p))

end Sys2Proof.Machine
end

