-- ==== Sys2Proof/Machine/Memops.lean ====
section
/-!
DEFINITION. Plain loads and stores, acquire loads and release stores, majors 0x20, 0x21, 0x24 and 0x25
(spec/13_memory_isa.md R244 to R249, spec/01_addresses.md R23 to R28).
-/
namespace Sys2Proof.Machine

/-! ### One load and one store -/

/-- A granule as `ld.c` writes it: the tag stays with load-capability permission, C = 1 and a well-formed value
(R20, R28). -/
def granule (c : CapReg) (p : Place) (tag : Bool) (bs : List Byte) : CapReg :=
  CapReg.settle { tag := tag && hasPerm c.bits .loadCap && p.tags, bits := BitVec.ofNat 128 (leNat bs) }

/-- A load of n bytes at an address through a capability, into a scalar register, an acquire at a scope if one is given
(R109, R247, R248). -/
def State.memLoad (s : State) (c : CapReg) (va : Word) (n : Nat) (sext : Bool) (d : CIdx) (scope : Option (BitVec 3)) :
    Res :=
  if s.storeQueued then .stall s
  else
    match s.capAccess s.me c va n n [.load] .load with
    | (s', .error x) => .stop s' x
    | (s', .ok p) =>
      if p.ptype = .io then s'.ioOwned p va (s'.ioLoad p va n sext d)
      else
        match s'.readPlace s'.me p va n with
        | (s'', .error x) => .stop s'' x
        | (s'', .ok bs) =>
          let v := if n = 16 then granule c p (s'.seenTag s'.me p) bs else loadValue bs sext
          .done ((match scope with
            | some k => s''.acquire k.toNat p.loc n
            | none => s'').setC d v)

/-- The state with a queue capability written (R384). -/
def State.setQueueCap (s : State) (f : FnId) (q : Fin 4) (c : CapReg) : State :=
  s.modFn f fun x => { x with queues := x.queues.set q { x.queues.get q with cap := c } }

/-- The store of n bytes at a place that has passed its checks (R27, R28, R247). -/
def State.storeAt (s : State) (p : Place) (va : Word) (n : Nat) (v : CapReg) : Res :=
  if p.ptype = .io then
    s.ioOwned p va (match (if n = 16 then queueCapAt p.loc else none) with
      | some (f, q) => if s.fencedAt p.loc then .fault s 8 0 va else .done (s.setQueueCap f q v)
      | none => s.ioStore p va (leBytes n v.bits.toNat))
  else
    match (if n = 16 then s.writeCap s.me p va v else s.writePlace s.me p va (leBytes n v.bits.toNat)) with
    | (s', some x) => .stop s' x
    | (s', none) => .done s'

/-- What a result does to bytes that then carry a release of the issuing strand (R110). -/
def Res.releasing (r : Res) (scope loc n : Nat) : Res :=
  match r with
  | .done s => .done (s.releaseWord scope loc n)
  | x => x

/-- The store of n bytes once its checks have given a place: a release first waits at its scope, and a word of memory then
carries it (R108, R110, R120). -/
def State.storeWhenReady (s b : State) (p : Place) (va : Word) (n : Nat) (v : CapReg) (scope : Option (BitVec 3)) : Res :=
  match scope with
  | none => s.storeAt p va n v
  | some sc => s.released b sc.toNat fun s =>
      if p.ptype = .io then s.storeAt p va n v else (s.storeAt p va n v).releasing sc.toNat p.loc n

/-- The permissions that a store needs (R28). -/
def storePerms (tagged : Bool) : List Perm := if tagged then [.store, .storeCap] else [.store]

/-- A tagged value may be stored at a place: without the global permission, only in cluster memory (R25). -/
def mayHold (v : CapReg) (p : Place) : Bool := hasPerm v.bits .global || p.cmem

/-- A store of n bytes at an address through a capability, a release at a scope if one is given (R247, R249). The rule
of R25 stands before the C check of R28; the queue capability of R384 takes a tagged value although IO pages have
C = 0 (assumption log 17). -/
def State.memStore (s : State) (c : CapReg) (va : Word) (n : Nat) (v : CapReg) (scope : Option (BitVec 3)) : Res :=
  let tagged := decide (n = 16) && v.tag
  if s.storeQueued then .stall s
  else
    match s.capAccess s.me c va n n (storePerms tagged) .store with
    | (s', .error x) => .stop s' x
    | (s', .ok p) =>
      if !tagged ∨ (queueCapAt p.loc).isSome then
        (if tagged ∧ !mayHold v p then .fault s 2 2 va else s'.storeWhenReady s p va n v scope)
      else if !mayHold v p then .fault s 2 2 va
      else
        match s.capAccess s.me c va n n (storePerms tagged) .tagStore with
        | (s', .error x) => .stop s' x
        | (s', .ok p) => s'.storeWhenReady s p va n v scope

/-! ### Shapes -/

/-- The effective address of a plain access (R247). -/
def effective (c : CapReg) (p : BitVec 9) (n : Nat) : Word := c.lo + p.signExtend 64 * BitVec.ofNat 64 n

/-- A plain load (R247). -/
def load (i : Instr) (g : Gap) (r c : CIdx) (p : BitVec 9) (n : Nat) (sext : Bool) (s : State) :
    Host.Outcome State Fault Refusal :=
  (plain i g [.c c] [.c r] none).run s fun s =>
    s.memLoad (s.cur.creg c) (effective (s.cur.creg c) p n) n sext r none

/-- A plain store (R247). -/
def store (i : Instr) (g : Gap) (r c : CIdx) (p : BitVec 9) (n : Nat) (s : State) : Host.Outcome State Fault Refusal :=
  (plain i g [.c r, .c c] [] none).run s fun s =>
    s.memStore (s.cur.creg c) (effective (s.cur.creg c) p n) n (s.cur.creg r) none

/-- An acquire load; loads are performed in program order, so it orders nothing more than what it carries (R109, R110,
R248). -/
def loadAcq (i : Instr) (g : Gap) (d a : CIdx) (n : Nat) (sext : Bool) (scope : BitVec 3) (s : State) :
    Host.Outcome State Fault Refusal :=
  (plain i g [.c a] [.c d] none).run s fun s => s.memLoad (s.cur.creg a) (s.x a) n sext d (some scope)

/-- A release store (R108, R249). -/
def storeRel (i : Instr) (g : Gap) (d a : CIdx) (n : Nat) (scope : BitVec 3) (s : State) :
    Host.Outcome State Fault Refusal :=
  (plain i g [.c d, .c a] [] none).run s fun s => s.memStore (s.cur.creg a) (s.x a) n (s.cur.creg d) (some scope)

/-! ### Plain loads (R247) -/

/-- `ld.b` (R247). -/
def execLdB (g : Gap) (r c : CIdx) (p : BitVec 9) (s : State) : Host.Outcome State Fault Refusal :=
  load (.ldB g r c p) g r c p 1 true s

/-- `ld.bu` (R247). -/
def execLdBu (g : Gap) (r c : CIdx) (p : BitVec 9) (s : State) : Host.Outcome State Fault Refusal :=
  load (.ldBu g r c p) g r c p 1 false s

/-- `ld.h` (R247). -/
def execLdH (g : Gap) (r c : CIdx) (p : BitVec 9) (s : State) : Host.Outcome State Fault Refusal :=
  load (.ldH g r c p) g r c p 2 true s

/-- `ld.hu` (R247). -/
def execLdHu (g : Gap) (r c : CIdx) (p : BitVec 9) (s : State) : Host.Outcome State Fault Refusal :=
  load (.ldHu g r c p) g r c p 2 false s

/-- `ld.w` (R247). -/
def execLdW (g : Gap) (r c : CIdx) (p : BitVec 9) (s : State) : Host.Outcome State Fault Refusal :=
  load (.ldW g r c p) g r c p 4 true s

/-- `ld.wu` (R247). -/
def execLdWu (g : Gap) (r c : CIdx) (p : BitVec 9) (s : State) : Host.Outcome State Fault Refusal :=
  load (.ldWu g r c p) g r c p 4 false s

/-- `ld.d` (R247). -/
def execLdD (g : Gap) (r c : CIdx) (p : BitVec 9) (s : State) : Host.Outcome State Fault Refusal :=
  load (.ldD g r c p) g r c p 8 false s

/-- `ld.c` (R247). -/
def execLdC (g : Gap) (r c : CIdx) (p : BitVec 9) (s : State) : Host.Outcome State Fault Refusal :=
  load (.ldC g r c p) g r c p 16 false s

/-! ### Plain stores (R247) -/

/-- `st.b` (R247). -/
def execStB (g : Gap) (r c : CIdx) (p : BitVec 9) (s : State) : Host.Outcome State Fault Refusal :=
  store (.stB g r c p) g r c p 1 s

/-- `st.h` (R247). -/
def execStH (g : Gap) (r c : CIdx) (p : BitVec 9) (s : State) : Host.Outcome State Fault Refusal :=
  store (.stH g r c p) g r c p 2 s

/-- `st.w` (R247). -/
def execStW (g : Gap) (r c : CIdx) (p : BitVec 9) (s : State) : Host.Outcome State Fault Refusal :=
  store (.stW g r c p) g r c p 4 s

/-- `st.d` (R247). -/
def execStD (g : Gap) (r c : CIdx) (p : BitVec 9) (s : State) : Host.Outcome State Fault Refusal :=
  store (.stD g r c p) g r c p 8 s

/-- `st.c` (R247). -/
def execStC (g : Gap) (r c : CIdx) (p : BitVec 9) (s : State) : Host.Outcome State Fault Refusal :=
  store (.stC g r c p) g r c p 16 s

/-! ### Acquire loads (R248) -/

/-- `ld.b.acq` (R248). -/
def execLdBAcq (g : Gap) (d a : CIdx) (k : BitVec 3) (s : State) : Host.Outcome State Fault Refusal :=
  loadAcq (.ldBAcq g d a k) g d a 1 true k s

/-- `ld.bu.acq` (R248). -/
def execLdBuAcq (g : Gap) (d a : CIdx) (k : BitVec 3) (s : State) : Host.Outcome State Fault Refusal :=
  loadAcq (.ldBuAcq g d a k) g d a 1 false k s

/-- `ld.h.acq` (R248). -/
def execLdHAcq (g : Gap) (d a : CIdx) (k : BitVec 3) (s : State) : Host.Outcome State Fault Refusal :=
  loadAcq (.ldHAcq g d a k) g d a 2 true k s

/-- `ld.hu.acq` (R248). -/
def execLdHuAcq (g : Gap) (d a : CIdx) (k : BitVec 3) (s : State) : Host.Outcome State Fault Refusal :=
  loadAcq (.ldHuAcq g d a k) g d a 2 false k s

/-- `ld.w.acq` (R248). -/
def execLdWAcq (g : Gap) (d a : CIdx) (k : BitVec 3) (s : State) : Host.Outcome State Fault Refusal :=
  loadAcq (.ldWAcq g d a k) g d a 4 true k s

/-- `ld.wu.acq` (R248). -/
def execLdWuAcq (g : Gap) (d a : CIdx) (k : BitVec 3) (s : State) : Host.Outcome State Fault Refusal :=
  loadAcq (.ldWuAcq g d a k) g d a 4 false k s

/-- `ld.d.acq` (R248). -/
def execLdDAcq (g : Gap) (d a : CIdx) (k : BitVec 3) (s : State) : Host.Outcome State Fault Refusal :=
  loadAcq (.ldDAcq g d a k) g d a 8 false k s

/-- `ld.c.acq` (R248). -/
def execLdCAcq (g : Gap) (d a : CIdx) (k : BitVec 3) (s : State) : Host.Outcome State Fault Refusal :=
  loadAcq (.ldCAcq g d a k) g d a 16 false k s

/-! ### Release stores (R249) -/

/-- `st.b.rel` (R249). -/
def execStBRel (g : Gap) (d a : CIdx) (k : BitVec 3) (s : State) : Host.Outcome State Fault Refusal :=
  storeRel (.stBRel g d a k) g d a 1 k s

/-- `st.h.rel` (R249). -/
def execStHRel (g : Gap) (d a : CIdx) (k : BitVec 3) (s : State) : Host.Outcome State Fault Refusal :=
  storeRel (.stHRel g d a k) g d a 2 k s

/-- `st.w.rel` (R249). -/
def execStWRel (g : Gap) (d a : CIdx) (k : BitVec 3) (s : State) : Host.Outcome State Fault Refusal :=
  storeRel (.stWRel g d a k) g d a 4 k s

/-- `st.d.rel` (R249). -/
def execStDRel (g : Gap) (d a : CIdx) (k : BitVec 3) (s : State) : Host.Outcome State Fault Refusal :=
  storeRel (.stDRel g d a k) g d a 8 k s

/-- `st.c.rel` (R249). -/
def execStCRel (g : Gap) (d a : CIdx) (k : BitVec 3) (s : State) : Host.Outcome State Fault Refusal :=
  storeRel (.stCRel g d a k) g d a 16 k s

end Sys2Proof.Machine
end

