-- ==== Sys2Proof/Machine/Counters.lean ====
section
/-!
DEFINITION. Counter instructions, major 0x30 (spec/13_memory_isa.md R253 to R257, spec/04_counters.md R83 to R95).
-/
namespace Sys2Proof.Machine

/-! ### Reaching a counter -/

/-- The place of a counter that an instruction names: capability, alignment, translation, then fenced homes and poison
(R253, steps 3 to 6). -/
def State.ctrPlace (s : State) (c : CapReg) (va : Word) (k : Kind) : State × Except Stop Place :=
  match s.capAccess s.me c va 8 8 [.counter] k with
  | (s', .error x) => (s', .error x)
  | (s', .ok p) =>
    match s'.gate s'.me p va 8 with
    | some x => (s', .error x)
    | none => if s'.poisoned p.loc 8 then (s', .error (.poison p.loc va)) else (s'.performAt p.loc 8, .ok p)

/-- The value of a counter at its home. -/
def State.ctrValue (s : State) (p : Place) : Word := BitVec.ofNat 64 (s.mem64 p.loc)

/-- A counter operation that reads: its checks, then what it does at the counter's place (R253, R87). -/
def State.ctrReads (s : State) (c : CapReg) (f : State → Place → Res) : Res :=
  if s.storeQueued then .stall s
  else
    match s.ctrPlace c c.lo .ctrRead with
    | (s', .error x) => .stop s' x
    | (s', .ok p) => f s' p

/-- A counter operation that writes: its checks, the privilege that `ctr.init` needs, the release at its scope, then
what it does at the counter's place, which by then carries the release, for it may wake those who acquire it (R90, R93,
R110, R253). -/
def State.ctrWrites (s : State) (c : CapReg) (scope : BitVec 3) (priv : Bool) (f : State → Place → Res) : Res :=
  if s.storeQueued then .stall s
  else
    match s.ctrPlace c c.lo .ctrWrite with
    | (s', .error x) => .stop s' x
    | (s', .ok p) =>
      if priv ∧ !s'.priv then .fault s' 0x0E 0 0
      else s'.released s scope.toNat fun s'' => f (s''.releaseWord scope.toNat p.loc 8) p

/-- The registers that a met wait writes: d and c5 (R255). -/
def State.setWaited (s : State) (d : CIdx) (v : Word) : State := (s.setX d v).setX 5 v

/-! ### The instructions -/

/-- `ctr.add` (R87, R88, R254). -/
def execCtrAdd (g : Gap) (a b d : CIdx) (k : BitVec 3) (s : State) : Host.Outcome State Fault Refusal :=
  (plain (.ctrAdd g a b d k) g [.c a, .c b] [.c d] none).run s fun s =>
    s.ctrWrites (s.cur.creg a) k false fun t p =>
      .done ((t.counterAdd t.cur.asid p.loc (s.x a) (s.x b)).2.setX d (t.ctrValue p))

/-- `ctr.max` (R87, R254). -/
def execCtrMax (g : Gap) (a b d : CIdx) (k : BitVec 3) (s : State) : Host.Outcome State Fault Refusal :=
  (plain (.ctrMax g a b d k) g [.c a, .c b] [.c d] none).run s fun s =>
    s.ctrWrites (s.cur.creg a) k false fun t p =>
      .done ((t.counterSet p.loc (max (t.mem64 p.loc) (s.x b).toNat)).setX d (t.ctrValue p))

/-- `ctr.wait`: met, or a suspension with a waiter at the home (R91, R92, R255). -/
def execCtrWait (g : Gap) (a b d : CIdx) (k : BitVec 3) (s : State) : Host.Outcome State Fault Refusal :=
  Form.run { plain (.ctrWait g a b d k) g [.c a, .c b] [.c d, .c 5] none with point := true } s fun s =>
    s.ctrReads (s.cur.creg a) fun t p =>
      if (s.x b).toNat ≤ t.mem64 p.loc then .done ((t.acquire k.toNat p.loc 8).setWaited d (t.ctrValue p))
      else .away (t.suspendWait p.loc (s.x a) (s.x b))

/-- `ctr.test` (R256). -/
def execCtrTest (g : Gap) (a b d : CIdx) (k : BitVec 3) (s : State) : Host.Outcome State Fault Refusal :=
  (plain (.ctrTest g a b d k) g [.c a, .c b] [.c d] none).run s fun s =>
    s.ctrReads (s.cur.creg a) fun t p =>
      if (s.x b).toNat ≤ t.mem64 p.loc then .done ((t.acquire k.toNat p.loc 8).setX d 1)
      else .done ((t.noteRead t.me p.loc 8).setX d 0)

/-- `ctr.read` (R256). -/
def execCtrRead (g : Gap) (a d : CIdx) (s : State) : Host.Outcome State Fault Refusal :=
  (plain (.ctrRead g a d) g [.c a] [.c d] none).run s fun s =>
    s.ctrReads (s.cur.creg a) fun t p => .done ((t.noteRead t.me p.loc 8).setX d (t.ctrValue p))

/-- `ctr.init`: privileged, and refused while the counter has waiters (R89, R257). -/
def execCtrInit (g : Gap) (a b d : CIdx) (k : BitVec 3) (s : State) : Host.Outcome State Fault Refusal :=
  (plain (.ctrInit g a b d k) g [.c a, .c b] [.c d] none).run s fun s =>
    s.ctrWrites (s.cur.creg a) k true fun t p =>
      if t.hasWaiters p.loc then .fault t 0x0F 0 (s.x a)
      else .done ((t.put64 p.loc (s.x b).toNat).setX d (t.ctrValue p))

end Sys2Proof.Machine
end

