-- ==== Sys2Proof/Machine/ScopeInstr.lean ====
section
/-!
DEFINITION. Scope instructions, major 0x31 (spec/13_memory_isa.md R258 to R265, spec/08_scopes.md R146 to R163).
-/
namespace Sys2Proof.Machine

/-! ### Naming a scope (R146, R147, R258) -/

/-- The strand's own scope: SCOPE (R147, R332). -/
def State.ownScope (s : State) : BitVec 32 := s.cur.scope.setWidth 32

/-- The id that an operand names; 0 names SCOPE (R258). -/
def State.scopeId (s : State) (v : Word) : BitVec 32 := if v = 0 then s.ownScope else v.setWidth 32

/-- A cause 0x07 with a scope's id (R157, R336). -/
def misuse (s : State) (sub : Nat) (v : Word) : Res := .fault s 7 sub v

/-- What an instruction does with the scope that an operand names, with the record's address: without a usable table,
with a value above 32 bits, or with an id that is outside the table or free, cause 0x07 subcode 2; with a fenced home,
cause 0x08 (R146, R258). -/
def State.withScope (s : State) (v : Word) (f : State → Nat → ScopeRec → Res) : Res :=
  let id := s.scopeId v
  if (scopeTableOf s.cur.sctb).isNone ∨ v.toNat ≥ 2 ^ 32 then misuse s 2 (if v.toNat ≥ 2 ^ 32 then v else id.setWidth 64)
  else
    match s.scopeIn s.cur.sctb s.cur.asid id with
    | none => misuse s 2 (id.setWidth 64)
    | some (a, r) =>
      if s.fencedAt a then .fault s 8 0 (BitVec.ofNat 64 a)
      else if r.state = .free then misuse (s.checkState a s.cur.asid) 2 (id.setWidth 64)
      else f s a r

/-- The ancestor path of a scope in the table that SCTB names (R146, R158). -/
def State.tablePath (s : State) (id : BitVec 32) : List (Nat × ScopeRec) := pathFrom (s.scopeIn s.cur.sctb s.cur.asid) id 65

/-- The same for a scope that must be the strand's own or a descendant of it, by the table that SCTB names (R146, R152, R153, R158,
R332). -/
def State.withSubtree (s : State) (v : Word) (f : State → Nat → ScopeRec → Res) : Res :=
  s.withScope v fun s a r =>
    let p := s.tablePath r.id
    let s := s.checkAll s.cur.asid p
    if p.any fun e => decide (e.2.id = s.ownScope) then f s a r else misuse s 2 (r.id.setWidth 64)

/-- What an instruction on the strand's own state does, once its ASID has a usable table (R146, R258). -/
def State.withTable (s : State) (f : State → Res) : Res :=
  if (scopeTableOf s.cur.sctb).isNone then misuse s 2 (s.ownScope.setWidth 64) else f s

/-- A form of major 0x31. -/
def scopeForm (i : Instr) (g : Gap) (reads writes : List RegName) (point : Bool) : Form :=
  { plain i g reads writes none with point := point }

/-! ### Opening (R151, R152, R259) -/

/-- The fields of a scope descriptor are legal (R151, R152). -/
def descriptorOk (bs : List Byte) : Bool :=
  let q4 := qwordOf bs 4
  let attrs := bitsOf q4 48 16
  let lb := decide (bitsOf attrs 2 1 = 1)
  let len := bitsOf attrs 4 12
  decide (bitsOf q4 0 48 = 0) && decide (qwordOf bs 5 ≤ 4) && decide (qwordOf bs 2 % 4 = 0) &&
    decide (qwordOf bs 3 % 65536 = 0) && (if lb then decide (1 ≤ len) else decide (len = 0 ∧ qwordOf bs 3 = 0))

/-- The record that a descriptor gives a new scope (R152). -/
def descriptorScope (bs : List Byte) (asid : Asid) (id parent : BitVec 32) (depth : Nat) (ts : Bool) (opener : Nat) :
    ScopeRec :=
  { asid := asid, id := id, parent := parent, state := .opened, depth := depth
    attrs := BitVec.ofNat 16 (bitsOf (qwordOf bs 4) 48 16) ||| (if ts then 1 else 0)
    births := 0, deaths := 0, lost := 0, result := 0, cx := false, kl := false, sc := false, fl := false
    cscope := BitVec.ofNat 3 (qwordOf bs 5)
    caddr := BitVec.ofNat 64 (qwordOf bs 0)
    cvalue := BitVec.ofNat 64 (qwordOf bs 1)
    handler := BitVec.ofNat 64 (qwordOf bs 2)
    leafBase := BitVec.ofNat 64 (qwordOf bs 3)
    opener := opener, closeWait := false, swept := 0 }

/-- A refusal of `sco.open` (R152). -/
def openRefusal (n : Nat) : Word := BitVec.ofNat 64 (0xFFFFFFFF00000000 + n)

/-- The effect of an open whose checks have passed: a refusal value, or a record taken from the free list (R147, R150, R152,
steps 4 to 6). A list head that no table holds counts as an empty list (assumption log 19). -/
def State.openScope (s : State) (d : CIdx) (bs : List Byte) (parent : Option (Nat × ScopeRec)) : State :=
  match scopeTableOf s.cur.sctb with
  | none => s
  | some t =>
    let refused := (parent.map fun p => !p.2.acceptsAll).getD false
    let head := s.memN t.base 4
    if refused then s.setX d (openRefusal 3)
    else if (s.die (homeDie t.base)).scopes.length ≥ 8192 then s.setX d (openRefusal 2)
    else if head = 0 ∨ head ≥ 2 ^ t.n then s.setX d (openRefusal 1)
    else
      let a := t.base + head * 64
      let next := s.memN a 4
      let id := BitVec.ofNat 32 head
      let s := match parent with
        | some (pa, pr) => (s.checkState a s.cur.asid).addBirths pa pr 1
        | none => s.checkState a s.cur.asid
      let r := match parent with
        | some (_, pr) => descriptorScope bs s.cur.asid id pr.id (pr.depth + 1) pr.ts s.cur.handle.addr
        | none => descriptorScope bs s.cur.asid id noParent 0 false s.cur.handle.addr
      ((s.putN t.base 4 next).pinScope a r).setX d (id.setWidth 64)

/-- The open of a child of a parent, or of a root, after the parent check: the descriptor read and judged, then the
depth, then the effect (R152, R259). -/
def State.openUnder (s : State) (b d : CIdx) (v : Word) (parent : Option (Nat × ScopeRec)) : Res :=
  let c := s.cur.creg b
  if s.storeQueued then .stall s
  else
    match capFault c c.lo.toNat 48 [.load] with
    | some sub => .fault s 2 sub c.lo
    | none =>
      if c.lo.toNat % 16 ≠ 0 then .fault s 4 0 c.lo
      else
        match s.readPieces c.lo 3 with
        | (s', .error x) => .stop s' x
        | (s', .ok bs) =>
          if descriptorOk bs ∧ s'.completionHeld s'.me c (BitVec.ofNat 64 (qwordOf bs 0)) then .stall s'
          else if !(descriptorOk bs && s'.completionOk s'.me c (BitVec.ofNat 64 (qwordOf bs 0))) then misuse s' 7 v
          else if ((parent.map fun p => decide (p.2.depth ≥ 64)).getD false) then misuse s' 4 v
          else .done (s'.openScope d bs parent)

/-- The open of a root scope by a privileged strand; a table on a fenced die is not reached (R152, R166, R258). -/
def State.openRoot (s : State) (b d : CIdx) (v : Word) : Res :=
  match scopeTableOf s.cur.sctb with
  | none => misuse s 2 (s.ownScope.setWidth 64)
  | some t =>
    if !s.priv then .fault s 0x0E 0 0
    else if s.fencedAt t.base then .fault s 8 0 (BitVec.ofNat 64 t.base)
    else s.openUnder b d v none

/-- `sco.open` (R152, R259). -/
def execScoOpen (g : Gap) (a b d : CIdx) (s : State) : Host.Outcome State Fault Refusal :=
  (scopeForm (.scoOpen g a b d) g [.c a, .c b] [.c d] true).run s fun s =>
    if s.x a = 0xFFFFFFFF then s.openRoot b d (s.x a)
    else s.withSubtree (s.x a) fun s pa pr => s.openUnder b d (pr.id.setWidth 64) (some (pa, pr))

/-! ### What a close waits for (R74, R80, R81, R90) -/

/-- What a page of a leaf region is (R81). -/
inductive RegionPage where
  | untouched
  | leaf (die : DieId) (lpn : Nat)
  | converted (line frame : Nat)
  | skipped
  | held
  | faults (cause subcode : Nat)
  deriving DecidableEq, Repr

/-- A page of a leaf region of an ASID as a die finds it, by its virtual address (R81). The table has no row for a counter page
or an IO page: one is left untouched, without a record (DESIGN CHOICE, assumption log 35). Nor does it say what becomes of a converted
page whose frame is homed on a fenced die: it is skipped as a leaf page of one is (DESIGN CHOICE, assumption log 38). -/
def State.regionPage (s : State) (d : DieId) (a : Asid) (va : Nat) : RegionPage :=
  if va ≥ 2 ^ 48 then .faults 3 4
  else if a ≠ 0 ∧ va ≥ windowBase then .faults 3 6
  else if !(s.desc d a).live ∨ (s.desc d a).root ≥ hbmTop then .faults 3 3
  else
    match walkFrom s va 3 (s.desc d a).root with
    | .fault 0 => .untouched
    | .fault sub => .faults 3 sub
    | .poisoned _ => .faults 8 0
    | .fenced => .faults 8 0
    | .held => .held
    | .page e bits at_ =>
      let p := placeOf e bits va
      if !frameOk e p.loc a then .faults 3 3
      else
      match entryType e with
      | .leaf =>
        let k := leafParts p.loc
        if s.fencedAt p.loc then .skipped
        else if !s.leafOk p.loc a then .faults 3 3
        else if (s.lpn (dieOfNat k.1) k.2.1).state = .backed then .faults 3 5
        else .leaf (dieOfNat k.1) k.2.1
      | .normal =>
        if bitsOf e 58 1 = 0 then .untouched
        else if s.fencedAt p.loc then .skipped
        else .converted at_ (entryFrame e / 0x10000 * 0x10000)
      | _ => .untouched

/-- The pages of a record's leaf region, in ascending order (R80). -/
def ScopeRec.regionVas (r : ScopeRec) : List Nat :=
  if r.lb then (List.range r.pages).map fun k => r.leafBase.toNat + k * 65536 else []

/-! ### Cancelling and succeeding (R158, R161, R162, R261 to R263) -/

/-- `sco.cancel` (R158, R261). -/
def execScoCancel (g : Gap) (a : CIdx) (s : State) : Host.Outcome State Fault Refusal :=
  (scopeForm (.scoCancel g a) g [.c a] [] false).run s fun s =>
    s.withSubtree (s.x a) fun t at_ r =>
      t.released s 3 fun s => .done ((s.pinScope at_ r.cancel).broadcast s.cur.asid r.id)

/-- `sco.succeed` (R162, R262). -/
def execScoSucceed (g : Gap) (a d : CIdx) (s : State) : Host.Outcome State Fault Refusal :=
  (scopeForm (.scoSucceed g a d) g [.c a] [.c d] false).run s fun s =>
    s.withScope 0 fun t at_ r =>
      t.released s 3 fun s =>
        if r.sc ∨ r.cx then .done (s.setX d 0)
        else if s.cur.shield = 15 then misuse s 5 (r.id.setWidth 64)
        else
          let r' := { r.cancel with sc := true, result := (s.x a).setWidth 16 }
          .done ((((s.pinScope at_ r').broadcast s.cur.asid r.id).modCur fun t => t.setShield (t.shield + 1)).setX d 1)

/-- `sco.shield` (R161, R263). -/
def execScoShield (g : Gap) (s : State) : Host.Outcome State Fault Refusal :=
  (scopeForm (.scoShield g) g [] [] false).run s fun s =>
    s.withTable fun s =>
      if s.cur.shield = 15 then misuse s 5 (s.ownScope.setWidth 64)
      else .done (s.modCur fun t => t.setShield (t.shield + 1))

/-- `sco.unshield`: reaching depth 0, it is followed by a cancellation point (R161, R263). A retirement there waits
until the strand's accesses are performed at `dev` (R115). -/
def execScoUnshield (g : Gap) (s : State) : Host.Outcome State Fault Refusal :=
  let f := scopeForm (.scoUnshield g) g [] [] false
  f.run s fun s =>
    s.withTable fun s =>
      if s.cur.shield = 0 then misuse s 6 (s.ownScope.setWidth 64)
      else
        let s' := s.modCur fun t => t.setShield (t.shield - 1)
        if s'.cancelDue then
          (if s.quiet.canAct then .away ((f.finish s.cur s' (s.cur.pc + 4)).actOnCancel (s.cur.pc + 4)) else .stall s.quiet)
        else .done (if s'.cur.shield = 0 then s'.endDropped else s')

/-- `sco.poll` (R160, R263). -/
def execScoPoll (g : Gap) (d : CIdx) (s : State) : Host.Outcome State Fault Refusal :=
  (scopeForm (.scoPoll g d) g [] [.c d] true).run s fun s =>
    s.withTable fun s => .done (s.setX d (if s.cur.cancelled then 1 else 0))

/-- `sco.id` (R263). -/
def execScoId (g : Gap) (d : CIdx) (s : State) : Host.Outcome State Fault Refusal :=
  (scopeForm (.scoId g d) g [] [.c d] false).run s fun s =>
    s.withTable fun s => .done (s.setX d (s.ownScope.setWidth 64))

/-! ### Spawning (R264) -/

/-- A place is one for a continuation record: a normal page in HBM (R264, step 2). -/
def Place.forRecord (p : Place) : Bool := decide (p.ptype = .normal) && decide (regionOf p.loc = .hbm)

/-- The place of a record that `sco.spawn` names: checked over 64 bytes for its four permissions, 64-aligned, on a normal page in HBM,
readable and writable, the page's type before its rights (R31, R264, step 2). -/
def State.recordPlace (s : State) (c : CapReg) : State × Except Stop Place :=
  match s.capAccess s.me c c.lo 64 64 [.load, .store, .loadCap, .storeCap] .stat with
  | (s', .error x) => (s', .error x)
  | (s', .ok p) =>
    if !p.forRecord then (s', .error (.fault 3 5 c.lo))
    else
      match translate s' s'.me c.lo .load with
      | (s'', .error x) => (s'', .error x)
      | (s'', .ok _) =>
        match translate s'' s''.me c.lo .store with
        | (t, .error x) => (t, .error x)
        | (t, .ok p) =>
          if !p.forRecord then (t, .error (.fault 3 5 c.lo))
          else
            match t.gate t.me p c.lo 64 with
            | some x => (t, .error x)
            | none => if t.poisoned p.loc 64 then (t, .error (.poison p.loc c.lo)) else (t.performAt p.loc 64, .ok p)

/-- A spawn takes the record: valid, of no team, with no context pointer and no threshold (R264, step 3). -/
def State.spawnable (s : State) (h : Handle) : Bool :=
  s.recordOk h && !flagTeam (s.recFlags h.addr) && decide (s.recCtx h.addr = 0) && decide (s.recThreshold h.addr = 0)

/-- The state after a spawn that a scope accepts (R264, steps 4 to 7). -/
def State.spawn (s : State) (d : CIdx) (h : Handle) (at_ : Nat) (r : ScopeRec) : State :=
  let s := s.addBirths at_ r 1
  let s := (s.putN (h.addr + 8) 4 r.id.toNat).put64 (h.addr + 32)
    (s.recWait h.addr % 2 ^ 48 + s.cur.core.val * 2 ^ 48)
  (s.pushBottom (s.pushTarget s.cur.core h) (s.recPrio h.addr) h).setX d 0

/-- `sco.spawn` (R264). -/
def execScoSpawn (g : Gap) (a b d : CIdx) (s : State) : Host.Outcome State Fault Refusal :=
  (scopeForm (.scoSpawn g a b d) g [.c a, .c b] [.c d] true).run s fun s =>
    s.withSubtree (s.x a) fun s at_ r =>
      if s.storeQueued then .stall s
      else
        match s.recordPlace (s.cur.creg b) with
        | (s', .error x) => .stop s' x
        | (s', .ok p) =>
          let h : Handle := { asid := s'.cur.asid, addr := p.loc }
          if !s'.spawnable h then .done (s'.setX d 1)
          else s'.released s 3 fun t => .done (if r.acceptsAll then t.spawn d h at_ r else t.setX d 4)

/-! ### Launching (R140, R265) -/

/-- The header's bytes and the tag of its parameter, or why they are not read; `none` for a capability or an address that
gives status 1 (R138, R265). -/
def State.readHeader (s : State) (c : CapReg) : Option (State × Except Stop (List Byte × Bool)) :=
  if (capFault c c.lo.toNat 64 [.load]).isSome ∨ c.lo.toNat % 64 ≠ 0 then none
  else
    match s.readPieces c.lo 4 with
    | (s', .error x) => some (s', .error x)
    | (s', .ok bs) =>
      match translate s' s'.me (c.lo + 32) .load with
      | (s'', .error x) => some (s'', .error x)
      | (s'', .ok p) => some (s'', .ok (bs, s''.seenTag s''.me p))

/-- `sco.launch` (R140, R265). -/
def execScoLaunch (g : Gap) (a b d : CIdx) (s : State) : Host.Outcome State Fault Refusal :=
  (scopeForm (.scoLaunch g a b d) g [.c a, .c b, .c d] [.c d] true).run s fun s =>
    s.withSubtree (s.x d) fun s at_ r =>
      if s.storeQueued then .stall s
      else
        match s.readHeader (s.cur.creg a) with
        | none => .done (s.setX d 1)
        | some (s', .error x) => .stop s' x
        | some (s', .ok (bs, tag)) =>
          let l := { headerLaunch bs tag (s.cur.creg b) with asid := s.cur.asid, f := s.myFn, scope := r.id }
          let st := s'.launchStatus s'.me (s.cur.creg a) bs l (some r)
          if s'.launchHeld s'.me (s.cur.creg a) bs l (some r) then .stall (s'.askAdd s.cur.handle.addr l)
          else if st ≠ 0 then .done (s'.setX d (BitVec.ofNat 64 st))
          else s'.released s 3 fun t => .done ((t.beginLaunch t.me t.myDie l at_ r).setX d 0)

end Sys2Proof.Machine
end

