-- ==== Sys2Proof/Machine/Ladle.lean ====
section
/-!
DEFINITION. Accesses that an engine makes, descriptor registers, and the Ladle: checks and launch of a transfer, its
segments, and its end (spec/15_engine_isa.md R315 to R321, R324, spec/06_ordering_far.md R124 to R127).
-/
namespace Sys2Proof.Machine

/-! ### Accesses of an engine -/

/-- The key under which the writes outside the device of an engine command are kept; no strand's record has it. -/
def engineKey (c : CoreId) (engine slot : Nat) : Nat := 2 ^ 60 + (c.val * 2 + engine) * 16 + slot

/-- The n bytes that an engine reads at an address, inside one aligned 4 KiB (R126, R320). What memory outside the device
holds is not known to the model (assumption log 8). -/
def State.engineRead (s : State) (w : Party) (va n : Nat) : State × Except Stop (List Byte) :=
  let v : Word := BitVec.ofNat 64 va
  match translate s w v .load with
  | (s', .error x) => (s', .error x)
  | (s', .ok p) =>
    if p.ptype = .io ∧ regionOf p.loc ≠ .mmio ∧ p.owner = 1 then (s', .error (p.transfer v))
    else
    match regionOf p.loc with
    | .mmio => (s', .error (.fault 3 5 v))
    | .host =>
      if p.ptype ≠ .io then s'.readPlace w p v n
      else if s'.fencedAt p.loc then (s', .error (.fault 8 0 v))
      else
        let r := s'.openData n
        ((r.2.send (.hostRead 0 (hostAddr p.loc) n)), .ok r.1)
    | .peer =>
      let k := peerParts p.loc
      let f := s'.fnOf w.die w.asid
      match s'.peerRoute f k.1 with
      | .none => (s', .error (.fault 3 3 v))
      | .unreachable => (s', .error (.fault 8 0 v))
      | .held => (s', .error .wait)
      | .own =>
        match s'.fromPeerRead f w.who k.2 n with
        | .done s'' bs => (s'', .ok bs)
        | .rejected s'' => (s'', .ok (List.replicate n 0xFF))
        | .waits s'' => (s'', .error .wait)
      | .rank q =>
        let r := s'.openData n
        ((r.2.send (.peerRead 0 f q k.2 n)), .ok r.1)
    | _ => s'.readPlace w p v n

/-- The bytes of a sector from an address on, read at one point with the tags of its granules (R126, R319). -/
def State.fetchSector (s : State) (w : Party) (va n : Nat) : State × Except Stop Fetched :=
  let tags := match (translate s w (BitVec.ofNat 64 va) .load).2 with
    | .ok p => (List.range 4).map fun k => s.seenTag w { p with loc := p.loc / 64 * 64 + 16 * k }
    | .error _ => List.replicate 4 false
  match s.engineRead w va n with
  | (s', .error x) => (s', .error x)
  | (s', .ok bs) => (s', .ok { va := va, bytes := bs, tags := tags })

/-- The aligned 64-byte sectors of pieces, each once. -/
def sectorsOf (ps : List (Nat × Nat)) : List Nat :=
  (ps.flatMap fun x => (List.range ((x.1 + x.2 - 1) / 64 - x.1 / 64 + 1)).map (x.1 / 64 + ·)).foldl
    (fun l k => if l.contains k then l else l ++ [k]) []

/-- The part of a sector that pieces need: its first byte's address and its length. -/
def sectorPart (ps : List (Nat × Nat)) (k : Nat) : Nat × Nat :=
  let hit := ps.filter fun x => decide (x.1 < 64 * k + 64) && decide (64 * k < x.1 + x.2)
  let lo := hit.foldl (fun m x => min m (max x.1 (64 * k))) (64 * k + 63)
  let hi := hit.foldl (fun m x => max m (min (x.1 + x.2) (64 * k + 64))) (lo + 1)
  (lo, hi - lo)

/-- A sector has been read. -/
def hasSector (l : List Fetched) (k : Nat) : Bool := l.any fun x => decide (x.va / 64 = k)

/-- A byte of what has been read. -/
def fetchedByte (l : List Fetched) (a : Nat) : Byte :=
  match l.find? fun x => decide (x.va ≤ a) && decide (a < x.va + x.bytes.length) with
  | some x => x.bytes.getD (a - x.va) 0
  | none => 0

/-- The tag of a granule of what has been read. -/
def fetchedTag (l : List Fetched) (a : Nat) : Bool :=
  match l.find? fun x => decide (x.va / 64 = a / 64) with
  | some x => x.tags.getD (a % 64 / 16) false
  | none => false

/-- The state with the tags of granules set, for places and the tags of their bytes' granules (R319). -/
def State.setTags (s : State) (locs : List Nat) : State := { s with tags := locs.foldl (fun t a => setIns t (a / 16)) s.tags }

/-- The place that an engine writes at, all its bytes inside one aligned 128-byte line; an IO page of device MMIO takes page
fault subcode 5 (R318). -/
def enginePlace (s : State) (w : Party) (va : Nat) : State × Except Stop Place :=
  let v : Word := BitVec.ofNat 64 va
  match translate s w v .store with
  | (s', .error x) => (s', .error x)
  | (s', .ok p) => if regionOf p.loc = .mmio then (s', .error (.fault 3 5 v)) else (s', .ok p)

/-- The state in which, of two commands' writes of a word that no chain orders, the earlier one stands: which does is open for
each aligned 8-byte word while the earlier one is not yet die-visible (R98, R129). `b` is the state before the later
command's write. -/
def State.letStand (s b : State) (w : Party) (l : List (Nat × Nat)) : State :=
  (b.order.early.filter fun e =>
    e.party.isEngine && !decide (e.who = w.who) && (Config.freeWord b.tick).getLsbD (e.loc / 8 % 61) &&
      l.any fun x => decide (x.1 ≤ e.loc) && decide (e.loc + e.old.length ≤ x.1 + x.2)).foldl
    (fun s e => s.putBytes e.loc (b.bytes e.loc e.old.length)) s

/-- The state after an engine's runs of bytes were written to memory, all or none. -/
def State.engineRuns (s : State) (w : Party) (l : List (Place × Word × List Byte)) : State × Option Stop :=
  match s.writeRuns w l with
  | (s', some x) => (s', some x)
  | (s', none) => (s'.letStand s w (l.map fun x => (x.1.loc, x.2.2.length)), none)

/-- The state after an engine has written pieces of one aligned line, or why it has not; `key` keeps writes that leave the
device (R120, R320). The first piece's address is the one a fault names. -/
def State.engineWrite (s : State) (w : Party) (key : Nat) (p : Place) (va : Nat) (ps : List (Nat × List Byte)) :
    State × Option Stop :=
  let v : Word := BitVec.ofNat 64 va
  let at_ := fun (a : Nat) => p.loc + a - va
  if p.ptype = .io ∧ p.owner = 1 then (s, some (p.transfer v))
  else
  match regionOf p.loc with
  | .host =>
    if p.ptype ≠ .io then s.engineRuns w (ps.map fun x => ({ p with loc := at_ x.1 }, v, x.2))
    else if s.fencedAt p.loc then (s, some (.fault 8 0 v))
    else
      (ps.foldl (fun s (x : Nat × List Byte) =>
        s.depart { s.pendingOf (BitVec.ofNat 64 x.1) x.2.length none true with strand := key }
          (.hostWrite (hostAddr (at_ x.1)) x.2)) s, none)
  | .peer =>
    let f := s.fnOf w.die w.asid
    match s.peerRoute f (peerParts p.loc).1 with
    | .none => (s, some (.fault 3 3 v))
    | .unreachable => (s, some (.fault 8 0 v))
    | .held => (s, some .wait)
    | .own =>
      ps.foldl (fun (acc : State × Option Stop) (x : Nat × List Byte) =>
        match acc.2 with
        | some _ => acc
        | none =>
          match acc.1.fromPeerWrite f w.who (peerParts (at_ x.1)).2 x.2 with
          | .done s' _ => (s', none)
          | .rejected s' => (s', none)
          | .waits s' => (s', some .wait)) (s, none)
    | .rank q =>
      (ps.foldl (fun s (x : Nat × List Byte) =>
        s.depart { s.pendingOf (BitVec.ofNat 64 x.1) x.2.length (some (f, q)) true with strand := key }
          (.peerWrite s.nextId f q (peerParts (at_ x.1)).2 x.2)) s, none)
  | _ => s.engineRuns w (ps.map fun x => ({ p with loc := at_ x.1 }, v, x.2))

/-- What becomes of an engine's access that is not performed: it waits at the home, or it ends the command with a cause, a
subcode and the failing address (R69, R297, R320, R390). -/
inductive EngineStop where
  | waits (s : State)
  | ends (s : State) (cause subcode : Nat) (tval : Word)

/-- The address that a stop names. -/
def Stop.addr : Stop → Word
  | .fault _ _ t => t
  | .walkFault _ t => t
  | .join _ _ t => t
  | .poison _ t => t
  | .chain _ t => t
  | .convert _ _ t => t
  | .dead => 0
  | .wait => 0

/-- What becomes of an engine's access that is not performed; the engine whose write caused a conversion that lost the page has been
told so (R71). -/
def State.engineStop (s : State) (w : Party) : Stop → EngineStop
  | .wait => .waits s
  | .chain k _ => .waits (s.askTransfer w.die w.asid k)
  | .poison loc t => if s.burstHeld loc then .waits s else .ends s 8 0 t
  | .convert d lpn _ => .waits (s.beginConversion d lpn w.asid (some w.who))
  | x => .ends (if x.code = (0x0B, 2) then s.clearCauser w.who else s) x.code.1 x.code.2 x.addr

/-- The state with an engine's fault recorded, after the cancel that the scope asks for (R163, R320, R343). -/
def State.engineFault (s : State) (w : Party) (scope : BitVec 32) (idWord : Word) (cause subcode : Nat) (tval : Word) :
    State :=
  let s := match s.scopeOf w.asid scope with
    | some (_, r) => if r.cf ∧ cfCause (BitVec.ofNat 8 cause) then s.cancelScope w.asid scope else s
    | none => s
  s.postEvent { s.blankFault w.die w.asid 2 cause subcode with tval := tval, scope := scope, info := idWord }

/-- The widest scope that the bytes of addresses and lengths require of a release before an engine reads them, with `sys`
for one that does not translate (R125). -/
def State.sourceScope (s : State) (w : Party) (core : CoreId) (ps : List (Nat × Nat)) : Nat :=
  (ps.flatMap fun x => pagePieces x.1 x.2 (x.2 / 4096 + 2)).foldl
    (fun m x =>
      max m
        (match (translate s w (BitVec.ofNat 64 x.1) .load).2 with
        | .error _ => 4
        | .ok p =>
          match regionOf p.loc with
          | .cluster =>
            if clusterOfNat (bitsOf p.loc 36 2 * 112 + bitsOf p.loc 21 15) = coreCluster core then 1
            else if homeDie p.loc = w.die then 2
            else 3
          | .hbm => if homeDie p.loc = w.die then 2 else 3
          | .leaf => if homeDie p.loc = w.die then 2 else 3
          | _ => 4)) 1

/-! ### Descriptor registers (R315, R316, R322, R324) -/

/-- The value that a descriptor register takes: all 129 bits, or the low 64 (R324). -/
def descValue (wide : Bool) (c : CapReg) : CapReg := if wide then c else CapReg.untagged c.lo

/-- A descriptor register's low 64 bits. -/
def descWord (l : List CapReg) (n : Nat) : Nat := (l.getD n CapReg.zero).lo.toNat

/-- The counter register is untagged zero or names a counter (R318 step 4). -/
def ctrRegOk (c : CapReg) : Bool :=
  decide (c = CapReg.zero) ||
    ((capFault c c.lo.toNat 8 [.counter]).isNone && decide (c.lo.toNat % 8 = 0))

/-- The id word of a command: its id and its core (R324). -/
def idWordOf (core : CoreId) (id : BitVec 16) : Word := BitVec.ofNat 64 (id.toNat + core.val * 2 ^ 16)

/-- The status word of a command (R321). -/
def statusWord (state cause subcode link count : Nat) : Word :=
  BitVec.ofNat 64 (state * 2 ^ 60 + cause * 2 ^ 52 + subcode * 2 ^ 48 + link * 2 ^ 40 + count)

/-- The status word of an unknown id: state 15 (R321). -/
def unknownStatus : Word := statusWord 15 0 0 0 0

/-- The kept statuses with one for an id just launched, the n most recent (R321). -/
def keepStatus (n : Nat) (l : List EngStatus) (e : EngStatus) : List EngStatus :=
  let l := l.filter fun x => !decide (x.id = e.id)
  (l ++ [e]).drop (l.length + 1 - n)

/-- The kept statuses with the word of an id replaced. -/
def setStatus (l : List EngStatus) (id : BitVec 16) (w : Word) : List EngStatus :=
  l.map fun x => if x.id = id then { x with word := w } else x

/-- What `stat` answers for an id word on a core's statuses (R321, R324). -/
def State.statusOf (s : State) (w : Word) (f : Core → List EngStatus) : Word :=
  let core := bitsOf w.toNat 16 11
  if bitsOf w.toNat 27 37 ≠ 0 ∨ core / 448 ≠ s.myDie.val then unknownStatus
  else
    match (f (s.core (coreOfNat core))).find? fun x => decide (x.id.toNat = bitsOf w.toNat 0 16) && decide (x.asid = s.cur.asid) with
    | some x => x.word
    | none => unknownStatus

/-- The lowest of n slots of a core that a list of taken ones leaves free. -/
def freeOf (used : List Nat) (n : Nat) : Option Nat := (List.range n).find? fun k => !used.contains k

/-! ### The box of a Ladle transfer (R316, R317) -/

/-- A side of a transfer: the address of its row 0, its row pitch and its rotation code. -/
structure Side where
  base  : Nat
  pitch : Nat
  rot   : Nat
  deriving DecidableEq, Repr

/-- The pieces of n bytes of a row from an offset on, chunk by chunk, as addresses modulo 2^64, lengths and offsets. -/
def Side.chunks (d : Side) (row off n : Nat) : Nat → List (Nat × Nat × Nat)
  | 0 => []
  | k + 1 =>
    if n = 0 then []
    else
      let m := min n (64 - off % 64)
      ((d.base + row * d.pitch + 64 * chunkSlot d.pitch d.rot row (off / 64) + off % 64) % 2 ^ 64, m, off) ::
        Side.chunks d row (off + m) (n - m) k

/-- The pieces of n bytes of a row from an offset on (R43, R317). -/
def Side.pieces (d : Side) (row off n : Nat) : List (Nat × Nat × Nat) :=
  if n = 0 then []
  else if d.rot = 0 then [((d.base + row * d.pitch + off) % 2 ^ 64, n, off)]
  else d.chunks row off n (n / 64 + 2)

/-- The box of a transfer. -/
structure Box where
  w   : Nat
  h   : Nat
  e   : Nat
  ex  : Nat
  ey  : Nat
  ox  : Int
  oy  : Int
  src : Side
  dst : Side
  tp  : Bool
  scope : Nat
  deriving DecidableEq, Repr

/-- A 32-bit field as a signed number. -/
def signed32 (v : Nat) : Int := if v < 2 ^ 31 then v else (v : Int) - 2 ^ 32

/-- The box that descriptor registers give (R316). -/
def boxOf (l : List CapReg) : Box :=
  let sh := descWord l 2
  { w := bitsOf sh 0 16
    h := bitsOf sh 16 16
    e := 2 ^ bitsOf sh 32 3
    ex := bitsOf (descWord l 5) 0 32
    ey := bitsOf (descWord l 5) 32 32
    ox := signed32 (bitsOf (descWord l 6) 0 32)
    oy := signed32 (bitsOf (descWord l 6) 32 32)
    src := { base := descWord l 0, pitch := bitsOf (descWord l 3) 0 40, rot := bitsOf sh 40 4 }
    dst := { base := descWord l 1, pitch := bitsOf (descWord l 4) 0 40, rot := bitsOf sh 44 4 }
    tp := decide (bitsOf sh 35 1 = 1)
    scope := bitsOf sh 36 3 }

/-- The tensor row of a box row, with the box bytes [lo, hi) of it that lie inside the extents; none where none does
(R317). -/
def Box.inside (b : Box) (y : Nat) : Option (Nat × Nat × Nat) :=
  let ty := b.oy + y
  let lo := (max 0 (-b.ox)).toNat
  let hi := (min (b.w : Int) ((b.ex : Int) - b.ox)).toNat
  if 0 ≤ ty ∧ ty < (b.ey : Int) ∧ lo < hi then some (ty.toNat, lo * b.e, hi * b.e) else none

/-- The source pieces of the bytes [o, o + n) of a box row that lie inside the extents, with the number of zero bytes
before them (R317). -/
def Box.sources (b : Box) (y o n : Nat) : Nat × List (Nat × Nat) :=
  match b.inside y with
  | none => (n, [])
  | some (ty, lo, hi) =>
    let lo' := max o lo
    let hi' := min (o + n) hi
    if lo' < hi' then
      (lo' - o, (b.src.pieces ty ((lo' : Int) + b.ox * b.e).toNat (hi' - lo')).map fun x => (x.1, x.2.1))
    else (n, [])

/-- All source pieces of a box, row by row. -/
def Box.allSources (b : Box) : List (Nat × Nat) := (List.range b.h).flatMap fun y => (b.sources y 0 (b.w * b.e)).2

/-- All destination pieces of a box, row by row. -/
def Box.allTargets (b : Box) : List (Nat × Nat) :=
  (List.range b.h).flatMap fun y => (b.dst.pieces y 0 (b.w * b.e)).map fun x => (x.1, x.2.1)

/-- Pieces cut at 128-byte lines, with lengths and offsets. -/
def cutLines (a n off : Nat) : Nat → List (Nat × Nat × Nat)
  | 0 => []
  | k + 1 =>
    if n = 0 then []
    else
      let m := min n (128 - a % 128)
      (a, m, off) :: cutLines ((a + m) % 2 ^ 64) (n - m) (off + m) k

/-- A piece put into a list in ascending order of address. -/
def pieceIns (p : Nat × Nat × Nat) : List (Nat × Nat × Nat) → List (Nat × Nat × Nat)
  | [] => [p]
  | x :: r => if p.1 < x.1 then p :: x :: r else x :: pieceIns p r

/-- Sorted pieces grouped by 128-byte line. -/
def groupLines : List (Nat × Nat × Nat) → List (List (Nat × Nat × Nat))
  | [] => []
  | p :: r =>
    match groupLines r with
    | (q :: g) :: rest => if p.1 / 128 = q.1 / 128 then (p :: q :: g) :: rest else [p] :: (q :: g) :: rest
    | l => [p] :: l

/-- The segments of a box row in the engine's order (R320). -/
def Box.segments (b : Box) (y : Nat) : List (List (Nat × Nat × Nat)) :=
  groupLines (((b.dst.pieces y 0 (b.w * b.e)).flatMap fun x => cutLines x.1 x.2.1 x.2.2 (x.2.1 / 128 + 2)).foldl
    (fun l p => pieceIns p l) [])

/-! ### Launch (R318) -/

/-- Cause 0x0A charged to a descriptor register (R297). -/
def regFault (s : State) (sub reg : Nat) : Res := .fault s 0x0A sub (BitVec.ofNat 64 (sub + reg * 256))

/-- A side's first address lies in cluster memory: the window, or for ASID 0 the physical range (R25, R297). -/
def State.inCluster (s : State) (a : Nat) : Bool :=
  if s.cur.asid ≠ 0 then decide (windowBase ≤ a) && decide (a < 2 ^ 48)
  else
    match (translate s s.me (BitVec.ofNat 64 a) .load).2 with
    | .ok p => p.cmem
    | .error _ => false

/-- A rotation that R43 or R297 forbids on a side. -/
def State.badRotation (s : State) (d : Side) : Bool :=
  decide (d.rot > 5) || (decide (d.rot ≠ 0) && (decide (d.pitch % 64 ≠ 0) || !s.inCluster d.base))

/-- The subcode and register of the first failing check of SHAPE, SPITCH and DPITCH (R318 step 1). -/
def State.shapeFault (s : State) (l : List CapReg) : Option (Nat × Nat) :=
  let sh := descWord l 2
  let b := boxOf l
  if bitsOf sh 32 3 > 4 then some (8, 2)
  else if bitsOf sh 48 16 ≠ 0 ∨ bitsOf sh 39 1 ≠ 0 then some (1, 2)
  else if s.badRotation b.src ∨ s.badRotation b.dst then some (3, 2)
  else if b.src.base % b.e ≠ 0 ∨ b.dst.base % b.e ≠ 0 ∨ b.src.pitch % b.e ≠ 0 ∨ b.dst.pitch % b.e ≠ 0 ∨
      (b.h > 1 ∧ b.dst.pitch < b.w * b.e) then some (4, 2)
  else if b.scope ≥ 5 then some (6, 2)
  else if b.tp ∧ b.e ≠ 16 then some (7, 2)
  else if bitsOf (descWord l 3) 40 24 ≠ 0 then some (1, 3)
  else if bitsOf (descWord l 4) 40 24 ≠ 0 then some (1, 4)
  else none

/-- The first byte of n from an address on, modulo 2^64, that lies outside a capability's bounds. -/
def firstOutside (c : CapReg) (a n : Nat) : Option Nat :=
  if a + n ≤ 2 ^ 64 ∧ inBounds c a n then none
  else (List.range n).findSome? fun k => if inBounds c ((a + k) % 2 ^ 64) 1 then none else some ((a + k) % 2 ^ 64)

/-- The subcode and the first failing byte's address of a capability over pieces; none without pieces (R318, steps 2 and
3). -/
def coverFault (c : CapReg) (perms : List Perm) (ps : List (Nat × Nat)) : Option (Nat × Nat) :=
  match ps with
  | [] => none
  | (a, _) :: _ =>
    match capRights c perms with
    | some sub => some (sub, a)
    | none => (ps.findSome? fun x => firstOutside c x.1 x.2).map fun x => (1, x)

/-- The fault of a transfer's descriptor, in the order of R318, steps 1 to 4. -/
def State.ladFault (s : State) (l : List CapReg) : Option Res :=
  match s.shapeFault l with
  | some (sub, reg) => some (regFault s sub reg)
  | none =>
    let b := boxOf l
    match coverFault (l.getD 0 CapReg.zero) [.load, .engine] b.allSources with
    | some (sub, a) => some (.fault s 2 sub (BitVec.ofNat 64 a))
    | none =>
      match coverFault (l.getD 1 CapReg.zero) [.store, .engine] b.allTargets with
      | some (sub, a) => some (.fault s 2 sub (BitVec.ofNat 64 a))
      | none => if ctrRegOk (l.getD 7 CapReg.zero) then none else some (regFault s 9 7)

/-- The transfer that a strand launches into a slot (R318 step 6). -/
def State.newXfer (s : State) (slot : Nat) : LadleXfer :=
  { slot := slot, id := (s.core s.cur.core).ladSeq, regs := s.cur.lad, asid := s.cur.asid, scope := s.cur.scope.setWidth 32
    issuer := s.cur.handle.addr, teamId := s.cur.teamId, state := 0, cause := 0, subcode := 0, count := 0, flying := false, row := 0
    byte := 0, got := [], cancel := false, kill := false, carried := s.happened, added := false }

/-- The state with a transfer launched, and its id word (R318 step 6, R321). -/
def State.launchXfer (s : State) (x : LadleXfer) : State :=
  (s.modCore s.cur.core fun c =>
    { c with
      lads := c.lads ++ [x]
      ladSeq := c.ladSeq + 1
      ladStats := keepStatus 64 c.ladStats { id := x.id, asid := x.asid, word := statusWord 0 0 0 0 0 } }).addAgenda
    (.ladleSegment s.cur.core ⟨x.slot % 16, Nat.mod_lt _ (by decide)⟩)

/-- `lad.go` (R318, R324); the release at the source's scope comes before the launch, after a queued `mx.st` (R125, R306). A box
with no element inside its extents needs no release (R125). -/
def execLadGo (g : Gap) (d : CIdx) (s : State) : Host.Outcome State Fault Refusal :=
  Form.run { plain (.ladGo g d) g [] [.c d] none with point := true } s fun s =>
    let l := s.cur.lad.toList
    match s.ladFault l with
    | some r => r
    | none =>
      let src := (boxOf l).allSources
      s.released s (if src.isEmpty then 0 else s.sourceScope s.me s.cur.core src) fun s =>
        match freeOf ((s.core s.cur.core).lads.map LadleXfer.slot) 16 with
        | none => .stall s
        | some slot =>
          let x := s.newXfer slot
          match s.memberBirth x.asid x.scope s.cur.birth with
          | (s', some e) => birthFault s' x.asid x.scope e
          | (s', none) => .done ((s'.launchXfer x).setX d (idWordOf s.cur.core x.id))

/-- The Ladle descriptor registers that keep 129 bits (R316). -/
def ladWide (n : Nat) : Bool := decide (n = 0 ∨ n = 1 ∨ n = 7)

/-- `lad.set` (R324). -/
def execLadSet (g : Gap) (a n : CIdx) (s : State) : Host.Outcome State Fault Refusal :=
  (plain (.ladSet g a n) g [.c a] [] none).run s fun s =>
    if h : n.toNat < 9 then
      .done (s.modCur fun t => { t with lad := t.lad.set n.toNat (descValue (ladWide n.toNat) (t.creg a)) h })
    else .fault s 1 0 ((Instr.ladSet g a n).word.setWidth 64)

/-- `lad.get` (R324). -/
def execLadGet (g : Gap) (n d : CIdx) (s : State) : Host.Outcome State Fault Refusal :=
  (plain (.ladGet g n d) g [] [.c d] none).run s fun s =>
    if h : n.toNat < 9 then .done (s.setC d (s.cur.lad[n.toNat]'h))
    else .fault s 1 0 ((Instr.ladGet g n d).word.setWidth 64)

/-- `lad.stat` (R324). -/
def execLadStat (g : Gap) (a d : CIdx) (s : State) : Host.Outcome State Fault Refusal :=
  (plain (.ladStat g a d) g [.c a] [.c d] none).run s fun s =>
    .done (s.setX d (s.statusOf (s.x a) Core.ladStats))

/-! ### A transfer as it runs (R320) -/

/-- The party of a transfer (R124). -/
def LadleXfer.party (x : LadleXfer) (c : CoreId) : Party :=
  { die := coreDie c, core := some c, asid := x.asid, team := x.teamId, who := .ladle c x.slot }

/-- The transfer in a slot of a core. -/
def Core.ladIn (c : Core) (slot : Nat) : Option LadleXfer := c.lads.find? fun x => decide (x.slot = slot)

/-- The state with the transfer in its slot, and its status, replaced (R321). -/
def State.setXfer (s : State) (c : CoreId) (x : LadleXfer) : State :=
  s.modCore c fun y =>
    { y with
      lads := y.lads.map fun z => if z.slot = x.slot then x else z
      ladStats := setStatus y.ladStats x.id
        (statusWord x.state.toNat x.cause.toNat x.subcode.toNat 0 (x.count % 2 ^ 32)) }

/-- The source pieces of a segment of a box row. -/
def Box.needs (b : Box) (y : Nat) (seg : List (Nat × Nat × Nat)) : List (Nat × Nat) :=
  seg.flatMap fun z => (b.sources y z.2.2 z.2.1).2

/-- The bytes that a box row gives a destination piece, from what has been read (R317). -/
def pieceBytes (l : List Fetched) (b : Box) (y off n : Nat) : List Byte :=
  let src := b.sources y off n
  let bs := src.2.flatMap fun x => (List.range x.2).map fun i => fetchedByte l (x.1 + i)
  List.replicate src.1 0 ++ bs ++ List.replicate (n - src.1 - bs.length) 0

/-- The tag that a destination granule receives from the byte at an offset of a box row (R319). -/
def granuleTag (x : LadleXfer) (b : Box) (p : Place) (y off : Nat) : Bool :=
  match (b.sources y off 16).2 with
  | (a, _) :: _ =>
    b.tp && hasPerm (x.regs.get 0).bits .loadCap && hasPerm (x.regs.get 1).bits .storeCap && p.tags && fetchedTag x.got a &&
      (hasPerm (BitVec.ofNat 128 (leNat ((List.range 16).map fun i => fetchedByte x.got (a + i)))) .global || p.cmem)
  | [] => false

/-- The places of the granules of a segment that receive a tag (R319). -/
def segmentTags (x : LadleXfer) (b : Box) (p : Place) (va y : Nat) (seg : List (Nat × Nat × Nat)) : List Nat :=
  if !b.tp then []
  else
    seg.flatMap fun z =>
      (List.range (z.2.1 / 16)).filterMap fun k =>
        if granuleTag x b p y (z.2.2 + 16 * k) then some (p.loc + z.1 + 16 * k - va) else none

/-- The state after a segment whose source has been read, or why it is not performed: the destination is written whole or not at
all, after every earlier segment (R320). -/
def State.segment (s : State) (c : CoreId) (x : LadleXfer) (y : Nat) (seg : List (Nat × Nat × Nat)) :
    State × Option Stop :=
  let w := x.party c
  let b := boxOf x.regs.toList
  let va := (seg.headD (0, 0, 0)).1
  match enginePlace (s.performOf w.who) w va with
  | (s', .error e) => (s', some e)
  | (s', .ok p) =>
    let ps := seg.map fun z => (z.1, pieceBytes x.got b y z.2.2 z.2.1)
    match s'.engineWrite w (engineKey c 0 x.slot) p va ps with
    | (t, some e) => (t, some e)
    | (t, none) => (t.setTags (segmentTags x b p va y seg), none)

/-- The state with a transfer ended in a state, its last steps due (R320). -/
def State.endXfer (s : State) (c : CoreId) (x : LadleXfer) (state : BitVec 4) : State :=
  (s.setXfer c { x with state := state }).addDue (.ladleTransferEnd c ⟨x.slot % 16, Nat.mod_lt _ (by decide)⟩)

/-- The state with a transfer's next segment pending. -/
def State.nextSegment (s : State) (c : CoreId) (x : LadleXfer) : State :=
  (s.setXfer c x).addAgenda (.ladleSegment c ⟨x.slot % 16, Nat.mod_lt _ (by decide)⟩)

/-- The sector that a transfer reads next, if it does: one that its segment needs, or any other of its source, as sectors are
read at independent points and in any order (R126; assumption log 1). -/
def LadleXfer.nextSector (x : LadleXfer) (tick : Nat) (need : List Nat) : Option Nat :=
  let v := Config.freeWord tick
  let rest := (sectorsOf (boxOf x.regs.toList).allSources).filter fun k => !hasSector x.got k
  if v.getLsbD 62 then rest[v.toNat % rest.length]? else need.head?

/-- The state after an access of a transfer was not performed: it waits, or the transfer ends faulted (R69, R320). -/
def State.xferStop (s : State) (c : CoreId) (x : LadleXfer) (e : Stop) : State :=
  match s.engineStop (x.party c) e with
  | .waits t => t.nextSegment c { x with state := 1 }
  | .ends t cause sub tval =>
    (t.engineFault (x.party c) x.scope (idWordOf c x.id) cause sub tval).endXfer c
      { x with cause := BitVec.ofNat 8 cause, subcode := BitVec.ofNat 4 sub } 4

/-- The state after a transfer has read a sector, or performed its segment once what that needs is read. A sector read ahead of
its segment meets no fault: it is read again when its segment needs it (R126, R320). -/
def State.xferStep (s : State) (c : CoreId) (x : LadleXfer) (seg : List (Nat × Nat × Nat)) : State :=
  let b := boxOf x.regs.toList
  let need := (sectorsOf (b.needs x.row seg)).filter fun k => !hasSector x.got k
  match x.nextSector s.tick need with
  | some k =>
    let part := sectorPart b.allSources k
    match s.fetchSector (x.party c) part.1 part.2 with
    | (s', .ok g) => s'.nextSegment c { x with state := 1, got := x.got ++ [g] }
    | (s', .error e) => if need.contains k then (s'.undo s).xferStop c x e else s.nextSegment c { x with state := 1 }
  | none =>
    match s.segment c x x.row seg with
    | (s', none) => s'.nextSegment c { x with state := 1, flying := true, byte := x.byte + 1 }
    | (s', some e) => (s'.undo s).xferStop c x e

/-- The state in which a transfer's latest segment is die-visible and counted, and the transfer (R128, R321). -/
def State.landXfer (s : State) (c : CoreId) (x : LadleXfer) : State × LadleXfer :=
  if x.flying then (s.performOf (.ladle c x.slot), { x with flying := false, count := x.count + 1 }) else (s, x)

/-- The state after the next step of a transfer that runs: a kill or a cancel stops it before the segment (R164, R165, R320). A
transfer with no segment left is done. -/
def State.runXfer (s : State) (c : CoreId) (x : LadleXfer) : State :=
  let b := boxOf x.regs.toList
  if x.kill then s.endXfer c x 5
  else if x.cancel then s.endXfer c x 3
  else if x.row ≥ b.h ∨ b.w = 0 then s.endXfer c x 2
  else
    match (b.segments x.row)[x.byte]? with
    | none => s.nextSegment c { x with state := 1, row := x.row + 1, byte := 0 }
    | some seg => s.xferStep c x seg

/-- The next step of a transfer (R320). -/
def execLadleSegment (c : CoreId) (slot : Fin 16) (s : State) : Host.Outcome State Fault Refusal :=
  match (s.core c).ladIn slot.val with
  | none => .next s
  | some x =>
    if x.state.toNat ≥ 2 then .next s
    else
      let r := s.landXfer c x
      .next (r.1.runXfer c r.2)

/-- A command's writes are performed at a scope, and the state in which those that can be are: at `dev` the cross-die
invalidations counted against it, and those that happen before its launch, are acknowledged, at `sys` its writes outside
the device too (R50, R118, R120, R124, R127). -/
def State.engineSettled (s : State) (a : Agent) (carried : List Agent) (key scope : Nat) : State × Bool :=
  let s := s.performOf a
  if scope < 3 then (s, true)
  else if s.pendingOn a ≠ 0 ∨ (carried.any fun x => decide (s.pendingOn x ≠ 0)) then (s, false)
  else if scope = 3 then (s, true)
  else
    match s.sysReady key with
    | (s', some .wait) => (s', false)
    | (s', _) => (s', true)

/-- The state after a command's completion add, whose counter by then carries it as a release at a scope (R90, R93, R110,
R127). -/
def State.engineAdd (s : State) (w : Party) (c : CoreId) (carried : List Agent) (release : Nat) (va value : Word)
    (scope : BitVec 32) (info : Word) : State :=
  let t := match (s.counterPlace w va .ctrWrite).2 with
    | .ok p => s.putSync c release p.loc 8 (s.unsettled (joinNew [w.who] carried))
    | .error _ => s
  t.completionAdd w va value 2 scope info

/-- The state after a command that has ended made its completion add, if it makes one, and whether that is over: its writes come
first, and an add may wait at its counter (R86, R127). -/
def State.tryAdd (s : State) (w : Party) (c : CoreId) (carried : List Agent) (key release : Nat) (skip : Bool) (va value : Word)
    (scope : BitVec 32) (info : Word) : State × Bool :=
  match s.engineSettled w.who carried key release with
  | (s', false) => (s', false)
  | (s', true) =>
    if skip then (s', true)
    else if s'.addWaits w va then ((s'.counterPlace w va .ctrWrite).1, false)
    else (s'.engineAdd w c carried release va value scope info, true)

/-- The state in which an engine command is over: it waits nowhere, and its death follows (R153). -/
def State.engineDone (s : State) (w : Party) (scope : BitVec 32) : State :=
  let s := ((s.leaveQueues w.who).clearCauser w.who).addDue (.scopeDeath w.asid scope)
  if w.team = 0 then s else s.freeTeam w.team

/-- A transfer that has ended performs its completion add, unless it was killed; once its writes and the add are performed at
`dev`, its death is counted and its slot is free (R127, R153, R320). -/
def execLadleTransferEnd (c : CoreId) (slot : Fin 16) (s : State) : Host.Outcome State Fault Refusal :=
  match (s.core c).ladIn slot.val with
  | none => .next s
  | some x =>
    if x.state.toNat < 2 then .next s
    else
      let w := x.party c
      let ctr := x.regs.get 7
      let skip := decide (x.state = 5) || x.kill || decide (ctr = CapReg.zero)
      match (if x.added then (s, true)
          else s.tryAdd w c x.carried (engineKey c 0 x.slot) (boxOf x.regs.toList).scope skip ctr.lo (x.regs.get 8).lo x.scope
            (idWordOf c x.id)) with
      | (t, false) => .next (t.addAgenda (.ladleTransferEnd c slot))
      | (t, true) =>
        let t := t.performOf w.who
        if t.pendingOn w.who ≠ 0 then .next ((t.setXfer c { x with added := true }).addAgenda (.ladleTransferEnd c slot))
        else
          .next ((t.modCore c fun y => { y with lads := y.lads.filter fun z => !decide (z.slot = x.slot) }).engineDone w x.scope)

end Sys2Proof.Machine
end

