-- ==== Sys2Proof/Machine/Crucible.lean ====
section
/-!
DEFINITION. The Crucible: checks and launch of a collective, its start, its messages, its results and its end
(spec/15_engine_isa.md R322 to R324, spec/21_links_collectives.md R366 to R374, spec/10_formats.md R194, R195,
spec/06_ordering_far.md R130).
-/
namespace Sys2Proof.Machine

/-! ### Descriptor fields (R322) -/

/-- The fields of KIND, COUNT and FMT. -/
structure CruDesc where
  n        : Nat
  op       : Nat
  scope    : Nat
  nr       : Bool
  staged   : Bool
  root     : Nat
  residual : Nat
  group    : Nat
  src      : BitVec 8
  dst      : BitVec 8
  wire     : BitVec 8
  rnd      : Nat
  sat      : Nat
  deriving DecidableEq, Repr

/-- The fields that descriptor registers give (R322). -/
def cruDesc (l : List CapReg) : CruDesc :=
  let k := descWord l 4
  let f := descWord l 5
  { n := bitsOf (descWord l 3) 0 32
    op := bitsOf k 0 3
    scope := bitsOf k 3 3
    nr := decide (bitsOf k 6 1 = 1)
    staged := decide (bitsOf k 7 1 = 1)
    root := bitsOf k 16 16
    residual := bitsOf k 32 16
    group := bitsOf k 48 16
    src := BitVec.ofNat 8 (bitsOf f 0 8)
    dst := BitVec.ofNat 8 (bitsOf f 8 8)
    wire := BitVec.ofNat 8 (bitsOf f 16 8)
    rnd := bitsOf f 24 3
    sat := bitsOf f 27 2 }

/-- Source elements of a rank in a group of N (R322). -/
def CruDesc.sources (d : CruDesc) (ranks me : Nat) : Nat :=
  if d.op = 1 then d.n * ranks else if d.op = 3 ∧ me ≠ d.root then 0 else d.n

/-- Destination elements in a group of N (R322). -/
def CruDesc.targets (d : CruDesc) (ranks : Nat) : Nat := if d.op = 2 then d.n * ranks else d.n

/-- Bytes of n elements of a format (R179). -/
def fmtBytes (c : BitVec 8) (n : Nat) : Nat := (n * fmtBits c + 7) / 8

/-- The formats go with the operation (R322, R370). -/
def CruDesc.formatsOk (d : CruDesc) : Bool :=
  decide (d.rnd ≤ 4) && decide (d.sat ≤ 2) &&
    (if d.nr then byteCode d.wire || decide (d.wire = 0x01) else decide (d.wire = 0)) &&
    (if d.op ≤ 1 then binaryCode d.src && binaryCode d.dst
     else !d.nr && decide (d.src = d.dst) && (intCode d.src || binaryCode d.src || byteCode d.src))

/-! ### Groups (R366) -/

/-- A group entry, and the job that holds it. -/
structure Group where
  job       : Job
  rankList  : Nat
  directory : Nat
  n         : Nat
  me        : Nat
  inr       : Bool
  deriving DecidableEq, Repr

/-- The entry of a handle in the job of a function, if the handle is known; one with a reserved bit set is rejected (R6, R366). -/
def State.group (s : State) (f : FnId) (h : Nat) : Option Group :=
  match s.jobs.get f with
  | none => none
  | some j =>
    let a := j.groups + h * 32
    let q1 := s.mem64 (a + 8)
    let g : Group :=
      { job := j, rankList := s.mem64 (a + 24), directory := s.mem64 (a + 16), n := bitsOf q1 48 16, me := bitsOf q1 32 16
        inr := decide (bitsOf q1 14 1 = 1) }
    if h ≥ j.groupCount ∨ bitsOf q1 15 1 = 0 ∨ bitsOf q1 0 14 ≠ 0 ∨ s.mem64 a ≠ 0 ∨ g.n < 1 ∨ g.n > 3584 ∨ g.me ≥ g.n ∨
        s.memN (g.rankList + 2 * g.me) 2 ≠ j.rank then none
    else some g

/-- The job rank of a group rank. -/
def State.jobRank (s : State) (g : Group) (r : Nat) : Nat := s.memN (g.rankList + 2 * r) 2

/-- The other members' job ranks. -/
def State.members (s : State) (g : Group) : List Nat := ((List.range g.n).filter fun r => r != g.me).map (s.jobRank g)

/-- Every member's path has a session, attested switches and the job's epoch (R368). -/
def State.switchPath (s : State) (g : Group) : Bool :=
  g.inr && (s.members g).all fun q =>
    let e := s.pathEntry g.job q
    pathOk e && decide (bitsOf e 62 1 = 1) && decide (bitsOf e 16 16 = g.job.epoch.toNat)

/-- The switch that a function's group reduces inside. Its table names none: one of those to which this device has sent the
epoch's key, or, where it has sent it to none, any switch (R363, R365; assumption log 21). -/
def State.pathSwitch (s : State) (f : FnId) (g : Group) : Option Nat :=
  let l := (s.spdm.filter fun p =>
    decide (3584 ≤ p.party) && decide (p.party < 65536) && p.released.contains (f, g.job.epoch)).map SpdmPeer.party
  let v := (Config.freeWord s.tick).toNat
  if l.isEmpty then some (3584 + v % 61952) else l[v % l.length]?

/-- The other members' job ranks and the ports that reach them (R364). -/
def State.pathsOf (s : State) (g : Group) : List (Nat × BitVec 12) :=
  (s.members g).map fun q => (q, BitVec.ofNat 12 (bitsOf (s.pathEntry g.job q) 48 12))

/-- Every other member can be reached (R361). -/
def State.membersUp (s : State) (f : FnId) (g : Group) : Bool := (s.members g).all (s.reachable f)

/-! ### Launch (R323) -/

/-- The subcode and register of the first failing check of COUNT, KIND and FMT (R297, R323, R366, R370). -/
def State.kindFault (s : State) (l : List CapReg) : Option (Nat × Nat) :=
  let d := cruDesc l
  let g := s.group s.myFn d.group
  if bitsOf (descWord l 3) 32 32 ≠ 0 then some (1, 3)
  else if bitsOf (descWord l 4) 8 8 ≠ 0 then some (1, 4)
  else if d.scope ≥ 5 then some (6, 4)
  else if d.op ≥ 4 then some (8, 4)
  else
    match g with
    | none => some (8, 4)
    | some g =>
      if d.nr ∧ g.directory = 0 then some (8, 4)
      else if bitsOf (descWord l 5) 29 35 ≠ 0 then some (1, 5)
      else if !d.formatsOk then some (2, 5)
      else none

/-- The bytes of a STAGE operand that do not lie in leaf pages of the scope's region: page fault subcode 5 with the first
such address (R80, R323). -/
def State.stageFault (s : State) (c : CapReg) (n : Nat) : Option Res :=
  let a := c.lo.toNat
  let region := match s.scopeOf s.cur.asid s.ownScope with
    | some (_, r) => if r.lb then (r.leafBase.toNat, r.leafBase.toNat + r.pages * 0x10000) else (0, 0)
    | none => (0, 0)
  (pagePieces a n (n / 4096 + 2)).findSome? fun x =>
    if x.1 < region.1 ∨ x.1 + x.2 > region.2 then some (.fault s 3 5 (BitVec.ofNat 64 x.1))
    else
      match (translate s s.me (BitVec.ofNat 64 x.1) .stat).2 with
      | .ok p => if p.ptype = .leaf then none else some (.fault s 3 5 (BitVec.ofNat 64 x.1))
      | .error e => some (.stop s e)

/-- The fault of a capability that must cover n bytes (R318, R323). -/
def State.regCover (s : State) (c : CapReg) (perms : List Perm) (n : Nat) : Option Res :=
  match coverFault c perms [(c.lo.toNat, n)] with
  | some (sub, a) => some (.fault s 2 sub (BitVec.ofNat 64 a))
  | none => none

/-- The residual buffer's capability, read from the directory, or why it is not (R370). -/
def State.residualCap (s : State) (g : Group) (id : Nat) : State × Except Stop CapReg :=
  let va : Word := BitVec.ofNat 64 (g.directory + 16 * id)
  match translate s s.me va .load with
  | (s', .error x) => (s', .error x)
  | (s', .ok p) =>
    match s'.readPlace s'.me p va 16 with
    | (s'', .error x) => (s'', .error x)
    | (s'', .ok bs) => (s'', .ok { tag := s''.seenTag s''.me p, bits := BitVec.ofNat 128 (leNat bs) })

/-- The checks of SRC, DST and STAGE (R323). -/
def State.sideFault (s : State) (l : List CapReg) (d : CruDesc) (g : Group) : Option Res :=
  let reg := fun n => l.getD n CapReg.zero
  let src := if d.op = 3 ∧ g.me ≠ d.root then none else s.regCover (reg 0) [.load, .engine] (fmtBytes d.src (d.sources g.n g.me))
  match src with
  | some r => some r
  | none =>
    match s.regCover (reg 1) [.store, .engine] (fmtBytes d.dst (d.targets g.n)) with
    | some r => some r
    | none =>
      if !d.staged then none
      else
        match s.regCover (reg 2) [.load, .store, .engine] (fmtBytes d.dst (d.targets g.n)) with
        | some r => some r
        | none => s.stageFault (reg 2) (fmtBytes d.dst (d.targets g.n))

/-- What follows the checks of `cru.go`: the first fault, or the group and the residual buffer (R323, R370). -/
def State.cruChecks (s : State) (f : State → Group → CapReg → Res) : Res :=
  let l := s.cur.cru.toList
  let d := cruDesc l
  match s.kindFault l, s.group s.myFn d.group with
  | some (sub, reg), _ => regFault s sub reg
  | none, none => regFault s 8 4
  | none, some g =>
    match s.sideFault l d g with
    | some r => r
    | none =>
      let last := fun (t : State) (b : CapReg) =>
        if ctrRegOk (l.getD 6 CapReg.zero) then f t g b else regFault t 9 6
      if !d.nr then last s CapReg.zero
      else
        match s.residualCap g d.residual with
        | (s', .error x) => .stop s' x
        | (s', .ok b) =>
          match s'.regCover b [.load, .store, .engine] (4 * d.sources g.n g.me) with
          | some r => r
          | none => last s' b

/-- The key of a group handle of a function, for the count of its collectives (R367). -/
def groupKey (f : FnId) (h : Nat) : Nat := f.val * 2 ^ 16 + h

/-- The collective that a strand launches into a slot (R323). -/
def State.newCollective (s : State) (slot : Nat) (g : Group) (buffer : CapReg) : Collective :=
  { slot := slot, id := (s.core s.cur.core).cruSeq, number := s.nextId, regs := s.cur.cru, asid := s.cur.asid
    scope := s.cur.scope.setWidth 32, issuer := s.cur.handle.addr, teamId := s.cur.teamId, f := s.myFn
    ranks := g.n, me := g.me, buffer := buffer, inSwitch := false, switch := none
    k := mapGet s.cruCounts (groupKey s.myFn (cruDesc s.cur.cru.toList).group) 0
    paths := [], phase := .queued, contrib := [], reduced := false
    results := [], toWrite := [], readies := [], heads := [], residuals := [], link := 0, cause := 0, subcode := 0, written := 0
    flying := 0, kill := false, got := [], tell := none, carried := s.happened, added := false, state := 0 }

/-- A slot number as an event names it. -/
def cruSlot (n : Nat) : Fin 4 := ⟨n % 4, Nat.mod_lt _ (by decide)⟩

/-- The state with a collective launched; its own steps are pending (R321, R323, R367). -/
def State.launchCru (s : State) (x : Collective) : State :=
  let key := groupKey x.f (cruDesc x.regs.toList).group
  (({ s with nextId := s.nextId + 1, cruCounts := mapSet s.cruCounts key (x.k + 1) } : State).modCore s.cur.core fun c =>
    { c with
      crus := c.crus ++ [x]
      cruSeq := c.cruSeq + 1
      cruStats := keepStatus 16 c.cruStats { id := x.id, asid := x.asid, word := statusWord 0 0 0 0 0 } }).addAgenda
    (.collectiveEnd s.cur.core (cruSlot x.slot))

/-- The source pieces of a collective, for the release before its launch (R125). -/
def cruSource (l : List CapReg) (d : CruDesc) (ranks me : Nat) : List (Nat × Nat) :=
  let n := fmtBytes d.src (d.sources ranks me)
  if n = 0 then [] else [((l.getD 0 CapReg.zero).lo.toNat, n)]

/-- `cru.go` (R323, R324); the release at the source's scope comes before the launch, after a queued `mx.st` (R125, R306). -/
def execCruGo (g : Gap) (d : CIdx) (s : State) : Host.Outcome State Fault Refusal :=
  Form.run { plain (.cruGo g d) g [] [.c d] none with point := true } s fun s =>
    s.cruChecks fun s gr buffer =>
      let l := s.cur.cru.toList
      let src := cruSource l (cruDesc l) gr.n gr.me
      s.released s (if src.isEmpty then 0 else s.sourceScope s.me s.cur.core src) fun s =>
        match freeOf ((s.core s.cur.core).crus.map Collective.slot) 4 with
        | none => .stall s
        | some slot =>
          let x := s.newCollective slot gr buffer
          match s.memberBirth x.asid x.scope s.cur.birth with
          | (s', some e) => birthFault s' x.asid x.scope e
          | (s', none) => .done ((s'.launchCru x).setX d (idWordOf s.cur.core x.id))

/-- The Crucible descriptor registers that keep 129 bits (R322). -/
def cruWide (n : Nat) : Bool := decide (n = 0 ∨ n = 1 ∨ n = 2 ∨ n = 6)

/-- `cru.set` (R324). -/
def execCruSet (g : Gap) (a n : CIdx) (s : State) : Host.Outcome State Fault Refusal :=
  (plain (.cruSet g a n) g [.c a] [] none).run s fun s =>
    if h : n.toNat < 8 then
      .done (s.modCur fun t => { t with cru := t.cru.set n.toNat (descValue (cruWide n.toNat) (t.creg a)) h })
    else .fault s 1 0 ((Instr.cruSet g a n).word.setWidth 64)

/-- `cru.get` (R324). -/
def execCruGet (g : Gap) (n d : CIdx) (s : State) : Host.Outcome State Fault Refusal :=
  (plain (.cruGet g n d) g [] [.c d] none).run s fun s =>
    if h : n.toNat < 8 then .done (s.setC d (s.cur.cru[n.toNat]'h))
    else .fault s 1 0 ((Instr.cruGet g n d).word.setWidth 64)

/-- `cru.stat` (R324). -/
def execCruStat (g : Gap) (a d : CIdx) (s : State) : Host.Outcome State Fault Refusal :=
  (plain (.cruStat g a d) g [.c a] [.c d] none).run s fun s =>
    .done (s.setX d (s.statusOf (s.x a) Core.cruStats))

/-! ### A collective's parts -/

/-- The fields of a collective's descriptor. -/
def Collective.desc (x : Collective) : CruDesc := cruDesc x.regs.toList

/-- What a collective's flits say of it (R367). -/
def Collective.head (x : Collective) : FlitHead :=
  { k := x.k, op := x.desc.op, root := x.desc.root, nr := x.desc.nr, count := x.desc.n, fmt := (x.regs.get 5).lo }

/-- The party of a collective (R124). -/
def Collective.party (x : Collective) (c : CoreId) : Party :=
  { die := coreDie c, core := some c, asid := x.asid, team := x.teamId, who := .crucible c x.slot }

/-- The collective in a slot of a core. -/
def Core.cruIn (c : Core) (slot : Nat) : Option Collective := c.crus.find? fun x => decide (x.slot = slot)

/-- The collective has committed, or all its writes are made: nothing ends it otherwise than as done or killed (R130, R371,
R373). -/
def Collective.decided (x : Collective) : Bool := decide (x.phase = .committed) || decide (x.phase = .written)

/-- Destination elements that the status word counts: those written, for a staged collective none before it commits
(R321, R374). -/
def Collective.count (x : Collective) : Nat := if x.desc.staged ∧ !x.decided then 0 else x.written

/-- The state and the collective once what it has written is die-visible on its die, and counted (R128, R321). -/
def State.landCru (s : State) (c : CoreId) (x : Collective) : State × Collective :=
  if x.flying = 0 then (s, x)
  else (s.performOf (x.party c).who, { x with written := x.written + x.flying, flying := 0 })

/-- The state with the collective in its slot, and its status, replaced (R321). -/
def State.setCru (s : State) (c : CoreId) (x : Collective) : State :=
  s.modCore c fun y =>
    { y with
      crus := y.crus.map fun z => if z.slot = x.slot then x else z
      cruStats := setStatus y.cruStats x.id
        (statusWord x.state.toNat x.cause.toNat x.subcode.toNat x.link.toNat (x.count % 2 ^ 32)) }

/-- The source elements that group rank j owns in a reduction: first and number (R369). -/
def Collective.block (x : Collective) (j : Nat) : Nat × Nat :=
  let d := x.desc
  if d.op = 1 then (j * d.n, d.n)
  else
    let m := (d.n + x.ranks - 1) / x.ranks
    (min d.n (j * m), min d.n ((j + 1) * m) - min d.n (j * m))

/-- The other group ranks. -/
def Collective.others (x : Collective) : List Nat := (List.range x.ranks).filter fun r => r != x.me

/-- A path of a collective has every port of it in service stopped at its flit limit or under test: this rank sends nothing on
it (R356, R398). -/
def State.cruHeld (s : State) (x : Collective) : Bool := x.paths.any fun q => s.allHeld x.f q.2

/-- The state with flits of a collective sent to a rank, or to its switch as rank N (R369). -/
def State.sendFlit (s : State) (c : CoreId) (x : Collective) (rank first : Nat) (l : List Word) : State :=
  s.send (.flit c x.slot x.head rank first l)

/-- The state with the same flits sent to every other rank. -/
def State.sendAll (s : State) (c : CoreId) (x : Collective) (first : Nat) (l : List Word) : State :=
  x.others.foldl (fun s r => s.sendFlit c x r first l) s

/-- The state and the collective after the abort that it has to send is sent to those that can be reached and to whom the ports may
send; the others that can be reached are told later (R356, R361, R373). -/
def State.tellCru (s : State) (c : CoreId) (x : Collective) : State × Collective :=
  match x.tell with
  | none => (s, x)
  | some (m, l) =>
    let now := (l.filter fun q => s.anyUp q.2 && !s.allHeld x.f q.2).map Prod.fst
    let later := l.filter fun q => s.allHeld x.f q.2
    ((if now.isEmpty then s else s.send (.abort c x.slot now m)), { x with tell := if later.isEmpty then none else some (m, later) })

/-- The job ranks and ports of a collective's other members: as it read them at its start, or before that as its tables stand
(R368, R372). -/
def State.toTell (s : State) (x : Collective) : List (Nat × BitVec 12) :=
  if x.phase = .queued then
    match s.group x.f x.desc.group with
    | some g => s.pathsOf g
    | none => x.paths
  else x.paths

/-- The state with a collective ended: what it has written counted, its state and link code set, its last steps due, and its peers
told where they have to be (R128, R367, R372, R373). -/
def State.endCru (s : State) (c : CoreId) (x : Collective) (state : BitVec 4) (link : BitVec 8) (tell : Bool) : State :=
  let l := s.landCru c x
  let r := l.1.tellCru c
    { l.2 with state := state, link := link, tell := if tell then some (decide (link = 6), s.toTell x) else none }
  (r.1.setCru c r.2).addDue (.collectiveEnd c (cruSlot x.slot))

/-- The state with a collective's own steps pending. -/
def State.pendCru (s : State) (c : CoreId) (x : Collective) : State :=
  (s.setCru c x).offer (.collectiveEnd c (cruSlot x.slot))

/-- The state after an access of a collective was not performed: it waits, or the collective ends faulted (R320, R323). -/
def State.cruStop (s : State) (c : CoreId) (x : Collective) (e : Stop) : State :=
  match s.engineStop (x.party c) e with
  | .waits t => t.pendCru c x
  | .ends t cause sub tval =>
    (t.engineFault (x.party c) x.scope (idWordOf c x.id) cause sub tval).endCru c
      { x with cause := BitVec.ofNat 8 cause, subcode := BitVec.ofNat 4 sub } 4 0 true

/-! ### Reading and writing elements -/

/-- The bytes of pieces that an engine reads at one point, or why they are not read. -/
def State.enginePieces (s : State) (w : Party) : List (Nat × Nat) → State × Except Stop (List Byte)
  | [] => (s, .ok [])
  | (a, n) :: r =>
    match s.engineRead w a n with
    | (s', .error x) => (s', .error x)
    | (s', .ok bs) =>
      match State.enginePieces s' w r with
      | (s'', .error x) => (s'', .error x)
      | (s'', .ok bs') => (s'', .ok (bs ++ bs'))

/-- The bytes that an engine reads at an address at one point, or why they are not read. -/
def State.readBytes (s : State) (w : Party) (va n : Nat) : State × Except Stop (List Byte) :=
  s.enginePieces w (pagePieces va n (n / 4096 + 2))

/-- The places of pieces that an engine writes, each inside one aligned 128-byte line, or why one has none. -/
def enginePlaces (s : State) (w : Party) : List (Nat × List Byte) → State × Except Stop (List (Place × Nat × List Byte))
  | [] => (s, .ok [])
  | (a, bs) :: r =>
    match enginePlace s w a with
    | (s', .error x) => (s', .error x)
    | (s', .ok p) =>
      match enginePlaces s' w r with
      | (s'', .error x) => (s'', .error x)
      | (s'', .ok l) => (s'', .ok ((p, a, bs) :: l))

/-- The place lies outside the device's memory: a peer's window, or an IO page of the host. -/
def Place.isOutside (p : Place) : Bool :=
  decide (regionOf p.loc = .peer) || (decide (regionOf p.loc = .host) && decide (p.ptype = .io))

/-- Why a write to a place outside the device's memory is not sent, if it is not (R359, R361). -/
def State.outsideStop (s : State) (w : Party) (p : Place) (va : Nat) : Option Stop :=
  if regionOf p.loc = .peer then
    match s.peerRoute (s.fnOf w.die w.asid) (peerParts p.loc).1 with
    | .none => some (.fault 3 3 (BitVec.ofNat 64 va))
    | .unreachable => some (.fault 8 0 (BitVec.ofNat 64 va))
    | .held => some .wait
    | _ => none
  else none

/-- The state after an engine's pieces outside the device's memory are written, or where that stopped. -/
def State.writeOut (s : State) (w : Party) (key : Nat) : List (Place × Nat × List Byte) → State × Option Stop
  | [] => (s, none)
  | (p, a, bs) :: r =>
    match s.engineWrite w key p a [(a, bs)] with
    | (s', some x) => (s', some x)
    | (s', none) => State.writeOut s' w key r

/-- The state after an engine has written pieces, each inside one aligned 128-byte line, all or none, or why it has written none
(R373). -/
def State.writeAll (s : State) (w : Party) (key : Nat) (ps : List (Nat × List Byte)) : State × Option Stop :=
  match enginePlaces s w ps with
  | (s', .error x) => (s', some x)
  | (s', .ok l) =>
    match l.findSome? fun x => s'.outsideStop w x.1 x.2.1 with
    | some x => (s', some x)
    | none =>
      match s'.engineRuns w ((l.filter fun x => !x.1.isOutside).map fun x => (x.1, BitVec.ofNat 64 x.2.1, x.2.2)) with
      | (t, some x) => (t, some x)
      | (t, none) =>
        match t.writeOut w key (l.filter fun x => x.1.isOutside) with
        | (_, some x) => (s', some x)
        | (u, none) => (u, none)

/-- Bytes at an address cut at 128-byte lines. -/
def lineRuns (va : Nat) (bs : List Byte) : List (Nat × List Byte) :=
  (cutLines va bs.length 0 (bs.length / 128 + 2)).map fun x => (x.1, (bs.drop x.2.2).take x.2.1)

/-- The number that element codes of a width make, the first lowest. -/
def packCodes (bits : Nat) : List Word → Nat
  | [] => 0
  | c :: r => c.toNat % 2 ^ bits + 2 ^ bits * packCodes bits r

/-- Element codes from element `first` of an operand on, cut into the elements that begin in one 128-byte line. -/
def lineElems (base bits : Nat) : Nat → Nat → List Word → List (Nat × List Word)
  | 0, _, _ => []
  | k + 1, first, l =>
    if l = [] then []
    else
      let a := base + first * bits / 8
      let left := ((a / 128 + 1) * 128 - base) * 8
      let m := max 1 ((left + bits - 1) / bits - first)
      (first, l.take m) :: lineElems base bits k (first + m) (l.drop m)

/-- The state with element codes written from element `first` of an operand on, all or none; a packed byte keeps its other half
(R179). -/
def State.writeElems (s : State) (w : Party) (key base : Nat) (fmt : BitVec 8) (first : Nat) (codes : List Word) :
    State × Option Stop :=
  let b := fmtBits fmt
  let lo := first * b / 8
  let skip := first * b % 8
  let len := (skip + codes.length * b + 7) / 8
  let v := packCodes b codes * 2 ^ skip
  if skip = 0 ∧ codes.length * b % 8 = 0 then s.writeAll w key (lineRuns (base + lo) (leBytes len v))
  else
    match s.readBytes w (base + lo) len with
    | (s', .error x) => (s', some x)
    | (s', .ok old) =>
      let o := leNat old
      let kept := o - bitsOf o skip (codes.length * b) * 2 ^ skip
      s'.writeAll w key (lineRuns (base + lo) (leBytes len (kept + v)))

/-! ### Start (R194, R195, R368, R369) -/

/-- A code as an fp32 word. -/
def fp32Word (x : FpNum) : Word := BitVec.ofNat 64 (roundFloat fp32 0 0 x)

/-- The value of an fp32 word. -/
def wordNum (w : Word) : FpNum := binaryValue fp32 (w.toNat % 2 ^ 32)

/-- A block of values quantised: each element's code with its block's scale above it, and the new residuals (R195,
R196). -/
def narrowBlock (wire : BitVec 8) (ys : List FpNum) : List (Word × Word) :=
  let q := quantBlock wire 0 1 ys
  List.zipWith
    (fun y code =>
      let back := toFp32 0 (scaleBy q.1 (valueOf wire code))
      let r := match y with
        | .fin _ _ _ => fp32Word (FpNum.add 0 y back.neg)
        | _ => 0
      (BitVec.ofNat 64 (code + q.1 * 2 ^ 8), r)) ys q.2.1

/-- Values quantised in blocks of 32 (R370). -/
def narrowAll (wire : BitVec 8) : Nat → List FpNum → List (Word × Word)
  | 0, _ => []
  | n + 1, l => narrowBlock wire (l.take 32) ++ narrowAll wire n (l.drop 32)

/-- The value of a contribution's element: an fp32 word, or a code with its scale (R194, R197). -/
def Collective.elemNum (x : Collective) (w : Word) : FpNum :=
  if x.desc.nr then
    (let code := w.toNat % 256
     if bitsOf w.toNat 8 8 = 0xFF then .nan else toFp32 0 (scaleBy (bitsOf w.toNat 8 8) (valueOf x.desc.wire code)))
  else wordNum w

/-- A later collective of the ASID that names the same residual buffer waits for this one (R371). -/
def Collective.holds (y x : Collective) : Bool :=
  x.desc.nr && y.desc.nr && decide (y.asid = x.asid) && decide (y.desc.residual = x.desc.residual) &&
    decide (y.number < x.number)

/-- A collective must wait for an earlier one (R371). -/
def State.heldBack (s : State) (x : Collective) : Bool := s.cores.any fun e => e.2.crus.any fun y => y.holds x

/-- What a collective reads of its source and of its residuals (R126, R195). -/
def Collective.inputs (x : Collective) : List (Nat × Nat) :=
  cruSource x.regs.toList x.desc x.ranks x.me ++
    (if x.desc.nr then [(x.buffer.lo.toNat, 4 * x.desc.sources x.ranks x.me)] else [])

/-- Element codes of what a collective has read. -/
def Collective.inputElems (x : Collective) (va : Nat) (fmt : BitVec 8) (n : Nat) : List Nat :=
  (unpack (fmtBits fmt) ((List.range (fmtBytes fmt n)).map fun i => fetchedByte x.got (va + i))).take n

/-- The contribution elements of a rank and its new residuals (R194, R195). -/
def Collective.contribution (x : Collective) : List Word × List Word :=
  let d := x.desc
  let n := d.sources x.ranks x.me
  let codes := x.inputElems (x.regs.get 0).lo.toNat d.src n
  if d.op ≥ 2 then (codes.map (BitVec.ofNat 64 ·), [])
  else if !d.nr then (codes.map fun v => fp32Word (valueOf d.src v), [])
  else
    let rs := x.inputElems x.buffer.lo.toNat fp32 n
    let ys := List.zipWith (fun v r => toFp32 0 (FpNum.add 0 (toFp32 0 (valueOf d.src v)) (binaryValue fp32 r))) codes rs
    let q := narrowAll d.wire (codes.length / 32 + 1) ys
    (q.map Prod.fst, q.map Prod.snd)

/-- A part of a list of elements. -/
def part (l : List Word) (first n : Nat) : List Word := (l.drop first).take n

/-- The state with a collective's contribution sent, unless its paths hold it, and what it keeps. A rank of a broadcast that has
nothing to send shows with a flit that it agrees (R356, R367, R369; assumption log 37). -/
def State.beginCru (s : State) (c : CoreId) (x : Collective) : State :=
  let d := x.desc
  let r := x.contribution
  let elems := r.1
  let y := { x with phase := .gather, residuals := r.2, got := [] }
  if s.cruHeld x then s.pendCru c x
  else if d.op ≤ 1 then
    if x.inSwitch then (s.sendFlit c x x.ranks 0 elems).pendCru c { y with reduced := true }
    else
      let own := x.block x.me
      (x.others.foldl (fun s r => s.sendFlit c x r (x.block r).1 (part elems (x.block r).1 (x.block r).2)) s).pendCru c
        { y with contrib := x.contrib ++ [(x.me, own.1, part elems own.1 own.2)] }
  else
    let y := { y with reduced := true }
    let first := if d.op = 2 then x.me * d.n else 0
    if d.op = 3 ∧ x.me ≠ d.root then (s.sendAll c x 0 []).pendCru c y
    else
      (s.sendAll c x first elems).pendCru c
        { y with results := x.results ++ [(first, elems)], toWrite := x.toWrite ++ [(first, elems)] }

/-- The state after a collective has read one more sector of what it reads, at a point of its own and in an order that is open, or
sent its contribution once all are read (R126; assumption log 1). -/
def State.readCru (s : State) (c : CoreId) (x : Collective) : State :=
  let rest := (sectorsOf x.inputs).filter fun k => !hasSector x.got k
  match rest[(Config.freeWord s.tick).toNat % rest.length]? with
  | none => s.beginCru c x
  | some k =>
    let part := sectorPart x.inputs k
    match s.fetchSector (x.party c) part.1 part.2 with
    | (s', .ok g) => s'.pendCru c { x with got := x.got ++ [g] }
    | (s', .error e) => (s'.undo s).cruStop c x e

/-- The state after a collective's start: its group and paths are read once (R368). -/
def State.startCru (s : State) (c : CoreId) (x : Collective) : State :=
  match s.group x.f x.desc.group with
  | none => s.endCru c x 3 1 true
  | some g =>
    let x := { x with paths := s.pathsOf g }
    if !s.membersUp x.f g then s.endCru c x 3 1 true
    else
      let sw := s.switchPath g
      s.readCru c
        { x with phase := .reading, state := 1, inSwitch := sw, switch := if sw then s.pathSwitch x.f g else none }

/-! ### Progress (R194, R369, R373) -/

/-- The element of a rank's contribution at an index. -/
def Collective.contribAt (x : Collective) (r i : Nat) : Option Word :=
  x.contrib.findSome? fun e =>
    if e.1 = r ∧ e.2.1 ≤ i ∧ i < e.2.1 + e.2.2.length then e.2.2[i - e.2.1]? else none

/-- The sum of all ranks' contributions to an element as a destination code, if all are in (R194). -/
def Collective.sumAt (x : Collective) (i : Nat) : Option Word :=
  let l := (List.range x.ranks).map fun r => x.contribAt r i
  if l.all Option.isSome then
    some (BitVec.ofNat 64 (roundTo x.desc.dst x.desc.rnd x.desc.sat
      (treeSum 0 12 (l.map fun e => some (x.elemNum (e.getD 0))))))
  else none

/-- The codes of the device's own block, if every contribution to it is in. -/
def Collective.ownSum (x : Collective) : Option (List Word) :=
  let b := x.block x.me
  let l := (List.range b.2).map fun k => x.sumAt (b.1 + k)
  if l.all Option.isSome then some (l.map fun e => e.getD 0) else none

/-- The state with the device's own block summed, and the result sent (R369). -/
def State.reduceCru (s : State) (c : CoreId) (x : Collective) : State × Collective :=
  if x.reduced then (s, x)
  else
    match x.ownSum with
    | none => (s, x)
    | some l =>
      let first := if x.desc.op = 1 then 0 else (x.block x.me).1
      let x' := { x with reduced := true, results := x.results ++ [(first, l)], toWrite := x.toWrite ++ [(first, l)] }
      (if x.desc.op = 0 then s.sendAll c x first l else s, x')

/-- The address of the operand that results are written to: STAGE until a staged collective commits, else DST
(R130). -/
def Collective.target (x : Collective) : Nat := if x.desc.staged then (x.regs.get 2).lo.toNat else (x.regs.get 1).lo.toNat

/-- The state with runs of results written, each within what begins in one line, or where the writing stopped; they count once they
are die-visible (R128, R321, R374). -/
def State.writeRunsOf (s : State) (c : CoreId) (x : Collective) :
    List (Nat × List Word) → State × Collective × Option Stop
  | [] => (s, { x with toWrite := [] }, none)
  | (first, l) :: r =>
    match s.writeElems (x.party c) (engineKey c 1 x.slot) x.target x.desc.dst first l with
    | (s', some e) => (s', { x with toWrite := (first, l) :: r }, some e)
    | (s', none) => State.writeRunsOf s' c { x with flying := x.flying + l.length } r

/-- The state with the received results written, or where the writing stopped. -/
def State.writeResults (s : State) (c : CoreId) (x : Collective) : State × Collective × Option Stop :=
  s.writeRunsOf c x (x.toWrite.flatMap fun r => lineElems x.target (fmtBits x.desc.dst) r.2.length r.1 r.2)

/-- All destination elements are written and counted. -/
def Collective.full (x : Collective) : Bool := x.reduced && decide (x.written = x.desc.targets x.ranks)

/-- The other ranks all agree as far as their flits show, or the switch has seen to it (R367, R369; assumption log 37). -/
def Collective.agreed (x : Collective) : Bool := (x.inSwitch && decide (x.desc.op ≤ 1)) || x.others.all fun r => x.heads.contains r

/-- The residuals that a collective that is done writes, cut at lines; a killed one writes none (R371). -/
def Collective.residualRuns (x : Collective) : List (Nat × List Byte) :=
  if x.desc.nr ∧ !x.kill then lineRuns x.buffer.lo.toNat (leBytes (4 * x.residuals.length) (packCodes 32 x.residuals)) else []

/-- The state after a collective with every element written has written its residuals, all or none, and ended as done; one that a kill
reached after it had committed ends as killed (R165, R371, R373). -/
def State.doneCru (s : State) (c : CoreId) (x : Collective) : State :=
  match s.writeAll (x.party c) (engineKey c 1 x.slot) x.residualRuns with
  | (s', some e) => s'.cruStop c x e
  | (s', none) => s'.endCru c x (if x.kill then 5 else 2) 0 false

/-- The state after a committed collective has written its destination, all or none; its end follows once that is die-visible
(R128, R373). -/
def State.finishCru (s : State) (c : CoreId) (x : Collective) (ps : List (Nat × List Byte)) : State :=
  match s.writeAll (x.party c) (engineKey c 1 x.slot) ps with
  | (s', some e) => s'.cruStop c x e
  | (s', none) => s'.pendCru c { x with phase := .written, flying := x.desc.targets x.ranks }

/-- The state after a committed collective has written its destination from STAGE (R130, R373). -/
def State.commitCru (s : State) (c : CoreId) (x : Collective) : State :=
  let d := x.desc
  let x := { x with phase := .committed, written := 0 }
  match s.readBytes (x.party c) (x.regs.get 2).lo.toNat (fmtBytes d.dst (d.targets x.ranks)) with
  | (s', .error e) => (s'.undo s).cruStop c x e
  | (s', .ok bs) =>
    let n := d.targets x.ranks * fmtBits d.dst
    let dst := (x.regs.get 1).lo.toNat
    if n % 8 = 0 then s'.finishCru c x (lineRuns dst bs)
    else
      match s'.readBytes (x.party c) (dst + n / 8) 1 with
      | (s'', .error e) => (s''.undo s).cruStop c x e
      | (s'', .ok old) =>
        let last := leNat (bs.drop (n / 8)) % 2 ^ (n % 8) + leNat old / 2 ^ (n % 8) * 2 ^ (n % 8)
        s''.finishCru c x (lineRuns dst (bs.take (n / 8) ++ leBytes 1 last))

/-- The state of the leader once it holds every ready message: commit to every other rank, then its own destination
(R373). -/
def State.leadCru (s : State) (c : CoreId) (x : Collective) : State :=
  if x.me = 0 ∧ x.phase = .sentReady ∧ (List.range x.ranks).all (x.readies.contains ·) then
    if s.cruHeld x then s.pendCru c x else (s.send (.commit c x.slot)).commitCru c x
  else s.setCru c x

/-- The state after a collective's results are written: done once every other rank agrees, or ready to commit (R367, R371,
R373). -/
def State.settleCru (s : State) (c : CoreId) (x : Collective) : State :=
  if x.flying ≠ 0 then s.pendCru c x
  else if !x.full ∨ !x.agreed ∨ x.phase ≠ .gather then s.leadCru c x
  else if !x.desc.staged then s.doneCru c x
  else if x.me = 0 then s.leadCru c { x with phase := .sentReady, readies := setIns x.readies 0 }
  else if s.cruHeld x then s.pendCru c x
  else (s.send (.ready c x.slot)).setCru c { x with phase := .sentReady }

/-- A collective has a block's result to send, and its paths hold it (R356, R369). -/
def State.resultHeld (s : State) (x : Collective) : Bool :=
  decide (x.desc.op = 0) && !x.reduced && x.ownSum.isSome && s.cruHeld x

/-- The state after a collective has gone on as far as what it holds allows (R165, R369, R371, R373). -/
def State.advanceCru (s : State) (c : CoreId) (x : Collective) : State :=
  let r := s.landCru c x
  let s := r.1
  let x := r.2
  if x.phase = .written then s.doneCru c x
  else if x.phase = .committed then s.commitCru c x
  else if x.kill then s.endCru c x 5 0 true
  else if x.phase = .queued then (if s.heldBack x then s.pendCru c x else s.startCru c x)
  else if x.phase = .reading then s.readCru c x
  else if s.resultHeld x then s.pendCru c x
  else
    let r := s.reduceCru c x
    match r.1.writeResults c r.2 with
    | (s', x', some e) => s'.cruStop c x' e
    | (s', x', none) => s'.settleCru c x'

/-! ### Messages (R367, R369, R373) -/

/-- The flit is one that this rank expects: otherwise the ranks do not agree (R367, R369). -/
def Collective.expects (x : Collective) (kind : FlitKind) (rank first n : Nat) : Bool :=
  let d := x.desc
  let own := x.block x.me
  let other := x.block rank
  let within := fun (lo len : Nat) => decide (lo ≤ first) && decide (first + n ≤ lo + len)
  match kind with
  | .contribution => decide (d.op ≤ 1) && !x.inSwitch && decide (rank < x.ranks) && decide (rank ≠ x.me) && within own.1 own.2
  | .result =>
    match d.op with
    | 0 => if x.inSwitch then within 0 d.n else decide (rank < x.ranks) && decide (rank ≠ x.me) && within other.1 other.2
    | 1 => x.inSwitch && within 0 d.n
    | 2 => decide (rank < x.ranks) && decide (rank ≠ x.me) && within (rank * d.n) d.n
    | _ => decide (rank = d.root) && decide (x.me ≠ d.root) && within 0 d.n

/-- Two runs of elements meet. -/
def runsMeet (a n b m : Nat) : Bool := decide (a < b + m) && decide (b < a + n)

/-- The collective with a flit's data kept, once (R369). -/
def Collective.keep (x : Collective) (kind : FlitKind) (rank first : Nat) (data : List Word) : Collective :=
  match kind with
  | .contribution =>
    if x.contrib.any fun e => decide (e.1 = rank) && runsMeet e.2.1 e.2.2.length first data.length then x
    else { x with contrib := x.contrib ++ [(rank, first, data)] }
  | .result =>
    if x.results.any fun e => runsMeet e.1 e.2.length first data.length then x
    else { x with results := x.results ++ [(first, data)], toWrite := x.toWrite ++ [(first, data)] }

/-- A flit agrees with this rank; before its start the rank does not know which path it takes (R367, R368). -/
def Collective.accepts (x : Collective) (flit : Flit) (rank first n : Nat) : Bool :=
  decide (flit.head = x.head) &&
    (x.expects flit.kind rank first n || (decide (x.phase = .queued) && ({ x with inSwitch := true } : Collective).expects flit.kind rank first n))

/-- The collective with a rank noted as one that agrees (R367). -/
def Collective.noteHead (x : Collective) (rank : Nat) : Collective :=
  if rank < x.ranks ∧ rank ≠ x.me then { x with heads := setIns x.heads rank } else x

/-- Flits of a collective received by this rank (R369); ranks that do not agree end with link code 6. A flit without elements says
only that its rank agrees. A flit of another of the group's collectives is none of this one's (R367; assumption log 37). -/
def execCollectiveFlit (c : CoreId) (slot : Fin 4) (flit : Flit) (rank first : Nat) (data : List Word) (s : State) :
    Host.Outcome State Fault Refusal :=
  match (s.core c).cruIn slot.val with
  | none => .next s
  | some x =>
    if x.state.toNat ≥ 2 ∨ x.decided ∨ flit.head.k ≠ x.k then .next s
    else if flit.head ≠ x.head ∨ (data ≠ [] ∧ !x.accepts flit rank first data.length) then .next (s.endCru c x 3 6 true)
    else
      let x := (if data = [] then x else x.keep flit.kind rank first data).noteHead rank
      .next (if x.phase = .queued ∨ x.phase = .reading then s.setCru c x else s.advanceCru c x)

/-- The leader receives a ready message and, once all are in, sends commit (R373). -/
def execCollectiveReady (c : CoreId) (slot : Fin 4) (rank : Nat) (s : State) : Host.Outcome State Fault Refusal :=
  match (s.core c).cruIn slot.val with
  | none => .next s
  | some x =>
    if x.state.toNat ≥ 2 ∨ !x.desc.staged ∨ x.me ≠ 0 ∨ rank ≥ x.ranks ∨ rank = 0 ∨ x.decided then .next s
    else .next (s.leadCru c { x with readies := setIns x.readies rank })

/-- A rank that has sent ready receives commit: its destination is written from STAGE (R130, R373). -/
def execCollectiveCommit (c : CoreId) (slot : Fin 4) (s : State) : Host.Outcome State Fault Refusal :=
  match (s.core c).cruIn slot.val with
  | none => .next s
  | some x =>
    if x.state.toNat ≥ 2 ∨ x.phase ≠ .sentReady ∨ x.me = 0 then .next s else .next (s.commitCru c x)

/-- A rank receives an abort: it ends aborted with link code 4, or 6 where the ranks do not agree; the leader passes it on
(R367, R372, R373). -/
def execCollectiveAbort (c : CoreId) (abort : AbortFlit) (s : State) : Host.Outcome State Fault Refusal :=
  match (s.core c).cruIn abort.slot.val with
  | none => .next s
  | some x =>
    if x.state.toNat ≥ 2 ∨ x.decided then .next s
    else .next (s.endCru c x 3 (if abort.mismatch then 6 else 4) (x.desc.staged && decide (x.me = 0)))

/-- The rank still awaits flits of another (R367). -/
def Collective.awaits (x : Collective) : Bool :=
  match x.phase with
  | .queued => decide (x.ranks > 1)
  | .reading => decide (x.ranks > 1)
  | .gather =>
    !x.reduced || !x.agreed ||
      decide (x.written + x.flying + x.toWrite.foldl (fun n e => n + e.2.length) 0 < x.desc.targets x.ranks)
  | .sentReady => true
  | .committed => false
  | .written => false

/-- Timeout: the rank ends aborted with code 1, or with code 5 if it has sent ready and awaits only the decision
(R367, R373). -/
def execCollectiveTimeout (c : CoreId) (slot : Fin 4) (s : State) : Host.Outcome State Fault Refusal :=
  match (s.core c).cruIn slot.val with
  | none => .next s
  | some x =>
    if x.state.toNat ≥ 2 ∨ !x.awaits then .next s
    else if x.phase = .sentReady ∧ x.me ≠ 0 then .next (s.endCru c x 3 5 false)
    else .next (s.endCru c x 3 1 true)

/-! ### End (R127, R323, R371) -/

/-- A collective that has ended performs its completion add, unless it was killed; once its writes and the add are performed at
`dev` and its abort is sent, its death is counted and its slot is free (R127, R153, R323). -/
def State.buryCru (s : State) (c : CoreId) (x : Collective) : State :=
  let w := x.party c
  let ctr := x.regs.get 6
  let skip := decide (x.state = 5) || x.kill || decide (ctr = CapReg.zero)
  match (if x.added then (s, true)
      else s.tryAdd w c x.carried (engineKey c 1 x.slot) x.desc.scope skip ctr.lo (x.regs.get 7).lo x.scope (idWordOf c x.id)) with
  | (t, false) => t.pendCru c x
  | (t, true) =>
    let t := t.performOf w.who
    if t.pendingOn w.who ≠ 0 ∨ x.tell.isSome then t.pendCru c { x with added := true }
    else (t.modCore c fun y => { y with crus := y.crus.filter fun z => !decide (z.slot = x.slot) }).engineDone w x.scope

/-- The own steps of a collective: it goes on, or, once it has ended, makes its completion add and dies (R127, R323). -/
def execCollectiveEnd (c : CoreId) (slot : Fin 4) (s : State) : Host.Outcome State Fault Refusal :=
  match (s.core c).cruIn slot.val with
  | none => .next s
  | some x =>
    if x.state.toNat < 2 then .next (s.advanceCru c x)
    else
      let r := s.tellCru c x
      .next (r.1.buryCru c r.2)

end Sys2Proof.Machine
end

