-- ==== Sys2Proof/Machine/System.lean ====
section
/-!
DEFINITION. System instructions, major 0x3C, status and control registers, major 0x3D, and the taking of an interrupt and
of an illegal word (spec/16_system_isa.md R325 to R335, spec/17_traps.md R338, spec/11_encoding.md R217).
-/
namespace Sys2Proof.Machine

/-! ### Status and control registers (R332) -/

/-- The rights of a mode over a register (R332). -/
inductive CsrRight where
  | none | read | write
  deriving DecidableEq, Repr

/-- The registers of R332. -/
inductive Csr where
  | status | cause | epc | tval | tvec | idem | scope | sctb | asid | strand | team | core | cycle | time | astb | pstatus
  | fqctr
  deriving DecidableEq, Repr

/-- The register of a number, if the table lists it (R332). -/
def csrOf (n : BitVec 10) : Option Csr :=
  match n.toNat with
  | 0x000 => some .status
  | 0x001 => some .cause
  | 0x002 => some .epc
  | 0x003 => some .tval
  | 0x004 => some .tvec
  | 0x005 => some .idem
  | 0x010 => some .scope
  | 0x011 => some .sctb
  | 0x012 => some .asid
  | 0x013 => some .strand
  | 0x014 => some .team
  | 0x015 => some .core
  | 0x020 => some .cycle
  | 0x021 => some .time
  | 0x030 => some .astb
  | 0x031 => some .pstatus
  | 0x032 => some .fqctr
  | _ => Option.none

/-- What a user strand may do (R332, column U). -/
def Csr.user : Csr → CsrRight
  | .status => .write
  | .idem => .read
  | .scope => .read
  | .sctb => .read
  | .asid => .read
  | .strand => .read
  | .team => .read
  | .core => .read
  | .cycle => .read
  | .time => .read
  | _ => .none

/-- What a privileged strand may do (R332, column P). -/
def Csr.privileged : Csr → CsrRight
  | .strand => .read
  | .team => .read
  | .core => .read
  | .cycle => .read
  | .time => .read
  | _ => .write

/-- The value of a register of the issuing strand (R332). -/
def State.csr (s : State) (r : Csr) : Word :=
  let t := s.cur
  match r with
  | .status => t.status
  | .cause => t.cause
  | .epc => t.epc
  | .tval => t.tval
  | .tvec => t.tvec
  | .idem => t.idem
  | .scope => t.scope
  | .sctb => t.sctb &&& 0x000FFFFFFFFFF01F
  | .asid => t.asid.setWidth 64
  | .strand => t.strandNo.setWidth 64
  | .team => t.team
  | .core => BitVec.ofNat 64 t.core.val
  | .cycle => (s.core t.core).cycle
  | .time => s.time
  | .astb => s.astb
  | .pstatus => t.pstatus
  | .fqctr => (s.die s.myDie).fqctr

/-- The fields of STATUS's layout (R333). -/
def statusMask : Word := 0x0000FFFFFF0F00E9

/-- STATUS after a write within its limits (R333): PRV stays, QLOW can only be cleared, and Shield and IE take effect only
from a privileged strand. -/
def writeStatus (old v : Word) (priv : Bool) : Word :=
  let keep : Word := if priv then 0x1 else 0x00000000000F0009
  let clear : Word := 0x40
  (old &&& keep) ||| (v &&& statusMask &&& ~~~keep &&& ~~~clear) ||| (old &&& v &&& clear)

/-- The state with a register of the issuing strand written within its limits; a zero field ignores the write
(R332, R333). -/
def State.setCsr (s : State) (r : Csr) (v : Word) : State :=
  match r with
  | .status => s.modCur fun t => { t with status := writeStatus t.status v s.priv }
  | .cause => s.modCur fun t => { t with cause := v &&& 0xFFFF }
  | .epc => s.modCur fun t => { t with epc := v &&& ~~~3 }
  | .tval => s.modCur fun t => { t with tval := v }
  | .tvec => s.modCur fun t => { t with tvec := v &&& 0x0000FFFFFFFFFFFC }
  | .idem => s.modCur fun t => { t with idem := v &&& 0x0000FFFFFFFFFFFF }
  | .scope => s.modCur fun t => { t with scope := v &&& 0xFFFFFFFF }
  | .sctb => s.modCur fun t => { t with sctb := v &&& 0x000FFFFFFFFFF01F }
  | .asid => s.modCur fun t => { t with asid := v.setWidth 12 }
  | .pstatus => s.modCur fun t => { t with pstatus := v &&& statusMask }
  | .astb =>
    let b : Word := v &&& 0x000FFFFFFFFC0000
    { s with astb := b, bootMap := s.bootMap || (decide (s.astb = 0) && decide (b ≠ 0)) }
  | .fqctr => s.modDie s.myDie fun x => { x with fqctr := v &&& 0x000FFFFFFFFFFFF8 }
  | _ => s

/-- The cause that an access to a register takes, if it is not allowed (R332). -/
def State.csrFault (s : State) (n : BitVec 10) (write : Bool) : Option Nat :=
  match csrOf n with
  | Option.none => some 1
  | some r =>
    match (if s.priv then r.privileged else r.user) with
    | .none => some 0x0E
    | .write => Option.none
    | .read => if !write then Option.none else if !s.priv ∧ r.privileged = .write then some 0x0E else some 1

/-- A CSR instruction: rights first, then a malformed source, then the old value to d and, for a form that writes, the new
value to the register (R224, R335). -/
def csrOp (i : Instr) (g : Gap) (reads : List RegName) (d : CIdx) (n : BitVec 10) (write : Bool)
    (new : State → Word → Word) (s : State) : Host.Outcome State Fault Refusal :=
  let form : Form := { plain i g reads [.c d] Option.none with mild := true }
  form.run s fun s =>
    match s.csrFault n write, csrOf n, form.badSource s.cur with
    | some c, _, _ => .fault s c 0 (if c = 1 then i.word.setWidth 64 else 0)
    | Option.none, Option.none, _ => .fault s 1 0 (i.word.setWidth 64)
    | Option.none, some _, some c => .fault s.registerError 2 3 c.lo
    | Option.none, some r, Option.none =>
      let old := s.csr r
      .done ((if write then s.setCsr r (new s old) else s).setX d old)

/-- `csrr` (R335). -/
def execCsrr (g : Gap) (d : CIdx) (n : BitVec 10) (s : State) : Host.Outcome State Fault Refusal :=
  csrOp (.csrr g d n) g [] d n false (fun _ old => old) s

/-- `csrw` (R335). -/
def execCsrw (g : Gap) (d a : CIdx) (n : BitVec 10) (s : State) : Host.Outcome State Fault Refusal :=
  csrOp (.csrw g d a n) g [.c a] d n true (fun s _ => s.x a) s

/-- `csrs` (R335). -/
def execCsrs (g : Gap) (d a : CIdx) (n : BitVec 10) (s : State) : Host.Outcome State Fault Refusal :=
  csrOp (.csrs g d a n) g [.c a] d n true (fun s old => old ||| s.x a) s

/-- `csrc` (R335). -/
def execCsrc (g : Gap) (d a : CIdx) (n : BitVec 10) (s : State) : Host.Outcome State Fault Refusal :=
  csrOp (.csrc g d a n) g [.c a] d n true (fun s old => old &&& ~~~(s.x a)) s

/-! ### System instructions (R326 to R331) -/

/-- What a privileged instruction does; a user strand takes cause 0x0E (R325). -/
def privOnly (s : State) (f : State → Res) : Res := if s.priv then f s else .fault s 0x0E 0 0

/-- `sys.call`: a birth, a suspension with the call word in Carry, and a request to the die's Bench cores (R326, R385). -/
def execSysCall (g : Gap) (a : CIdx) (s : State) : Host.Outcome State Fault Refusal :=
  (plain (.sysCall g a) g [.c a] [] none).run s fun s =>
    s.released s 3 fun s =>
      match s.memberBirth s.cur.asid s.ownScope s.cur.birth with
      | (s', some e) => birthFault s' s.cur.asid s.ownScope e
      | (s', none) =>
        .away ((s'.suspendCur (s.cur.pc + 4) (s.x a).toNat 0 0).benchPush s.myDie (s.fnOf s.myDie s.cur.handle.asid)
          (.call s.cur.handle s.cur.asid s.ownScope (s.x a)))

/-- `trap` (R327). -/
def execTrap (g : Gap) (a : CIdx) (s : State) : Host.Outcome State Fault Refusal :=
  (plain (.trap g a) g [.c a] [] none).run s fun s =>
    .trap s { cause := 0x10, subcode := 0, tval := s.x a, epc := s.cur.pc + 4 }

/-- `brk` (R327). -/
def execBrk (g : Gap) (s : State) : Host.Outcome State Fault Refusal :=
  (plain (.brk g) g [] [] none).run s fun s => .trap s { cause := 0x0C, subcode := 0, tval := 0, epc := s.cur.pc }

/-- `eret` (R328). -/
def execEret (g : Gap) (s : State) : Host.Outcome State Fault Refusal :=
  (plain (.eret g) g [] [] none).run s fun s => privOnly s fun s => .away (s.modCur Strand.leaveHandler)

/-- `yield`: a voluntary suspension with c5 in Carry, the record at the top of its core's deque (R329). -/
def execYield (g : Gap) (s : State) : Host.Outcome State Fault Refusal :=
  Form.run { plain (.yield g) g [] [] none with point := true } s fun s =>
    s.released s 3 fun s =>
      .away ((s.suspendCur (s.cur.pc + 4) (s.x 5).toNat 0 0).readyOr s.cur.handle fun t =>
        t.pushTop s.cur.core s.cur.prio.toNat s.cur.handle)

/-- The first scope that a strand opened and that is still open or cancelled (R157). -/
def State.openScopeOf (s : State) (rec : Nat) : Option (BitVec 32) :=
  ((s.openedBy rec).find? fun e => decide (e.2.state = .opened) || decide (e.2.state = .cancelled)).map fun e => e.2.id

/-- `halt` (R157, R330): the strand's accesses are performed at `dev` first; a completion add of its launch that releases at `sys` waits
on its own (R145). -/
def execHalt (g : Gap) (s : State) : Host.Outcome State Fault Refusal :=
  (plain (.halt g) g [] [] none).run s fun s =>
    match s.openScopeOf s.cur.handle.addr with
    | some id => .trap (s.closeOpened s.cur.handle.addr) (s.trapAt 7 0 (id.setWidth 64))
    | none =>
      s.released s 3 fun s => if s.endWaits s.cur false then .stall (s.askPosted s.cur) else .away s.retireCur

/-- The state without the translations and the walk pointers of an ASID that cover an address (R36, R331). -/
def State.dropTranslation (s : State) (id : Asid) (va : Nat) : State :=
  { s with
    tlb := s.tlb.filter fun e => !(decide (e.asid = id) && decide (e.base ≤ va) && decide (va < e.base + 2 ^ e.bits))
    walks := s.walks.filter fun e => !(decide (e.asid = id) && decide (e.top = topOf va e.level)) }

/-- The state without the translations, the walk pointers and the cached descriptor of an ASID (R13, R331). -/
def State.dropAsid (s : State) (id : Asid) : State :=
  { s with
    tlb := s.tlb.filter fun e => !decide (e.asid = id)
    walks := s.walks.filter fun e => !decide (e.asid = id)
    descs := s.descs.filter fun e => !decide (e.asid = id) }

/-- `tlb.inv` (R36, R331); it orders later accesses as `fence.dev` does (R331). -/
def execTlbInv (g : Gap) (a b : CIdx) (s : State) : Host.Outcome State Fault Refusal :=
  (plain (.tlbInv g a b) g [.c a, .c b] [] none).run s fun s =>
    privOnly s fun s =>
      let s := s.fenceAcquire 3
      s.released s 3 fun s => .done ((s.dropTranslation ((s.x b).setWidth 12) ((s.x a).toNat % 2 ^ 48)).fenced 3)

/-- `tlb.all`; for ASID 0 it ends the boot map (R13, R331, R404). -/
def execTlbAll (g : Gap) (a : CIdx) (s : State) : Host.Outcome State Fault Refusal :=
  (plain (.tlbAll g a) g [.c a] [] none).run s fun s =>
    privOnly s fun s =>
      let s := s.fenceAcquire 3
      s.released s 3 fun s =>
        let id : Asid := (s.x a).setWidth 12
        .done (({ s.dropAsid id with bootMap := s.bootMap && !decide (id = 0) }).fenced 3)

/-! ### Interrupts and illegal words -/

/-- The lowest pending interrupt source of a die is taken by its firmware strand (R338, R389). -/
def execInterrupt (d : DieId) (s : State) : Host.Outcome State Fault Refusal :=
  match (s.die d).ints with
  | [] => .next s
  | k :: rest =>
    if s.priv ∧ s.cur.ie ∧ s.myDie = d then
      .next ((s.modDie d fun x => { x with ints := rest }).modCur fun t =>
        t.enterHandler { cause := 0x11, subcode := 0, tval := BitVec.ofNat 64 k, epc := t.pc })
    else .next s

/-- A word that is no instruction: cause 0x01 with the word; a pending format code word is cleared (R209, R217). -/
def execIllegalInstruction (w : BitVec 32) (s : State) : Host.Outcome State Fault Refusal :=
  .next ((s.modCur Strand.clearPfx).takeTrap (s.trapAt 1 0 (w.setWidth 64)))

end Sys2Proof.Machine
end

