-- ==== Sys2Proof/Machine/Resume.lean ====
section
/-!
DEFINITION. How a core takes a record and runs its strand: pops, validity, registers, context blocks, the first run of a
team strand, paired copies, and steals (spec/07_strands.md R132 to R137, R141, R142, spec/09_scheduling.md R171 to R173,
spec/17_traps.md R340, R341, spec/25_reliability.md R400).
-/
namespace Sys2Proof.Machine

/-! ### Records that a core takes (R132, R134, R341) -/

/-- The physical address is that of a 4 KiB-aligned block in HBM (R341). -/
def blockOk (b : Nat) : Bool := decide (b % 4096 = 0) && decide (b + 4096 ≤ hbmTop)

/-- The vector block that a context block names. -/
def State.vecBlock (s : State) (b : Nat) : Nat := s.mem64 (b + 0x430)

/-- The blocks that a record names are such that a core restores them (R341). -/
def State.blocksOk (s : State) (r : Nat) : Bool :=
  let b := s.recCtx r
  decide (b = 0) ||
    (blockOk b && (decide (flagGrant (s.recFlags r) = 0) || (decide (s.vecBlock b ≠ 0) && blockOk (s.vecBlock b))))

/-- The record is valid (R132). -/
def State.recordValid (s : State) (h : Handle) : Bool := s.recordOk h && s.blocksOk h.addr

/-- The team of a record whose Team flag is set. -/
def State.recTeam (s : State) (h : Handle) : Option Team :=
  if flagTeam (s.recFlags h.addr) then s.teamOfRecord h.addr else none

/-- A strand of the boot map, before firmware has written ASTB, has no descriptor to be read (R404). -/
def State.bootStrand (s : State) (h : Handle) : Bool := isFirmware h && decide (s.astb = 0)

/-- The state with a popped handle put back at the bottom of its deque, and the resumption offered again (R137, R172). -/
def State.putBack (s : State) (c : CoreId) (h : Handle) : State :=
  let p := prioIx (s.recPrio h.addr)
  (s.modCore c fun x => { x with deques := x.deques.set p (h :: x.deques.get p) }).kick c

/-- The fault record of an invalid continuation record; its EPC is not stated (R132, R343; assumption log 8). -/
def State.invalidRecord (s : State) (d : DieId) (h : Handle) : FaultRec :=
  { s.blankFault d h.asid 1 7 1 with
    epc := Config.freeWord s.tick
    tval := (s.recScope h.addr).setWidth 64
    record := h.addr
    scope := s.recScope h.addr }

/-- The state after a core took an invalid record: the fault record is posted, or the handle waits for a slot of the queue; a queue with
a Size out of range is reported (R132, R342, R344). -/
def State.takeInvalid (s : State) (c : CoreId) (h : Handle) : State :=
  let s := s.checkQueue (coreDie c) h.asid
  if s.queueReady (coreDie c) h.asid then
    let r := s.invalidRecord (coreDie c) h
    ({ s with tick := s.tick + 1 }.postFault r).1
  else s.putBack c h

/-! ### The register state (R137, R141) -/

/-- A granule of a context block, with its tag from a mask of tags; a malformed one is restored untagged (R341). -/
def State.blockReg (s : State) (a tags i : Nat) : CapReg :=
  CapReg.settle { tag := decide (bitsOf tags i 1 = 1), bits := BitVec.ofNat 128 (s.memN (a + 16 * i) 16) }

/-- A strand with its state restored from a context block (R137 step 3, R340, R341). -/
def State.fromBlock (s : State) (t : Strand) (b : Nat) : Strand :=
  let tags := s.mem64 (b + 0x400)
  let dtags := s.mem64 (b + 0x5D0)
  let v := s.vecBlock b
  { t with
    regs := (Vector.ofFn fun (i : Fin 64) => s.blockReg b tags i.val).set 0 CapReg.zero
    vregs := Vector.ofFn fun (k : Fin 32) =>
      if k.val < 8 * t.grant.toNat then BitVec.ofNat 1024 (s.memN (v + 0x80 * k.val) 128) else 0
    masks := (Vector.ofFn fun (j : Fin 8) => BitVec.ofNat 128 (s.memN (b + 0x440 + 16 * j.val) 16)).set 0
      (BitVec.allOnes 128)
    status := putField (BitVec.ofNat 64 (s.mem64 (b + 0x408)) &&& statusMask) 0 1 (t.status.toNat % 2)
    idem := BitVec.ofNat 64 (s.mem64 (b + 0x410)) &&& 0x0000FFFFFFFFFFFF
    pc := BitVec.ofNat 64 (s.mem64 (b + 0x418)) &&& ~~~3
    lad := Vector.ofFn fun (n : Fin 9) => s.blockReg (b + 0x4C0) (bitsOf dtags 0 9) n.val
    cru := Vector.ofFn fun (n : Fin 8) => s.blockReg (b + 0x550) (bitsOf dtags 16 8) n.val }

/-- The frame capability of strand i of team t of a launch, untagged zero without a frame (R142). -/
def Launch.frameCap (l : Launch) (t i : Nat) : CapReg :=
  if l.frame = 0 then CapReg.zero
  else
    let a := capAddrOf l.arena.bits + (t * l.strands + i) * frameSpan l.frame
    makeCap (capPerms l.arena.bits) a (frameSpan l.frame) a

/-- c2 of a team strand: its frame capability with its address at the frame's top (R141). -/
def Launch.stackCap (l : Launch) (t i : Nat) : CapReg :=
  let c := l.frameCap t i
  if l.frame = 0 then c else { c with bits := withAddr c.bits (c.lo + BitVec.ofNat 64 (frameSpan l.frame)) }

/-- TEAM of a team of a launch (R141). -/
def Launch.teamWord (l : Launch) (t : Nat) : Word :=
  BitVec.ofNat 64 (t % l.dimX + t / l.dimX % l.dimY * 2 ^ 16 + t / l.dimX / l.dimY * 2 ^ 32)

/-- A strand with the registers of its first run (R141). -/
def Strand.firstRun (t : Strand) (l : Launch) (team i : Nat) : Strand :=
  (t.setCreg 2 (l.stackCap team i)).setCreg 4 l.param

/-- The strand that a record describes, resident in a slot of a core, with the register state of R137 step 4. The trap
registers of a privileged strand are not stated after a suspension (assumption log 8). -/
def State.strandOf (s : State) (c : CoreId) (h : Handle) : Strand :=
  let r := h.addr
  let f := s.recFlags r
  let priv := isFirmware h
  let id := s.recScope r
  let team := s.recTeam h
  let open_ := fun (k : Nat) => if priv then Config.freeWord (s.tick + k) else 0
  { run := .ready
    core := c
    slot := s.freeSlot c
    regs := ((Vector.replicate 64 CapReg.zero).set 3 (s.recFrame r)).set 5
      (CapReg.untagged (BitVec.ofNat 64 (s.recCarry r)))
    vregs := Vector.replicate 32 0
    masks := (Vector.replicate 8 0).set 0 (BitVec.allOnes 128)
    grant := BitVec.ofNat 3 (flagGrant f)
    pc := BitVec.ofNat 64 (s.recPc r)
    status := BitVec.ofNat 64 ((if priv then 1 else 0) + bitsOf f 5 1 * 32 + bitsOf f 0 4 * 2 ^ 16)
    cause := open_ 0 &&& 0xFFFF
    epc := open_ 1 &&& ~~~3
    tval := open_ 2
    tvec := open_ 3 &&& 0x0000FFFFFFFFFFFC
    pstatus := open_ 4 &&& statusMask
    idem := 0
    scope := id.setWidth 64
    sctb := if s.bootStrand h then 0 else (s.desc (coreDie c) h.asid).scopeTable
    asid := h.asid
    strandNo := match team with
      | some t => BitVec.ofNat 16 ((r - t.block) / 64)
      | none => 0xFFFF
    team := match team.bind fun t => (s.launchOf t).map fun l => l.teamWord t.index with
      | some w => w
      | none => 0
    lad := Vector.replicate 9 CapReg.zero
    cru := Vector.replicate 8 CapReg.zero
    board := []
    handle := h
    birth := id
    teamFlag := flagTeam f
    prio := BitVec.ofNat 8 (s.recPrio r)
    affinity := BitVec.ofNat 8 (s.recAff r)
    launchId := match team with
      | some t => t.launchId
      | none => 0
    teamId := match team with
      | some t => t.id
      | none => 0
    cancelled := (s.cancelOf h.asid id).isSome
    killed := s.killOf h.asid id
    stopWanted := false
    wait := none
    waitBack := none
    resuming := none
    held := [] }

/-! ### Paired copies (R400) -/

/-- Mesh hops between two clusters of one die (R2, R400). -/
def meshHops (a b : ClusterId) : Nat :=
  let x := a.val % 112
  let y := b.val % 112
  (max (x / 14) (y / 14) - min (x / 14) (y / 14)) + (max (x % 14) (y % 14) - min (x % 14) (y % 14))

/-- The record's scope asks for paired copies (R400). -/
def State.pairWanted (s : State) (h : Handle) : Bool :=
  match s.scopeOf h.asid (s.recScope h.addr) with
  | some (_, r) => r.ts && !isFirmware h
  | none => false

/-- The core that runs a strand's second copy: that of its team's second placement, or the lowest-numbered user core of
the die, two mesh hops away, that has room (R400). -/
def State.twinCore (s : State) (c : CoreId) (h : Handle) : Option CoreId :=
  match s.recTeam h with
  | some t => t.twins[(h.addr - t.block) / 64 % max t.twins.length 1]?
  | none =>
    let d := (coreDie c).val * 448
    ((List.range 448).find? fun k =>
      let y := coreOfNat (d + k)
      s.openCore y && decide (meshHops (coreCluster c) (coreCluster y) ≥ 2) && s.slotFor y none &&
        s.registersFor y none (flagGrant (s.recFlags h.addr))).map fun k => coreOfNat (d + k)

/-- The state with a pair replaced. -/
def State.setPair (s : State) (x : Pair) : State := { s with pairs := s.pairs.map fun p => if p.id = x.id then x else p }

/-- The state with a pair noted for a strand that runs on two cores (R400). -/
def State.addPair (s : State) (t : Strand) (second : CoreId) : State :=
  { s with
    nextId := s.nextId + 1
    pairs := s.pairs ++
      [{ id := s.nextId, asid := t.handle.asid, scope := t.birth, first := t.core, second := second
         strand := t.handle.addr, held := none, forwarded := 0, asked := none, matched := none }] }

/-- The state with a record's strand paired if its scope asks for it; none if no second core has room (R400). -/
def State.pairUp (s : State) (c : CoreId) (h : Handle) (t : Strand) : Option State :=
  if s.pairWanted h then (s.twinCore c h).map fun k => s.addPair t k else some s

/-! ### Strands that end while they are not resident -/

/-- The state with a record's blocks released to the pools of their dies and its context pointer zero (R137, R340). -/
def State.releaseBlocks (s : State) (r : Nat) (grant : BitVec 3) : State :=
  let b := s.recCtx r
  let v := s.vecBlock b
  let s := (s.put64 (r + 56) 0).pushPool (homeDie b) .context b
  if grant = 0 then s else s.pushPool (homeDie v) .context v

/-- The state with the blocks of a strand that will not resume released, if they are such that a core would restore them
(R340; assumption log 20). -/
def State.dropBlocks (s : State) (h : Handle) : State :=
  if s.recCtx h.addr ≠ 0 ∧ s.blocksOk h.addr then
    s.releaseBlocks h.addr (BitVec.ofNat 3 (flagGrant (s.recFlags h.addr)))
  else s

/-- The state after a strand that is not resident has retired (R157, R330, R347). -/
def State.retireSuspended (s : State) (h : Handle) : State :=
  let t := s.strandOf (coreOfNat (s.recCore h.addr)) h
  ((s.dropBlocks h).closeOpened h.addr).strandEnds t false

/-- A handle's strand was born in a killed scope (R165). -/
def State.doomed (s : State) (h : Handle) : Bool := s.killOf h.asid (s.recScope h.addr)

/-! ### Resumption (R137) -/

/-- The state with a strand resident and about to issue. -/
def State.enter (s : State) (t : Strand) : State :=
  { s with cur := t, parked := if s.cur.run = .absent then s.parked else s.cur :: s.parked }

/-- The strand with a pending wait of its record to present again; PC names the `ctr.wait` (R94). -/
def Strand.withWait (t : Strand) (va threshold : Nat) (stopped : Bool) : Strand :=
  if threshold = 0 then t
  else
    { t with
      wait := some { va := BitVec.ofNat 48 va, threshold := BitVec.ofNat 64 threshold }
      pc := if stopped then t.pc else t.pc - 4 }

/-- The strand that a core runs from a record: from its context block, or from the record alone (R137 steps 3 and 4),
with the registers of R141 on its first run. -/
def State.resumed (s : State) (c : CoreId) (h : Handle) : Strand :=
  let t := s.strandOf c h
  let b := s.recCtx h.addr
  if b ≠ 0 then s.fromBlock t b
  else
    match s.recTeam h with
    | none => t
    | some x =>
      let i := (h.addr - x.block) / 64
      if x.fresh.contains i then
        match s.launchOf x with
        | some l => t.firstRun l x.index i
        | none => t
      else t

/-- The state in which a team's strand has run. -/
def State.noteRun (s : State) (h : Handle) : State :=
  { s with teams := s.teams.map fun x =>
      if x.block ≤ h.addr ∧ h.addr < x.block + 4096 then
        { x with fresh := x.fresh.filter fun i => !decide (i = (h.addr - x.block) / 64) }
      else x }

/-- The state at the cancellation point of a resumption with a resume PC: a cancelled strand starts its handler, or retires once it
can; another goes on, a pending wait being presented (R94, R137 steps 5 and 6, R160). A killed strand retires at its first boundary. -/
def State.resumePoint (s : State) (at_ : Word) : State :=
  if s.cur.killed then s
  else if s.cancelDue then s.actOnCancel at_
  else
    let s := s.modCur fun t => { t with resuming := none }
    match s.cur.wait with
    | some w => s.presentWait w
    | none => s

/-- The state after a strand has come to another die: what its earlier accesses saw is what this die sees too, each invalidation on its
way there having been applied (R99, R104). -/
def State.migrate (s : State) (c : CoreId) (r : Nat) : State :=
  if coreDie (coreOfNat (s.recCore r)) = coreDie c then s else s.applyAll (coreDie c)

/-- The state after a core has resumed a valid record for which it has room (R137); a record of its scope's path in a state that no
scope has is reported (R150). -/
def State.resumeRecord (s : State) (c : CoreId) (h : Handle) : State :=
  let r := h.addr
  let s := (s.migrate c r).checkPath h.asid (s.recScope r)
  let t := s.resumed c h
  match s.pairUp c h t with
  | none => s.putBack c h
  | some s =>
    let stopped := decide (s.recCtx r ≠ 0)
    let wait := t.withWait (s.recWait r % 2 ^ 48) (s.recThreshold r) stopped
    let s := if isFirmware h then { s with tick := s.tick + 5 } else s
    let s := if stopped then s.releaseBlocks r t.grant else s
    ((s.noteRun h).enter { wait with resuming := some t.pc }).resumePoint t.pc

/-- The state after a core took a handle from a deque: not run under a dead ASID, refused as invalid, put back for want of
room, or resumed; a killed strand that cannot be run ends (R132, R134, R137). -/
def State.takeRecord (s : State) (c : CoreId) (h : Handle) : State :=
  if !s.bootStrand h ∧ !(s.desc (coreDie c) h.asid).live then
    if s.doomed h then s.retireSuspended h
    else (s.refuse (coreDie c) (some h.asid)).chainAdd .stranded { handle := h, va := 0, caused := false }
  else if !s.recordValid h then (if s.doomed h then s.retireSuspended h else s.takeInvalid c h)
  else if s.slotFor c (s.recTeam h) ∧ s.registersFor c (s.recTeam h) (flagGrant (s.recFlags h.addr)) then
    s.resumeRecord c h
  else s.putBack c h

/-- The bottom entry that the next pop of a core takes, and the state after the pop; none while the core has neither a
free unreserved slot nor a free slot of that entry's team (R172). -/
def State.popDeque (s : State) (c : CoreId) : Option (Handle × State) :=
  let x := s.core c
  match if s.testing 0 c.val then none else x.nextPop (s.pol (coreDie c)).ageing with
  | none => none
  | some (p, age, agedAt) =>
    match x.deques.get p with
    | [] => none
    | h :: r =>
      if s.slotFor c none ∨ s.slotFor c (s.recTeam h) then
        some (h, s.setCore c { x with deques := x.deques.set p r, age := age, agedAt := agedAt })
      else none

/-- The state with the next resumption offered at a core that has entries left, in its deques or spilled (R172). -/
def State.offerNext (s : State) (c : CoreId) : State :=
  if (s.core c).nonEmpty.isEmpty ∧ (s.core c).spills.toList.all List.isEmpty then s else s.kick c

/-- `STRAND_RESUME` (R137); pushes that wait are made first where there is room (R172). -/
def execStrandResume (c : CoreId) (s : State) : Host.Outcome State Fault Refusal :=
  let s := s.refill c
  match s.popDeque c with
  | none => .next s
  | some (h, s') => .next ((s'.takeRecord c h).offerNext c)

/-! ### Steals (R173) -/

/-- A thief may take an entry of a victim (R171, R173). -/
def State.mayTake (s : State) (thief victim : CoreId) (h : Handle) : Bool :=
  match s.affinityOf h.addr with
  | 0 => false
  | 1 =>
    decide (coreCluster thief = coreCluster victim) &&
      match s.recTeam h with
      | some t => t.placed && t.cores.contains thief
      | none => true
  | _ => decide (coreDie thief = coreDie victim)

/-- The priority whose top entry a thief takes from a victim, and that entry (R173). -/
def State.stealable (s : State) (thief victim : CoreId) : Option (Fin 4 × Handle) :=
  (s.core victim).nonEmpty.findSome? fun p =>
    match ((s.core victim).deques.get p).getLast? with
    | some h => if s.mayTake thief victim h then some (p, h) else none
    | none => none

/-- The core sends steal requests: a user core with a free unreserved slot and four empty deques (R173). -/
def State.isThief (s : State) (c : CoreId) : Bool :=
  s.openCore c && s.slotFor c none && (s.core c).nonEmpty.isEmpty && (s.core c).spills.toList.all List.isEmpty

/-- The thief's attempt at a victim finds an entry that it may take (R173). -/
def State.hasFor (s : State) (thief victim : CoreId) : Bool := s.openCore victim && (s.stealable thief victim).isSome

/-- The next core of a thief's own cluster, after its own, that has an entry for it (R173). -/
def State.ownVictim (s : State) (thief : CoreId) : Option CoreId :=
  (([1, 2, 3] : List Nat).map fun k => clusterCore (coreCluster thief) ((thief.val + k) % 4)).find? (s.hasFor thief ·)

/-- The other in-service user cores of a thief's die that its circuit has not come to (R173). -/
def State.unvisited (s : State) (thief : CoreId) : List CoreId :=
  ((List.range 448).map fun k => coreOfNat ((coreDie thief).val * 448 + k)).filter fun v =>
    decide (v ≠ thief) && s.userCore v && !(s.core thief).visited.contains v

/-- The victims that a thief can come to next: a core of its own cluster that has an entry for it, else any core that its circuit
across the die has not come to, since the order is pseudo-random and comes to each once (R173; assumption log 1). -/
def State.stealChoices (s : State) (thief : CoreId) : List CoreId :=
  match s.ownVictim thief with
  | some v => [v]
  | none => s.unvisited thief

/-- The state after a thief has taken the entry that a victim has for it (R172, R173). -/
def State.takeFrom (s : State) (thief victim : CoreId) : State :=
  match s.stealable thief victim with
  | some (p, h) =>
    ((((s.modCore victim fun x => { x with deques := x.deques.set p (x.deques.get p).dropLast }).refill victim).takeRecord thief
      h).offerNext thief).offerNext victim
  | none => s

/-- The state after a thief's circuit has come to a core: one that is complete begins anew, after a wait if it found nothing
(R173). -/
def State.visit (s : State) (thief victim : CoreId) : State :=
  let full := (s.unvisited thief).all fun v => decide (v = victim)
  let found := (s.core thief).stole || s.hasFor thief victim
  s.modCore thief fun x =>
    if full then { x with visited := [], stole := false, stealWait := !found }
    else { x with visited := victim :: x.visited, stole := found }

/-- The state after a thief's attempt at a victim, which it takes an entry from if that has one for it; a thief with no victim at all
waits (R173). -/
def State.stealBy (s : State) (thief victim : CoreId) : State :=
  if s.isThief thief ∧ (s.core thief).stealWait = false then
    match s.ownVictim thief with
    | some v => if v = victim then (s.modCore thief fun x => { x with stole := true }).takeFrom thief v else s
    | none =>
      if (s.unvisited thief).isEmpty then s.modCore thief fun x => { x with visited := [], stole := false, stealWait := true }
      else if (s.unvisited thief).contains victim then
        (if s.hasFor thief victim then (s.visit thief victim).takeFrom thief victim else s.visit thief victim)
      else s
  else s

/-- `STEAL` (R173). -/
def execSteal (thief victim : CoreId) (s : State) : Host.Outcome State Fault Refusal := .next (s.stealBy thief victim)

/-- `STEAL_WAIT_EXPIRY` (R173). -/
def execStealWaitExpiry (c : CoreId) (s : State) : Host.Outcome State Fault Refusal :=
  .next (s.modCore c fun x => { x with stealWait := false })

/-- A thief of a die with entries, as a number picks it; every second turn goes to a thief while there is an entry (R173;
assumption log 1). -/
def State.stealTurn (s : State) (k : Nat) : Option CoreId :=
  if k % 2 = 0 then none
  else
    let l := s.cores.filter fun (e : Nat × Core) => !e.2.nonEmpty.isEmpty
    match l[k / 2 % l.length]? with
    | none => none
    | some (v, _) =>
      let thief := coreOfNat (v / 448 * 448 + k / 2 / l.length % 448)
      if s.isThief thief then some thief else none

/-- The state after a thief's turn: its wait ends, or it makes an attempt at one of the victims that it can come to next (R173). -/
def State.stealStep (s : State) (thief : CoreId) : State :=
  if (s.core thief).stealWait then s.modCore thief fun x => { x with stealWait := false }
  else
    let l := s.stealChoices thief
    s.stealBy thief (l.getD ((Config.freeWord s.tick).toNat % l.length) thief)

end Sys2Proof.Machine
end

