-- ==== Sys2Proof/Machine/Teams.lean ====
section
/-!
DEFINITION. Teams on clusters: the team queues, placement, quanta, swaps and pre-emption requests
(spec/07_strands.md R141 to R143, spec/09_scheduling.md R168 to R171, R175 to R178).
-/
namespace Sys2Proof.Machine

/-! ### Team queues (R170) -/

/-- The launch whose team an entry of a team queue stands for. -/
def State.entryLaunch (s : State) (e : QEntry) : Option Launch :=
  let id := match e with
    | .fresh id _ _ => id
    | .swapped t => ((s.teams.find? fun x => decide (x.id = t)).map Team.launchId).getD 0
  s.launches.find? fun l => decide (l.id = id)

/-- The entries of a die's team queue that belong to a function, with their launches, in arrival order. -/
def State.queuedOf (s : State) (d : DieId) (f : FnId) : List (QEntry × Launch) :=
  (s.die d).teamQ.filterMap fun e => (s.entryLaunch e).bind fun l => if l.f = f then some (e, l) else none

/-- A list with an element before the first one that it precedes. -/
def insertBy {α : Type} (less : α → α → Bool) (a : α) : List α → List α
  | [] => [a]
  | b :: r => if less a b then a :: b :: r else b :: insertBy less a r

/-- The functions with a team queued on a die, the least placed time by weight first, ties to the lower number
(R170). -/
def State.functionOrder (s : State) (d : DieId) : List FnId :=
  let less := fun (a b : FnId) =>
    decide ((s.die d).placed.get a * ((s.pol d).weights.get b).toNat <
      (s.die d).placed.get b * ((s.pol d).weights.get a).toNat)
  ((List.range 64).filterMap fun k => if (s.queuedOf d (fnOfNat k)).isEmpty then none else some (fnOfNat k)).foldl
    (fun l f => insertBy less f l) []

/-- The entry that a function's selection takes on a die, with its launch and the ageing count and aged priority after
it (R170, R172). -/
def State.nextEntry (s : State) (d : DieId) (f : FnId) : Option (QEntry × Launch × Nat × Nat) :=
  let q := s.queuedOf d f
  let levels := ([3, 2, 1, 0] : List (Fin 4)).filter fun p => q.any fun e => decide (prioIx e.2.prio.toNat = p)
  match nextLevel levels ((s.die d).teamAge.get f) ((s.die d).teamAgedAt.get f) (s.pol d).ageing with
  | none => none
  | some (p, age, agedAt) =>
    (q.find? fun e => decide (prioIx e.2.prio.toNat = p)).map fun e => (e.1, e.2, age, agedAt)

/-! ### Clusters that fit (R143, R170, R171) -/

/-- Pages of cluster memory that a team of a launch takes (R143). -/
def Launch.pages (l : Launch) : Nat := (l.kib + 3) / 4

/-- The lowest free run of pages in a cluster's memory, if there is one (R143). -/
def State.freeRun (s : State) (cl : ClusterId) (n : Nat) : Option Nat :=
  let used := (s.cluster cl).allocs
  if n = 0 then some 0
  else
    (List.range (513 - n)).find? fun p => used.all fun a => decide (p + n ≤ a.2.1) || decide (a.2.1 + a.2.2 ≤ p)

/-- A cluster's user cores have the free slots and registers that a team of a launch reserves, and none is under test (R143, R171,
R398). -/
def State.coresFit (s : State) (l : Launch) (cl : ClusterId) : Bool :=
  let cs := s.userCores cl
  let n := slotsPer l.strands (max cs.length 1)
  s.couldHold l cl && cs.all fun c =>
    s.openCore c && decide ((s.unreservedFree c).1 ≥ n) && decide ((s.unreservedFree c).2 ≥ n * (8 * l.grant.toNat))

/-- Free strand slots of a cluster (R170). -/
def State.freeSlots (s : State) (cl : ClusterId) : Nat :=
  (s.userCores cl).foldl (fun a c => a + (s.unreservedFree c).1) 0

/-- The cluster with the most free slots, the lower number among equals. -/
def State.roomiest (s : State) : List ClusterId → Option ClusterId
  | [] => none
  | c :: r =>
    match State.roomiest s r with
    | none => some c
    | some b => if s.freeSlots c ≥ s.freeSlots b then some c else some b

/-- The cluster that a die's policy chooses among fitting ones in ascending order (R170). -/
def State.policyPick (s : State) (d : DieId) (l : List ClusterId) : Option ClusterId :=
  if (s.pol d).pack then l.head? else s.roomiest l

/-- The launch's scope asks for paired copies (R400). -/
def State.pairedLaunch (s : State) (l : Launch) : Bool :=
  match s.scopeOf l.asid l.scope with
  | some (_, r) => r.ts
  | none => false

/-- The clusters of a die on which the second copies of a team may run (R400). -/
def State.twinClusters (s : State) (d : DieId) (l : Launch) (cl : ClusterId) : List ClusterId :=
  (s.openClusters d l.f).filter fun k => decide (meshHops cl k ≥ 2) && s.coresFit l k

/-- Where a team goes. -/
structure Spot where
  cluster : ClusterId
  page0   : Nat
  twins   : List CoreId
  deriving DecidableEq, Repr

/-- The cluster, the pages and the cores of second copies that a team of a launch gets on a die now (R143, R170, R400). -/
def State.spotFor (s : State) (d : DieId) (l : Launch) : Option Spot :=
  let paired := s.pairedLaunch l
  let fits := (s.openClusters d l.f).filter fun cl =>
    s.coresFit l cl && (s.freeRun cl l.pages).isSome && (!paired || !(s.twinClusters d l cl).isEmpty)
  match s.policyPick d fits with
  | none => none
  | some cl =>
    let twins := if paired then match s.policyPick d (s.twinClusters d l cl) with
      | some k => s.userCores k
      | none => []
      else []
    some { cluster := cl, page0 := (s.freeRun cl l.pages).getD 0, twins := twins }

/-- Some in-service cluster in the function's mask on a die could ever hold a team (R143, R170). -/
def State.dieCouldHold (s : State) (d : DieId) (l : Launch) : Bool :=
  !(s.die d).fenced && (s.openClusters d l.f).any fun cl => s.couldHold l cl

/-- An entry has no team block yet and must take one first (R170). -/
def QEntry.needsBlock : QEntry → Bool
  | .fresh _ _ b => decide (b = 0)
  | .swapped _ => false

/-- What a placement does next: an entry takes its team block, or, having one, its team is placed at a spot (R170). -/
inductive PlaceStep where
  | take (e : QEntry)
  | place (f : FnId) (e : QEntry) (l : Launch) (age agedAt : Nat) (p : Spot)
  deriving DecidableEq, Repr

/-- What a die's placement does next, by function in the order of R170: a team first takes a block, and waits while the pool is empty;
one that fits nowhere now is passed over. -/
def State.nextStep (s : State) (d : DieId) : Option PlaceStep :=
  (s.functionOrder d).findSome? fun f =>
    match s.nextEntry d f with
    | none => none
    | some (e, l, age, agedAt) =>
      if e.needsBlock then (if (s.die d).teamPool.count = 0 then none else some (.take e))
      else (s.spotFor d l).map fun p => .place f e l age agedAt p

/-- The spot of the team that a die's placement would select now, blocks being taken on the way (R170, R175). -/
def State.nextSpot (s : State) (d : DieId) : Option Spot :=
  (s.functionOrder d).findSome? fun f =>
    match s.nextEntry d f with
    | none => none
    | some (e, l, _, _) => if e.needsBlock ∧ (s.die d).teamPool.count = 0 then none else s.spotFor d l

/-! ### Placing a team (R141, R142, R143, R175) -/

/-- The core of strand i of a team on cores (R143). -/
def coreFor (cores : List CoreId) (i : Nat) : CoreId := cores.getD (i % max cores.length 1) 0

/-- The state with the record of strand i of a new team written (R141). -/
def State.birthRecord (s : State) (l : Launch) (team block i : Nat) (core : CoreId) : State :=
  let r := block + 64 * i
  let q1 := l.scope.toNat + (0x800 + l.grant.toNat * 64) * 2 ^ 32 + l.prio.toNat * 2 ^ 48 + 2 ^ 56
  let s := (s.put64 r l.entry.toNat).put64 (r + 8) q1
  let s := s.putC (r + 16) (l.frameCap team i)
  s.put64 (r + 32) (core.val * 2 ^ 48)

/-- The swap state of a team that is placed for the first time (R175). -/
def firstSwapState (l : Launch) (d : DieId) (cl : ClusterId) : Nat :=
  l.asid.toNat * 2 ^ 187 + cl.val % 112 * 2 ^ 199 + d.val * 2 ^ 206 + l.pages * 2 ^ 208 + (2 ^ l.strands - 1) * 2 ^ 256

/-- The handle of strand i of a team. -/
def Team.handle (t : Team) (a : Asid) (i : Nat) : Handle := { asid := a, addr := t.block + 64 * i }

/-- The physical address of a placed team's allocation. -/
def Team.base (t : Team) : Nat := clusterLoc t.cluster + t.page0 * 4096

/-- The state with a team on its cluster: its pages taken, its quantum begun. -/
def State.settleTeam (s : State) (t : Team) : State :=
  (({ s with teams := s.teams.filter (fun (x : Team) => !decide (x.id = t.id)) ++ [t] }).modCluster t.cluster fun x =>
    { x with allocs := x.allocs ++ (if t.pages = 0 then [] else [(t.id, t.page0, t.pages)]) }).addAgenda
    (.quantumEnd t.die t.id)

/-- The state with the handles of a team's strands of a mask pushed in ascending order. -/
def State.pushStrands (s : State) (t : Team) (a : Asid) (mask : Nat) : State :=
  (List.range 64).foldl (fun s i => if bitsOf mask i 1 = 1 then s.deliver (t.handle a i) else s) s

/-- The state after a team of a launch has been placed for the first time on a block (R141, R142, R143). -/
def State.placeFresh (s : State) (d : DieId) (l : Launch) (index block : Nat) (p : Spot) : State :=
  let cores := s.userCores p.cluster
  let t : Team :=
    { id := s.nextId, launchId := l.id, index := index, block := block, die := d, cluster := p.cluster, cores := cores
      page0 := p.page0, pages := l.pages, placed := true, area := 0, twins := p.twins
      fresh := List.range l.strands, f := l.f, since := s.time, strands := l.strands, grant := l.grant, held := [] }
  let s := { s with nextId := s.nextId + 1 }.zeroRange block 8192
  let s := (List.range l.strands).foldl (fun s i => s.birthRecord l index block i (coreFor cores i)) s
  let s := (s.putN t.swapState 64 (firstSwapState l d p.cluster)).zeroRange t.base (l.pages * 4096)
  (s.settleTeam t).pushStrands t l.asid (2 ^ l.strands - 1)

/-- The state with a 64-bit field of a team's swap state changed. -/
def State.putSwap (s : State) (t : Team) (off v : Nat) : State := s.put64 (t.swapState + off) v

/-- The ASID of a team's strands, by its swap state (R134, R175). -/
def State.swapAsid (s : State) (t : Team) : Asid := BitVec.ofNat 12 (bitsOf (s.swapWord t) 187 12)

/-- The saved waiters of a swapped-out team, moved to a base (R175). -/
def State.restoredWaiters (s : State) (t : Team) (base : Nat) : List Waiter :=
  (s.savedWaiters t).map fun a =>
    { pa := base + s.mem64 a, threshold := BitVec.ofNat 64 (s.mem64 (a + 8))
      handle := { asid := BitVec.ofNat 12 (s.mem64 (a + 24)), addr := s.mem64 (a + 16) } }

/-- The state with the core numbers of a team's records rewritten for its new cores (R131). -/
def State.renameCores (s : State) (t : Team) (n : Nat) : State :=
  (List.range n).foldl
    (fun s i => s.put64 (t.block + 64 * i + 32)
      (s.recWait (t.block + 64 * i) % 2 ^ 48 + (coreFor t.cores i).val * 2 ^ 48)) s

/-- The state after a swapped-out team has been swapped in at a spot (R175). DESIGN CHOICE: its saved waiters all join the table of their
controller, however many entries that holds; the spec does not say what becomes of waiters for which it has no room (assumption log 36).
Invalidations on their way to another die than its last are applied there first (R104). -/
def State.swapIn (s : State) (d : DieId) (l : Launch) (x : Team) (p : Spot) : State :=
  let cores := s.userCores p.cluster
  let t := { x with die := d, cluster := p.cluster, cores := cores, page0 := p.page0, placed := true, area := 0
                    twins := p.twins, since := s.time }
  let ready := s.mem64 (t.swapState + 40)
  let s := if x.die = d then s else s.applyAll d
  let ws := s.restoredWaiters x t.base
  let s := s.copyRange x.area t.base (t.pages * 4096)
  let s := s.modCluster t.cluster fun c => { c with waiters := c.waiters ++ ws }
  let old := s.memN t.swapState 32
  let fields := old - bitsOf old 199 9 * 2 ^ 199 - bitsOf old 224 16 * 2 ^ 224 + p.cluster.val % 112 * 2 ^ 199 +
    d.val * 2 ^ 206
  let s := ((s.putN t.swapState 32 fields).putSwap t 40 0).putSwap t 56 0
  let s := s.pushPool (homeDie x.area) .swap x.area
  ((s.renameCores t l.strands).settleTeam t).pushStrands t (s.swapAsid t) ready

/-- The state with an entry of a die's queue replaced by others. -/
def State.setEntry (s : State) (d : DieId) (e : QEntry) (l : List QEntry) : State :=
  s.modDie d fun x => { x with teamQ := x.teamQ.flatMap fun y => if y = e then l else [y] }

/-- The state after a waiting team has taken a block of its die's pool (R169, R170). -/
def State.takeBlock (s : State) (d : DieId) (e : QEntry) : State :=
  match e, s.popPool d .team with
  | .fresh id k _, some (b, s) => s.setEntry d e [.fresh id k b]
  | _, _ => s

/-- The state after a die has placed an entry's team: the next team of its launch stands in its place (R170). -/
def State.placeAt (s : State) (d : DieId) (e : QEntry) (l : Launch) (p : Spot) : State :=
  match e with
  | .fresh id k b =>
    (s.setEntry d e (if k + 1 < l.teams then [QEntry.fresh id (k + 1) 0] else [])).placeFresh d l k b p
  | .swapped id =>
    match s.teams.find? fun x => decide (x.id = id) with
    | none => s
    | some x => (s.setEntry d e []).swapIn d l x p

/-- The first entry of a die's queue that no cluster of the die could ever hold and another die could, with that die
(R170). -/
def State.forwardable (s : State) (d : DieId) : Option (QEntry × DieId) :=
  (s.die d).teamQ.findSome? fun e =>
    match s.entryLaunch e with
    | none => none
    | some l =>
      if s.dieCouldHold d l then none
      else (([0, 1, 2, 3] : List DieId).find? fun k => s.dieCouldHold k l).map fun k => (e, k)

/-- The state with an entry moved to another die's queue; a block that it has taken goes back to its pool (R169, R170). -/
def State.forward (s : State) (d k : DieId) (e : QEntry) : State :=
  let s := e.blocks.foldl (fun s b => s.pushPool (homeDie b) .team b) (s.setEntry d e [])
  let e' := match e with
    | .fresh id n _ => QEntry.fresh id n 0
    | .swapped id => .swapped id
  (s.modDie k fun x => { x with teamQ := x.teamQ ++ [e'] }).offer (.teamPlacement k)

/-- The state in which the placed time of every team on a die is counted up to now (R170). -/
def State.countTimes (s : State) (d : DieId) : State :=
  (s.teams.filter fun t => t.placed && decide (t.die = d)).foldl (fun s t => s.countTime t.id) s

/-- `TEAM_PLACEMENT`: an entry forwarded, a block taken, or one team placed, after which placement runs again (R170). -/
def execTeamPlacement (d : DieId) (s : State) : Host.Outcome State Fault Refusal :=
  match s.forwardable d with
  | some (e, k) => .next ((s.forward d k e).offer (.teamPlacement d))
  | none =>
    let s := s.countTimes d
    match s.nextStep d with
    | none => .next s
    | some (.take e) => .next ((s.takeBlock d e).offer (.teamPlacement d))
    | some (.place f e l age agedAt p) =>
      let s := s.modDie d fun x =>
        { x with teamAge := x.teamAge.set f age, teamAgedAt := x.teamAgedAt.set f agedAt }
      .next ((s.placeAt d e l p).offer (.teamPlacement d))

/-! ### Swaps (R175) -/

/-- The strands of a team that are resident. -/
def State.teamResidents (s : State) (t : Team) : List Strand := s.residents.filter fun x => decide (x.teamId = t.id)

/-- A swap-out that is in progress can go on to the team's memory: no strand of the team is resident, and no Anvil command of it is queued
(R104, R144, R175). -/
def State.swapReady (s : State) (t : Team) : Bool :=
  (s.teamResidents t).isEmpty &&
    !(s.cores.any fun c =>
      c.2.queue.any fun q => decide (t.block ≤ q.issuer) && decide (q.issuer < t.block + 4096))

/-- The handle is one of the team's. -/
def Team.owns (t : Team) (h : Handle) : Bool := decide (t.block ≤ h.addr) && decide (h.addr < t.block + 4096)

/-- The state with a team's entries moved from a core's deques, spilled blocks and waiting pushes to its Ready mask (R172, R175 step 3). -/
def State.drainDeques (s : State) (t : Team) (c : CoreId) : State :=
  let x := s.core c
  let held := (x.deques.toList.flatMap fun q => q.filter t.owns) ++
    (x.spills.toList.flatMap fun q => q.flatMap fun b => b.entries.filter t.owns) ++
    (x.pushes.map Prod.snd).filter t.owns
  let s := s.setCore c { x with
    pushes := x.pushes.filter fun e => !t.owns e.2
    deques := x.deques.map fun q => q.filter fun h => !t.owns h
    spills := x.spills.map fun q => q.map fun b => { b with entries := b.entries.filter fun h => !t.owns h } }
  (held.foldl (fun s h => s.setReady t h.addr) s).refill c

/-- The 32 bytes of a saved waiter (R175). -/
def waiterBytes (base : Nat) (w : Waiter) : List Byte :=
  leBytes 8 (w.pa - base) ++ leBytes 8 w.threshold.toNat ++ leBytes 8 w.handle.addr ++ leBytes 8 w.handle.asid.toNat

/-- The state with the waits of an ASID's overflow list on the counters of an allocation made ready: they present again
where the team is placed next (R92, R94). -/
def State.wakeListedIn (s : State) (t : Team) (a : Asid) : State :=
  let l := s.overflowList t.die a
  let mine := l.filter fun r =>
    decide (t.base ≤ s.recCarry r) && decide (s.recCarry r < t.base + 4096) && decide (t.block ≤ r) &&
      decide (r < t.block + 4096)
  if mine.isEmpty then s
  else
    mine.foldl (fun s r => (s.put64 (r + 56) 0).setReady t r) (s.setOverflow t.die a (l.filter fun r => !mine.contains r))

/-- The state with a team's memory and waiters saved in its swap area, stores to it performed (R104, R175 step 4). -/
def State.saveTeam (s : State) (t : Team) : State :=
  let area := t.area
  let s := if t.pages = 0 then s else s.performAt t.base (t.pages * 4096)
  let mine := fun (w : Waiter) => decide (t.base ≤ w.pa) && decide (w.pa < t.base + 4096)
  let ws := if t.pages = 0 then [] else (s.cluster t.cluster).waiters.filter mine
  let s := s.copyRange t.base area (t.pages * 4096)
  let s := s.putBlock (area + 0x200000) (ws.flatMap (waiterBytes t.base))
  let s := if t.pages = 0 then s else s.wakeListedIn t (s.swapAsid t)
  let s := s.modCluster t.cluster fun x => { x with waiters := x.waiters.filter fun w => !ws.contains w }
  let q := s.mem64 (t.swapState + 24)
  (s.putSwap t 24 (q - bitsOf q 32 16 * 2 ^ 32 + ws.length * 2 ^ 32)).putSwap t 56 area

/-- The state after a team that no longer runs has been swapped out (R175 steps 4 and 5). -/
def State.swapOut (s : State) (t : Team) : State :=
  let s := s.saveTeam t
  let s := { s with teams := s.teams.map fun (x : Team) => if x.id = t.id then { x with placed := false } else x }
  let s := s.modCluster t.cluster fun x => { x with allocs := x.allocs.filter fun a => !decide (a.1 = t.id) }
  (((s.modDie t.die fun x => { x with teamQ := x.teamQ ++ [QEntry.swapped t.id] }).kickTeam t).offer (.teamPlacement t.die))

/-- The state in which a team's resident strands stop at their next boundaries (R175 step 2). -/
def State.stopTeam (s : State) (t : Team) : State :=
  let g := fun (x : Strand) => if x.teamId = t.id ∧ x.run ≠ .absent then { x with stopWanted := true } else x
  { s with cur := g s.cur, parked := s.parked.map g }

/-- The state after a team is to be swapped out: it holds a swap area, its strands stop as they come to a boundary, and its entries have
left the deques; without a swap area it runs on (R175 steps 1 to 3). The memory follows once its strands have stopped. -/
def State.trySwap (s : State) (t : Team) : State :=
  if t.area ≠ 0 then s
  else
    match s.popPool t.die .swap with
    | none => s
    | some (area, s) =>
      let t := { t with area := area }
      let s := (s.countTime t.id).putSwap t 48 s.time.toNat
      let s := { s with teams := s.teams.map fun (x : Team) => if x.id = t.id then { x with area := area } else x }
      ((List.range 4).foldl (fun s k => s.drainDeques t (clusterCore t.cluster k)) (s.stopTeam t)).offer (.quantumEnd t.die t.id)

/-- Placement would select a waiting team for a placed team's cluster if that team left it (R175). -/
def State.wantsCluster (s : State) (t : Team) : Bool :=
  let s := { s with teams := s.teams.map fun (x : Team) => if x.id = t.id then { x with placed := false } else x }
  let s := s.modCluster t.cluster fun x => { x with allocs := x.allocs.filter fun a => !decide (a.1 = t.id) }
  match s.nextSpot t.die with
  | some p => decide (p.cluster = t.cluster)
  | none => false

/-- The state with a quantum counted for a team (R175). -/
def State.countQuantum (s : State) (t : Team) : State :=
  let q := s.mem64 (t.swapState + 24)
  let n := bitsOf q 48 16
  (s.putSwap t 24 (q - n * 2 ^ 48 + min (n + 1) 65535 * 2 ^ 48)).putSwap t 48 s.time.toNat

/-- The state with a new quantum of a team begun if it is still placed. -/
def State.againQuantum (s : State) (d : DieId) (id : Nat) : State :=
  if s.teams.any fun x => decide (x.id = id) && x.placed then s.offer (.quantumEnd d id) else s

/-- A swap of a cluster is in progress (R175). -/
def State.swapping (s : State) (cl : ClusterId) : Bool :=
  s.teams.any fun x => x.placed && decide (x.cluster = cl) && decide (x.area ≠ 0)

/-- `QUANTUM_END` (R175): the end of a quantum, or the next part of a swap-out in progress. While another team's swap of the cluster is
in progress, the team receives no quantum time and its quantum does not end. -/
def execQuantumEnd (d : DieId) (id : Nat) (s : State) : Host.Outcome State Fault Refusal :=
  match s.teams.find? fun x => decide (x.id = id) && x.placed && decide (x.die = d) with
  | none => .next s
  | some t =>
    if t.area ≠ 0 then .next (if s.swapReady t then s.swapOut t else s.addAgenda (.quantumEnd d id))
    else if s.swapping t.cluster then .next (s.addAgenda (.quantumEnd d id))
    else
      let s := (s.countTimes d).countQuantum t
      .next ((if s.wantsCluster t then s.trySwap t else s).againQuantum d id)

/-! ### Pre-emption requests (R178) -/

/-- The state with the user strand resident in a slot of a core changed. -/
def State.modSlot (s : State) (c : CoreId) (k : Fin 16) (f : Strand → Strand) : State :=
  let g := fun (t : Strand) => if t.core = c ∧ t.slot = k ∧ t.run ≠ .absent then f t else t
  { s with cur := g s.cur, parked := s.parked.map g }

/-- The state after a Pre-empt write for a slot; an empty slot, a core out of service and the firmware core are not
affected (R178). -/
def State.preEmptSlot (s : State) (c : CoreId) (k : Fin 16) : State :=
  if s.userCore c then s.modSlot c k fun t => { t with stopWanted := true } else s

/-- The state after a Pre-empt write for the team of a slot; a strand of no team is stopped as by a write for the slot (R178). -/
def State.preEmptTeam (s : State) (c : CoreId) (k : Fin 16) : State :=
  if s.userCore c then
    match (s.onCore c).find? fun t => decide (t.slot = k) with
    | none => s
    | some x =>
      match s.teams.find? fun t => decide (t.id = x.teamId) && t.placed with
      | none => s.preEmptSlot c k
      | some t => s.trySwap t
  else s

/-- `PRE_EMPT_SLOT` (R178). -/
def execPreEmptSlot (c : CoreId) (k : Fin 16) (s : State) : Host.Outcome State Fault Refusal := .next (s.preEmptSlot c k)

/-- `PRE_EMPT_TEAM` (R178). -/
def execPreEmptTeam (c : CoreId) (k : Fin 16) (s : State) : Host.Outcome State Fault Refusal := .next (s.preEmptTeam c k)

end Sys2Proof.Machine
end

