-- ==== Sys2Proof/Machine/Faults.lean ====
section
/-!
DEFINITION. Resolution of fault records and the records that wait for a slot (spec/17_traps.md R342 to R349).
-/
namespace Sys2Proof.Machine

/-! ### Resolve (R346, R347) -/

/-- The ASID that a Resolve word names. -/
def resolveAsid (v : Word) : Asid := v.extractLsb' 48 12

/-- The sequence bits that a Resolve word names. -/
def resolveSeq (v : Word) : Nat := bitsOf v.toNat 0 40

/-- The address of the record that a Resolve word names, if the write acts on this die (R347). -/
def State.resolveSlot (s : State) (d : DieId) (v : Word) : Option Nat :=
  let a := resolveAsid v
  let fq := (s.desc d a).faultQueue
  match (if (s.desc d a).live then s.queueBits fq else none) with
  | none => none
  | some n =>
    let p := slotAddr fq n (resolveSeq v)
    let q0 := s.mem64 p
    if s.mem64 (p + 8) % 2 ^ 40 = resolveSeq v ∧ bitsOf q0 24 8 ≤ 1 ∧ bitsOf q0 16 1 = 0 ∧
        bitsOf (s.mem64 (p + 16)) 16 2 = d.val ∧ s.mem64 (p + 8) < s.mem64 fq then some p
    else none

/-- The open record that a die holds under an ASID and the low bits of a sequence. -/
def State.openRecord (s : State) (d : DieId) (a : Asid) (seq : Nat) : Option OpenFault :=
  (s.die d).openFaults.find? fun o => decide (o.asid = a) && decide (o.seq % 2 ^ 40 = seq % 2 ^ 40)

/-- The state with a stopped strand's EPC raised by 4: a pending prefix is cleared, and a wait that the instruction was is
passed over (R347; assumption log 20). -/
def State.passOver (s : State) (h : Handle) : State :=
  let b := s.recCtx h.addr
  if b = 0 then s
  else
    let s := s.put64 (b + 0x418) ((s.mem64 (b + 0x418) + 4) % 2 ^ 64)
    let st := s.mem64 (b + 0x408)
    let s := s.put64 (b + 0x408) (st - bitsOf st 7 1 * 128)
    let w := s.recWait h.addr
    (s.put64 (h.addr + 32) (w / 2 ^ 48 * 2 ^ 48)).put64 (h.addr + 40) 0

/-- The state with a record no longer open (R347, R348). -/
def State.dropOpen (s : State) (d : DieId) (a : Asid) (seq : Nat) : State :=
  s.modDie d fun x =>
    { x with openFaults := x.openFaults.filter fun o => !(decide (o.asid = a) && decide (o.seq % 2 ^ 40 = seq % 2 ^ 40)) }

/-- The state with a record marked as resolved and no longer open (R347). -/
def State.closeRecord (s : State) (d : DieId) (a : Asid) (slot seq : Nat) : State :=
  (s.put64 slot (s.mem64 slot ||| 0x10000)).dropOpen d a seq

/-- The state after an action on the head strand of a record and on those chained to it (R347): 0 retry, 1 resume past
the instruction, 2 retire. -/
def State.resolveStrands (s : State) (action kind : Nat) (head : Handle) (chain : List Handle) : State :=
  if action = 2 then (head :: chain).foldl (fun s h => s.retireSuspended h) s
  else
    let s := if action = 1 ∧ kind = 0 then s.passOver head else s
    (head :: chain).foldl (fun s h => s.deliver h) s

/-- The state after a write to a die's Resolve register with an action; the head's handle takes the record's ASID (R134, R347). -/
def State.resolve (s : State) (d : DieId) (v : Word) (action : Nat) : State :=
  match s.resolveSlot d v with
  | none => s.refuse d none
  | some p =>
    let a := resolveAsid v
    let seq := resolveSeq v
    let head : Handle := { asid := BitVec.ofNat 12 (s.mem64 (p + 16)), addr := s.mem64 (p + 24) }
    let chain := ((s.openRecord d a seq).map OpenFault.chain).getD []
    let kind := bitsOf (s.mem64 p) 24 8
    (s.closeRecord d a p seq).resolveStrands action kind head chain

/-- `RESOLVE_RETRY` (R347). -/
def execResolveRetry (d : DieId) (v : Word) (s : State) : Host.Outcome State Fault Refusal := .next (s.resolve d v 0)

/-- `RESOLVE_RESUME` (R347). -/
def execResolveResume (d : DieId) (v : Word) (s : State) : Host.Outcome State Fault Refusal := .next (s.resolve d v 1)

/-- `RESOLVE_RETIRE` (R347). -/
def execResolveRetire (d : DieId) (v : Word) (s : State) : Host.Outcome State Fault Refusal := .next (s.resolve d v 2)

/-- `RESOLVE_IGNORED`: the word is ignored and an error record posted (R346). -/
def execResolveIgnored (d : DieId) (_ : Word) (s : State) : Host.Outcome State Fault Refusal := .next (s.refuse d none)

/-- The state after a write of a Resolve register, by its action field (R346). -/
def State.resolveWrite (s : State) (d : DieId) (v : Word) : State :=
  match bitsOf v.toNat 62 2 with
  | 0 => s.resolve d v 0
  | 1 => s.resolve d v 1
  | 2 => s.resolve d v 2
  | _ => s.refuse d none

/-! ### Slots that free (R344, R345) -/

/-- The state with the records that a die holds for an ASID posted in order while slots are free; a queue with a Size out of range is
reported (R342, R345). -/
def State.postHeldOf (s : State) (a : Asid) (d : DieId) : State :=
  let mine := (s.die d).hold.filter fun r => decide (r.asid = a)
  let s := if mine.isEmpty then s else s.checkQueue d a
  let res := s.postHeld mine
  res.1.modDie d fun x => { x with hold := (x.hold.filter fun r => !decide (r.asid = a)) ++ res.2 }

/-- `FAULT_QUEUE_SLOT_FREE`: held records are posted in order; a strand that stalls on the queue takes its fault when it
next issues (R344, R345). -/
def execFaultQueueSlotFree (a : Asid) (s : State) : Host.Outcome State Fault Refusal :=
  let s := ([0, 1, 2, 3] : List DieId).foldl (fun s d => s.postHeldOf a d) s
  .next (if s.dies.toList.any fun x => x.hold.any fun r => decide (r.asid = a) then s.offer (.faultQueueSlotFree a) else s)

/-! ### Kills and stopped strands (R132, R134, R349) -/

/-- The state after a kill has reached an open record: resolved with action 0 if its chain holds a killed strand; a killed
strand whose record is invalid ends at once. A queue that is not reached keeps its record as it stands (R132, R342, R349). -/
def State.killOpen (s : State) (d : DieId) (o : OpenFault) : State :=
  if (o.head :: o.chain).any fun h => s.doomed h then
    let slot := match s.queueBits (s.desc d o.asid).faultQueue with
      | some n => some (slotAddr (s.desc d o.asid).faultQueue n o.seq)
      | none => none
    let s := match slot with
      | some p => s.closeRecord d o.asid p o.seq
      | none => s.dropOpen d o.asid o.seq
    if o.kind = 1 then o.chain.foldl (fun s h => s.deliver h) (s.retireSuspended o.head)
    else (o.head :: o.chain).foldl (fun s h => s.deliver h) s
  else s

/-- The state after a kill has reached the open records of an ASID (R349). -/
def State.killRecords (s : State) (a : Asid) : State :=
  ([0, 1, 2, 3] : List DieId).foldl
    (fun s d => ((s.die d).openFaults.filter fun o => decide (o.asid = a)).foldl (fun s o => s.killOpen d o) s) s

end Sys2Proof.Machine
end

