-- ==== Sys2Proof/Machine/Closing.lean ====
section
/-!
DEFINITION. The life of a scope after its opening: deaths, closing, what a cancel and a kill reach
(spec/08_scopes.md R153 to R167, spec/03_leaf_pages.md R80 to R82).
-/
namespace Sys2Proof.Machine

/-- `SCOPE_DEATH` (R153, R155). -/
def execScopeDeath (a : Asid) (id : BitVec 32) (s : State) : Host.Outcome State Fault Refusal :=
  .next (s.countDeath a id false)

/-! ### The discard of a leaf region (R80, R81) -/

/-- The state with a kind 5 record for a page of a closing scope's region (R81). -/
def State.regionRecord (s : State) (d : DieId) (a : Asid) (id : BitVec 32) (va cause subcode : Nat) : State :=
  s.postEvent { s.blankFault d a 5 cause subcode with tval := BitVec.ofNat 64 va, scope := id }

/-- Entry i of a page that is a leaf page again: its die and LPN, Spill 1, Cv 0, R, W, C and Span kept (R81). -/
def restoredEntry (d : DieId) (lpn _ e : Nat) : Nat :=
  bitsOf e 0 7 + bitsOf e 8 1 * 2 ^ 8 + bitsOf e 11 1 * 2 ^ 11 + (d.val * 4096 + lpn) * 4096 + 2 ^ 61 + 2 * 2 ^ 62

/-- The LPN of a die whose page register, that of a Backed page, names a frame (R63, R81). -/
def State.lpnOfFrame (s : State) (d : DieId) (frame : Nat) : Option Nat :=
  ((s.die d).lpns.find? fun e => decide (e.2.state = .backed) && decide (e.2.frame = frame)).map Prod.fst

/-- The state with a converted page handed back: its frame to the function's pool, its entries leaf entries again, the LPN
Empty (R81). -/
def State.returnFrame (s : State) (line frame : Nat) (lpn : Nat) : State :=
  let d := homeDie frame
  let f : FnId := (s.lpn d lpn).f.toFin
  let s := s.modFn f fun x => { x with frames := x.frames.set d (frame :: x.frames.get d) }
  let s := s.rewriteGroup line (restoredEntry d lpn)
  let s := { s with tlb := s.tlb.filter fun e =>
    !(decide (entryType e.entry.toNat = PageType.normal) && decide (entryFrame e.entry.toNat / 0x10000 * 0x10000 = frame)) }
  s.modLpn d lpn fun x => { x with state := .empty, lines := [], frame := 0 }

/-- The state after the discard of one page of a region (R81). The cause of the record for a frame that no LPN names is not
stated: some pair that R336 lists (assumption log 8). -/
def State.discardRegionPage (s : State) (d : DieId) (a : Asid) (id : BitVec 32) (va : Nat) : State :=
  match s.regionPage d a va with
  | .untouched => s
  | .skipped => s
  | .held => s
  | .leaf k lpn => s.discardPage k lpn
  | .faults c sub => s.regionRecord d a id va c sub
  | .converted line frame =>
    match s.lpnOfFrame (homeDie frame) frame with
    | some lpn => s.returnFrame line frame lpn
    | none =>
      let v := s.freePair
      v.2.regionRecord d a id va v.1.1 v.1.2

/-! ### Closing (R155, R156) -/

/-- The state with a closed scope's record written back, unpinned and at the head of its table's free list
(R147, R149, R150, R155 step 4). -/
def State.freeScope (s : State) (a : Nat) (r : ScopeRec) : State :=
  let base := a - r.id.toNat * 64
  let head := s.memN base 4
  ((s.storeScope a { r with state := .free, parent := BitVec.ofNat 32 head }).unpinScope a).putN base 4 r.id.toNat

/-- A resident strand that waits in a close. -/
def Strand.closes (t : Strand) : Option CIdx :=
  match t.run with
  | .waitClose dest _ => some dest
  | _ => none

/-- The resident strand of a record that waits in a close, with the register that its result goes to. -/
def State.closer (s : State) (rec : Nat) : Option (Strand × CIdx) :=
  s.residents.findSome? fun t => if t.handle.addr = rec then t.closes.map fun d => (t, d) else none

/-- The state with the close result delivered to an opener that waits: in its slot, or suspended (R135, R155 step 5). -/
def State.deliverClose (s : State) (r : ScopeRec) : State :=
  if r.closeWait ∧ r.opener ≠ 0 then
    match s.closer r.opener with
    | some (t, d) => ((s.choose t).modCur fun x => { x with run := .ready }).setWaited d r.resultWord
    | none => (s.put64 (r.opener + 48) r.resultWord.toNat).deliver { asid := r.asid, addr := r.opener }
  else s

/-- The party of a closing scope's completion add (R155). -/
def ScopeRec.party (r : ScopeRec) (d : DieId) : Party := { die := d, core := none, asid := r.asid, team := 0, who := .device d }

/-- The close of a scope, as it waits at leaf pages. -/
def ScopeRec.agent (r : ScopeRec) : Agent := .closing r.asid r.id

/-- The state in which the discard of a region waits at a page, for an operation on it that came first or for a test that holds an
entry; none if it does not wait (R74, R398). -/
def State.regionWait (s : State) (d : DieId) (r : ScopeRec) (va : Nat) : Option State :=
  match s.regionPage d r.asid va with
  | .held => some s
  | .leaf k lpn => if s.pageBusy k lpn r.agent then some (s.waitAt k lpn r.agent) else none
  | _ => none

/-- The state after pages of a region were discarded in order until one must be waited for, with the scope's record, and whether none
had to be (R74, R80, R81). -/
def State.sweep (s : State) (d : DieId) (r : ScopeRec) : List Nat → State × ScopeRec × Bool
  | [] => (s, r, true)
  | va :: l =>
    match s.regionWait d r va with
    | some t => (t, r, false)
    | none => State.sweep ((s.leaveQueues r.agent).discardRegionPage d r.asid r.id va) d { r with swept := r.swept + 1 } l

/-- The completion add of a scope must wait: at its counter, or, at `sys`, until what it releases is sys-visible (R86, R90). -/
def State.addHeld (s : State) (at_ : Nat) (r : ScopeRec) : State × Bool :=
  if r.caddr = 0 then (s, false)
  else if s.addWaits (r.party (homeDie at_)) r.caddr then (s, true)
  else if r.cscope = 4 then
    match s.allPosted at_ with
    | (t, b) => (t, !b)
  else (s, false)

/-- The state after the last closing steps of a scope whose region is empty: completion add, death to the parent, the record freed
(R155 steps 3 and 4). -/
def State.closeScope (s : State) (a : Nat) (r : ScopeRec) : State :=
  let s :=
    if r.caddr = 0 then s
    else s.completionAdd (r.party (homeDie a)) r.caddr r.cvalue 5 r.id 0
  let s := if r.depth = 0 then s else s.countDeath r.asid r.parent false
  (s.leaveQueues r.agent).freeScope a r

/-- The state after the closing steps of a scope have gone as far as they can, and whether they are done: the region discarded page by
page, each page once, then the completion add, the death to the parent and the freed record in one step (R80, R155, R351). -/
def State.closeSteps (s : State) (a : Nat) (r : ScopeRec) : State × Bool :=
  match s.sweep (homeDie a) r (r.regionVas.drop r.swept) with
  | (s, r, false) => (s.pinScope a r, false)
  | (s, r, true) =>
    match (s.pinScope a r).addHeld a r with
    | (s, true) => (s, false)
    | (s, false) => (s.closeScope a r, true)

/-- `SCOPE_CLOSING` (R155): the closing steps of a scope, tried again while something holds them. A record homed on a fenced die is not
reached (R166). -/
def execScopeClosing (a : Asid) (id : BitVec 32) (s : State) : Host.Outcome State Fault Refusal :=
  match s.pinned a id with
  | none => .next s
  | some (at_, r) =>
    if r.state ≠ .closing ∨ s.fencedAt at_ then .next s
    else
      match s.closeSteps at_ r with
      | (s', true) => .next (s'.deliverClose r)
      | (s', false) => .next (s'.addAgenda (.scopeClosing a id))

/-- `sco.close`: sealed; an empty scope's closing steps run at once, and while something holds them the opener waits in its slot; the
opener of another suspends (R155, R156, R260, R351). The carry field of its record keeps what memory holds there until the result is
delivered, which no rule says (DESIGN CHOICE, assumption log 38). -/
def execScoClose (g : Gap) (a d : CIdx) (s : State) : Host.Outcome State Fault Refusal :=
  (scopeForm (.scoClose g a d) g [.c a] [.c d, .c 5] true).run s fun s =>
    s.withScope (s.x a) fun s at_ r =>
      if r.state = .sealed ∨ r.state = .closing ∨ r.state = .closed ∨ r.opener ≠ s.cur.handle.addr then
        misuse s 3 (r.id.setWidth 64)
      else if r.deaths = r.births then
        let r := { r with state := .closing, closeWait := true }
        match (s.pinScope at_ r).closeSteps at_ r with
        | (s', true) => .done (s'.setWaited d r.resultWord)
        | (s', false) =>
          .done ((s'.addAgenda (.scopeClosing r.asid r.id)).modCur fun t => { t with run := .waitClose d r.id })
      else if !s.quiet.settled then .stall s.quiet
      else
        let s := s.quiet
        .away ((s.sealScope s.cur.asid at_ { r with closeWait := true }).suspendCur (s.cur.pc + 4)
          (s.recCarry s.cur.handle.addr) 0 0)

/-! ### What a cancel reaches on a die (R158, R159, R164, R165) -/

/-- The cancel of a scope reaches a member of another (R158, R159). -/
def State.reached (s : State) (a : Asid) (id member : BitVec 32) : Bool := cancelReaches id (s.path a member)

/-- A strand after the broadcast of a cancelled scope's id, which a kill sends too (R158, R165). -/
def State.markStrand (s : State) (d : DieId) (a : Asid) (id : BitVec 32) (t : Strand) : Strand :=
  if coreDie t.core = d ∧ t.handle.asid = a ∧ t.run ≠ .absent then
    { t with
      cancelled := t.cancelled || s.reached a id t.birth
      killed := t.killed || s.killOf a t.birth }
  else t

/-- The state with a lease cut that the cancel of a scope reaches: its queued commands are dropped, but for one in progress, and a
team that these kept is over (R144, R164, R300, R301). -/
def State.cutLease (s : State) (a : Asid) (id : BitVec 32) (c : CoreId) : State :=
  match (s.core c).lease with
  | none => s
  | some l =>
    if l.asid = a ∧ (s.reached a id l.scope ∨ s.killOf a l.scope) then
      let q := (s.core c).queue
      let kept := if (s.core c).inProgress then q.take 1 else []
      let l' := { l with cut := true, dropped := l.dropped || decide (q.length ≠ kept.length) }
      let s := s.modCore c fun x => { x with queue := kept, lease := some l' }
      let s := if l.ended ∧ kept = [] then s.finishLease c l' else s
      ((q.drop kept.length).map AnvilCmd.issuer).foldl (fun s r => s.teamAfter r) s
    else s

/-- The state after a kill has reached a collective: one that has not committed is aborted, as a link fault would abort it (R130,
R165). -/
def State.killCru (s : State) (c : CoreId) (x : Collective) : State :=
  let x := { x with kill := true }
  if x.state.toNat < 2 ∧ !x.decided then s.endCru c x 5 0 true else s.setCru c x

/-- The state in which a core's Ladle and Crucible commands have met the cancel of a scope, which a collective ignores, or a kill
(R164, R165). -/
def State.cutEngines (s : State) (a : Asid) (id : BitVec 32) (c : CoreId) : State :=
  let t := s.modCore c fun x =>
    { x with
      lads := x.lads.map fun y =>
        if y.asid = a then
          { y with
            cancel := y.cancel || s.reached a id y.scope || s.killOf a y.scope
            kill := y.kill || s.killOf a y.scope }
        else y }
  ((t.core c).crus.filter fun y => decide (y.asid = a) && !y.kill && s.killOf a y.scope).foldl (fun t y => t.killCru c y) t

/-- The cores of a die of which the state lists something. -/
def State.coresOf (s : State) (d : DieId) : List CoreId :=
  (s.cores.filter fun (e : Nat × Core) => decide (e.1 / 448 = d.val)).map fun (e : Nat × Core) => coreOfNat e.1

/-- The state with an opener that waits in a suspended close woken, if a cancel or a kill reaches it and its shield does
not hold it: the close keeps its place and its result goes to nobody (R157, R160; assumption log 20). -/
def State.wakeOpener (s : State) (a : Asid) (id : BitVec 32) (e : Nat × ScopeRec) : State :=
  let h : Handle := { asid := a, addr := e.2.opener }
  let birth := s.recScope h.addr
  if e.2.asid = a ∧ e.2.closeWait ∧ e.2.opener ≠ 0 ∧ (s.closer e.2.opener).isNone ∧
      (s.killOf a birth ∨ (s.reached a id birth ∧ s.recFlags h.addr % 16 = 0)) then
    (s.pinScope e.1 { e.2 with closeWait := false }).deliver h
  else s

/-- `CANCEL_BROADCAST`: a die marks the strands and engine commands that the cancel reaches, and its homes wake the ASID's
waiters (R94, R158, R159, R164). -/
def execCancelBroadcast (d : DieId) (a : Asid) (id : BitVec 32) (s : State) : Host.Outcome State Fault Refusal :=
  let s := { s with cur := s.markStrand d a id s.cur, parked := s.parked.map (s.markStrand d a id) }
  let s := (s.coresOf d).foldl (fun s c => (s.cutEngines a id c).cutLease a id c) s
  let s := (s.die d).scopes.foldl (fun s e => s.wakeOpener a id e) s
  .next ((s.wakeDie d a).wakeOverflow d a)

/-! ### Kills (R165) -/

/-- The state with a system call's result delivered and its death counted (R153, R326, R385). -/
def State.answerCall (s : State) (h : Handle) (a : Asid) (scope : BitVec 32) (result : Word) : State :=
  ((s.put64 (h.addr + 48) result.toNat).deliver h).addDue (.scopeDeath a scope)

/-- The answer to a call in flight when a kill reaches it (R387). -/
def killedAnswer : Word := 0xFFFFFFFFFFFFFFFE

/-- The request is a system call that a kill has reached. -/
def State.killedCall (s : State) (r : BenchReq) : Bool :=
  match r with
  | .call _ a scope _ => s.killOf a scope
  | _ => false

/-- The state with a killed call answered. -/
def State.answerKilled (s : State) (r : BenchReq) : State :=
  match r with
  | .call h a scope _ => s.answerCall h a scope killedAnswer
  | _ => s

/-- The state with the killed calls that the Bench cores hold answered (R165, R387). -/
def State.killCalls (s : State) : State :=
  let queued := s.dies.toList.flatMap fun x => x.benchQ.toList.flatMap fun q => q.filter s.killedCall
  let ringed := s.rings.flatMap fun r => (r.2.filter fun (e : BenchEntry) => s.killedCall e.req).map BenchEntry.req
  let keep := fun (r : BenchReq) => !s.killedCall r
  let t : State :=
    { s with
      dies := s.dies.map fun x => x.keepReqs keep
      rings := s.rings.map fun (r : Nat × List BenchEntry) => (r.1, r.2.filter fun (e : BenchEntry) => keep e.req) }
  (queued ++ ringed).foldl (fun s r => s.answerKilled r) t

/-- The state with the killed strands of the chains pushed, or, if their ASID is dead, ended (R134, R165, R390). -/
def State.killChains (s : State) : State :=
  let hit := s.chains.flatMap fun c => (c.2.filter fun h => s.doomed h.handle).map fun h => (c.1, h.handle)
  let t : State :=
    { s with chains := s.chains.map fun (c : ChainKey × List Chained) =>
        (c.1, c.2.filter fun h => !s.doomed h.handle) }
  hit.foldl (fun s e => if e.1 = ChainKey.stranded then s.retireSuspended e.2 else s.deliver e.2) t

/-- Strands of the teams of a launch that have no team block yet, by the entries of the team queues. -/
def Launch.unplaced (l : Launch) (e : QEntry) : Nat :=
  match e with
  | .fresh id k _ => if id = l.id then (l.teams - k) * l.strands else 0
  | .swapped _ => 0

/-- The state after n strands of a launch, none of which has run, have died; a record homed on a fenced die is not reached (R145, R165,
R166). -/
def State.launchDeaths (s : State) (l : Launch) (n : Nat) (proxy : Bool) : State :=
  let l := { l with left := l.left - n, lost := if proxy then l.lost + n else l.lost, killed := l.killed || !proxy }
  let s :=
    if l.left = 0 then
      let s := { s with launches := s.launches.filter fun x => !decide (x.id = l.id) }
      match l.queue with
      | some (f, q, k) => s.readyRecord f q k (if l.killed then 7 else 8) l.lost
      | none => s
    else s.modLaunch l.id fun _ => l
  match s.scopeOf l.asid l.scope with
  | none => s
  | some (a, r) =>
    if s.fencedAt a then s
    else
    let s := s.pinScope a
      { r with
        deaths := r.deaths + BitVec.ofNat 64 (n - 1)
        lost := if proxy then min (r.lost + (n - 1)) (2 ^ 40 - 1) else r.lost }
    if proxy then s.countDeath l.asid l.scope true else s.addDue (.scopeDeath l.asid l.scope)

/-- The state with the teams of a launch that wait in the team queues dead (R165). -/
def State.killUnplaced (s : State) (l : Launch) : State :=
  let n := s.dies.toList.foldl (fun n x => x.teamQ.foldl (fun n e => n + l.unplaced e) n) 0
  if n = 0 then s.modLaunch l.id fun x => { x with killed := true }
  else
    let blocks := s.dies.toList.flatMap fun x => (x.teamQ.filter fun e => decide (l.unplaced e ≠ 0)).flatMap QEntry.blocks
    let t : State :=
      { s with dies := s.dies.map fun (x : Die) =>
          { x with teamQ := x.teamQ.filter fun e => decide (l.unplaced e = 0) } }
    (blocks.foldl (fun s b => s.pushPool (homeDie b) .team b) t).launchDeaths l n false

/-- The state with the launches into a killed subtree marked, and their waiting teams dead (R165). -/
def State.killLaunches (s : State) (a : Asid) : State :=
  (s.launches.filter fun l => decide (l.asid = a) && s.killOf a l.scope).foldl (fun s l => s.killUnplaced l) s

/-- A record is one that a kill of a scope reaches: its own or a descendant's, not free and not closed (R165). -/
def State.killable (s : State) (a : Asid) (id : BitVec 32) (r : ScopeRec) : Bool :=
  decide (r.asid = a) && decide (r.state ≠ .free) && decide (r.state ≠ .closed) && s.inSubtree a r.id id

/-- The state with KL and CX set in every record of a scope's subtree: each closes as killed and accepts no birth (R150, R154,
R165). -/
def State.killTree (s : State) (a : Asid) (id : BitVec 32) : State :=
  { s with dies := s.dies.map fun x =>
      { x with scopes := x.scopes.map fun e => if s.killable a id e.2 then (e.1, { e.2.cancel with kl := true }) else e } }

/-- The state after a scope's subtree has been killed; a record homed on a fenced die is not reached (R165, R166). -/
def State.killScope (s : State) (a : Asid) (id : BitVec 32) : State :=
  match s.scopeOf a id with
  | none => s
  | some (at_, r) =>
    let s := s.checkState at_ a
    if r.state = .free ∨ r.state = .closed ∨ s.fencedAt at_ then s
    else
      let s := ((s.pinScope at_ r).killTree a id).broadcast a id
      ((((s.killCalls).killRecords a).killChains).killLaunches a)

/-- `SCOPE_KILL` (R165). -/
def execScopeKill (a : Asid) (id : BitVec 32) (s : State) : Host.Outcome State Fault Refusal := .next (s.killScope a id)

end Sys2Proof.Machine
end

