-- ==== Sys2Proof/Machine/Coherence.lean ====
section
/-!
DEFINITION. Coherence across dies, the settle rounds of `fence.sc`, and the fencing of a die
(spec/02_hierarchy.md R47 to R57, spec/06_ordering_far.md R119, spec/04_counters.md R95, spec/08_scopes.md R166).
-/
namespace Sys2Proof.Machine

/-! ### Read copies and ownership (R49, R50) -/

/-- A line that caches may hold: HBM, the host window or a leaf page (R44, R49). -/
def cacheableLine (line : Nat) : Bool :=
  match regionOf (line * 128) with
  | .hbm => true
  | .host => true
  | .leaf => true
  | _ => false

/-- `READ_COPY_REQUEST` (R49). -/
def execReadCopyRequest (d : DieId) (line : Nat) (s : State) : Host.Outcome State Fault Refusal :=
  .next (if cacheableLine line ∧ s.canCopy d line then s.takeCopy d line else s)

/-- `OWNERSHIP_REQUEST` (R45, R49). -/
def execOwnershipRequest (c : CoreId) (line : Nat) (s : State) : Host.Outcome State Fault Refusal :=
  if cacheableLine line ∧ s.lineExists line ∧ (s.die (homeDie (line * 128))).fenced = false ∧ (s.die (coreDie c)).fenced = false then
    .next (s.noteStore { die := coreDie c, core := some c, asid := 0, team := 0, who := .strand 0 } line 0)
  else .next s

/-- `CROSS_DIE_INVALIDATION` (R50). -/
def execCrossDieInvalidation (d : DieId) (line : Nat) (writer : Agent) (s : State) : Host.Outcome State Fault Refusal :=
  .next ((s.dropInvalidated d line).addAgenda (.invalidationAck writer))

/-- `INVALIDATION_ACK` (R50). -/
def execInvalidationAck (writer : Agent) (s : State) : Host.Outcome State Fault Refusal :=
  .next (s.modPending writer (· - 1))

/-! ### Settle rounds (R119) -/

/-- The state with the settle round complete, if every in-service die has reported (R119, step 5). -/
def State.finishSettle (s : State) : State :=
  if s.settle.isOpen ∧ s.liveDies.all s.settle.reports.contains then
    let t : State :=
      { s with settle :=
          { s.settle with isOpen := false, joined := [], finished := s.settle.finished ++ s.settle.joined, markers := []
                          reports := [] } }
    if t.settle.queued.isEmpty then t else t.offer .settleRoundOpen
  else s

/-- `SETTLE_ROUND_OPEN` (R119, step 2). -/
def execSettleRoundOpen (s : State) : Host.Outcome State Fault Refusal :=
  if s.settle.isOpen ∨ s.settle.queued.isEmpty then .next s
  else
    let t : State :=
      { s with settle :=
          { s.settle with isOpen := true, joined := s.settle.queued, queued := [], markers := [], reports := [] } }
    .next (t.liveDies.foldl (fun s d => s.addAgenda (.settleMarker d d)) t)

/-- Every other in-service die's marker has reached a die. -/
def State.markersIn (s : State) (d : DieId) : Bool :=
  s.settle.markers.contains (d, d) && s.liveDies.all fun e => s.settle.markers.contains (e, d)

/-- The state after a die's markers were looked at: with all of them in, the die applies what arrived before them and
reports (R119, step 4). -/
def State.checkMarkers (s : State) (d : DieId) : State :=
  if s.markersIn d ∧ !s.settle.reports.contains d then (s.applyAll d).offer (.settleReport d) else s

/-- `SETTLE_MARKER`: the sequencer's marker to a die, named by the die itself, makes the die send its own to every other;
another die's marker is noted (R119, steps 2 to 4). -/
def execSettleMarker (src dst : DieId) (s : State) : Host.Outcome State Fault Refusal :=
  if !s.settle.isOpen then .next s
  else
    let t : State := { s with settle := { s.settle with markers := s.settle.markers ++ [(src, dst)] } }
    let t :=
      if src = dst then
        (t.liveDies.filter fun e => decide (e ≠ src)).foldl (fun s e => s.addAgenda (.settleMarker src e)) t
      else t
    .next (t.checkMarkers dst)

/-- `SETTLE_REPORT` (R119, step 5). -/
def execSettleReport (d : DieId) (s : State) : Host.Outcome State Fault Refusal :=
  if s.settle.isOpen then
    let t : State := { s with settle := { s.settle with reports := s.settle.reports ++ [d] } }
    .next t.finishSettle
  else .next s

/-! ### Fencing a die (R54, R57, R166) -/

/-- The lines that the directory says a die other than their home owns (R54). -/
def State.ownedBy (s : State) (d : DieId) : List Nat :=
  (s.dirs.filter fun e =>
    let home := homeDie (e.1 / 4 * 128)
    decide (e.1 % 4 = home.val) && e.2.rv && decide (home ≠ d) && decide (e.2.remote.toNat = otherIx home d)).map fun e => e.1 / 4

/-- The state in which the lines that a die owned are poisoned in both sectors (R54). -/
def State.poisonOwned (s : State) (d : DieId) : State :=
  let owned := s.ownedBy d
  { s with
    poison := owned.foldl (fun p l => setIns (setIns p (2 * l)) (2 * l + 1)) s.poison
    dirs := s.dirs.map fun (e : Nat × DirEntry) => if owned.contains (e.1 / 4) then (e.1, { e.2 with rv := false }) else e }

/-- The state in which no other home's directory names a die as holding a copy (R54). -/
def State.forgetCopies (s : State) (d : DieId) : State :=
  { s with
    dirs := s.dirs.map fun (e : Nat × DirEntry) =>
      let home := homeDie (e.1 / 4 * 128)
      if home = d then e else (e.1, { e.2 with dieCopies := e.2.dieCopies &&& ~~~(1#3 <<< otherIx home d) })
    copies := s.copies.filter fun c => !decide (c.die = d) }

/-- The state in which stores that had not left a failed die are lost: where another die homes their bytes, these are as they were
before (R54, R57, R106). -/
def State.revertEarly (s : State) (d : DieId) : State :=
  let s := (s.order.early.filter fun e => decide (coreDie e.core = d) && decide (homeDie e.loc ≠ d)).foldl
    (fun s e =>
      let s := s.putBytes e.loc e.old
      let s : State := { s with
        order := { s.order with syncs := (s.order.syncs.flatMap fun y => y.without e.loc e.old.length) ++ e.syncs } }
      if e.oldTag then s.setTags [e.loc] else s) s
  { s with
    order := { s.order with
      early := s.order.early.filter fun e => !(decide (coreDie e.core = d) || decide (homeDie e.loc = d)) } }

/-- The state with the directory scanned for a failed die: the lines it owned poisoned, its read copies gone, and the
invalidations on their way to it no longer waited for (R54). -/
def State.scanDirectory (s : State) (d : DieId) : State :=
  let s := (((s.revertEarly d).poisonOwned d).forgetCopies d).forgetDie d
  s.applyAll d

/-- The handles of the live strands of a team (R134, R175). -/
def State.liveHandles (s : State) (t : Team) : List Handle :=
  let m := s.liveMask t
  (List.range 64).filterMap fun i => if bitsOf m i 1 = 1 then some (t.handle (s.swapAsid t) i) else none

/-- The handles in the deques and spilled blocks of a core. -/
def Core.handles (c : Core) : List Handle :=
  c.deques.toList.flatten ++ (c.spills.toList.flatMap fun q => q.flatMap Spill.entries) ++ c.pushes.map Prod.snd

/-- The clusters of a die of which the state lists something. -/
def State.clustersOf (s : State) (d : DieId) : List ClusterId :=
  (s.clusters.filter fun (e : Nat × Cluster) => decide (e.1 / 112 = d.val)).map fun (e : Nat × Cluster) =>
    clusterOfNat e.1

/-- The strand of a system call. -/
def BenchReq.caller : BenchReq → Option Handle
  | .call h _ _ _ => some h
  | _ => none

/-- A team is lost with a die: it is placed on its clusters, waits in its queue or has its block there (R166). -/
def State.teamOnDie (s : State) (d : DieId) (t : Team) : Bool :=
  (t.placed && decide (t.die = d)) || (s.die d).teamQ.contains (.swapped t.id) || decide (homeDie t.block = d)

/-- The handles of strands that are on a die: in its deques, its waiter tables and its teams (R95, R166). -/
def State.handlesOn (s : State) (d : DieId) : List Handle :=
  ((s.coresOf d).flatMap fun c => (s.core c).handles) ++ ((s.die d).waiters.map Waiter.handle) ++
    ((s.clustersOf d).flatMap fun c => (s.cluster c).waiters.map Waiter.handle) ++
    ((s.teams.filter fun t => s.teamOnDie d t).flatMap fun t => s.liveHandles t)

/-- The die by whose descriptors firmware walks what all ASIDs hold when a die is lost: the lowest one in service. -/
def State.scanDie (s : State) : DieId := s.liveDies.headD 0

/-- The records of every overflow list, by ASID (R92). -/
def State.listed (s : State) : List Handle :=
  (s.overflowAsids s.scanDie).flatMap fun a => (s.overflowList s.scanDie a).map fun r => { asid := a, addr := r }

/-- A listed wait at a counter of a die of a strand that suspended on that die (R95). -/
def State.waitsThere (s : State) (d : DieId) (h : Handle) : Bool :=
  decide (homeDie (s.recCarry h.addr) = d) && decide (coreDie (coreOfNat (s.recCore h.addr)) = d)

/-- The handles of strands that the device holds anywhere while they are not resident (R134). -/
def State.handlesHeld (s : State) : List Handle :=
  (([0, 1, 2, 3] : List DieId).flatMap fun d => s.handlesOn d) ++
    s.listed ++
    (s.chains.flatMap fun c => c.2.map Chained.handle) ++
    (s.dies.toList.flatMap fun x => x.openFaults.flatMap fun o => o.head :: o.chain) ++
    (s.dies.toList.flatMap fun x => x.benchQ.toList.flatMap fun q => q.filterMap BenchReq.caller) ++
    (s.rings.flatMap fun r => r.2.filterMap fun e => e.req.caller) ++
    (s.dies.toList.flatMap fun x => x.scopes.filterMap fun e =>
      if e.2.closeWait ∧ e.2.opener ≠ 0 then some { asid := e.2.asid, addr := e.2.opener } else none)

/-- A list of handles without repeats. -/
def distinct (l : List Handle) : List Handle := l.foldl (fun acc h => if acc.contains h then acc else acc ++ [h]) []

/-- The strands that are dead by proxy when a die is fenced: those on it, those whose records it homes, those whose end waits there,
and those that wait at its counters and suspended there (R95, R145, R166). -/
def State.lostStrands (s : State) (d : DieId) : List Strand :=
  let here := s.residents.filter fun t => decide (coreDie t.core = d) || decide (homeDie t.handle.addr = d)
  let away := (distinct (s.handlesOn d ++ s.listed.filter (s.waitsThere d) ++
      s.handlesHeld.filter fun h => decide (homeDie h.addr = d))).filter fun h =>
    !here.any fun t => decide (t.handle = h)
  let ended := s.adds.filter fun t => decide (coreDie t.core = d) || decide (homeDie t.handle.addr = d)
  (here ++ ended ++ away.map fun h => s.strandOf (coreOfNat (s.recCore h.addr)) h).filter fun t => (s.descMem t.handle.asid).live

/-- The state with strands removed from everything that holds them. -/
def State.forget (s : State) (l : List Handle) : State :=
  let keep := fun (h : Handle) => !l.contains h
  let away := fun (t : Strand) => if l.contains t.handle then { t with run := .absent } else t
  let keepReq := fun (r : BenchReq) => match r.caller with
    | some h => keep h
    | none => true
  let s : State :=
    { s with
      cur := away s.cur
      parked := s.parked.filter fun t => keep t.handle
      pairs := s.pairs.filter fun p => !l.any fun h => decide (h.addr = p.strand)
      cores := s.cores.map fun (e : Nat × Core) =>
        (e.1, { e.2 with
          deques := e.2.deques.map fun q => q.filter keep
          pushes := e.2.pushes.filter fun x => keep x.2
          spills := e.2.spills.map fun q => q.map fun b => { b with entries := b.entries.filter keep } })
      clusters := s.clusters.map fun (e : Nat × Cluster) =>
        (e.1, { e.2 with waiters := e.2.waiters.filter fun w => keep w.handle })
      chains := s.chains.map fun (c : ChainKey × List Chained) => (c.1, c.2.filter fun h => keep h.handle)
      rings := s.rings.map fun (r : Nat × List BenchEntry) => (r.1, r.2.filter fun (e : BenchEntry) => keepReq e.req)
      dies := s.dies.map fun (x : Die) =>
        Die.keepReqs { x with
          waiters := x.waiters.filter fun w => keep w.handle
          openFaults := x.openFaults.filterMap fun o => match (o.head :: o.chain).filter keep with
            | [] => none
            | h :: r => some { o with head := h, chain := r } } keepReq }
  let k := s.scanDie
  (s.overflowAsids k).foldl
    (fun s a =>
      let q := s.overflowList k a
      let r := q.filter fun x => keep { asid := a, addr := x }
      if r.length = q.length then s else s.setOverflow k a r) s

/-- The state with the records of the overflow lists that wait on counters of a die pushed, their thresholds kept
(R95). -/
def State.unlistDie (s : State) (d : DieId) : State :=
  let k := s.scanDie
  (s.overflowAsids k).foldl
    (fun s a =>
      let q := s.overflowList k a
      let gone := q.filter fun r => decide (homeDie (s.recCarry r) = d)
      if gone.isEmpty then s
      else
        gone.foldl (fun s r => (s.put64 (r + 56) 0).deliver { asid := a, addr := r })
          (s.setOverflow k a (q.filter fun r => !gone.contains r))) s

/-- The calls that the Bench cores of a die hold, by their ASID and scope (R166, R385). -/
def State.callsOn (s : State) (d : DieId) : List (Asid × BitVec 32) :=
  let of_ := fun (r : BenchReq) => match r with
    | .call _ a scope _ => some (a, scope)
    | _ => none
  ((s.die d).benchQ.toList.flatMap fun q => q.filterMap of_) ++
    ((s.rings.filter fun (r : Nat × List BenchEntry) => decide (r.1 / 16 = d.val)).flatMap
      fun (r : Nat × List BenchEntry) => r.2.filterMap fun (e : BenchEntry) => of_ e.req)

/-- The engine commands and leases of a die's cores, by their ASID and scope (R166). -/
def State.commandsOn (s : State) (d : DieId) : List (Asid × BitVec 32) :=
  (s.coresOf d).flatMap fun c =>
    ((s.core c).lads.map fun y => (y.asid, y.scope)) ++ ((s.core c).crus.map fun y => (y.asid, y.scope)) ++
      match (s.core c).lease with
      | some l => [(l.asid, l.scope)]
      | none => []

/-- The agent is a core or an engine command of a die, or an operation of it. -/
def agentOnDie (d : DieId) : Agent → Bool
  | .core c => decide (coreDie c = d)
  | .ladle c _ => decide (coreDie c = d)
  | .crucible c _ => decide (coreDie c = d)
  | .device k => decide (k = d)
  | .shrink k _ => decide (k = d)
  | .power k => decide (k = d)
  | _ => false

/-- The state with a die's own structures emptied. DESIGN CHOICE: a leaf move from the die ends with it, its target page left Moving with
its lines counted, and a move to it goes on to its end; the spec states neither (R78; assumption log 36). -/
def State.emptyDie (s : State) (d : DieId) : State :=
  let s := (s.coresOf d).foldl
    (fun s c => s.modCore c fun x =>
      { x with lads := [], crus := [], lease := none, queue := [], pushes := [], invCount := 0 }) s
  let s : State :=
    { s with
      adds := s.adds.filter fun t => !(decide (coreDie t.core = d) || decide (homeDie t.handle.addr = d))
      order := { s.order with counts := s.order.counts.filter fun e => !agentOnDie d e.1 } }
  let s := s.leaveWhere fun a => agentOnDie d a || (s.die d).scopes.any fun e => decide (e.2.agent = a)
  { s with rings := s.rings.filter fun (r : Nat × List BenchEntry) => !decide (r.1 / 16 = d.val) }.modDie d fun x =>
    { x with waiters := [], marks := [], teamQ := [], benchQ := Vector.replicate 64 [], moves := [] }

/-- The launches whose teams wait in a die's queue, with the strands that are lost with them (R166). -/
def State.queuedLosses (s : State) (d : DieId) : List (Launch × Nat) :=
  s.launches.filterMap fun l =>
    let n := (s.die d).teamQ.foldl (fun n e => n + l.unplaced e) 0
    if n = 0 ∨ !(s.descMem l.asid).live then none else some (l, n)

/-! ### Accesses in flight when a die is fenced (R56, R361) -/

/-- The state in which a resident strand that waited for an access outside the device takes cause 0x08, with the
address of the access; a kill that has reached it acts first, at its next boundary (R56, R339, R361). -/
def State.failWaiter (s : State) (t : Strand) (o : Outstanding) : State :=
  let s := (s.choose t).modCur fun x => { x with run := .ready }
  let s : State := { s with outstanding := s.outstanding.filter fun x => !decide (x.id = o.id) }
  if t.killed then s else s.takeTrap { cause := 8, subcode := 0, tval := o.addr, epc := t.pc - 4 }

/-- The state in which a resident strand that waits in the close of a scope takes cause 0x08, if the scope's record is homed on a fenced
die (R56, R166, R339). -/
def State.failCloser (s : State) (t : Strand) (id : BitVec 32) : State :=
  match s.scopeOf t.handle.asid id with
  | none => s
  | some (a, _) =>
    if !s.fencedAt a then s
    else
      let s := (s.choose t).modCur fun x => { x with run := .ready }
      if t.killed then s else s.takeTrap { cause := 8, subcode := 0, tval := id.setWidth 64, epc := t.pc - 4 }

/-- The state in which every strand that waits for an access or a close that cannot be answered has taken cause 0x08
(R56, R166, R361). -/
def State.failWaiters (s : State) : State :=
  s.residents.foldl
    (fun (u : State) t =>
      match t.run with
      | .waitIo id =>
        match s.outstanding.find? fun o => decide (o.id = id) && s.lostPeer o with
        | some o => u.failWaiter t o
        | none => u
      | .waitClose _ id => u.failCloser t id
      | _ => u) s

/-- The strands chained to the conversion of a page of a die, or to a transfer of the host window that die 0 carries. -/
def ChainKey.onDie (d : DieId) : ChainKey → Bool
  | .conversion k _ => decide (k = d)
  | .ownership _ => decide (d.val = 0)
  | .stranded => false
  | .causer k _ _ => decide (k = d)
  | .badQueue _ => false

/-- The state with the strands chained to a fenced die pushed: they try again and take cause 0x08 (R56). -/
def State.releaseDie (s : State) (d : DieId) : State :=
  (s.chains.filter fun c => c.1.onDie d).foldl (fun u c => u.releaseChain c.1) s

/-- The state after a die has been fenced (R54, R56, R57, R95, R166). -/
def State.fenceDie (s : State) (d : DieId) : State :=
  let s := (s.modDie d fun x => { x with fenced := true }).scanDirectory d
  let strands := s.lostStrands d
  let others := (s.callsOn d ++ s.commandsOn d).filter fun e => (s.descMem e.1).live
  let queued := s.queuedLosses d
  let s := s.forget ((strands.map Strand.handle) ++ (s.residents.filter fun t => decide (coreDie t.core = d)).map Strand.handle)
  let s := s.emptyDie d
  let s := strands.foldl (fun s t => (s.endLease t.core t.handle.addr).strandEnds t true) s
  let s := others.foldl (fun s e => s.countDeath e.1 e.2 true) s
  let s := queued.foldl (fun s e => s.launchDeaths e.1 e.2 true) s
  let s := ((s.unlistDie d).releaseDie d).failWaiters
  (if s.settle.isOpen then s.liveDies.foldl (fun s e => s.checkMarkers e) s else s).finishSettle

/-- `DIE_FENCE` (R166). -/
def execDieFence (d : DieId) (s : State) : Host.Outcome State Fault Refusal :=
  if (s.die d).fenced then .next s else .next (s.fenceDie d)

end Sys2Proof.Machine
end

