-- ==== Sys2Proof/Machine/Walks.lean ====
section
/-!
DEFINITION. A page walk that completes apart from the access that asked for it (spec/01_addresses.md R29 to R37).
-/
namespace Sys2Proof.Machine

/-- The address is one that a walk of an ASID on a die may map: below 2^48, outside the cluster-memory window, and not under
the boot map alone (R16, R404); a fenced die walks nothing (R57). -/
def State.walkable (s : State) (d : DieId) (a : Asid) (va : Nat) : Bool :=
  decide (va < 2 ^ 48) && (decide (a = 0) || decide (va < windowBase)) && (decide (a ≠ 0) || decide (s.astb ≠ 0)) &&
    !(s.die d).fenced && (s.desc d a).live && decide ((s.desc d a).root < hbmTop)

/-- The state after a walk of an address on a die has completed with no access that joined it: A is set in the entry that it
found, and the die's walk cache holds the tables that it went through. The translation enters a TLB when an access asks for
it, and a walk that faults posts its record when the access that missed takes its fault (R34, R35, R37). -/
def State.completeWalk (s : State) (d : DieId) (a : Asid) (va : Nat) : State :=
  if s.walkable d a va ∧ (s.openFor d a (va / 4096)).isNone then
    let start := s.walkStart d a va (s.desc d a).root
    match walkFrom s va start.1 start.2 with
    | .page e bits at_ =>
      let p := placeOf e bits va
      if frameOk e p.loc a ∧ (p.ptype ≠ .leaf ∨ s.leafOk p.loc a) then
        ((s.markPage bits at_ false).walkPut d a va start.1 start.2).cacheDesc d a
      else s
    | _ => s
  else s

/-- `PAGE_WALK` (R37). -/
def execPageWalk (d : DieId) (a : Asid) (va : BitVec 48) (s : State) : Host.Outcome State Fault Refusal :=
  .next (s.completeWalk d a va.toNat)

end Sys2Proof.Machine
end

