-- ==== Sys2Proof/Machine/Launches.lean ====
section
/-!
DEFINITION. Launch queues of the host: doorbells, entries, completion records, resets
(spec/22_host_service.md R377 to R384).
-/
namespace Sys2Proof.Machine

/-- Sequence a follows b (R377). -/
def follows (a b : BitVec 32) : Bool := decide (1 ≤ (a - b).toNat ∧ (a - b).toNat ≤ 2 ^ 31 - 1)

/-- A queue of a function. -/
def State.queue (s : State) (f : FnId) (q : Fin 4) : Queue := (s.fn f).queues.get q

/-- The state with a queue changed. -/
def State.modQueue (s : State) (f : FnId) (q : Fin 4) (g : Queue → Queue) : State :=
  s.modFn f fun x => { x with queues := x.queues.set q (g (x.queues.get q)) }

/-- A queue may consume: it runs, its configuration is in range, and an entry is announced (R379, R381). -/
def State.mayConsume (s : State) (f : FnId) (q : Fin 4) : Bool :=
  let x := s.queue f q
  !s.restarting && x.configured && decide (x.state = 1) && follows x.latched x.consumed

/-- The state with the consumption of a queue offered, if it may consume. -/
def State.offerConsume (s : State) (f : FnId) (q : Fin 4) : State :=
  if s.mayConsume f q then s.offer (.launchEntryConsume f q) else s

/-- The state after a Doorbell write (R379). -/
def State.ringDoorbell (s : State) (f : FnId) (q : Fin 4) (v : BitVec 32) : State :=
  let x := s.queue f q
  if x.state = 2 ∨ !follows v x.latched then s
  else
    ((s.modQueue f q fun x => { x with latched := v, state := if x.state = 0 then 1 else x.state }).raiseInt 0 0).offerConsume
      f q

/-- `DOORBELL` (R379). -/
def execDoorbell (f : FnId) (q : Fin 4) (v : BitVec 32) (s : State) : Host.Outcome State Fault Refusal :=
  .next (s.ringDoorbell f q v)

/-! ### Entries (R378, R379) -/

/-- The n bytes that the device reads at a physical address: host memory's are not stated (assumption log 8). -/
def State.physRead (s : State) (a n : Nat) : List Byte × State :=
  if regionOf a = .host then s.openData n else (s.bytes a n, s)

/-- A launch entry (R378). -/
structure LaunchEntry where
  seq    : BitVec 32
  scope  : BitVec 32
  header : Word
  arena  : Word
  length : Nat
  deriving DecidableEq, Repr

/-- The entry that 32 bytes are. -/
def entryOf (bs : List Byte) : LaunchEntry :=
  { seq := BitVec.ofNat 32 (bitsOf (qwordOf bs 0) 0 32), scope := BitVec.ofNat 32 (bitsOf (qwordOf bs 0) 32 32)
    header := BitVec.ofNat 64 (qwordOf bs 1), arena := BitVec.ofNat 64 (qwordOf bs 2), length := qwordOf bs 3 }

/-- The header capability derived from a queue capability (R379). -/
def headerCap (c : CapReg) (a : Word) : CapReg :=
  let p := (if hasPerm c.bits .load then 1 else 0) + (if hasPerm c.bits .counter then 32 else 0)
  CapReg.moveTo { c with bits := withPerms c.bits (BitVec.ofNat 8 p) } a

/-- The permissions of a frame arena. -/
def arenaPerms : List Perm := [.load, .store, .loadCap, .storeCap]

/-- The arena capability derived from a queue capability: encoded bounds, tagged only if the queue capability allows it
(R379). -/
def arenaCap (c : CapReg) (a : Word) (len : Nat) : CapReg :=
  match (if a.toNat + len > 2 ^ 64 then none else encodeBounds a.toNat (a.toNat + len)) with
  | none => CapReg.zero
  | some (e, nb, nt) =>
    let ok := c.tag && !capMalformed c.bits && arenaPerms.all (hasPerm c.bits ·) &&
      decide (capBaseOf c.bits ≤ (nb : Int)) && decide ((nt : Int) ≤ capTopOf c.bits)
    { tag := ok, bits := withBounds (withPerms (BitVec.ofNat 128 a.toNat) 0x1B) e nb nt }

/-- The 64 bytes of a kernel header and the tag of its parameter, read for a queue's ASID of a function (R138, R379). -/
def State.hostHeader (s : State) (f : FnId) (a : Asid) (va : Word) : Inbound × Bool :=
  let w := Agent.host f 0
  let r := s.inboundRead a w va.toNat 64
  let tag := match (translate s (outsider a w) (va + 32) .load).2 with
    | .ok p => p.tags && s.tagAt p.loc
    | .error _ => false
  (r, tag)

/-- The root scope of an ASID that an entry names, in the table that die 0 uses (R13, R379). -/
def State.rootScope (s : State) (a : Asid) (id : BitVec 32) : Option (Nat × ScopeRec) :=
  match s.scopeIn (s.desc 0 a).scopeTable a id with
  | none => none
  | some (p, r) => if r.depth = 0 ∧ r.state ≠ .free ∧ !s.fencedAt p then some (p, r) else none

/-- The state after the record that an entry names as its root scope has been fetched (R150). -/
def State.checkRoot (s : State) (a : Asid) (id : BitVec 32) : State :=
  match s.scopeIn (s.desc 0 a).scopeTable a id with
  | none => s
  | some (p, _) => s.checkState p a

/-- The state with an entry's outcome ready as a completion record, without a launch. -/
def State.entryDone (s : State) (f : FnId) (q : Fin 4) (seq : BitVec 32) (status : Nat) : State :=
  s.readyRecord f q seq (BitVec.ofNat 8 status) 0

/-- The state after the launch of a header that has been read; the entry is left for later while the launch waits (R140, R379). -/
def State.launchHost (s : State) (f : FnId) (q : Fin 4) (e : LaunchEntry) (a : Asid) (cap : CapReg) (bs : List Byte)
    (tag : Bool) : State :=
  let s := s.cacheDesc 0 a
  let hdr := headerCap cap e.header
  let root := s.rootScope a e.scope
  let l := { headerLaunch bs tag (arenaCap cap e.arena e.length) with
    asid := a, f := s.fnOf 0 a, scope := e.scope, queue := some (f, q, e.seq) }
  let w := outsider a (.host f 0)
  let st := s.launchStatus w hdr bs l (root.map Prod.snd)
  if s.launchHeld w hdr bs l (root.map Prod.snd) then
    (s.askAdd e.header.toNat l).modQueue f q fun y => { y with consumed := e.seq - 1 }
  else
  let s := s.checkRoot a e.scope
  if st ≠ 0 then s.entryDone f q e.seq st
  else
    match root with
    | none => s.entryDone f q e.seq 4
    | some (p, r) => s.beginLaunch w 0 l p r

/-- The state after an entry has been looked at: consumed with its outcome, or left for later while its header's page
converts, moves or changes hands. A malformed descriptor makes its ASID dead and is recorded (R12, R379). -/
def State.consumeEntry (s : State) (f : FnId) (q : Fin 4) (e : LaunchEntry) : State :=
  let x := s.queue f q
  let d := s.desc 0 x.asid
  let s' := s.modQueue f q fun y => { y with consumed := e.seq }
  if !d.live then
    let s' := if d.refused then s'.refuse 0 (some x.asid) else s'
    s'.entryDone f q e.seq 6
  else if (capFault (headerCap x.cap e.header) e.header.toNat 64 [.load]).isSome ∨ e.header.toNat % 64 ≠ 0 then
    s'.entryDone f q e.seq 1
  else
    match s'.hostHeader f x.asid e.header with
    | (.rejected t, _) => t.entryDone f q e.seq 1
    | (.waits t, _) => (t.modQueue f q fun y => { y with consumed := x.consumed })
    | (.done t bs, tag) => t.launchHost f q e x.asid x.cap bs tag

/-- The physical address of the slot of a sequence in a queue's ring (R378). -/
def Queue.slot (x : Queue) (seq : BitVec 32) : Nat := x.base.toNat + 32 * (seq.toNat % 2 ^ x.n)

/-- `LAUNCH_ENTRY_CONSUME`: the next announced entry, if its slot holds its sequence; a slot on a fenced die holds nothing
(R56, R379). -/
def execLaunchEntryConsume (f : FnId) (q : Fin 4) (s : State) : Host.Outcome State Fault Refusal :=
  let x := s.queue f q
  let seq := x.consumed + 1
  if s.mayConsume f q ∧ !s.fencedAt (x.slot seq) then
    let r := s.physRead (x.slot seq) 32
    let e := entryOf r.1
    if e.seq = seq then .next ((r.2.consumeEntry f q e).offerConsume f q) else .next r.2
  else .next s

/-! ### Completion records (R380) -/

/-- The 16 bytes of a completion record (R380). -/
def completionBytes (seq : BitVec 32) (status : BitVec 8) (lost : Nat) : List Byte :=
  leBytes 16 (seq.toNat + status.toNat * 2 ^ 32 + lost % 2 ^ 40 * 2 ^ 88)

/-- The state with bytes written at a physical address, in the device or in host memory. -/
def State.physWrite (s : State) (a : Nat) (bs : List Byte) : State :=
  if regionOf a = .host then s.send (.hostWrite (hostAddr a) bs) else s.putBlock a bs

/-- Completed after records above it were written: it rises over every sequence that has its record (R377). -/
def advanceCompleted (written : List (BitVec 32)) : Nat → BitVec 32 → BitVec 32
  | 0, c => c
  | n + 1, c => if written.contains (c + 1) then advanceCompleted written n (c + 1) else c

/-- A queue after a record of a sequence was written. -/
def Queue.noteRecord (x : Queue) (seq : BitVec 32) : Queue :=
  let w := x.written ++ [seq]
  let c := advanceCompleted w w.length x.completed
  { x with produced := x.produced + 1, completed := c, written := w.filter fun k => follows k c }

/-- The ring has room for a record (R380). -/
def Queue.hasRoom (x : Queue) : Bool := decide ((BitVec.ofNat 32 x.produced - x.head).toNat < 2 ^ x.m)

/-- The state after an MSI-X vector of a function is sent, if it is enabled: that is the host's configuration of the vector,
which the spec does not describe, so whether it is sent is a free value (R375, R380, R388; assumption log 30). -/
def State.sendVector (s : State) (f : FnId) (v : Nat) : State :=
  let t : State := { s with tick := s.tick + 1 }
  if (Config.freeWord s.tick).getLsbD v then t.send (.msix f v) else t

/-- The state with the records that wait written while the ring has room, at most n of them; a ring on a fenced die takes none, and
none are written from a fenced die 0 (R56, R57, R380). -/
def State.writeRecords (s : State) (f : FnId) (q : Fin 4) : Nat → State
  | 0 => s
  | n + 1 =>
    let x := s.queue f q
    match x.ready with
    | [] => s
    | (seq, status, lost) :: r =>
      let a := x.cbase.toNat + 16 * (seq.toNat % 2 ^ x.m)
      if x.hasRoom ∧ !s.fencedAt a ∧ !(s.die 0).fenced then
        let s := s.physWrite a (completionBytes seq status lost)
        State.writeRecords ((s.modQueue f q fun y => { y with ready := r }.noteRecord seq).sendVector f q.val) f q n
      else s

/-- A launch was consumed from a queue. -/
def Launch.fromQueue (l : Launch) (f : FnId) (q : Fin 4) : Bool :=
  match l.queue with
  | some (g, k, _) => decide (g = f) && decide (k = q)
  | none => false

/-- Every scope of a killed subtree has as many deaths as births: its kill reports; a record homed on a fenced die is not
reached (R165, R166). -/
def State.killReported (s : State) (a : Asid) (root : BitVec 32) : Bool :=
  (s.dies.toList.flatMap Die.scopes).all fun e =>
    decide (e.2.asid ≠ a) || !s.inSubtree a e.2.id root || s.fencedAt e.1 || decide (e.2.deaths = e.2.births)

/-- The state with a queue's reset complete, if no consumed entry of it runs any more and its kills have reported
(R165, R382 step 3). -/
def State.finishReset (s : State) (f : FnId) (q : Fin 4) : State :=
  let x := s.queue f q
  if x.state = 2 ∧ !(s.launches.any fun l => l.fromQueue f q) ∧ x.killing.all (fun r => s.killReported x.asid r) then
    s.modQueue f q fun y => { y with latched := y.consumed, state := 0, killing := [] }
  else s

/-- The state after a queue's waiting records were written, each a release at `sys` that waits for the writes outside the
device, and its reset ended if nothing of it runs. While either waits, the event stays pending (R120, R380, R382). -/
def State.completeQueue (s : State) (f : FnId) (q : Fin 4) : State :=
  let x := s.queue f q
  let r := if x.ready.isEmpty then (s, true) else s.allPosted x.cbase.toNat
  let s := (if r.2 then r.1.writeRecords f q x.ready.length else r.1).finishReset f q
  if !r.2 ∨ (s.queue f q).state = 2 then { s with stays := true } else s

/-- `COMPLETION_RECORD` (R380). -/
def execCompletionRecord (f : FnId) (q : Fin 4) (s : State) : Host.Outcome State Fault Refusal :=
  .next (s.completeQueue f q)

/-! ### Resets and configuration (R379, R381, R382, R384) -/

/-- The state after a reset of a queue has begun: its running entries' root scopes killed (R382). -/
def State.resetQueue (s : State) (f : FnId) (q : Fin 4) : State :=
  if (s.queue f q).state = 2 then s
  else
    let mine := s.launches.filter fun l => l.fromQueue f q
    let s := s.modQueue f q fun x => { x with state := 2, killing := (mine.map Launch.scope).eraseDups }
    (mine.foldl (fun s l => (s.killScope l.asid l.scope).modLaunch l.id fun x => { x with killed := true }) s).addDue
      (.completionRecord f q)

/-- `QUEUE_RESET` (R382). -/
def execQueueReset (f : FnId) (q : Fin 4) (s : State) : Host.Outcome State Fault Refusal := .next (s.resetQueue f q)

/-- The state after a write of a queue's ring base (R379). -/
def State.writeRingBase (s : State) (f : FnId) (q : Fin 4) (v : Word) : State :=
  s.modQueue f q fun x =>
    { x with
      base := v, latched := 0, consumed := 0, completed := 0, head := 0, state := 0, produced := 0, written := [],
      killing := [] }

/-- `QUEUE_RING_BASE_WRITE` (R379). -/
def execQueueRingBaseWrite (f : FnId) (q : Fin 4) (v : Word) (s : State) : Host.Outcome State Fault Refusal :=
  .next (s.writeRingBase f q v)

/-- `FIRMWARE_CORE_RESTART`: consumption pauses until the restart ends (R381). -/
def execFirmwareCoreRestart (ends : Bool) (s : State) : Host.Outcome State Fault Refusal :=
  let t : State := { s with restarting := !ends }
  .next (if ends then
      (List.range 64).foldl (fun s f => ([0, 1, 2, 3] : List (Fin 4)).foldl (fun s q => s.offerConsume (fnOfNat f) q) s) t
    else t)

end Sys2Proof.Machine
end

