-- ==== Sys2Proof/Machine/BenchEvents.lean ====
section
/-!
DEFINITION. The Bench cores: requests, mailbox rings, system calls, the host service ring and ownership transfers
(spec/22_host_service.md R384 to R391, spec/06_ordering_far.md R123).
-/
namespace Sys2Proof.Machine

/-! ### Mailbox rings (R385, R386) -/

/-- The mailbox ring of a Bench core. -/
def State.ring (s : State) (b : Fin 64) : List BenchEntry := mapGet s.rings b.val []

/-- The state with a mailbox ring replaced. -/
def State.setRing (s : State) (b : Fin 64) (l : List BenchEntry) : State := { s with rings := mapSet s.rings b.val l }

/-- The die of a Bench core (R385). -/
def benchDie (b : Fin 64) : DieId := dieOfNat (b.val / 16)

/-- A number as a Bench core of a die. -/
def benchOf (d : DieId) (k : Nat) : Fin 64 := ⟨(d.val * 16 + k % 16) % 64, Nat.mod_lt _ (by decide)⟩

/-- The entry is a system call not yet served whose number a test accepts. -/
def BenchEntry.isCall (e : BenchEntry) (p : Nat → Bool) : Bool :=
  match e.stage, e.req with
  | .waiting, .call _ _ _ w => p (bitsOf w.toNat 0 16)
  | _, _ => false

/-- The entry has a result to deliver. -/
def BenchEntry.isAnswered (e : BenchEntry) : Bool :=
  match e.stage with
  | .answered _ => true
  | _ => false

/-- The entry waits to be posted on the host service ring of a function (R387, R390). -/
def BenchEntry.toHost (e : BenchEntry) (f : FnId) : Bool :=
  match e.stage, e.req with
  | .waiting, .call _ _ _ w => decide (bitsOf w.toNat 0 16 = 1) && decide (e.f = f)
  | .waiting, .transfer g _ _ => decide (g = f)
  | _, _ => false

/-- A list with its first element that a test accepts changed. -/
def changeFirst {α : Type} (p : α → Bool) (f : α → α) : List α → List α
  | [] => []
  | x :: r => if p x then f x :: r else x :: changeFirst p f r

/-- A list without its first element that a test accepts. -/
def dropFirst {α : Type} (p : α → Bool) : List α → List α
  | [] => []
  | x :: r => if p x then r else x :: dropFirst p r

/-- The state with the serving of a request offered, by its kind. -/
def State.serve (s : State) (b : Fin 64) (r : BenchReq) : State :=
  match r with
  | .call _ a _ w =>
    match bitsOf w.toNat 0 16 with
    | 0 => s.addAgenda (.syscallNull b)
    | 1 =>
      let f := s.fnOf (benchDie b) a
      if (s.fn f).ring = 0 then s.addAgenda (.syscallHost b) else s.offer (.serviceRingPost f)
    | 2 => s.addAgenda (.syscallLpnAssign b)
    | _ => s.addAgenda (.syscallFirmware b)
  | .fault _ _ => s.addAgenda (.benchReply b)
  | .convert d lpn a byAccess => (s.addAgenda (.leafConversion d lpn a byAccess)).addAgenda (.benchReply b)
  | .transfer f _ _ => s.offer (.serviceRingPost f)

/-- The stage at which a request enters a ring: fault records and conversions are acted on by Resolve writes and by the
conversion itself, so their replies carry nothing. -/
def BenchReq.stage : BenchReq → BenchStage
  | .fault _ _ => .answered 0
  | .convert _ _ _ _ => .answered 0
  | _ => .waiting

/-- The functions of a die that hold requests, in ascending order (R386). -/
def State.benchFns (s : State) (d : DieId) : List FnId :=
  (List.range 64).filterMap fun k => if ((s.die d).benchQ.get (fnOfNat k)).isEmpty then none else some (fnOfNat k)

/-- The ring of a function is configured and has room (R384, R388). -/
def Function.serviceRoom (x : Function) : Bool :=
  decide (x.ring ≠ 0) && decide (4 ≤ x.ringSize) && decide ((x.produced - x.consumed).toNat < 2 ^ x.ringSize)

/-- Entries of the mailbox rings that are to be posted on a function's host service ring. -/
def State.hostBound (s : State) (f : FnId) : Nat :=
  s.rings.foldl (fun n (r : Nat × List BenchEntry) => n + r.2.countP fun e => e.toHost f) 0

/-- A function's request waits in its queue: it goes to the host, whose ring for the function has no room for it, or a transfer finds no
ring (R388). -/
def State.waitsForHost (s : State) (f : FnId) (r : BenchReq) : Bool :=
  let x := s.fn f
  let full := decide ((x.produced - x.consumed).toNat + s.hostBound f ≥ 2 ^ x.ringSize) || !x.serviceRoom
  match r with
  | .call _ _ _ w => decide (bitsOf w.toNat 0 16 = 1) && decide (x.ring ≠ 0) && full
  | .transfer _ _ _ => full
  | _ => false

/-- The next request of a function that can be placed in a ring of a die: the oldest that does not wait for the host, which it passes
over (DEDUCED, assumption log 31), with the others of the queue. -/
def State.nextRequest (s : State) (d : DieId) (f : FnId) : Option (BenchReq × List BenchReq) :=
  let q := (s.die d).benchQ.get f
  (q.findIdx? fun r => !s.waitsForHost f r).bind fun k => q[k]?.map fun r => (r, q.eraseIdx k)

/-- The functions of a die that have a request to place, in ascending order. -/
def State.benchReady (s : State) (d : DieId) : List FnId := (s.benchFns d).filter fun f => (s.nextRequest d f).isSome

/-- The state with a new round of deficits begun (R386). -/
def State.newRound (s : State) (d : DieId) : State :=
  (s.benchFns d).foldl
    (fun s f =>
      let w : Int := (s.fn f).weight.toNat
      s.modDie d fun x => { x with deficits := x.deficits.set f (min (x.deficits.get f + w * 4096) (w * 65536)) }) s

/-- The lowest function of a die with a request to place and a deficit above 0 (R386). -/
def State.nextBenchFn (s : State) (d : DieId) : Option FnId :=
  (s.benchReady d).find? fun f => decide ((s.die d).deficits.get f > 0)

/-- A Bench core serves requests: neither it nor its stack is out of service. That the Bench cores of a removed stack leave service
with it, the rules do not say (R4, R399; DESIGN CHOICE, assumption log 38). -/
def State.benchServes (s : State) (b : Fin 64) : Bool :=
  let x := s.die (benchDie b)
  !x.benchOut.contains b.val && !x.stacksOut.contains (b.val / 4 % 4)

/-- The Bench core of a die whose ring takes the next request: one in service with room; which, the spec does not state
(assumption log 8). -/
def State.roomyBench (s : State) (d : DieId) : Option (Fin 64) :=
  let l := (List.range 16).filterMap fun k =>
    if s.benchServes (benchOf d k) ∧ (s.ring (benchOf d k)).length < 256 then some (benchOf d k) else none
  (pickAt (Config.freeWord s.tick).toNat l).map Prod.fst

/-- The state with a function's next request moved into a ring; a queue that empties keeps no deficit (R386). -/
def State.placeRequest (s : State) (d : DieId) (f : FnId) (b : Fin 64) : State :=
  match s.nextRequest d f with
  | none => s
  | some (r, rest) =>
    let s := { s with tick := s.tick + 1 }.modDie d fun x =>
      { x with
        benchQ := x.benchQ.set f rest
        deficits := if rest.isEmpty then x.deficits.set f 0 else x.deficits }
    (s.setRing b (s.ring b ++ [{ f := f, req := r, stage := r.stage }])).serve b r

/-- The state with the next dispatch of a die offered, if it has a request to place. -/
def State.offerDispatch (s : State) (d : DieId) : State :=
  if (s.benchReady d).isEmpty then s else s.offer (.benchRequestDispatch d)

/-- The state with dispatches offered for what a function's host service ring has made possible: calls and transfers that waited in its
queues (R388). -/
def State.offerWaiting (s : State) : State := ([0, 1, 2, 3] : List DieId).foldl (fun s d => s.offerDispatch d) s

/-- `BENCH_REQUEST_DISPATCH` (R386): with every ring full the requests wait for a reply, and with none to place nothing happens. -/
def execBenchRequestDispatch (d : DieId) (s : State) : Host.Outcome State Fault Refusal :=
  match s.roomyBench d with
  | none => .next s
  | some b =>
    match s.nextBenchFn d with
    | some f => .next ((s.placeRequest d f b).offerDispatch d)
    | none => .next (if (s.benchReady d).isEmpty then s else (s.newRound d).offerDispatch d)

/-! ### Replies (R326, R385, R386) -/

/-- The state after a reply was posted: its result delivered, its cost charged, the firmware core told (R326, R386,
R389). The cycles that a request took are not stated. -/
def State.postReply (s : State) (b : Fin 64) (e : BenchEntry) : State :=
  let d := benchDie b
  let cost : Int := Config.freeCycles s.tick
  let s := (s.setRing b (dropFirst BenchEntry.isAnswered (s.ring b))).modDie d fun x =>
    { x with deficits := x.deficits.set e.f (x.deficits.get e.f - cost) }
  let s := match e.req, e.stage with
    | .call h a scope _, .answered v => s.answerCall h a scope v
    | _, _ => s
  (s.raiseInt d 1).offerDispatch d

/-- `BENCH_REPLY` (R385). -/
def execBenchReply (b : Fin 64) (s : State) : Host.Outcome State Fault Refusal :=
  match (s.ring b).find? BenchEntry.isAnswered with
  | none => .next s
  | some e => .next (s.postReply b e)

/-! ### System calls (R387) -/

/-- The state after the first call of a ring that a test accepts has been served with a result. -/
def State.serveCall (s : State) (b : Fin 64) (p : Nat → Bool) (f : State → FnId → Word → Word × State) : State :=
  match (s.ring b).find? fun e => e.isCall p with
  | none => s
  | some e =>
    match e.req with
    | .call _ _ _ w =>
      let r := f s e.f w
      (r.2.setRing b (changeFirst (fun x => x.isCall p) (fun x => { x with stage := .answered r.1 }) (s.ring b))).addAgenda
        (.benchReply b)
    | _ => s

/-- `SYSCALL_NULL` (R387). -/
def execSyscallNull (b : Fin 64) (s : State) : Host.Outcome State Fault Refusal :=
  .next (s.serveCall b (fun n => decide (n = 0)) fun s _ _ => (0, s))

/-- `SYSCALL_HOST`: the call goes on to the host, or, without a ring, is answered by all ones (R387, R388). -/
def execSyscallHost (b : Fin 64) (s : State) : Host.Outcome State Fault Refusal :=
  match (s.ring b).find? fun e => e.isCall fun n => decide (n = 1) with
  | none => .next s
  | some e =>
    if (s.fn e.f).ring = 0 then
      .next (s.serveCall b (fun n => decide (n = 1)) fun s _ _ => (BitVec.allOnes 64, s))
    else .next (s.offer (.serviceRingPost e.f))

/-- The lowest LPN of a die that is Empty with V = 0 (R62, R387). -/
def State.freeLpn (s : State) (d : DieId) : Option Nat :=
  (List.range 4096).find? fun n => decide ((s.lpn d n).state = .empty) && !(s.lpn d n).v

/-- The result of call 2 of a function and the state after it (R387). -/
def State.assignLpn (s : State) (f : FnId) (w : Word) : Word × State :=
  let d := dieOfNat (bitsOf w.toNat 16 2)
  match s.freeLpn d with
  | none => (BitVec.allOnes 64, s)
  | some n => (BitVec.ofNat 64 n, s.modLpn d n fun e => { e with v := true, f := BitVec.ofNat 6 f.val })

/-- `SYSCALL_LPN_ASSIGN` (R387). -/
def execSyscallLpnAssign (b : Fin 64) (s : State) : Host.Outcome State Fault Refusal :=
  .next (s.serveCall b (fun n => decide (n = 2)) State.assignLpn)

/-- `SYSCALL_FIRMWARE`: what the firmware image defines (R387; assumption log 9). -/
def execSyscallFirmware (b : Fin 64) (s : State) : Host.Outcome State Fault Refusal :=
  .next (s.serveCall b (fun n => decide (n ≥ 3)) fun s _ w => (Config.firmwareCall w, s))

/-! ### The host service ring (R388) -/

/-- The first Bench core whose ring holds an entry for a function's host service ring, with that entry. -/
def State.hostWaiter (s : State) (f : FnId) : Option (Fin 64 × BenchEntry) :=
  s.rings.findSome? fun (r : Nat × List BenchEntry) =>
    (r.2.find? fun (e : BenchEntry) => e.toHost f).map fun e =>
      ((⟨r.1 % 64, Nat.mod_lt _ (by decide)⟩ : Fin 64), e)

/-- The 64 bytes of an entry of the host service ring (R388). -/
def serviceEntry (seq : Word) (kind tag value : Nat) (a : Asid) : List Byte :=
  leBytes 8 seq.toNat ++ leBytes 8 kind ++ leBytes 8 tag ++ leBytes 8 value ++ leBytes 8 a.toNat ++ List.replicate 24 0

/-- The kind, the value and the ASID that a request puts in its entry (R388). -/
def BenchReq.serviceFields (r : BenchReq) : Nat × Nat × Asid :=
  match r with
  | .call _ a _ w => (1, w.toNat, a)
  | .transfer _ region a => (2, region.toNat, a)
  | _ => (0, 0, 0)

/-- The state after a Bench core has posted an entry, under a tag that no other request has (R388). -/
def State.postService (s : State) (f : FnId) (b : Fin 64) (e : BenchEntry) : State :=
  let x := s.fn f
  let k := e.req.serviceFields
  let tag := s.nextId
  let a := x.ring.toNat + 64 * (x.produced.toNat % 2 ^ x.ringSize)
  let s := ({ s with nextId := s.nextId + 1 }.send (.hostWrite a (serviceEntry x.produced k.1 tag k.2.1 k.2.2))).sendVector
    f 4
  let s := s.modFn f fun y =>
    { y with
      produced := y.produced + 1
      tags := y.tags ++ [(BitVec.ofNat 64 tag, b.val)]
      grants := match e.req with
        | .transfer _ region _ => y.grants ++ [(region, BitVec.ofNat 64 tag)]
        | _ => y.grants }
  s.setRing b (changeFirst (fun z => z.toHost f) (fun z => { z with stage := .forwarded (BitVec.ofNat 64 tag) })
    (s.ring b))

/-- The state with a post on a function's ring offered, if an entry waits for it. -/
def State.offerService (s : State) (f : FnId) : State :=
  if (s.hostWaiter f).isSome then s.offer (.serviceRingPost f) else s

/-- The state after a write of a function's host service ring or of what the host has taken from it: entries that wait in the mailbox
rings or in the function's queues go on (R388). -/
def State.ringChanged (s : State) (f : FnId) : State := (s.offerService f).offerWaiting

/-- The state with a request of a mailbox ring back at the head of its function's queue. -/
def State.requeue (s : State) (f : FnId) (b : Fin 64) (e : BenchEntry) : State :=
  ((s.setRing b (dropFirst (fun z => z.toHost f) (s.ring b))).modDie (benchDie b) fun x =>
    { x with benchQ := x.benchQ.set f (e.req :: x.benchQ.get f) }).offerDispatch (benchDie b)

/-- The state with a request that finds no room on the host's ring back at the head of its function's queue; a call with no ring is
answered by all ones (R385, R387, R388). -/
def State.turnBack (s : State) (f : FnId) (b : Fin 64) (e : BenchEntry) : State :=
  match e.req with
  | .call _ _ _ _ =>
    if (s.fn f).ring = 0 then
      (s.setRing b (changeFirst (fun z => z.toHost f) (fun z => { z with stage := .answered (BitVec.allOnes 64) }) (s.ring b))).addAgenda
        (.benchReply b)
    else s.requeue f b e
  | _ => s.requeue f b e

/-- `SERVICE_RING_POST`: a release at `sys`, which waits for the writes outside the device (R120, R388). -/
def execServiceRingPost (f : FnId) (s : State) : Host.Outcome State Fault Refusal :=
  match s.hostWaiter f with
  | none => .next s
  | some (b, e) =>
    if (s.fn f).serviceRoom then
      match s.allPosted (s.fn f).ring.toNat with
      | (t, true) => .next ((t.postService f b e).offerService f)
      | (t, false) => .next { t with stays := true }
    else .next ((s.turnBack f b e).offerService f)

/-- A Bench core's ring holds a request that was forwarded under a tag; a kill answers a call before its reply (R165). -/
def State.isForwarded (s : State) (b : Nat) (tag : Word) : Bool :=
  (mapGet s.rings b []).any fun (e : BenchEntry) => decide (e.stage = BenchStage.forwarded tag)

/-- The state after the host has replied under a tag (R388). -/
def State.hostReply (s : State) (f : FnId) (tag : Word) : State :=
  let x := s.fn f
  match x.tags.find? fun t => decide (t.1 = tag) && s.isForwarded t.2 tag with
  | none => s.refuse 0 (some x.windowAsid)
  | some (_, b) =>
    let bench : Fin 64 := ⟨b % 64, Nat.mod_lt _ (by decide)⟩
    let region := (x.grants.find? fun g => decide (g.2 = tag)).map Prod.fst
    let s := s.modFn f fun y =>
      { y with
        tags := y.tags.filter fun t => !decide (t.1 = tag)
        grants := y.grants.filter fun g => !decide (g.2 = tag) }
    let s := s.setRing bench ((s.ring bench).map fun e =>
      if e.stage = .forwarded tag then { e with stage := .answered x.replyValue } else e)
    let s := (s.raiseInt 0 3).addAgenda (.benchReply bench)
    match region with
    | some r => s.addAgenda (.ownershipGrant f r)
    | none => s

/-- `REPLY_TAG` (R388). -/
def execReplyTag (f : FnId) (tag : Word) (s : State) : Host.Outcome State Fault Refusal := .next (s.hostReply f tag)

/-! ### Ownership transfers (R33, R123, R390, R391) -/

/-- The bytes of a region (R33). -/
def regionBytes : Nat := 0x200000

/-- The 2 MiB region that holds an address. -/
def regionOfWord (v : Word) : Nat := v.toNat / regionBytes * regionBytes

/-- A leaf-level entry maps memory of a region, whatever the page's type (R33). -/
def mapsRegion (region e bits : Nat) : Bool :=
  let loc := (placeOf e bits 0).loc
  decide (loc < region + regionBytes) && decide (region < loc + 2 ^ bits)

/-- The entries below a table, of a level and below, that map memory of a region: their addresses. -/
def ownedBelow (s : State) (region : Nat) : Nat → Nat → List Nat
  | 0, table =>
    (s.tableEntries table).filter fun a => decide (bitsOf (s.mem64 a) 0 2 = 3) && mapsRegion region (s.mem64 a) 12
  | lvl + 1, table =>
    (s.tableEntries table).flatMap fun a =>
      let e := s.mem64 a
      if bitsOf e 0 2 = 3 then (if mapsRegion region e (levelBits (lvl + 1)) then [a] else [])
      else if bitsOf e 0 2 = 1 ∧ entryFrame e < hbmTop then ownedBelow s region lvl (entryFrame e)
      else []

/-- The live ASIDs, as die 0 sees them. -/
def State.liveAsids (s : State) : List Asid :=
  (List.range 4096).filterMap fun n => if (s.desc 0 (BitVec.ofNat 12 n)).live then some (BitVec.ofNat 12 n) else none

/-- The entries of every live ASID that map pages of a region. -/
def State.regionEntries (s : State) (region : Nat) : List Nat :=
  s.liveAsids.flatMap fun a => if (s.desc 0 a).root < hbmTop then ownedBelow s region 3 (s.desc 0 a).root else []

/-- The state with the entries of a region given an owner and invalidated (R36, R390, R391). -/
def State.setOwner (s : State) (region owner : Nat) : State :=
  let s := (s.regionEntries region).foldl
    (fun s a => s.put64 a (s.mem64 a - bitsOf (s.mem64 a) 59 2 * 2 ^ 59 + owner * 2 ^ 59)) s
  { s with tlb := s.tlb.filter fun e => !mapsRegion region e.entry.toNat e.bits }

/-- The state after a region has come to the accelerator: one of the host window holds what the host left there, which the spec does
not state. Nothing is reached behind a fenced die 0 (R56, R123, R390 steps 4 and 5). -/
def State.grantRegion (s : State) (region : Nat) : State :=
  if (s.die 0).fenced then s
  else
    let s := s.setOwner region 2
    let s : State :=
      if regionOf region ≠ .host then s
      else
        { s with
          mem := s.mem.writeBytes region (openBytes s.tick regionBytes)
          tick := s.tick + regionBytes
          tags := setCut s.tags (region / 16) ((region + regionBytes) / 16)
          poison := setCut s.poison (region / 64) ((region + regionBytes) / 64)
          order := s.order.expose region regionBytes }
    s.releaseChain (.ownership region)

/-- `OWNERSHIP_GRANT` (R33, R390). -/
def execOwnershipGrant (_ : FnId) (region : Word) (s : State) : Host.Outcome State Fault Refusal :=
  .next (s.grantRegion (regionOfWord region))

/-- Some entry gives a region to the accelerator (R33). -/
def State.regionOwned (s : State) (region : Nat) : Bool :=
  (s.regionEntries region).any fun a => decide (bitsOf (s.mem64 a) 59 2 = 2)

/-- The state after the device's data of a region are written back and dropped (R123). -/
def State.writeRegion (s : State) (region : Nat) : State :=
  let s := (s.send (.hostWrite (hostAddr region) (s.bytes region regionBytes))).dropCopies region regionBytes
  (s.zeroRange region regionBytes).forgetLines (region / 128) ((region + regionBytes) / 128)

/-- The state after a region of the host window has gone to the processor: written back and dropped if the accelerator owned it, its
entries rewritten, bit 0 set. Nothing is reached behind a fenced die 0 (R56, R123, R391). -/
def State.releaseRegion (s : State) (f : FnId) (v : Word) : State :=
  let region := regionOfWord v
  if regionOf region ≠ .host ∨ (s.die 0).fenced then s
  else
    let s := if s.regionOwned region then s.writeRegion region else s
    (s.setOwner region 1).modFn f fun x => { x with xferReg := BitVec.ofNat 64 (region + 1) }

/-- The state after the host has asked for a region: the register reads the address with bit 0 clear until the region has gone, and a
transfer of it to the accelerator that has begun ends first (R391). -/
def State.transferOut (s : State) (f : FnId) (v : Word) : State :=
  let s := s.modFn f fun x => { x with xferReg := BitVec.ofNat 64 (regionOfWord v) }
  if s.chains.any fun c => decide (c.1 = .ownership (regionOfWord v)) then { s with stays := true } else s.releaseRegion f v

/-- `TRANSFER_TO_PROCESSOR` (R391). -/
def execTransferToProcessor (f : FnId) (v : Word) (s : State) : Host.Outcome State Fault Refusal :=
  .next (s.transferOut f v)

/-! ### Late frames (R69, R384) -/

/-- The state after a push onto a function's late-frame pool for a die (R384). -/
def State.pushFrame (s : State) (f : FnId) (d : DieId) (v : Word) : State :=
  let frame := bitsOf v.toNat 16 36 * 0x10000
  if frame < hbmTop ∧ homeDie frame = d then
    s.modFn f fun x => { x with frames := x.frames.set d (frame :: x.frames.get d) }
  else s.refuse 0 none

/-- `LATE_FRAME_PUSH` (R384). -/
def execLateFramePush (f : FnId) (d : DieId) (v : Word) (s : State) : Host.Outcome State Fault Refusal :=
  .next (s.pushFrame f d v)

end Sys2Proof.Machine
end

