-- ==== Sys2Proof/Machine/Links.lean ====
section
/-!
DEFINITION. Hyunzin ports, jobs and SPDM (spec/21_links_collectives.md R356 to R365).
-/
namespace Sys2Proof.Machine

/-! ### Ports (R356, R357, R361) -/

/-- The state with a port changed. -/
def State.modPort (s : State) (p : PortId) (f : Port → Port) : State := { s with ports := s.ports.set p (f (s.ports.get p)) }

/-- The collective has not ended and a loss of its links ends it: it has started to exchange, or leads and awaits ready messages
(R361, R373). -/
def Collective.inFlight (x : Collective) : Bool :=
  decide (x.state.toNat < 2) &&
    (match x.phase with
     | .gather => true
     | .reading => true
     | .sentReady => decide (x.me = 0)
     | _ => false)

/-- Every port that reached some member of a collective when it started is out of service (R361, R368). -/
def State.memberLost (s : State) (x : Collective) : Bool := x.paths.any fun q => !s.anyUp q.2

/-- The state with the collectives in flight that a test names ended with a link code (R365, R372). -/
def State.cutCollectives (s : State) (test : Collective → Bool) (link : BitVec 8) : State :=
  (s.cores.flatMap fun (e : Nat × Core) => e.2.crus.map fun x => (coreOfNat e.1, x)).foldl
    (fun (t : State) e => if e.2.inFlight && test e.2 then t.endCru e.1 e.2 3 link true else t) s

/-- The state with a port out of service: collectives that lose a member end with a link code, and waiting accesses that
lose their peer fail (R357, R361, R372). -/
def State.portDown (s : State) (p : PortId) (link : BitVec 8) : State :=
  let s := s.modPort p fun x => { x with up := false }
  (s.cutCollectives s.memberLost link).failWaiters

/-- `FLIT_RECEIVE` (R357): a flit that fails is dropped and replayed, and the third failed replay takes the port out. -/
def execFlitReceive (p : PortId) (authentic : Bool) (s : State) : Host.Outcome State Fault Refusal :=
  let x := s.ports.get p
  if !x.up then .next s
  else if authentic then .next (s.modPort p fun x => { x with failed := 0 })
  else if x.failed < 3 then .next (s.modPort p fun x => { x with failed := x.failed + 1, replays := x.replays + 1 })
  else
    .next
      (((s.modPort p fun x => { x with failed := x.failed + 1 }).portDown p 2).report 0
        { severity := 2, kind := 5, unit := BitVec.ofNat 16 p.val, code := 5, address := 0, asid := none, info := 0 } 0)

/-- The functions that have a job, with its epoch. -/
def State.epochs (s : State) : List (FnId × BitVec 16) :=
  (List.range 64).filterMap fun k => (s.jobs.get (fnOfNat k)).map fun j => (fnOfNat k, j.epoch)

/-- `FLIT_COUNTER_LIMIT` (R356): the sender stops on the port, for a function until its epoch changes. The event names no job: it
stops those that the device has (DEDUCED, assumption log 27). -/
def execFlitCounterLimit (p : PortId) (s : State) : Host.Outcome State Fault Refusal :=
  .next (s.modPort p fun x => { x with flits := 2 ^ 48, stopped := joinNew x.stopped s.epochs })

/-- `PORT_LANE_CHANGE` (R356): a port with lanes stays in service, unless replays or a removal have taken it out. -/
def execPortLaneChange (p : PortId) (lanes : Fin 9) (s : State) : Host.Outcome State Fault Refusal :=
  let s := s.modPort p fun x => { x with lanes := lanes.val }
  if lanes.val = 0 then .next (s.portDown p 1)
  else if (s.ports.get p).failed ≥ 4 ∨ (s.ports.get p).removed then .next s
  else .next (s.modPort p fun x => { x with up := true })

/-! ### Keys and epochs (R356, R357, R363) -/

/-- The device holds the key of the epoch of a job: it draws it as rank 0, or has received it (R363). -/
def State.keyed (s : State) (j : Job) : Bool := decide (j.rank = 0) || s.spdm.any fun p => p.received.contains j.epoch

/-- The state with every port's K bit as the keys held say (R357). -/
def State.noteKeys (s : State) : State :=
  let k := s.jobs.toList.any fun j =>
    match j with
    | some j => s.keyed j
    | none => false
  { s with ports := s.ports.map fun p => { p with keyed := k } }

/-- A port with what a function's earlier epochs stopped released: the flit counter restarts with the epoch (R356). -/
def Port.enterEpoch (x : Port) (f : FnId) (e : BitVec 16) : Port :=
  let l := x.stopped.filter fun y => decide (y.1 ≠ f) || decide (y.2 = e)
  { x with stopped := l, flits := if l.isEmpty then 0 else x.flits }

/-- The state in which a function's job runs under an epoch (R356). -/
def State.enterEpoch (s : State) (f : FnId) (e : BitVec 16) : State :=
  { s with ports := s.ports.map fun p => p.enterEpoch f e }

/-! ### Jobs (R358, R359) -/

/-- The 224 entries of a peer map (R359). -/
def State.peersAt (s : State) (a : Nat) : List (BitVec 16) :=
  (List.range 224).map fun p => BitVec.ofNat 16 (s.memN (a + 2 * p) 2)

/-- The job that a 64-byte descriptor gives a function, or none with the ASID that the refusal names (R358). -/
def State.jobAt (s : State) (f : FnId) (a : Nat) : Except (Option Asid) Job :=
  let q := fun i => s.mem64 (a + 8 * i)
  let j : Job :=
    { hallmark := q 7, groups := q 6, peerMap := q 5, peers := s.peersAt (q 5)
      groupCount := bitsOf (q 3) 48 16, ranks := bitsOf (q 3) 32 16, rank := bitsOf (q 3) 16 16, epoch := BitVec.ofNat 16 (bitsOf (q 3) 0 16)
      peerAsid := BitVec.ofNat 12 (bitsOf (q 2) 52 12), peerBase := bitsOf (q 2) 16 32 * 0x10000 }
  if a + 64 > hbmTop ∨ q 4 ≠ 0 ∨ bitsOf (q 2) 48 4 ≠ 0 ∨ bitsOf (q 2) 0 16 ≠ 0 ∨ q 1 ≠ 0 ∨ q 0 ≠ 0 then .error none
  else if j.rank ≥ j.ranks ∨ j.ranks > 3584 then .error none
  else if j.peerBase ≠ 0 ∧ (!(s.desc 0 j.peerAsid).live ∨ s.fnOf 0 j.peerAsid ≠ f) then .error (some j.peerAsid)
  else .ok j

/-! ### SPDM parties (R362, R363) -/

/-- A party, or one with which nothing has been exchanged. -/
def State.party (s : State) (n : Nat) : SpdmPeer :=
  match s.spdm.find? fun p => decide (p.party = n) with
  | some p => p
  | none => { party := n, phase := .none, digest := none, received := [], released := [], sender := none }

/-- The state with a party replaced. -/
def State.setParty (s : State) (x : SpdmPeer) : State :=
  { s with spdm := x :: s.spdm.filter fun p => !decide (p.party = x.party) }

/-- The state with a party in a phase. -/
def State.setPhase (s : State) (n : Nat) (x : SpdmPhase) : State := s.setParty { s.party n with phase := x }

/-- The state with a message to a party. -/
def State.say (s : State) (n : Nat) (message : String) (data : List Byte) : State := s.send (.spdm n message data)

/-- How far an exchange has come (R362; the order is that of SPDM 1.3, assumption log 21). -/
def SpdmPhase.rank : SpdmPhase → Nat
  | .none => 0
  | .asked => 0
  | .refused => 0
  | .version => 1
  | .capabilities => 2
  | .negotiated => 3
  | .certified => 4
  | .challenged => 5
  | .measured => 6
  | .keyed => 7
  | .session => 8

/-- A party is a switch: the device is its requester and never its responder (R362). -/
def isSwitch (n : Nat) : Bool := decide (3584 ≤ n) && decide (n < 65536)

/-- This device is rank 0 of a function's job in which a party is another rank, or which a switch serves: it admits the party
(R363). -/
def State.admits (s : State) (f : FnId) (n : Nat) : Bool :=
  match s.jobs.get f with
  | none => false
  | some j => decide (j.rank = 0) && (isSwitch n || decide (0 < n ∧ n < j.ranks))

/-- The functions in whose jobs this device admits a party (R363). -/
def State.admitting (s : State) (n : Nat) : List FnId :=
  ((List.range 64).map fnOfNat).filter fun f => s.admits f n

/-! ### Policy and keys (R363, R364) -/

/-- A digest is among the policy digests of the Hallmark table of a function's job (R363, R364). -/
def State.inPolicy (s : State) (f : FnId) (d : BitVec 256) : Bool :=
  match s.jobs.get f with
  | none => false
  | some j =>
    (List.range (min (s.memN j.hallmark 4) 120)).any fun k =>
      decide (BitVec.ofNat 256 (s.memN (j.hallmark + 0x20 + 32 * k) 32) = d)

/-- The lowest sender number that no party has (R363). -/
def State.freeSender (s : State) : Option Nat :=
  ((List.range 512).map (3584 + ·)).find? fun k => !(s.spdm.any fun p => decide (p.sender = some k))

/-- The state with a key sent to a party: a switch that has no sender number is given one (R363). -/
def State.releaseKey (s : State) (n : Nat) (f : FnId) (e : BitVec 16) : State :=
  let x := s.party n
  let sender := if isSwitch n then x.sender.orElse fun _ => s.freeSender else none
  (s.setParty { x with released := x.released.insert (f, e), sender := sender }).say n "KEY_UPDATE" (leBytes 2 e.toNat)

/-- The state after a party in session with this device has been sent the key of every job that it is admitted to: its digest is
in the job's policy (R363). -/
def State.releaseKeys (s : State) (n : Nat) : State :=
  let x := s.party n
  match x.phase, x.digest with
  | .session, some d =>
    (s.admitting n).foldl
      (fun s f =>
        match s.jobs.get f with
        | none => s
        | some j => if s.inPolicy f d ∧ !x.released.contains (f, j.epoch) then s.releaseKey n f j.epoch else s) s
  | _, _ => s

/-- The state after firmware distributes a new epoch to a party, for each job that admits the party, whose key it has and whose
policy has its digest (R363). -/
def State.distribute (s : State) (n : Nat) (e : BitVec 16) : State :=
  let x := s.party n
  match x.phase, x.digest with
  | .session, some d =>
    ((s.admitting n).filter fun f => (x.released.map Prod.fst).contains f && s.inPolicy f d).foldl
      (fun s f => s.releaseKey n f e) s
  | _, _ => s

/-- The state with the exchange with a party begun by this device (R362). -/
def State.ask (s : State) (n : Nat) : State := (s.setPhase n .asked).say n "GET_VERSION" []

/-- The state after the session with a party has ended: its keys are retired, and collectives in flight that reduce inside
it, that have it as a member, or whose job has no key any longer end with link code 3 (R365, R372). -/
def State.endSessionWith (s : State) (n : Nat) : State :=
  let s := (s.setParty { s.party n with phase := .none, received := [], released := [] }).noteKeys
  s.cutCollectives
    (fun x => decide (x.switch = some n) || (x.paths.any fun q => decide (q.1 = n)) ||
      match s.jobs.get x.f with
      | none => true
      | some j => !s.keyed j) 3

/-! ### Jobs in force (R357 to R359, R363) -/

/-- The state after a function's job has changed: the key of an epoch that it leaves is retired (R372), and as its rank 0 this
device asks the other ranks with which it has exchanged nothing, and sends the key to the parties it admits (R363). -/
def State.enterJob (s : State) (f : FnId) (old : Option Job) : State :=
  let s := s.noteKeys
  let epoch := (s.jobs.get f).map Job.epoch
  let s := if old.map Job.epoch = epoch then s else s.cutCollectives (fun x => decide (x.f = f)) 3
  match s.jobs.get f with
  | none => s
  | some j =>
    let s := s.enterEpoch f j.epoch
    if j.rank ≠ 0 then s
    else
      let s := (List.range j.ranks).foldl
        (fun s q => if q ≠ 0 ∧ (s.party q).phase = .none then s.ask q else s) s
      (s.spdm.map SpdmPeer.party).foldl State.releaseKeys s

/-- The state after a write of a function's Job pointer: the descriptor and its peer map take effect (R357 to R359). -/
def State.writeJob (s : State) (f : FnId) (v : Word) : State :=
  let p := bitsOf v.toNat 6 46 * 64
  let old := s.jobs.get f
  let s := { s with jobPtrs := s.jobPtrs.set f (BitVec.ofNat 64 p) }
  if p = 0 then { s with jobs := s.jobs.set f none }.enterJob f old
  else
    match s.jobAt f p with
    | .error a => ({ s with jobs := s.jobs.set f none }.refuse 0 a).enterJob f old
    | .ok j => { s with jobs := s.jobs.set f (some j) }.enterJob f old

/-- `JOB_POINTER_WRITE` (R359). -/
def execJobPointerWrite (f : FnId) (v : Word) (s : State) : Host.Outcome State Fault Refusal := .next (s.writeJob f v)

/-! ### The device as responder (R362, R363) -/

/-- The state after a request that the exchange admits, answered and with the party at least in a phase; otherwise the
answer is ERROR. The device answers no switch. -/
def State.answer (s : State) (n lo : Nat) (next : SpdmPhase) (message : String) (data : List Byte) :
    Host.Outcome State Fault Refusal :=
  if isSwitch n then .next s
  else if (s.party n).phase.rank < lo then .next (s.say n "ERROR" [])
  else
    let s := if (s.party n).phase.rank < next.rank then s.setPhase n next else s
    .next (s.say n message data)

/-- `GET_VERSION` (R362): SPDM 1.3 only; the exchange starts over. With a switch it is this device that asks. -/
def execGetVersion (n : Nat) (s : State) : Host.Outcome State Fault Refusal :=
  if isSwitch n then .next (s.ask n) else .next ((s.setPhase n .version).say n "VERSION" [0x13])

/-- `GET_CAPABILITIES` (R362). -/
def execGetCapabilities (n : Nat) (s : State) : Host.Outcome State Fault Refusal :=
  s.answer n 1 .capabilities "CAPABILITIES" []

/-- Every category has an algorithm of R362. -/
def offersAll (o : SpdmOffer) : Bool := o.rsaPss3072 && o.sha256 && o.ffdhe3072 && o.aes256gcm

/-- `NEGOTIATE_ALGORITHMS` (R362): an offer with none of the algorithms of a category is refused. -/
def execNegotiateAlgorithms (n : Nat) (o : SpdmOffer) (s : State) : Host.Outcome State Fault Refusal :=
  if offersAll o then s.answer n 2 .negotiated "ALGORITHMS" []
  else if isSwitch n then .next s
  else if (s.party n).phase.rank < 2 then .next (s.say n "ERROR" [])
  else .next ((s.setPhase n .refused).say n "ERROR" [])

/-- `GET_DIGESTS` (R362). -/
def execGetDigests (n : Nat) (s : State) : Host.Outcome State Fault Refusal :=
  s.answer n 3 .negotiated "DIGESTS" (leBytes 32 (Config.digest Config.certificate).toNat)

/-- `GET_CERTIFICATE` (R362). -/
def execGetCertificate (n offset length : Nat) (s : State) : Host.Outcome State Fault Refusal :=
  s.answer n 3 .certified "CERTIFICATE" ((Config.certificate.drop offset).take length)

/-- `CHALLENGE` (R362). -/
def execChallenge (n nonce : Nat) (s : State) : Host.Outcome State Fault Refusal :=
  s.answer n 3 .challenged "CHALLENGE_AUTH" (Config.sign Config.certificate nonce)

/-- `GET_MEASUREMENTS` (R362): all measurement blocks in index order, signed. A switch in session is measured again by this
device (R365). -/
def execGetMeasurements (n nonce : Nat) (s : State) : Host.Outcome State Fault Refusal :=
  if isSwitch n ∧ (s.party n).phase = .session then .next (s.say n "GET_MEASUREMENTS" [])
  else
    s.answer n 3 .measured "MEASUREMENTS"
      (Config.measurements.flatMap (fun b => b) ++ Config.sign (Config.measurements.flatMap fun b => b) nonce)

/-- `KEY_EXCHANGE` (R362). -/
def execKeyExchange (n exchange : Nat) (s : State) : Host.Outcome State Fault Refusal :=
  s.answer n 3 .keyed "KEY_EXCHANGE_RSP" (Config.exchangePart exchange)

/-- `FINISH` (R362): a FINISH that verifies establishes the session. -/
def execFinish (n : Nat) (verifyOk : Bool) (s : State) : Host.Outcome State Fault Refusal :=
  if isSwitch n then .next s
  else if (s.party n).phase ≠ .keyed then .next (s.say n "ERROR" [])
  else if verifyOk then s.answer n 7 .session "FINISH_RSP" []
  else .next ((s.setPhase n .refused).say n "ERROR" [])

/-- `KEY_UPDATE` (R362, R363): inside a session, the key of an epoch arrives from rank 0's device; from another party it brings
none. A switch, or another rank of a job whose rank 0 this device is, is sent the new epoch. -/
def execKeyUpdate (n : Nat) (epoch : BitVec 16) (s : State) : Host.Outcome State Fault Refusal :=
  if isSwitch n ∨ !(s.admitting n).isEmpty then .next (s.distribute n epoch)
  else if (s.party n).phase ≠ .session then .next (s.say n "ERROR" [])
  else
    let s := if n = 0 then (s.setParty { s.party n with received := (s.party n).received.insert epoch }).noteKeys else s
    .next (s.say n "KEY_UPDATE_ACK" [])

/-- The state with the collectives in flight that reduce inside a switch ended with link code 3: it is withdrawn (R365). -/
def State.withdraw (s : State) (n : Nat) : State := s.cutCollectives (fun x => decide (x.switch = some n)) 3

/-- `END_SESSION` (R362, R365). The session with a switch, or with another rank that this device admits, is ended by this device
as requester; a switch that is withdrawn without a session of this device's ends the collectives inside it all the same. -/
def execEndSession (n : Nat) (s : State) : Host.Outcome State Fault Refusal :=
  let mine := isSwitch n || !(s.admitting n).isEmpty
  if (s.party n).phase ≠ .session then
    (if isSwitch n then .next (s.withdraw n) else if mine then .next s else .next (s.say n "ERROR" []))
  else .next ((s.endSessionWith n).say n (if mine then "END_SESSION" else "END_SESSION_ACK") [])

/-! ### The device as requester (R362, R363) -/

/-- The state after a party has completed FINISH: as rank 0's device, this one releases the keys that the party is admitted to
(R363). -/
def State.letIn (s : State) (n : Nat) : State := (s.setPhase n .session).releaseKeys n

/-- A measurement admits a party to some job whose rank 0 this device is, and while keys are released to it, to those jobs
(R363, R365). -/
def State.measuredOk (s : State) (n : Nat) (d : BitVec 256) : Bool :=
  let x := s.party n
  if x.released.isEmpty then (s.admitting n).any fun f => s.inPolicy f d
  else x.released.all fun r => s.inPolicy r.1 d

/-- The state after a response of a party to this device, which then sends its next request; a response that does not
follow is dropped (R362, R363). -/
def State.hear (s : State) (n : Nat) : SpdmAnswer → State
  | .version versions =>
    if (s.party n).phase ≠ .asked then s
    else if versions.contains 0x13 then (s.setPhase n .version).say n "GET_CAPABILITIES" [] else s.setPhase n .refused
  | .capabilities => if (s.party n).phase = .version then (s.setPhase n .capabilities).say n "NEGOTIATE_ALGORITHMS" [] else s
  | .algorithms o =>
    if (s.party n).phase ≠ .capabilities then s
    else if offersAll o then (s.setPhase n .negotiated).say n "GET_DIGESTS" []
    else s.setPhase n .refused
  | .digests => if (s.party n).phase = .negotiated then s.say n "GET_CERTIFICATE" [] else s
  | .certificate _ => if (s.party n).phase = .negotiated then (s.setPhase n .certified).say n "CHALLENGE" [] else s
  | .challengeAuth ok =>
    if (s.party n).phase ≠ .certified then s
    else if ok then (s.setPhase n .challenged).say n "GET_MEASUREMENTS" [] else s.setPhase n .refused
  | .measurements blocks ok =>
    let x := s.party n
    let d := Config.digest (blocks.flatMap fun b => b)
    let good := ok && s.measuredOk n d
    match x.phase with
    | .challenged =>
      if good then (s.setParty { x with phase := .measured, digest := some d }).say n "KEY_EXCHANGE" []
      else s.setParty { x with phase := .refused, digest := none }
    | .session =>
      if good then s.setParty { x with digest := some d }
      else (s.setParty { x with digest := none }).endSessionWith n
    | _ => s
  | .keyExchangeRsp ok =>
    if (s.party n).phase ≠ .measured then s
    else if ok then (s.setPhase n .keyed).say n "FINISH" [] else s.setPhase n .refused
  | .finishRsp ok =>
    if (s.party n).phase ≠ .keyed then s else if ok then s.letIn n else s.setPhase n .refused
  | .keyUpdateAck _ => s
  | .endSessionAck => s

/-- `SPDM_RESPONSE` (R362). -/
def execSpdmResponse (n : Nat) (x : SpdmAnswer) (s : State) : Host.Outcome State Fault Refusal := .next (s.hear n x)

end Sys2Proof.Machine
end

