-- ==== Sys2Proof/Machine/Peers.lean ====
section
/-!
DEFINITION. Requests of peers and of the host that reach memory and counters, and the completions of the device's own
requests (spec/04_counters.md R96, R97, spec/06_ordering_far.md R120, R122, spec/13_memory_isa.md R251,
spec/21_links_collectives.md R360, spec/22_host_service.md R375, R376, R389, spec/23_nvme_read_program.md R392).
-/
namespace Sys2Proof.Machine

/-- The state after a request from outside: its answer goes back, or it stays pending while it waits at its home. -/
def Inbound.answered : Inbound → State
  | .done s bs => s.send (.reply bs)
  | .rejected s => s.send (.reply [])
  | .waits s => { s with stays := true }

/-- A peer's request waits while no port in service may send its answer for the function's job (R356). -/
def State.answering (s : State) (f : FnId) (x : State → Inbound) : State :=
  if s.allHeld f (BitVec.allOnes 12) then { s with stays := true } else (x s).answered

/-! ### Peers (R97, R360) -/

/-- The strand of a peer, in a function's job, that sends a request. -/
def senderPeer (by_ : Sender) : Agent := .peer by_.f by_.requester

/-- `PEER_WRITE` (R360). -/
def execPeerWrite (by_ : Sender) (o : Nat) (bs : List Byte) (s : State) : Host.Outcome State Fault Refusal :=
  .next (s.answering by_.f fun s => s.fromPeerWrite by_.f (senderPeer by_) (o % 2 ^ 44) bs)

/-- `PEER_READ` (R360). -/
def execPeerRead (by_ : Sender) (o n : Nat) (s : State) : Host.Outcome State Fault Refusal :=
  .next (s.answering by_.f fun s => s.fromPeerRead by_.f (senderPeer by_) (o % 2 ^ 44) n)

/-- `PEER_ATOMIC` (R360). -/
def execPeerAtomic (by_ : Sender) (o : Nat) (op : AmoOp) (y e : Word) (s : State) : Host.Outcome State Fault Refusal :=
  .next (s.answering by_.f fun s => s.fromPeerAtomic by_.f (senderPeer by_) (o % 2 ^ 44) op y e)

/-- `PEER_ADD` (R97): a write at an offset of the add window. -/
def execPeerAdd (by_ : Sender) (o n : Nat) (v : Word) (s : State) : Host.Outcome State Fault Refusal :=
  .next (s.answering by_.f fun s => s.fromPeerWrite by_.f (senderPeer by_) (addHalf + o % addHalf) (leBytes n v.toNat))

/-- `PEER_COUNTER_READ` (R97): a read at an offset of the add window. -/
def execPeerCounterRead (by_ : Sender) (o n : Nat) (s : State) : Host.Outcome State Fault Refusal :=
  .next (s.answering by_.f fun s => s.fromPeerRead by_.f (senderPeer by_) (addHalf + o % addHalf) n)

/-! ### The add window and the aperture (R96, R376, R392) -/

/-- The state after a posted write of the host: dropped with a record against an ASID if it is rejected. -/
def State.postedWrite (a : Asid) : Inbound → State
  | .done s _ => s
  | .rejected s => s.refuseInbound a
  | .waits s => { s with stays := true }

/-- The state after a read of the host: all ones and a record against an ASID if it is rejected. -/
def State.hostRead (a : Asid) (n : Nat) : Inbound → State
  | .done s bs => s.send (.reply bs)
  | .rejected s => (s.refuseInbound a).send (.reply (List.replicate n 0xFF))
  | .waits s => { s with stays := true }

/-- `WINDOW_ADD` (R96, R376): beyond the window's size no function claims it; with WB 0 it is dropped. -/
def execWindowAdd (by_ : Sender) (o n : Nat) (v : Word) (s : State) : Host.Outcome State Fault Refusal :=
  let x := s.fn by_.f
  if o + n > 2 ^ x.windowSize then .next s
  else if x.wb = 0 then .next (s.refuse 0 none)
  else .next (State.postedWrite x.windowAsid (s.inboundAdd x.windowAsid (senderHost by_) (x.wb.toNat + o) n v))

/-- `WINDOW_READ` (R96, R376). -/
def execWindowRead (by_ : Sender) (o n : Nat) (s : State) : Host.Outcome State Fault Refusal :=
  let x := s.fn by_.f
  if o + n > 2 ^ x.windowSize then .next (s.send (.unsupported o))
  else if x.wb = 0 then .next ((s.refuse 0 none).send (.reply (List.replicate n 0xFF)))
  else .next (State.hostRead x.windowAsid n (s.inboundCounter x.windowAsid (senderHost by_) (x.wb.toNat + o) n))

/-- `APERTURE_WRITE` (R392): without an aperture, or beyond its size, no function claims it. -/
def execApertureWrite (by_ : Sender) (o : Nat) (bs : List Byte) (s : State) : Host.Outcome State Fault Refusal :=
  let x := s.fn by_.f
  if x.ab = 0 ∨ o + bs.length > 2 ^ x.apSize then .next s
  else .next (State.postedWrite x.apAsid (s.inboundWrite x.apAsid (senderHost by_) (x.ab.toNat + o) bs))

/-- `APERTURE_READ` (R392). -/
def execApertureRead (by_ : Sender) (o n : Nat) (s : State) : Host.Outcome State Fault Refusal :=
  let x := s.fn by_.f
  if x.ab = 0 ∨ o + n > 2 ^ x.apSize then .next (s.send (.unsupported o))
  else .next (State.hostRead x.apAsid n (s.inboundRead x.apAsid (senderHost by_) (x.ab.toNat + o) n))

/-- `ATOMICOP_REQUEST` (R375): the device is no completer of AtomicOps. -/
def execAtomicopRequest (_ : FnId) (a : Nat) (s : State) : Host.Outcome State Fault Refusal :=
  .next (s.send (.unsupported a))

/-! ### Completions of the device's own requests (R120, R251, R361) -/

/-- The state without an outstanding access. -/
def State.settleIo (s : State) (id : Nat) : State :=
  { s with outstanding := s.outstanding.filter fun o => !decide (o.id = id) }

/-- The resident strand that waits for an access. -/
def State.waiterOf (s : State) (id : Nat) : Option Strand := s.residents.find? fun t => decide (t.run = .waitIo id)

/-- The state in which the strand that waited for an access goes on with its bytes. -/
def State.deliverIo (s : State) (o : Outstanding) (bs : List Byte) : State :=
  let s := s.settleIo o.id
  match s.waiterOf o.id with
  | none => s
  | some t => ((s.choose t).modCur fun x => { x with run := .ready }).setC o.dest (loadValue bs o.sext)

/-- The state in which the strand that waited for an AtomicOp takes cause 0x03, subcode 5, since the host rejected it;
a kill that has reached it acts first, at its next boundary (R251, R339). -/
def State.rejectIo (s : State) (o : Outstanding) : State :=
  let s := s.settleIo o.id
  match s.waiterOf o.id with
  | none => s
  | some t =>
    let s := (s.choose t).modCur fun x => { x with run := .ready }
    if t.killed then s
    else s.takeTrap
      { cause := 3, subcode := 5, tval := o.addr, epc := t.pc - 4 }

/-- The state after the zero-length read of a strand or command has completed: its host writes sent before it are
sys-visible (R120). -/
def State.confirmWrites (s : State) (o : Outstanding) : State :=
  { s with
    outstanding := s.outstanding.filter fun x =>
      !(x.posted && decide (x.strand = o.strand) && x.peer.isNone && decide (x.id ≤ o.id)) }

/-- `PCIE_COMPLETION` (R251). The value of a load that the host rejects is open (assumption log 8). -/
def execPcieCompletion (id : Nat) (data : Option (List Byte)) (s : State) : Host.Outcome State Fault Refusal :=
  match s.outstanding.find? fun o => decide (o.id = id) && o.peer.isNone with
  | none => .next s
  | some o =>
    if o.posted then .next (if o.size = 0 then s.confirmWrites o else s)
    else
      match data with
      | some bs => .next (if bs.length = o.size then s.deliverIo o bs else s)
      | none =>
        .next (if o.atomic then s.rejectIo o else (let r := s.openData o.size
           r.2.deliverIo o r.1))

/-- `PEER_ACKNOWLEDGEMENT` (R120): a write is sys-visible, or an access has its reply. -/
def execPeerAcknowledgement (id : Nat) (data : Option (List Byte)) (s : State) : Host.Outcome State Fault Refusal :=
  match s.outstanding.find? fun o => decide (o.id = id) && o.peer.isSome with
  | none => .next s
  | some o =>
    if o.posted then .next (s.settleIo id)
    else
      match data with
      | some bs => .next (if bs.length = o.size then s.deliverIo o bs else s)
      | none => .next s

/-- `PCIE_LINK_STATE_CHANGE` (R389): interrupt source 4 at die 0's firmware core. -/
def execPcieLinkStateChange (s : State) : Host.Outcome State Fault Refusal := .next (s.raiseInt 0 4)

end Sys2Proof.Machine
end

