-- ==== Sys2Proof/Machine/Reliability.lean ====
section
/-!
DEFINITION. Hardware errors, self-tests, removal of units, Touchstone pairs and Patina
(spec/25_reliability.md R394 to R401, spec/00_scope.md R3, R4, spec/15_engine_isa.md R305).
-/
namespace Sys2Proof.Machine

/-! ### Errors (R53, R305, R395) -/

/-- The state with an uncorrectable error contained: its sector poisoned (R53). -/
def State.poisonAt (s : State) (a : Nat) : State :=
  if regionOf a = .hbm then { s with poison := setIns s.poison (a / 64) } else s

/-- The state after what an error does beside its record: the burst of an uncorrectable error is poisoned (R53). -/
def State.errorEffect (s : State) (r : ErrorReport) : State :=
  if r.severity = 1 ∧ r.code = 2 ∧ (r.kind = 3 ∨ r.address ≠ 0) then s.poisonAt r.address.toNat else s

/-- The report is a checksum mismatch of an Anvil: a second one, which has a record, or with severity 0 a first one, which
the Anvil's rerun mends and which has none (R305; the form of the event is a DESIGN CHOICE, assumption log 36). -/
def isMismatch (r : ErrorReport) : Bool := decide (r.kind = 1) && decide (r.code = 3)

/-- The ASIDs of the commands of a core: Ladle, Crucible, and the lease of its Anvil commands. -/
def Core.asids (x : Core) : List Asid :=
  x.lads.map (·.asid) ++ x.crus.map (·.asid) ++ (match x.lease with
    | some l => [l.asid]
    | none => [])

/-- The ASIDs for which an access of memory can be made: those of the resident strands, of the commands, and of what the host and the
peers reach. -/
def State.accessors (s : State) : List Asid :=
  s.residents.map Strand.asid ++ s.cores.flatMap (fun e => e.2.asids) ++
    s.funcs.toList.flatMap (fun x => [x.windowAsid, x.apAsid]) ++
    s.jobs.toList.flatMap fun j => match j with
      | some j => [j.peerAsid]
      | none => []

/-- The ASID that a hardware error is attributed to: of a core's error, a strand there that met it; of an Anvil's, a lease of its
cluster; of an LLC slice's or a stack's, an access that met it; an error of a link, a boundary, a Bench core or a whole cluster, and one
that scrubbing or a directory's check has found, is not attributed (R396). -/
def State.attributed (s : State) (r : ErrorReport) : Option Asid :=
  r.asid.filter fun a =>
    match r.kind.toNat with
    | 0 => s.residents.any fun t => decide (t.core = coreOfNat r.unit.toNat) && decide (t.asid = a)
    | 1 =>
      (List.range 4).any fun k => match (s.core (clusterCore (clusterOfNat r.unit.toNat) k)).lease with
        | some l => decide (l.asid = a)
        | none => false
    | 2 => s.accessors.contains a
    | 3 => s.accessors.contains a
    | _ => false

/-- `ERROR_DETECTED` (R395); severities 4 and 5 run no Assay (R398). A checksum mismatch is met by the next `mx.mma` of the
cluster's Anvil, which reports a second one (R305). -/
def execErrorDetected (d : DieId) (r : ErrorReport) (s : State) : Host.Outcome State Fault Refusal :=
  if isMismatch r then .next (s.modCluster (clusterOfNat r.unit.toNat) fun x => { x with mismatch := some r })
  else .next ((s.errorEffect r).report d { r with asid := s.attributed r } (if r.severity = 4 ∨ r.severity = 5 then 4 else 0))

/-! ### Leaf lines whose way or slice leaves service (R64, R68, R73) -/

/-- The state with a leaf line in a way below w of its set that no other leaf line holds, an ordinary line there evicted; none if
there is no such way (R64, R73). -/
def State.reseat (s : State) (d : DieId) (lpn line w : Nat) : Option State :=
  let used := ((s.leafSet d lpn line).filter fun e =>
    !(decide (e.1 = lpn) && decide (e.2.1 = line)) && decide (e.2.2 < w)).map fun e => e.2.2
  (if used.length ≥ min w 11 then none else freeWay used w).map fun way =>
    (s.clearWay d lpn line way).modLpn d lpn fun e => { e with lines := mapSet e.lines line way }

/-- The state with leaf lines, each by its page and its line, in ways below w; the page of one that finds no way leaves. Where
an operation on that page is in progress, it is waited for (R68, R73, R74). -/
def State.reseatAll (s : State) (d : DieId) (w : Nat) : List (Nat × Nat) → State × Bool
  | [] => (s, true)
  | (n, l) :: r =>
    if !(s.lpn d n).lines.any (fun x => decide (x.1 = l)) then s.reseatAll d w r
    else
      match s.reseat d n l w with
      | some s' => State.reseatAll s' d w r
      | none =>
        if s.pageBusy d n (.power d) then (s.waitAt d n (.power d), false)
        else State.reseatAll ((s.departAt d n (.power d)).leavePage d n) d w r

/-- The leaf lines of a die that a test accepts, by page and line, in ascending order. -/
def State.leafLines (s : State) (d : DieId) (p : Nat → Nat → Nat → Bool) : List (Nat × Nat) :=
  (s.die d).lpns.flatMap fun e => (e.2.lines.filter fun l => p e.1 l.1 l.2).map fun l => (e.1, l.1)

/-! ### Removal from service (R4, R398) -/

/-- The state in which every user strand of a core is asked to stop; its firmware strand, if any, issues no more when
the core is removed (R3, R178). -/
def State.stopStrandsOn (s : State) (c : CoreId) (removed : Bool) : State :=
  let g := fun (t : Strand) =>
    if t.core ≠ c ∨ t.run = .absent then t
    else if isFirmware t.handle then (if removed then { t with run := .absent } else t)
    else { t with stopWanted := true }
  { s with cur := g s.cur, parked := s.parked.map g }

/-- The state with a core's deque entries and waiting pushes delivered again, to other cores, and its spilled blocks returned (R93,
R173). -/
def State.redeliver (s : State) (c : CoreId) : State :=
  let x := s.core c
  let held := x.handles
  let blocks := x.spills.toList.flatMap fun q => q.map fun b => b.block
  let s := s.setCore c { x with deques := Vector.replicate 4 [], spills := Vector.replicate 4 [], pushes := [] }
  let s := blocks.foldl (fun s b => s.pushPool (homeDie b) .context b) s
  held.foldl (fun s h => s.deliver h) s

/-- The state with a core out of service (R3, R4, R398). -/
def State.removeCore (s : State) (c : CoreId) : State :=
  ((s.modCore c fun x => { x with outOfService := true }).stopStrandsOn c true).redeliver c

/-- The state with a cluster out of service: its teams are swapped out, its cores and its Anvil are removed (R4, R175,
R401). -/
def State.removeCluster (s : State) (cl : ClusterId) : State :=
  let s := s.modCluster cl fun x => { x with outOfService := true, anvilOut := true }
  let s := (s.teams.filter fun t => t.placed && decide (t.cluster = cl)).foldl (fun s t => s.trySwap t) s
  (List.range 4).foldl (fun s k => s.removeCore (clusterCore cl k)) s

/-- The state with an LLC slice of a die out of service: its ordinary lines are evicted first, and its leaf lines take ways of
their new slices (R46, R398; what the leaf lines do is a DESIGN CHOICE, assumption log 34). -/
def State.removeSlice (s : State) (d : DieId) (k : Nat) : State :=
  let leaf := s.leafLines d fun n l _ => decide (s.homeSlice (leafLoc d.val n (l * 128)) = k)
  let s := (s.caches.llc.filter fun x => decide (x.die = d) && decide (s.sliceOn d x.line = k)).foldl
    (fun s x => s.evict d x.line) s
  ((s.modDie d fun x => { x with slicesOut := setIns x.slicesOut k }).reseatAll d (s.die d).waysOn leaf).1

/-- The state with a unit removed from service: a hole that nothing uses any more (R4, R398). A Panan boundary has no state of
its own: traffic takes the other way round the ring. -/
def State.removeUnit (s : State) (kind unit : Nat) : State :=
  match kind with
  | 0 => s.removeCore (coreOfNat unit)
  | 1 => s.modCluster (clusterOfNat unit) fun x => { x with anvilOut := true }
  | 2 => s.removeSlice (dieOfNat (unit / 64)) (unit % 64)
  | 3 => s.modDie (dieOfNat (unit / 4)) fun x => { x with stacksOut := setIns x.stacksOut (unit % 4) }
  | 5 =>
    let p : PortId := ⟨unit % 12, Nat.mod_lt _ (by decide)⟩
    (s.modPort p fun x => { x with removed := true }).portDown p 1
  | 6 => s.modDie (dieOfNat (unit / 16)) fun x => { x with benchOut := setIns x.benchOut unit }
  | 7 => s.removeCluster (clusterOfNat unit)
  | _ => s

/-! ### Assay (R398) -/

/-- Units of a kind that an Assay can name. -/
def assayUnits (kind : Nat) : Nat :=
  match kind with
  | 0 => 1792
  | 1 => 448
  | 2 => 256
  | 3 => 16
  | 4 => 4
  | 5 => 12
  | 6 => 64
  | _ => 0

/-- The state after a write to a die's Assay register: ignored while busy, and where it names no unit that is tested
(R398). -/
def State.startAssay (s : State) (d : DieId) (v : Word) : State :=
  let kind := bitsOf v.toNat 40 4
  let unit := bitsOf v.toNat 24 16
  if (s.die d).assay.busy ∨ unit ≥ assayUnits kind then s
  else
    let s := s.modDie d fun x =>
      { x with assay := { busy := true, pass := false, kind := BitVec.ofNat 4 kind, unit := BitVec.ofNat 16 unit } }
    if kind = 0 then s.stopStrandsOn (coreOfNat unit) false else s

/-- `ASSAY_START` (R398). -/
def execAssayStart (d : DieId) (v : Word) (s : State) : Host.Outcome State Fault Refusal := .next (s.startAssay d v)

/-- The state in which a unit that was tested serves again. -/
def State.serveAgain (s : State) (kind unit : Nat) : State :=
  match kind with
  | 0 => s.offerNext (coreOfNat unit)
  | 1 => s.offerAnvil (clusterOfNat unit)
  | _ => s

/-- `ASSAY_END` (R398): a unit that passes serves again, one that fails has a lasting error and is removed. -/
def execAssayEnd (d : DieId) (pass : Bool) (s : State) : Host.Outcome State Fault Refusal :=
  let a := (s.die d).assay
  if !a.busy then .next s
  else
    let s := s.modDie d fun x => { x with assay := { x.assay with busy := false, pass := pass } }
    .next (if pass then s.serveAgain a.kind.toNat a.unit.toNat else s.removeUnit a.kind.toNat a.unit.toNat)

/-- The state after firmware writes the control word of a record: Assay, Removed and Class, of which 3 is not written;
with Removed the unit leaves service (R395, R398). -/
def State.writeControl (s : State) (d : DieId) (slot : Nat) (v : Word) : State :=
  match mapGet? (s.die d).errSlots slot with
  | none => s
  | some e =>
    let removed := decide (bitsOf v.toNat 2 1 = 1)
    let cls := bitsOf v.toNat 0 2
    let e' : ErrSlot :=
      { e with
        assay := BitVec.ofNat 4 (bitsOf v.toNat 4 4)
        removed := removed
        cls := if cls = 3 then e.cls else BitVec.ofNat 2 cls }
    let s := s.modDie d fun x => { x with errSlots := mapSet x.errSlots slot e' }
    if removed ∧ !e.removed then s.removeUnit e.report.kind.toNat e.report.unit.toNat else s

/-! ### Patina (R401) -/

/-- `PATINA_SAMPLE` (R401): with n steps, a drift above (3 + 2n) % takes one more and posts its record; at 10 steps it
removes the cluster. -/
def execPatinaSample (cl : ClusterId) (count : BitVec 16) (s : State) : Host.Outcome State Fault Refusal :=
  let x := s.cluster cl
  let n := x.steps.toNat
  let s := s.modCluster cl fun x => { x with now := count }
  if ((x.birth.toNat : Int) - count.toNat) * 100 > (3 + 2 * n) * (x.birth.toNat : Int) then
    let s := if n ≥ 10 then s.removeCluster cl else s.modCluster cl fun x => { x with steps := BitVec.ofNat 4 (n + 1) }
    .next
      (s.report (clusterDie cl)
        { severity := 4, kind := 7, unit := BitVec.ofNat 16 cl.val, code := 7, address := 0, asid := none
          info := BitVec.ofNat 64 (min (n + 1) 10) } 4)
  else .next s

/-! ### Touchstone (R400) -/

/-- The state after the resident strand of a pair has stopped for good: one death by proxy in its scope (R166, R400). -/
def State.losePair (s : State) (x : Pair) : State :=
  match s.residents.find? fun t => decide (t.handle.addr = x.strand) with
  | none => s
  | some t =>
    let s := s.choose t
    (((s.endLease t.core t.handle.addr).leave).strandEnds t true)

/-- The state after a mismatch: the operation is not forwarded, the pair is counted dead by proxy, and a record of
severity 3 follows (R395, R400). -/
def State.mismatch (s : State) (x : Pair) : State :=
  (s.losePair x).report (coreDie x.first)
    { severity := 3, kind := 0, unit := BitVec.ofNat 16 x.first.val, code := 6, address := 0, asid := some x.asid
      info := BitVec.ofNat 64 (x.first.val * 2 ^ 16 + x.second.val) } 0

/-- The state with a hash of a pair held until its partner's arrives, or is late. -/
def State.holdHash (s : State) (x : Pair) (c : PairCopy) (h : Word) : State :=
  (s.setPair { x with held := some (c, h) }).offer (.touchstoneTimeout x.id)

/-- The state after equal hashes of a pair: the operation that they are of is performed, once. -/
def State.forwardOp (s : State) (x : Pair) : State :=
  let s := s.setPair { x with held := none, forwarded := x.forwarded + 1, asked := none, matched := x.asked.or x.matched }
  { s with agenda := s.agenda.filter fun i => !decide (i = .touchstoneTimeout x.id) }

/-- `TOUCHSTONE_HASH` (R400): a copy's hash is held until its partner's arrives; equal hashes forward the operation
once. A copy's next hash waits while its partner's is awaited. -/
def execTouchstoneHash (pair : Nat) (copy : PairCopy) (hash : Word) (s : State) : Host.Outcome State Fault Refusal :=
  match s.pairs.find? fun p => decide (p.id = pair) with
  | none => .next s
  | some x =>
    match x.held with
    | none => .next (s.holdHash x copy hash)
    | some (c, h) =>
      if c = copy then .next { s with stays := true }
      else if h = hash then .next (s.forwardOp x)
      else .next (s.mismatch x)

/-- `TOUCHSTONE_TIMEOUT` (R400): the partner's hash is 20 µs late. -/
def execTouchstoneTimeout (pair : Nat) (s : State) : Host.Outcome State Fault Refusal :=
  match s.pairs.find? fun p => decide (p.id = pair) && p.held.isSome with
  | none => .next s
  | some x => .next (s.mismatch x)

end Sys2Proof.Machine
end

