-- ==== Sys2Proof/Machine/Power.lean ====
section
/-!
DEFINITION. Writes of firmware that give blocks, leaf capacity, leaf page numbers and power states
(spec/03_leaf_pages.md R60 to R62, R73, spec/09_scheduling.md R169, spec/26_bringup_power.md R408).
-/
namespace Sys2Proof.Machine

/-! ### Pools (R169) -/

/-- The state after a write of a pool register: the block at the address is pushed, or, misaligned or outside the die's HBM, refused
with an error record (R6, R168, R169). -/
def State.pushBlock (s : State) (d : DieId) (p : Pool) (v : Word) : State :=
  let b := bitsOf v.toNat 0 52
  if poolBlockOk d p b then s.pushPool d p b else s.refuse d none

/-- `TEAM_BLOCK_POOL_PUSH` (R169). -/
def execTeamBlockPoolPush (d : DieId) (v : Word) (s : State) : Host.Outcome State Fault Refusal :=
  .next (s.pushBlock d .team v)

/-- `CONTEXT_BLOCK_POOL_PUSH` (R169): a stop that waits for a block is tried again when its strand is next to issue
(R178). -/
def execContextBlockPoolPush (d : DieId) (v : Word) (s : State) : Host.Outcome State Fault Refusal :=
  .next (s.pushBlock d .context v)

/-- `SWAP_AREA_POOL_PUSH` (R169). -/
def execSwapAreaPoolPush (d : DieId) (v : Word) (s : State) : Host.Outcome State Fault Refusal :=
  .next (s.pushBlock d .swap v)

/-! ### Leaf capacity (R60 to R62) -/

/-- The state after a write of a die's Ceiling (R60). -/
def State.writeCeiling (s : State) (d : DieId) (v : Word) : State :=
  let n := min (bitsOf v.toNat 0 13) 4096
  if n < (s.die d).totalReserved then s else s.modDie d fun x => { x with ceiling := n }

/-- The state after a write of a function's reservation entry: a raise that exceeds Ceiling is ignored, a cut below
Resident starts the shrink (R61). -/
def State.writeReservation (s : State) (d : DieId) (f : FnId) (v : Word) : State :=
  let x := s.die d
  let r := x.resv.get f
  let n := bitsOf v.toNat 0 13
  let old := r.reservation.toNat
  if n > old ∧ x.totalReserved - old + n > x.ceiling then s
  else
    let s := s.modDie d fun x => { x with resv := x.resv.set f { r with reservation := BitVec.ofNat 13 n } }
    if n < old ∧ n * 512 < r.resident then s.offer (.leafShrink d f) else s

/-- `RESERVATION_WRITE` (R61). -/
def execReservationWrite (d : DieId) (f : FnId) (v : Word) (s : State) : Host.Outcome State Fault Refusal :=
  .next (s.writeReservation d f v)

/-- The state after a write of an LPN entry: V and Function, only while the page is Empty (R62). -/
def State.writeLpn (s : State) (d : DieId) (lpn : Nat) (v : Nat) : State :=
  if (s.lpn d lpn).state ≠ .empty then s
  else s.modLpn d lpn fun e => { e with v := decide (bitsOf v 31 1 = 1), f := BitVec.ofNat 6 (bitsOf v 0 6) }

/-- `LPN_ENTRY_WRITE` (R62). -/
def execLpnEntryWrite (d : DieId) (lpn : BitVec 12) (v : BitVec 32) (s : State) : Host.Outcome State Fault Refusal :=
  .next (s.writeLpn d lpn.toNat v.toNat)

/-! ### Power states (R73, R408) -/

/-- The largest Ceiling of a power state (R73). -/
def powerCeiling (state : Nat) : Nat :=
  match state with
  | 0 => 4096
  | 1 => 2048
  | _ => 0

/-- Ways of each set that a power state leaves in service (R408). -/
def powerWays (state : Nat) : Nat :=
  match state with
  | 0 => 12
  | 1 => 8
  | _ => 4

/-- The state with the ordinary lines of a die in ways from w on evicted (R73). -/
def State.evictWays (s : State) (d : DieId) (w : Nat) : State :=
  (s.caches.llc.filter fun x => decide (x.die = d) && decide (w ≤ x.way)).foldl (fun s x => s.evict d x.line) s

/-- The state after a write of a die's power register: 3 is ignored, and a state that Total reserved forbids is refused. The
state is in force once each leaf line of a dropped way has moved to another way or left with its page; until an operation on
such a page has ended, the request waits. Nothing of a fenced die changes (R56, R57, R68, R73, R74, R408). -/
def State.writePower (s : State) (d : DieId) (v : Word) : State :=
  let n := bitsOf v.toNat 0 2
  let top := min (s.die d).ceiling (powerCeiling n)
  let w := powerWays n
  if n = 3 ∨ (s.die d).totalReserved > top ∨ (s.die d).fenced then s.leaveQueues (.power d)
  else
    let s := s.modDie d fun x => { x with powerReq := BitVec.ofNat 2 n }
    match s.reseatAll d w (s.leafLines d fun _ _ way => decide (w ≤ way)) with
    | (s, false) => { s with stays := true }
    | (s, true) => ((s.leaveQueues (.power d)).evictWays d w).modDie d fun x => { x with ceiling := top, power := BitVec.ofNat 2 n }

/-- `POWER_STATE_WRITE` (R408). -/
def execPowerStateWrite (d : DieId) (v : Word) (s : State) : Host.Outcome State Fault Refusal := .next (s.writePower d v)

end Sys2Proof.Machine
end

