-- ==== Sys2Proof/Machine/Registers.lean ====
section
/-!
DEFINITION. Writes of device MMIO and of BAR0 (spec/03_leaf_pages.md R59, spec/09_scheduling.md R168, R177,
spec/17_traps.md R346, spec/21_links_collectives.md R357, spec/22_host_service.md R376, R377, R384, R388, R391,
spec/23_nvme_read_program.md R392, spec/25_reliability.md R394, R398, spec/26_bringup_power.md R408). Reserved bits of a
written value are ignored (R6).
-/
namespace Sys2Proof.Machine

/-! ### The scheduler control block (R168, R177, R178) -/

/-- The state with a die's scheduling policy changed. -/
def State.modPol (s : State) (d : DieId) (f : Policy → Policy) : State :=
  { s with policy := s.policy.set d (f (s.policy.get d)) }

/-- The quantum that a write leaves: 10 µs to 10 ms (R168, R177). -/
def quantumOf (v : Nat) : Nat := min 10000 (max 10 (bitsOf v 0 14))

/-- The ageing that a write leaves: 1 to 64 (R168, R177). -/
def ageingOf (v : Nat) : Nat := min 64 (max 1 (bitsOf v 0 7))

/-- The weight that a write leaves: at least 1 (R168, R177, R384). -/
def weightOf (v : Nat) : BitVec 8 := if bitsOf v 0 8 = 0 then 1 else BitVec.ofNat 8 v

/-- A cluster mask with one of its two qwords written (R168). -/
def maskOf (old : BitVec 112) (low : Bool) (v : Nat) : BitVec 112 :=
  if low then BitVec.ofNat 112 (old.toNat / 2 ^ 64 * 2 ^ 64 + v % 2 ^ 64)
  else BitVec.ofNat 112 (bitsOf v 0 48 * 2 ^ 64 + old.toNat % 2 ^ 64)

/-- The state after a Pre-empt write (R168, R178). -/
def State.writePreEmpt (s : State) (d : DieId) (v : Nat) : State :=
  let core := bitsOf v 0 9
  let slot : Fin 16 := ⟨bitsOf v 16 4 % 16, Nat.mod_lt _ (by decide)⟩
  if core ≥ 448 then s
  else if bitsOf v 63 1 = 1 then s.preEmptTeam (coreOfNat (d.val * 448 + core)) slot
  else s.preEmptSlot (coreOfNat (d.val * 448 + core)) slot

/-- The state after a write of a scheduler control register (R168). -/
def State.writeSched (s : State) (d : DieId) (o : Nat) (v : Word) : State :=
  if o = 0 then s.modPol d fun x => { x with quantum := quantumOf v.toNat }
  else if o = 8 then s.modPol d fun x => { x with ageing := ageingOf v.toNat }
  else if o = 0x10 then s.modPol d fun x => { x with pack := v.getLsbD 0 }
  else if o = 0x20 then s.pushBlock d .team v
  else if o = 0x28 then s.pushBlock d .context v
  else if o = 0x30 then s.pushBlock d .swap v
  else if o = 0x38 then s.writePreEmpt d v.toNat
  else if 0x200 ≤ o ∧ o < 0x400 then
    s.modPol d fun x => { x with weights := x.weights.set (fnOfNat ((o - 0x200) / 8)) (weightOf v.toNat) }
  else if 0x400 ≤ o ∧ o < 0x800 then
    let f := fnOfNat ((o - 0x400) / 16)
    s.modPol d fun x => { x with cmasks := x.cmasks.set f (maskOf (x.cmasks.get f) (decide (o % 16 = 0)) v.toNat) }
  else s

/-! ### The leaf control block and the error bank (R59, R394) -/

/-- The state after an 8-byte write of a leaf control register (R59, R60, R61). -/
def State.writeLeafReg (s : State) (d : DieId) (o : Nat) (v : Word) : State :=
  if o = 0 then s.writeCeiling d v
  else if 0x200 ≤ o ∧ o < 0x400 then s.writeReservation d (fnOfNat ((o - 0x200) / 8)) v
  else s

/-- The state after a write of an error bank register (R394, R395, R398). -/
def State.writeErrReg (s : State) (d : DieId) (o : Nat) (v : Word) : State :=
  if o = 8 then s.modDie d fun x => { x with errConsumed := v.toNat }
  else if o = 0x18 then s.startAssay d v
  else if 0x1000 ≤ o ∧ o < 0x5000 ∧ o % 64 = 0 then s.writeControl d ((o - 0x1000) / 64) v
  else s

/-! ### A function's control block (R384, R392) -/

/-- A size field with a write in a range, unchanged by others (R384, R392). -/
def sizeField (old v lo hi : Nat) : Nat := if lo ≤ v ∧ v ≤ hi then v else old

/-- Bits [47:16] of a word, in place. -/
def base48 (v : Word) : Word := BitVec.ofNat 64 (bitsOf v.toNat 16 32 * 0x10000)

/-- The state after a write of a queue's configuration (R384). -/
def State.writeQueueReg (s : State) (f : FnId) (q : Fin 4) (o : Nat) (v : Word) : State :=
  match o with
  | 0x00 => s.writeRingBase f q v
  | 0x08 => (s.modQueue f q fun x => { x with n := bitsOf v.toNat 0 5 }).offerConsume f q
  | 0x10 => s.modQueue f q fun x => { x with cbase := v }
  | 0x18 => (s.modQueue f q fun x => { x with m := bitsOf v.toNat 0 5 }).offerConsume f q
  | 0x20 => s.modQueue f q fun x => { x with asid := v.setWidth 12 }
  | _ => s

/-- The state after a write of a function's control block (R384, R392). -/
def State.writeFnReg (s : State) (f : FnId) (o : Nat) (v : Word) : State :=
  let n := v.toNat
  if o = 0 then
    s.modFn f fun x =>
      { x with windowAsid := v.extractLsb' 52 12, wb := base48 v, windowSize := sizeField x.windowSize (bitsOf n 0 6) 16 40 }
  else if o = 8 then s.modFn f fun x => { x with weight := weightOf n }
  else if 0x10 ≤ o ∧ o < 0x30 then s.pushFrame f (dieOfNat ((o - 0x10) / 8)) v
  else if o = 0x30 then (s.modFn f fun x => { x with ring := BitVec.ofNat 64 (n / 4096 * 4096) }).ringChanged f
  else if o = 0x38 then (s.modFn f fun x => { x with ringSize := sizeField x.ringSize (bitsOf n 0 5) 4 12 }).ringChanged f
  else if o = 0x40 then s.modFn f fun x => { x with apAsid := v.extractLsb' 52 12, ab := base48 v }
  else if o = 0x48 then s.modFn f fun x => { x with apSize := sizeField x.apSize (bitsOf n 0 6) 16 40 }
  else if 0x100 ≤ o ∧ o < 0x200 then s.writeQueueReg f (dieOfNat ((o - 0x100) / 0x40)) (o % 0x40) v
  else s

/-! ### Device MMIO and BAR0 -/

/-- The state after an aligned 8-byte write at an offset of a die's device MMIO. -/
def State.writeMmio8 (s : State) (d : DieId) (o : Nat) (v : Word) : State :=
  if 0x100000 ≤ o ∧ o < 0x104000 then s.writeLeafReg d (o - 0x100000) v
  else if 0x200000 ≤ o ∧ o < 0x201000 then s.writeSched d (o - 0x200000) v
  else if o = 0x300000 then s.resolveWrite d v
  else if 0x400000 ≤ o ∧ o < 0x400200 ∧ d = 0 then s.writeJob (fnOfNat ((o - 0x400000) / 8)) v
  else if 0x500000 ≤ o ∧ o < 0x540000 ∧ d = 0 then s.writeFnReg (fnOfNat ((o - 0x500000) / 0x1000)) (o % 0x1000) v
  else if 0x600000 ≤ o ∧ o < 0x605000 then s.writeErrReg d (o - 0x600000) v
  else if o = 0x700000 then s.writePower d v
  else s

/-- The state after a write of device MMIO: aligned 8-byte registers and aligned 4-byte LPN entries; any other write is
ignored (R59, R168). -/
def State.writeMmio (s : State) (loc size : Nat) (v : Word) : State :=
  let d := bitsOf loc 32 4
  let o := loc % 2 ^ 32
  if d ≥ 4 ∨ loc < mmioBase ∨ loc ≥ mmioBase + 0x400000000 then s
  else if size = 4 ∧ o % 4 = 0 then
    (if 0x104000 ≤ o ∧ o < 0x108000 then s.writeLpn (dieOfNat d) ((o - 0x104000) / 4) (v.toNat % 2 ^ 32) else s)
  else if size = 8 ∧ o % 8 = 0 then s.writeMmio8 (dieOfNat d) o v
  else s

/-- The state after the host has read completion records up to a count: records that waited for room are written
(R377, R380). -/
def State.writeHead (s : State) (f : FnId) (q : Fin 4) (v : Word) : State :=
  (s.modQueue f q fun x => { x with head := v.setWidth 32 }).completeQueue f q

/-- The state after an aligned 8-byte write of the host to a function's BAR0 (R376, R377, R388, R391). -/
def State.writeBar0 (s : State) (f : FnId) (o : Nat) (v : Word) : State :=
  if o < 0x100 then
    let q := dieOfNat (o / 0x40)
    match o % 0x40 with
    | 0x00 => s.ringDoorbell f q (v.setWidth 32)
    | 0x18 => s.writeHead f q v
    | 0x20 => if v = 1 then s.resetQueue f q else s
    | _ => s
  else if o = 0x1F8 then s.modFn f fun x => { x with replyValue := v }
  else if o = 0x200 then s.hostReply f v
  else if o = 0x208 then s.transferOut f v
  else if o = 0x218 then (s.modFn f fun x => { x with consumed := v }).ringChanged f
  else s

/-- `REGISTER_WRITE` (R6, R168, R376). -/
def execRegisterWrite (t : RegTarget) (v : Word) (s : State) : Host.Outcome State Fault Refusal :=
  match t with
  | .mmio loc size => .next (s.writeMmio loc size v)
  | .bar0 f o => .next (if o % 8 = 0 then s.writeBar0 f o v else s)

end Sys2Proof.Machine
end

