-- ==== Sys2Proof/Machine/Boot.lean ====
section
/-!
DEFINITION. Reset, firmware images, the election of a pod leader and the loss of power (spec/00_scope.md R3,
spec/01_addresses.md R24, spec/26_bringup_power.md R402 to R407, R409).
-/
namespace Sys2Proof.Machine

/-! ### Reset (R3, R24) -/

/-- The event is one that the world outside offers: it outlasts a reset of the device. -/
def isOutside : Instr → Bool
  | .errorDetected _ _ => true
  | .pcieCompletion _ _ => true
  | .peerAcknowledgement _ _ => true
  | .deviceReset => true
  | .imageVerify _ => true
  | .claim _ _ => true
  | .leaderElectionExpiry => true
  | .loadMessage _ _ _ _ => true
  | .resendRequest _ _ _ => true
  | .loadTimeout => true
  | .flitReceive _ _ => true
  | .flitCounterLimit _ => true
  | .portLaneChange _ _ => true
  | .getVersion _ => true
  | .getCapabilities _ => true
  | .negotiateAlgorithms _ _ => true
  | .getDigests _ => true
  | .getCertificate _ _ _ => true
  | .challenge _ _ => true
  | .getMeasurements _ _ => true
  | .keyExchange _ _ => true
  | .finish _ _ => true
  | .keyUpdate _ _ => true
  | .endSession _ => true
  | .spdmResponse _ _ => true
  | .peerWrite _ _ _ => true
  | .peerRead _ _ _ => true
  | .peerAtomic _ _ _ _ _ => true
  | .peerAdd _ _ _ _ => true
  | .peerCounterRead _ _ _ => true
  | .windowAdd _ _ _ _ => true
  | .windowRead _ _ _ => true
  | .apertureWrite _ _ _ => true
  | .apertureRead _ _ _ => true
  | .atomicopRequest _ _ => true
  | .registerWrite (.bar0 _ _) _ => true
  | .doorbell _ _ _ => true
  | .queueReset _ _ => true
  | .replyTag _ _ => true
  | .transferToProcessor _ _ => true
  | .pcieLinkStateChange => true
  | .patinaSample _ _ => true
  | .packagePowerLoss => true
  | _ => false

/-- The core that a die reserves at boot for firmware: its lowest-numbered core in service (R3). With none in service the rule
names no core, and the model takes core 0 (DESIGN CHOICE, assumption log 35). -/
def State.bootCore (s : State) (d : DieId) : Nat :=
  match (List.range 448).find? fun k =>
    let c := coreOfNat (d.val * 448 + k)
    !(s.core c).outOfService && !(s.cluster (coreCluster c)).outOfService with
  | some k => k
  | none => 0

/-- A cluster after reset: its fuses and its removal from service stay (R4, R401). -/
def Cluster.rebooted (x : Cluster) : Cluster :=
  { Cluster.reset with
    birth := x.birth, now := x.now, steps := x.steps, anvilOut := x.anvilOut, outOfService := x.outOfService }

/-- A die after reset: its slices, stacks and Bench cores out of service stay so, and it reserves its firmware core (R3, R4). -/
def State.rebootedDie (s : State) (d : DieId) : Die :=
  { Die.reset with
    slicesOut := (s.die d).slicesOut, stacksOut := (s.die d).stacksOut, benchOut := (s.die d).benchOut, fw := s.bootCore d }

/-- The strand of a die's firmware core after reset. -/
def State.rebootedStrand (s : State) (d : DieId) : Strand := Strand.firmware (coreOfNat (d.val * 448 + s.bootCore d))

/-- The state after reset: as `State.reset`, with the fuses and the units out of service as they are, and the world
outside with its events and what was sent to it (R3, R24, R401, R409). -/
def State.rebooted (s : State) : State :=
  { State.reset with
    cur := s.rebootedStrand 0
    parked := [s.rebootedStrand 1, s.rebootedStrand 2, s.rebootedStrand 3]
    agenda := s.agenda.filter isOutside
    turn := s.turn
    tick := s.tick
    cores := (s.cores.filter fun (e : Nat × Core) => e.2.outOfService).map fun (e : Nat × Core) =>
      (e.1, { Core.reset with outOfService := true })
    clusters := s.clusters.map fun (e : Nat × Cluster) => (e.1, e.2.rebooted)
    dies := #v[s.rebootedDie 0, s.rebootedDie 1, s.rebootedDie 2, s.rebootedDie 3]
    ports := s.ports.map fun p => { Port.reset with removed := p.removed }
    boot := { Boot.reset with minVersion := s.boot.minVersion }
    nextId := s.nextId
    sent := s.sent ++ State.reset.sent }

/-- `DEVICE_RESET` (R24). -/
def execDeviceReset (s : State) : Host.Outcome State Fault Refusal := .next s.rebooted

/-! ### Firmware images (R402 to R404) -/

/-- A firmware image's header (R402). -/
structure ImageHeader where
  magic    : Nat
  version  : Nat
  length   : Nat
  reserved : Nat
  entry    : Nat
  load     : Nat
  key      : Nat
  deriving DecidableEq, Repr

/-- The header of an image. -/
def imageHeader (bs : List Byte) : ImageHeader :=
  let at_ := fun (o n : Nat) => leNat ((bs.drop o).take n)
  { magic := at_ 0 4, version := at_ 4 4, length := at_ 8 8, reserved := at_ 16 4, entry := at_ 20 4, load := at_ 24 8
    key := at_ 32 32 }

/-- The minimum version that the boot ROM admits. -/
def State.minVersion (s : State) : Nat := max Config.fusedMinVersion s.boot.minVersion

/-- The boot status of an image: 0 where every check holds. The status of an image whose header is not one is open
(R402; assumption log 8). -/
def State.imageStatus (s : State) (bs : List Byte) : Nat :=
  let h := imageHeader bs
  if bs.length < 64 ∨ h.magic ≠ 0x47465731 ∨ h.reserved ≠ 0 ∨ h.length % 64 ≠ 0 ∨ bs.length < 64 + h.length + 384 then
    max 1 ((Config.freeWord s.tick).toNat % 256)
  else if h.key ≠ Config.keyDigests.1.toNat ∧ h.key ≠ Config.keyDigests.2.toNat then 1
  else if !Config.signatureValid (bs.take (64 + h.length)) ((bs.drop (64 + h.length)).take 384) then 2
  else if h.version < s.minVersion then 3
  else if h.load % 0x10000 ≠ 0 ∨ h.load + h.length > hbmSpan ∨ h.entry % 4 ≠ 0 ∨ h.entry ≥ h.length then 4
  else 0

/-- A firmware strand started on an image (R404). -/
def Strand.started (t : Strand) (load entry : Nat) : Strand :=
  if t.run = .bootRom then
    { t with run := .ready, pc := BitVec.ofNat 64 (load + (coreDie t.core).val * hbmSpan + entry) }
  else t

/-- The state with the body of an image on every die and every firmware core started (R403, R404). -/
def State.startImage (s : State) (h : ImageHeader) (body : List Byte) : State :=
  let s := ([0, 1, 2, 3] : List Nat).foldl (fun s d => s.putBlock (h.load + d * hbmSpan) body) s
  { s with cur := s.cur.started h.load h.entry, parked := s.parked.map fun t => t.started h.load h.entry }

/-- The number of 4 KiB chunks of an image (R407). -/
def chunkCount (bs : List Byte) : Nat := (bs.length + 4095) / 4096

/-- The state of a leader with the chunks it holds sent, from a sequence number on, each with its serial (R406, R407). -/
def State.sendChunks (s : State) (from_ : Nat) : State :=
  if s.boot.leads ∧ s.boot.image.isSome then
    ((List.range (chunkCount s.boot.held)).filter fun k => decide (from_ ≤ k)).foldl
      (fun (t : State) k =>
        t.send (.load Config.serial t.boot.epoch k ((t.boot.held.drop (4096 * k)).take 4096))) s
  else s

/-- The state after an image has been checked: discarded with its status, or started. A signed image may raise the
fused minimum version, never lower it (R402, R403). -/
def State.verifyImage (s : State) (bs : List Byte) : State :=
  let st := s.imageStatus bs
  if st ≠ 0 then
    { s with tick := s.tick + 1, boot := { s.boot with status := BitVec.ofNat 8 st, chunks := [], nextSeq := 0 } }
  else
    let h := imageHeader bs
    let low := if (Config.freeWord s.tick).getLsbD 0 then max s.boot.minVersion h.version else s.boot.minVersion
    let s := s.startImage h ((bs.drop 64).take h.length)
    let t : State :=
      { s with
        tick := s.tick + 1
        boot := { s.boot with image := some (h.load, h.entry), held := bs, status := 0, minVersion := low, chunks := [] } }
    t.sendChunks 0

/-- `IMAGE_VERIFY` (R402): a chip that has verified an image keeps it. -/
def execImageVerify (src : ImageSource) (s : State) : Host.Outcome State Fault Refusal :=
  if s.boot.image.isSome then .next s
  else
    match src with
    | .host bs => .next (s.verifyImage bs)
    | .received => .next (s.verifyImage s.boot.chunks)

/-! ### The election of a leader (R405, R406) -/

/-- The state with this chip's claim broadcast at its epoch. -/
def State.sendClaim (s : State) : State := s.send (.claim s.boot.epoch Config.serial)

/-- The state at a new epoch: no leader, nothing yielded, the load restarted, and the claim broadcast (R405, R407). -/
def State.adopt (s : State) (epoch : Nat) : State :=
  let t : State :=
    { s with
      boot := { s.boot with epoch := epoch, yielded := false, leader := none, leads := false, chunks := [], nextSeq := 0 } }
  t.sendClaim

/-- What a chip holds once it has yielded to a claim at its epoch: that chip is its leader, and the load begins again if it was another
(R405, R407). -/
def Boot.yieldTo (b : Boot) (serial : Nat) : Boot :=
  let b := if b.leader = some serial then b else { b with chunks := [], nextSeq := 0 }
  { b with yielded := true, leads := false, leader := some serial }

/-- `CLAIM`: discarded, adopted or yielded to; a chip that leads answers the claim of another by its own, as two that both believe they
lead keep sending claims (R405, R406). -/
def execClaim (epoch serial : Nat) (s : State) : Host.Outcome State Fault Refusal :=
  if epoch < s.boot.epoch then .next s
  else if epoch > s.boot.epoch then .next (s.adopt epoch)
  else if serial < Config.serial then .next { s with boot := s.boot.yieldTo serial }
  else .next (if s.boot.leads then s.sendClaim else s)

/-- `LEADER_ELECTION_EXPIRY` (R405): a chip that has yielded to no claim leads, and a leader claims again (R406). -/
def execLeaderElectionExpiry (s : State) : Host.Outcome State Fault Refusal :=
  if s.boot.yielded then .next s
  else if s.boot.leads then .next s.sendClaim
  else
    let t : State := { s with boot := { s.boot with leads := true, leader := some Config.serial } }
    .next (t.sendChunks 0)

/-! ### The load of followers (R407) -/

/-- `LOAD_MESSAGE` (R406, R407): the next chunk of the current leader is accepted, a duplicate dropped, a gap reported. -/
def execLoadMessage (serial epoch seq : Nat) (chunk : List Byte) (s : State) : Host.Outcome State Fault Refusal :=
  let b := s.boot
  if b.image.isSome ∨ epoch ≠ b.epoch ∨ b.leads ∨ b.leader ≠ some serial ∨ seq < b.nextSeq then .next s
  else if seq = b.nextSeq then .next { s with boot := { b with chunks := b.chunks ++ chunk, nextSeq := seq + 1 } }
  else .next (s.send (.resend epoch b.nextSeq))

/-- `RESEND_REQUEST` (R407). -/
def execResendRequest (_ epoch seq : Nat) (s : State) : Host.Outcome State Fault Refusal :=
  .next (if epoch = s.boot.epoch then s.sendChunks seq else s)

/-- `LOAD_TIMEOUT` (R407): a follower without a verified image raises its epoch and claims again. -/
def execLoadTimeout (s : State) : Host.Outcome State Fault Refusal :=
  .next (if s.boot.image.isSome ∨ s.boot.leads then s else s.adopt (s.boot.epoch + 1))

/-! ### Power (R409) -/

/-- `PACKAGE_POWER_LOSS` (R409). -/
def execPackagePowerLoss (s : State) : Host.Outcome State Fault Refusal := .next { s with powered := false }

end Sys2Proof.Machine
end

