-- ==== Sys2Proof/Machine/Capability.lean ====
section
/-!
DEFINITION. Capability instructions, majors 0x09 and 0x0A (spec/12_scalar_isa.md R232 to R237).
-/
namespace Sys2Proof.Machine

/-- An operation that derives a capability from a by an integer b (R232). -/
def derive (i : Instr) (g : Gap) (d a b : CIdx) (f : CapReg → Word → CapReg) (s : State) :
    Host.Outcome State Fault Refusal :=
  (plain i g [.c a, .c b] [.c d] (some 1)).run s fun s => .done (s.setC d (f (s.cur.creg a) (s.x b)))

/-- An operation that derives a capability from a alone (R232). -/
def rederive (i : Instr) (g : Gap) (d a : CIdx) (f : CapReg → CapReg) (s : State) : Host.Outcome State Fault Refusal :=
  (plain i g [.c a] [.c d] (some 1)).run s fun s => .done (s.setC d (f (s.cur.creg a)))

/-- A query of a capability (R236). -/
def query (i : Instr) (g : Gap) (d a : CIdx) (f : CapReg → Word) (s : State) : Host.Outcome State Fault Refusal :=
  (plain i g [.c a] [.c d] (some 1)).run s fun s => .done (s.setX d (f (s.cur.creg a)))

/-- A capability with permissions cleared by a mask (R234). -/
def CapReg.mask (c : CapReg) (y : Word) : CapReg := { c with bits := withPerms c.bits (capPerms c.bits &&& y.setWidth 8) }

/-- `cap.set` (R233). -/
def execCapSet (g : Gap) (d a b : CIdx) (s : State) : Host.Outcome State Fault Refusal :=
  derive (.capSet g d a b) g d a b (fun c y => CapReg.narrow c y.toNat) s

/-- `cap.and` (R234). -/
def execCapAnd (g : Gap) (d a b : CIdx) (s : State) : Host.Outcome State Fault Refusal :=
  derive (.capAnd g d a b) g d a b CapReg.mask s

/-- `cap.addr` (R235). -/
def execCapAddr (g : Gap) (d a b : CIdx) (s : State) : Host.Outcome State Fault Refusal :=
  derive (.capAddr g d a b) g d a b CapReg.moveTo s

/-- `cap.inc` (R235). -/
def execCapInc (g : Gap) (d a : CIdx) (i : BitVec 12) (s : State) : Host.Outcome State Fault Refusal :=
  rederive (.capInc g d a i) g d a (fun c => CapReg.moveTo c (c.lo + i.signExtend 64)) s

/-- `cap.clr` (R237). -/
def execCapClr (g : Gap) (d a : CIdx) (s : State) : Host.Outcome State Fault Refusal :=
  rederive (.capClr g d a) g d a (fun c => { c with tag := false }) s

/-- `cap.base` (R236). -/
def execCapBase (g : Gap) (d a : CIdx) (s : State) : Host.Outcome State Fault Refusal :=
  query (.capBase g d a) g d a (fun c => BitVec.ofInt 64 (capBaseOf c.bits)) s

/-- `cap.len` (R236). -/
def execCapLen (g : Gap) (d a : CIdx) (s : State) : Host.Outcome State Fault Refusal :=
  query (.capLen g d a) g d a (fun c => BitVec.ofNat 64 (min (capLenOf c.bits) (2 ^ 64 - 1))) s

/-- `cap.perm` (R236). -/
def execCapPerm (g : Gap) (d a : CIdx) (s : State) : Host.Outcome State Fault Refusal :=
  query (.capPerm g d a) g d a (fun c => (c.bits.extractLsb' 112 16).setWidth 64) s

/-- `cap.tag` (R236). -/
def execCapTag (g : Gap) (d a : CIdx) (s : State) : Host.Outcome State Fault Refusal :=
  query (.capTag g d a) g d a (fun c => if c.tag then 1 else 0) s

/-- `cap.sub` (R236). -/
def execCapSub (g : Gap) (d a b : CIdx) (s : State) : Host.Outcome State Fault Refusal :=
  (plain (.capSub g d a b) g [.c a, .c b] [.c d] (some 1)).run s fun s => .done (s.setX d (s.x a - s.x b))

end Sys2Proof.Machine
end

