-- ==== Sys2Proof/Machine/Control.lean ====
section
/-!
DEFINITION. Branches, jumps and idempotent regions, majors 0x10 to 0x18 (spec/12_scalar_isa.md R238 to R243).
-/
namespace Sys2Proof.Machine

/-- The target of a branch or jump, relative to its own address in words (R206). -/
def target {n : Nat} (pc : Word) (off : BitVec n) : Word := pc + off.signExtend 64 * 4

/-- A conditional branch (R238). -/
def branch (i : Instr) (g : Gap) (a b : CIdx) (o : BitVec 12) (f : Word → Word → Bool) (s : State) :
    Host.Outcome State Fault Refusal :=
  (plain i g [.c a, .c b] [] none).run s fun s =>
    if f (s.x a) (s.x b) then .jump s (target s.cur.pc o) else .done s

/-- `beq` (R238). -/
def execBeq (g : Gap) (a b : CIdx) (o : BitVec 12) (s : State) : Host.Outcome State Fault Refusal :=
  branch (.beq g a b o) g a b o (fun x y => x == y) s

/-- `bne` (R238). -/
def execBne (g : Gap) (a b : CIdx) (o : BitVec 12) (s : State) : Host.Outcome State Fault Refusal :=
  branch (.bne g a b o) g a b o (fun x y => x != y) s

/-- `blt` (R238). -/
def execBlt (g : Gap) (a b : CIdx) (o : BitVec 12) (s : State) : Host.Outcome State Fault Refusal :=
  branch (.blt g a b o) g a b o (fun x y => x.slt y) s

/-- `bge` (R238). -/
def execBge (g : Gap) (a b : CIdx) (o : BitVec 12) (s : State) : Host.Outcome State Fault Refusal :=
  branch (.bge g a b o) g a b o (fun x y => !x.slt y) s

/-- `bltu` (R238). -/
def execBltu (g : Gap) (a b : CIdx) (o : BitVec 12) (s : State) : Host.Outcome State Fault Refusal :=
  branch (.bltu g a b o) g a b o (fun x y => x.ult y) s

/-- `bgeu` (R238). -/
def execBgeu (g : Gap) (a b : CIdx) (o : BitVec 12) (s : State) : Host.Outcome State Fault Refusal :=
  branch (.bgeu g a b o) g a b o (fun x y => !x.ult y) s

/-- `jal` (R239). -/
def execJal (g : Gap) (d : CIdx) (o : BitVec 18) (s : State) : Host.Outcome State Fault Refusal :=
  (plain (.jal g d o) g [] [.c d] (some 1)).run s fun s => .jump (s.setX d (s.cur.pc + 4)) (target s.cur.pc o)

/-- `jalr` (R240). -/
def execJalr (g : Gap) (d a : CIdx) (i : BitVec 12) (s : State) : Host.Outcome State Fault Refusal :=
  (plain (.jalr g d a i) g [.c a] [.c d] (some 1)).run s fun s =>
    let c := s.cur.creg a
    let t := c.lo + i.signExtend 64
    match capFault c t.toNat 4 [.execute] with
    | some sub => .fault s 2 sub t
    | none => if t.toNat % 4 ≠ 0 then .fault s 4 0 t else .jump (s.setX d (s.cur.pc + 4)) t

/-- IDEM after a region is opened at an entry (R242). -/
def idemOpen (entry : Word) : Word := BitVec.ofNat 64 (bitsOf entry.toNat 2 46 * 4 + 1)

/-- `idem` (R242). -/
def execIdem (g : Gap) (i : BitVec 1) (s : State) : Host.Outcome State Fault Refusal :=
  (plain (.idem g i) g [] [] none).run s fun s =>
    .done (s.modCur fun t => { t with idem := if i = 1 then idemOpen (t.pc + 4) else 0 })

end Sys2Proof.Machine
end

