-- ==== Sys2Proof/Machine/Convert.lean ====
section
/-!
DEFINITION. Conversion and quantisation, major 0x2D, with `vimm` and `fmt` (spec/14_vector_isa.md R291 to R295,
spec/11_encoding.md R207, R211, R212, spec/10_formats.md R196 to R198).
-/
namespace Sys2Proof.Machine

/-! ### Conversion (R291, R292) -/

/-- The default format of `vcvt`'s type (R291). -/
def cvtFmt (t : BitVec 2) : BitVec 8 := if t = 3 then 0x05 else typeFmt t

/-- The source and destination formats of `vcvt` (R291). -/
def cvtFmts (t : BitVec 2) (p : Option (BitVec 24)) : BitVec 8 × BitVec 8 :=
  let a := payA (p.getD 0)
  let b := payB (p.getD 0)
  (if a = 0 then cvtFmt t else a, if b = 0 then cvtFmt t else b)

/-- The number of parts of two widths: the wider over the narrower (R291). -/
def parts (x y : Nat) : Nat := max x y / min x y

/-- `vcvt` accepts the formats and the part number (R291). -/
def cvtTakes (t : BitVec 2) (p : VIdx) (v : Option (BitVec 24)) : Bool :=
  let f := cvtFmts t v
  decide (f.1 ≠ 0x80) && decide (f.2 ≠ 0x80) && decide (p.toNat < parts (fmtBits f.1) (fmtBits f.2))

/-- `vcvt`: a narrowing conversion writes part p, a widening one reads it (R291). -/
def execVcvt (g : Gap) (d a p : VIdx) (m : MIdx) (t : BitVec 2) (s : State) : Host.Outcome State Fault Refusal :=
  Form.run { vform (.vcvt g d a p m t) g [.v a, .m m] [.v d] (some 4) with takes := some (cvtTakes t p) } s fun s =>
    let v := s.cur.pending
    let f := cvtFmts t v
    let ws := fmtBits f.1
    let wd := fmtBits f.2
    let n := 1024 / max ws wd
    let lo := if ws ≥ wd then p.toNat * n else 0
    let src := fun e => if ws ≥ wd then e - lo else p.toNat * n + e
    .done (s.setV d (mapLanes wd (s.cur.mreg m) (s.cur.vreg d) fun e =>
      if lo ≤ e ∧ e < lo + n then roundTo f.2 (modeOf v) (satOf v) (valueOf f.1 (laneOf ws (s.cur.vreg a) (src e)))
      else laneOf wd (s.cur.vreg d) e))

/-- No format code word, or one whose formats are 0x00 (R208, R292). -/
def bareTakes : Option (BitVec 24) → Bool
  | none => true
  | some v => decide (payA v = 0) && decide (payB v = 0)

/-- `vunpk` (R292). -/
def execVunpk (g : Gap) (d a p : VIdx) (m : MIdx) (t : BitVec 2) (s : State) : Host.Outcome State Fault Refusal :=
  Form.run { vform (.vunpk g d a p m t) g [.v a, .m m] [.v d] (some 4) with takes := some bareTakes } s fun s =>
    .done (s.setV d (mapLanes 8 (s.cur.mreg m) (s.cur.vreg d) fun k =>
      let x := laneOf 4 (s.cur.vreg a) (2 * k + p.toNat)
      if t = 0 then wrapTo 8 (signedOf 4 x) else x))

/-! ### Quantisation (R293, R294) -/

/-- A quantised element format that `vdqnt` reads (R294). -/
def blockCode (c : BitVec 8) : Bool := byteCode c || decide (c = 0x01 ∨ c = 0x02 ∨ c = 0x08 ∨ c = 0x09)

/-- `vqnt` accepts the formats and the part number (R293). -/
def qntTakes (p : BitVec 2) : Option (BitVec 24) → Bool
  | none => false
  | some v =>
    binaryCode (payA v) && (byteCode (payB v) || decide (payB v = 0x01 ∨ payB v = 0x08)) &&
      decide (p.toNat < fmtBits (payA v) / fmtBits (payB v))

/-- `vdqnt` accepts the formats and the part number (R294). -/
def dqntTakes (p : BitVec 2) : Option (BitVec 24) → Bool
  | none => false
  | some v =>
    blockCode (payA v) && binaryCode (payB v) && decide (p.toNat < fmtBits (payB v) / fmtBits (payA v))

/-- The lanes of block b of 32 that are active at a width (R293). -/
def blockLanes (n : Nat) (m : MReg) (b : Nat) : List Nat :=
  ((List.range 32).map (32 * b + ·)).filter (laneOn n m ·)

/-- What `vqnt` has done after some blocks: the elements, the scale codes by byte number, and QLOW. -/
structure Quantised where
  elems  : VReg
  scales : List (Nat × Nat)
  low    : Bool
  deriving DecidableEq, Repr

/-- Block b quantised: its active lanes' elements placed and its scale code given; a block with no active lane has
neither (R196, R293). -/
def quantStep (fa fb : BitVec 8) (mode sat p : Nat) (m : MReg) (src : VReg) (q : Quantised) (b : Nat) : Quantised :=
  let n := fmtBits fa
  let lanes := 1024 / n
  let on := blockLanes n m b
  if on.isEmpty then q
  else
    let r := quantBlock fb mode sat (on.map fun k => valueOf fa (laneOf n src k))
    { elems := gathered (fmtBits fb) q.elems ((on.map fun k => p * lanes + k).zip r.2.1)
      scales := (p * (lanes / 32) + b, r.1) :: q.scales
      low := q.low || r.2.2 }

/-- `vqnt`: elements into vd, scale codes into vs, QLOW set by a clamp (R196, R198, R293). Where one register is both,
the scale codes are written last (assumption log 18). -/
def execVqnt (g : Gap) (d a k : VIdx) (m : MIdx) (p : BitVec 2) (s : State) : Host.Outcome State Fault Refusal :=
  Form.run { vform (.vqnt g d a k m p) g [.v a, .m m] [.v d, .v k] (some 4) with takes := some (qntTakes p) } s fun s =>
    let v := s.cur.pending
    let fa := payA (v.getD 0)
    let q := (List.range (1024 / fmtBits fa / 32)).foldl
      (quantStep fa (payB (v.getD 0)) (modeOf v) (satOf v) p.toNat (s.cur.mreg m) (s.cur.vreg a))
      { elems := s.cur.vreg d, scales := [], low := false }
    let s := s.setV d q.elems
    let s := s.setV k (gathered 8 (s.cur.vreg k) q.scales)
    .done (if q.low then s.modCur Strand.setQlow else s)

/-- A quantised code times its block's scale, exactly (R184, R197). -/
def dequant (f : BitVec 8) (scale code : Nat) : FpNum := scaleBy scale (valueOf f code)

/-- `vdqnt`: a NaN scale or code gives NaN, under any saturation code (R184, R197, R294). -/
def execVdqnt (g : Gap) (d a k : VIdx) (m : MIdx) (p : BitVec 2) (s : State) : Host.Outcome State Fault Refusal :=
  Form.run { vform (.vdqnt g d a k m p) g [.v a, .v k, .m m] [.v d] (some 4) with takes := some (dqntTakes p) } s fun s =>
    let v := s.cur.pending
    let fa := payA (v.getD 0)
    let fb := payB (v.getD 0)
    let lanes := 1024 / fmtBits fb
    .done (s.setV d (mapLanes (fmtBits fb) (s.cur.mreg m) (s.cur.vreg d) fun j =>
      let x := dequant fa (laneOf 8 (s.cur.vreg k) (p.toNat * (lanes / 32) + j / 32))
        (laneOf (fmtBits fa) (s.cur.vreg a) (p.toNat * lanes + j))
      if x.isNan then nanCode fb else roundTo fb (modeOf v) (satOf v) x))

/-- `vscl` accepts the formats (R295). -/
def sclTakes (t : BitVec 2) : Option (BitVec 24) → Bool
  | none => decide (t ≠ 3)
  | some v =>
    if t = 3 then binaryCode (payA v) && decide (payB v = 0 ∨ payB v = payA v)
    else decide (payA v = 0) && decide (payB v = 0)

/-- `vscl` (R295). -/
def execVscl (g : Gap) (d a k : VIdx) (m : MIdx) (t : BitVec 2) (s : State) : Host.Outcome State Fault Refusal :=
  Form.run { vform (.vscl g d a k m t) g [.v a, .v k, .m m] [.v d] (some 4) with takes := some (sclTakes t) } s fun s =>
    let v := s.cur.pending
    let f := srcFmt t v
    let n := fmtBits f
    .done (s.setV d (mapLanes n (s.cur.mreg m) (s.cur.vreg d) fun j =>
      let c := laneOf 8 (s.cur.vreg k) (j / 32)
      if c = 0xFF then nanCode f
      else roundTo f (modeOf v) (satOf v) (scaleBy c (valueOf f (laneOf n (s.cur.vreg a) j)))))

/-! ### `vimm` and `fmt` (R211, R212) -/

/-- The lanes' width in bits and value that `vimm` writes (R212). -/
def immLanes (t : BitVec 3) (i : BitVec 16) : Nat × Nat :=
  match t.toNat with
  | 3 => (32, (i.signExtend 32).toNat)
  | 4 => (32, i.toNat)
  | _ => (16, i.toNat)

/-- `vimm` of type 2 needs a format code word with a byte, 4-bit or 8-bit integer format; the others take none
(R208, R212). -/
def immTakes (t : BitVec 3) : Option (BitVec 24) → Bool
  | none => decide (t ≠ 2)
  | some v => decide (t = 2) && blockCode (payA v) && decide (payB v = 0)

/-- `vimm` (R212). -/
def execVimm (g : Gap) (d : VIdx) (t : BitVec 3) (i : BitVec 16) (s : State) : Host.Outcome State Fault Refusal :=
  Form.run { vform (.vimm g d t i) g [] [.v d] (some 2) with takes := some (immTakes t) } s fun s =>
    .done (s.setV d (vecOf (immLanes t i).1 fun _ => (immLanes t i).2))

/-- `fmt`: a format code word is pending for the next instruction; one that is pending already makes it illegal
(R207, R209, R211). -/
def execFmt (g : Gap) (a b : BitVec 8) (r : BitVec 3) (k : BitVec 2) (z : BitVec 3) (s : State) :
    Host.Outcome State Fault Refusal :=
  (plain (.fmt g a b r k z) g [] [] none).run s fun s => .done (s.modCur fun t => t.setPfx (a ++ b ++ r ++ k ++ z))

end Sys2Proof.Machine
end

