-- ==== Sys2Proof/Machine/Integer.lean ====
section
/-!
DEFINITION. Integer instructions, majors 0x01 to 0x08 (spec/12_scalar_isa.md R223 to R231).
-/
namespace Sys2Proof.Machine

/-! ### What the operations compute -/

/-- 1 for a condition that holds, else 0. -/
def ofCond (b : Bool) : Word := if b then 1 else 0

/-- The high half of the signed product (R226). -/
def mulHigh (x y : Word) : Word := BitVec.ofInt 64 (x.toInt * y.toInt / 2 ^ 64)

/-- The high half of the unsigned product (R226). -/
def mulHighU (x y : Word) : Word := BitVec.ofNat 64 (x.toNat * y.toNat / 2 ^ 64)

/-- Signed division, truncated toward zero (R226, R227). -/
def divS (x y : Word) : Word := if y = 0 then BitVec.allOnes 64 else BitVec.ofInt 64 (x.toInt.tdiv y.toInt)

/-- Unsigned division (R226, R227). -/
def divU (x y : Word) : Word := if y = 0 then BitVec.allOnes 64 else BitVec.ofNat 64 (x.toNat / y.toNat)

/-- The signed remainder, with the sign of the dividend (R226, R227). -/
def remS (x y : Word) : Word := if y = 0 then x else BitVec.ofInt 64 (x.toInt.tmod y.toInt)

/-- The unsigned remainder (R226, R227). -/
def remU (x y : Word) : Word := if y = 0 then x else BitVec.ofNat 64 (x.toNat % y.toNat)

/-- The shift amount that a register gives (R226). -/
def amount (y : Word) : Nat := y.toNat % 64

/-- The signed lesser. -/
def minS (x y : Word) : Word := if x.slt y then x else y

/-- The signed greater. -/
def maxS (x y : Word) : Word := if x.slt y then y else x

/-- The unsigned lesser. -/
def minU (x y : Word) : Word := if x.ult y then x else y

/-- The unsigned greater. -/
def maxU (x y : Word) : Word := if x.ult y then y else x

/-- Leading zero bits (R228). -/
def countLeading (x : Word) : Word := BitVec.ofNat 64 (if x = 0 then 64 else 63 - x.toNat.log2)

/-- Trailing zero bits (R228). -/
def countTrailing (x : Word) : Word := BitVec.ofNat 64 (((List.range 64).find? fun k => x.getLsbD k).getD 64)

/-- One bits (R228). -/
def countOnes (x : Word) : Word := BitVec.ofNat 64 ((List.range 64).countP fun k => x.getLsbD k)

/-- The value of `lui` (R231). -/
def upper (i : BitVec 18) : Word := (i ++ (0 : BitVec 12)).signExtend 64

/-! ### Shapes -/

/-- An operation on two registers (R226). -/
def binary (i : Instr) (g : Gap) (d a b : CIdx) (lat : Option Nat) (f : Word → Word → Word) (s : State) :
    Host.Outcome State Fault Refusal :=
  (plain i g [.c a, .c b] [.c d] lat).run s fun s => .done (s.setX d (f (s.x a) (s.x b)))

/-- An operation on one register (R228 to R230). -/
def unary (i : Instr) (g : Gap) (d a : CIdx) (f : Word → Word) (s : State) : Host.Outcome State Fault Refusal :=
  (plain i g [.c a] [.c d] (some 1)).run s fun s => .done (s.setX d (f (s.x a)))

/-! ### Register forms (R226, R227) -/

/-- `add` (R226). -/
def execAdd (g : Gap) (d a b : CIdx) (s : State) : Host.Outcome State Fault Refusal :=
  binary (.add g d a b) g d a b (some 1) (fun x y => x + y) s

/-- `sub` (R226). -/
def execSub (g : Gap) (d a b : CIdx) (s : State) : Host.Outcome State Fault Refusal :=
  binary (.sub g d a b) g d a b (some 1) (fun x y => x - y) s

/-- `mul` (R226). -/
def execMul (g : Gap) (d a b : CIdx) (s : State) : Host.Outcome State Fault Refusal :=
  binary (.mul g d a b) g d a b (some 1) (fun x y => x * y) s

/-- `mulh` (R226). -/
def execMulh (g : Gap) (d a b : CIdx) (s : State) : Host.Outcome State Fault Refusal :=
  binary (.mulh g d a b) g d a b (some 1) (fun x y => mulHigh x y) s

/-- `mulhu` (R226). -/
def execMulhu (g : Gap) (d a b : CIdx) (s : State) : Host.Outcome State Fault Refusal :=
  binary (.mulhu g d a b) g d a b (some 1) (fun x y => mulHighU x y) s

/-- `div` (R227). -/
def execDiv (g : Gap) (d a b : CIdx) (s : State) : Host.Outcome State Fault Refusal :=
  binary (.div g d a b) g d a b none (fun x y => divS x y) s

/-- `divu` (R227). -/
def execDivu (g : Gap) (d a b : CIdx) (s : State) : Host.Outcome State Fault Refusal :=
  binary (.divu g d a b) g d a b none (fun x y => divU x y) s

/-- `rem` (R227). -/
def execRem (g : Gap) (d a b : CIdx) (s : State) : Host.Outcome State Fault Refusal :=
  binary (.rem g d a b) g d a b none (fun x y => remS x y) s

/-- `remu` (R227). -/
def execRemu (g : Gap) (d a b : CIdx) (s : State) : Host.Outcome State Fault Refusal :=
  binary (.remu g d a b) g d a b none (fun x y => remU x y) s

/-- `and` (R226). -/
def execAnd (g : Gap) (d a b : CIdx) (s : State) : Host.Outcome State Fault Refusal :=
  binary (.and g d a b) g d a b (some 1) (fun x y => x &&& y) s

/-- `or` (R226). -/
def execOr (g : Gap) (d a b : CIdx) (s : State) : Host.Outcome State Fault Refusal :=
  binary (.or g d a b) g d a b (some 1) (fun x y => x ||| y) s

/-- `xor` (R226). -/
def execXor (g : Gap) (d a b : CIdx) (s : State) : Host.Outcome State Fault Refusal :=
  binary (.xor g d a b) g d a b (some 1) (fun x y => x ^^^ y) s

/-- `sll` (R226). -/
def execSll (g : Gap) (d a b : CIdx) (s : State) : Host.Outcome State Fault Refusal :=
  binary (.sll g d a b) g d a b (some 1) (fun x y => x <<< amount y) s

/-- `srl` (R226). -/
def execSrl (g : Gap) (d a b : CIdx) (s : State) : Host.Outcome State Fault Refusal :=
  binary (.srl g d a b) g d a b (some 1) (fun x y => x >>> amount y) s

/-- `sra` (R226). -/
def execSra (g : Gap) (d a b : CIdx) (s : State) : Host.Outcome State Fault Refusal :=
  binary (.sra g d a b) g d a b (some 1) (fun x y => x.sshiftRight (amount y)) s

/-- `slt` (R226). -/
def execSlt (g : Gap) (d a b : CIdx) (s : State) : Host.Outcome State Fault Refusal :=
  binary (.slt g d a b) g d a b (some 1) (fun x y => ofCond (x.slt y)) s

/-- `sltu` (R226). -/
def execSltu (g : Gap) (d a b : CIdx) (s : State) : Host.Outcome State Fault Refusal :=
  binary (.sltu g d a b) g d a b (some 1) (fun x y => ofCond (x.ult y)) s

/-- `min` (R226). -/
def execMin (g : Gap) (d a b : CIdx) (s : State) : Host.Outcome State Fault Refusal :=
  binary (.min g d a b) g d a b (some 1) (fun x y => minS x y) s

/-- `max` (R226). -/
def execMax (g : Gap) (d a b : CIdx) (s : State) : Host.Outcome State Fault Refusal :=
  binary (.max g d a b) g d a b (some 1) (fun x y => maxS x y) s

/-- `minu` (R226). -/
def execMinu (g : Gap) (d a b : CIdx) (s : State) : Host.Outcome State Fault Refusal :=
  binary (.minu g d a b) g d a b (some 1) (fun x y => minU x y) s

/-- `maxu` (R226). -/
def execMaxu (g : Gap) (d a b : CIdx) (s : State) : Host.Outcome State Fault Refusal :=
  binary (.maxu g d a b) g d a b (some 1) (fun x y => maxU x y) s

/-- `sel`: the condition is the old d (R226). -/
def execSel (g : Gap) (d a b : CIdx) (s : State) : Host.Outcome State Fault Refusal :=
  (plain (.sel g d a b) g [.c d, .c a, .c b] [.c d] (some 1)).run s fun s =>
    .done (s.setX d (if s.x d ≠ 0 then s.x a else s.x b))

/-! ### One register, and immediate forms (R228 to R231) -/

/-- `clz` (R228). -/
def execClz (g : Gap) (d a : CIdx) (s : State) : Host.Outcome State Fault Refusal :=
  unary (.clz g d a) g d a countLeading s

/-- `ctz` (R228). -/
def execCtz (g : Gap) (d a : CIdx) (s : State) : Host.Outcome State Fault Refusal :=
  unary (.ctz g d a) g d a countTrailing s

/-- `popc` (R228). -/
def execPopc (g : Gap) (d a : CIdx) (s : State) : Host.Outcome State Fault Refusal :=
  unary (.popc g d a) g d a countOnes s

/-- `addi` (R229). -/
def execAddi (g : Gap) (d a : CIdx) (i : BitVec 12) (s : State) : Host.Outcome State Fault Refusal :=
  unary (.addi g d a i) g d a (fun x => x + i.signExtend 64) s

/-- `andi` (R229). -/
def execAndi (g : Gap) (d a : CIdx) (i : BitVec 12) (s : State) : Host.Outcome State Fault Refusal :=
  unary (.andi g d a i) g d a (fun x => x &&& i.signExtend 64) s

/-- `ori` (R229). -/
def execOri (g : Gap) (d a : CIdx) (i : BitVec 12) (s : State) : Host.Outcome State Fault Refusal :=
  unary (.ori g d a i) g d a (fun x => x ||| i.signExtend 64) s

/-- `xori` (R229). -/
def execXori (g : Gap) (d a : CIdx) (i : BitVec 12) (s : State) : Host.Outcome State Fault Refusal :=
  unary (.xori g d a i) g d a (fun x => x ^^^ i.signExtend 64) s

/-- `slti` (R229). -/
def execSlti (g : Gap) (d a : CIdx) (i : BitVec 12) (s : State) : Host.Outcome State Fault Refusal :=
  unary (.slti g d a i) g d a (fun x => ofCond (x.slt (i.signExtend 64))) s

/-- `sltiu` (R230). -/
def execSltiu (g : Gap) (d a n : CIdx) (s : State) : Host.Outcome State Fault Refusal :=
  unary (.sltiu g d a n) g d a (fun x => ofCond (x.ult (n.setWidth 64))) s

/-- `slli` (R230). -/
def execSlli (g : Gap) (d a n : CIdx) (s : State) : Host.Outcome State Fault Refusal :=
  unary (.slli g d a n) g d a (fun x => x <<< n.toNat) s

/-- `srli` (R230). -/
def execSrli (g : Gap) (d a n : CIdx) (s : State) : Host.Outcome State Fault Refusal :=
  unary (.srli g d a n) g d a (fun x => x >>> n.toNat) s

/-- `srai` (R230). -/
def execSrai (g : Gap) (d a n : CIdx) (s : State) : Host.Outcome State Fault Refusal :=
  unary (.srai g d a n) g d a (fun x => x.sshiftRight n.toNat) s

/-- `lui` (R231). -/
def execLui (g : Gap) (d : CIdx) (i : BitVec 18) (s : State) : Host.Outcome State Fault Refusal :=
  (plain (.lui g d i) g [] [.c d] (some 1)).run s fun s => .done (s.setX d (upper i))

end Sys2Proof.Machine
end

