-- ==== Sys2Proof/Machine/Dispatch.lean ====
section
/-!
DEFINITION. The meaning of every instruction and event, one arm per constructor.
-/
namespace Sys2Proof.Machine

/-- The outcome of an instruction or event on a state. -/
def exec (i : Instr) (s : State) : Host.Outcome State Fault Refusal :=
  match i with
  | .add g d a b => Sys2Proof.Machine.execAdd g d a b s
  | .sub g d a b => Sys2Proof.Machine.execSub g d a b s
  | .mul g d a b => Sys2Proof.Machine.execMul g d a b s
  | .mulh g d a b => Sys2Proof.Machine.execMulh g d a b s
  | .mulhu g d a b => Sys2Proof.Machine.execMulhu g d a b s
  | .div g d a b => Sys2Proof.Machine.execDiv g d a b s
  | .divu g d a b => Sys2Proof.Machine.execDivu g d a b s
  | .rem g d a b => Sys2Proof.Machine.execRem g d a b s
  | .remu g d a b => Sys2Proof.Machine.execRemu g d a b s
  | .and g d a b => Sys2Proof.Machine.execAnd g d a b s
  | .or g d a b => Sys2Proof.Machine.execOr g d a b s
  | .xor g d a b => Sys2Proof.Machine.execXor g d a b s
  | .sll g d a b => Sys2Proof.Machine.execSll g d a b s
  | .srl g d a b => Sys2Proof.Machine.execSrl g d a b s
  | .sra g d a b => Sys2Proof.Machine.execSra g d a b s
  | .slt g d a b => Sys2Proof.Machine.execSlt g d a b s
  | .sltu g d a b => Sys2Proof.Machine.execSltu g d a b s
  | .min g d a b => Sys2Proof.Machine.execMin g d a b s
  | .max g d a b => Sys2Proof.Machine.execMax g d a b s
  | .minu g d a b => Sys2Proof.Machine.execMinu g d a b s
  | .maxu g d a b => Sys2Proof.Machine.execMaxu g d a b s
  | .sel g d a b => Sys2Proof.Machine.execSel g d a b s
  | .clz g d a => Sys2Proof.Machine.execClz g d a s
  | .ctz g d a => Sys2Proof.Machine.execCtz g d a s
  | .popc g d a => Sys2Proof.Machine.execPopc g d a s
  | .addi g d a imm => Sys2Proof.Machine.execAddi g d a imm s
  | .andi g d a imm => Sys2Proof.Machine.execAndi g d a imm s
  | .ori g d a imm => Sys2Proof.Machine.execOri g d a imm s
  | .xori g d a imm => Sys2Proof.Machine.execXori g d a imm s
  | .slti g d a imm => Sys2Proof.Machine.execSlti g d a imm s
  | .sltiu g d a n => Sys2Proof.Machine.execSltiu g d a n s
  | .slli g d a n => Sys2Proof.Machine.execSlli g d a n s
  | .srli g d a n => Sys2Proof.Machine.execSrli g d a n s
  | .srai g d a n => Sys2Proof.Machine.execSrai g d a n s
  | .lui g d imm => Sys2Proof.Machine.execLui g d imm s
  | .capSet g d a b => Sys2Proof.Machine.execCapSet g d a b s
  | .capAnd g d a b => Sys2Proof.Machine.execCapAnd g d a b s
  | .capAddr g d a b => Sys2Proof.Machine.execCapAddr g d a b s
  | .capBase g d a => Sys2Proof.Machine.execCapBase g d a s
  | .capLen g d a => Sys2Proof.Machine.execCapLen g d a s
  | .capPerm g d a => Sys2Proof.Machine.execCapPerm g d a s
  | .capTag g d a => Sys2Proof.Machine.execCapTag g d a s
  | .capClr g d a => Sys2Proof.Machine.execCapClr g d a s
  | .capSub g d a b => Sys2Proof.Machine.execCapSub g d a b s
  | .capInc g d a imm => Sys2Proof.Machine.execCapInc g d a imm s
  | .beq g a b o => Sys2Proof.Machine.execBeq g a b o s
  | .bne g a b o => Sys2Proof.Machine.execBne g a b o s
  | .blt g a b o => Sys2Proof.Machine.execBlt g a b o s
  | .bge g a b o => Sys2Proof.Machine.execBge g a b o s
  | .bltu g a b o => Sys2Proof.Machine.execBltu g a b o s
  | .bgeu g a b o => Sys2Proof.Machine.execBgeu g a b o s
  | .jal g d o => Sys2Proof.Machine.execJal g d o s
  | .jalr g d a imm => Sys2Proof.Machine.execJalr g d a imm s
  | .idem g imm => Sys2Proof.Machine.execIdem g imm s
  | .ldB g k c p => Sys2Proof.Machine.execLdB g k c p s
  | .ldBu g k c p => Sys2Proof.Machine.execLdBu g k c p s
  | .ldH g k c p => Sys2Proof.Machine.execLdH g k c p s
  | .ldHu g k c p => Sys2Proof.Machine.execLdHu g k c p s
  | .ldW g k c p => Sys2Proof.Machine.execLdW g k c p s
  | .ldWu g k c p => Sys2Proof.Machine.execLdWu g k c p s
  | .ldD g k c p => Sys2Proof.Machine.execLdD g k c p s
  | .ldC g k c p => Sys2Proof.Machine.execLdC g k c p s
  | .stB g k c p => Sys2Proof.Machine.execStB g k c p s
  | .stH g k c p => Sys2Proof.Machine.execStH g k c p s
  | .stW g k c p => Sys2Proof.Machine.execStW g k c p s
  | .stD g k c p => Sys2Proof.Machine.execStD g k c p s
  | .stC g k c p => Sys2Proof.Machine.execStC g k c p s
  | .amoAdd g a b d k => Sys2Proof.Machine.execAmoAdd g a b d k s
  | .amoAnd g a b d k => Sys2Proof.Machine.execAmoAnd g a b d k s
  | .amoOr g a b d k => Sys2Proof.Machine.execAmoOr g a b d k s
  | .amoXor g a b d k => Sys2Proof.Machine.execAmoXor g a b d k s
  | .amoMin g a b d k => Sys2Proof.Machine.execAmoMin g a b d k s
  | .amoMax g a b d k => Sys2Proof.Machine.execAmoMax g a b d k s
  | .amoSwp g a b d k => Sys2Proof.Machine.execAmoSwp g a b d k s
  | .amoCas g a b d k => Sys2Proof.Machine.execAmoCas g a b d k s
  | .fence g k => Sys2Proof.Machine.execFence g k s
  | .fenceSc g => Sys2Proof.Machine.execFenceSc g s
  | .dcWb g a => Sys2Proof.Machine.execDcWb g a s
  | .dcInv g a => Sys2Proof.Machine.execDcInv g a s
  | .dcFlush g a => Sys2Proof.Machine.execDcFlush g a s
  | .dcPf g a => Sys2Proof.Machine.execDcPf g a s
  | .ldBAcq g d a k => Sys2Proof.Machine.execLdBAcq g d a k s
  | .ldBuAcq g d a k => Sys2Proof.Machine.execLdBuAcq g d a k s
  | .ldHAcq g d a k => Sys2Proof.Machine.execLdHAcq g d a k s
  | .ldHuAcq g d a k => Sys2Proof.Machine.execLdHuAcq g d a k s
  | .ldWAcq g d a k => Sys2Proof.Machine.execLdWAcq g d a k s
  | .ldWuAcq g d a k => Sys2Proof.Machine.execLdWuAcq g d a k s
  | .ldDAcq g d a k => Sys2Proof.Machine.execLdDAcq g d a k s
  | .ldCAcq g d a k => Sys2Proof.Machine.execLdCAcq g d a k s
  | .stBRel g d a k => Sys2Proof.Machine.execStBRel g d a k s
  | .stHRel g d a k => Sys2Proof.Machine.execStHRel g d a k s
  | .stWRel g d a k => Sys2Proof.Machine.execStWRel g d a k s
  | .stDRel g d a k => Sys2Proof.Machine.execStDRel g d a k s
  | .stCRel g d a k => Sys2Proof.Machine.execStCRel g d a k s
  | .vld g v c x m => Sys2Proof.Machine.execVld g v c x m s
  | .vst g v c x m => Sys2Proof.Machine.execVst g v c x m s
  | .vlds g v c x m => Sys2Proof.Machine.execVlds g v c x m s
  | .vsts g v c x m => Sys2Proof.Machine.execVsts g v c x m s
  | .vgat g v c x m => Sys2Proof.Machine.execVgat g v c x m s
  | .vsct g v c x m => Sys2Proof.Machine.execVsct g v c x m s
  | .vldb g v c x m => Sys2Proof.Machine.execVldb g v c x m s
  | .vadd g d a b m w => Sys2Proof.Machine.execVadd g d a b m w s
  | .vsub g d a b m w => Sys2Proof.Machine.execVsub g d a b m w s
  | .vmul g d a b m w => Sys2Proof.Machine.execVmul g d a b m w s
  | .vmulh g d a b m w => Sys2Proof.Machine.execVmulh g d a b m w s
  | .vand g d a b m w => Sys2Proof.Machine.execVand g d a b m w s
  | .vor g d a b m w => Sys2Proof.Machine.execVor g d a b m w s
  | .vxor g d a b m w => Sys2Proof.Machine.execVxor g d a b m w s
  | .vsll g d a b m w => Sys2Proof.Machine.execVsll g d a b m w s
  | .vsrl g d a b m w => Sys2Proof.Machine.execVsrl g d a b m w s
  | .vsra g d a b m w => Sys2Proof.Machine.execVsra g d a b m w s
  | .vmin g d a b m w => Sys2Proof.Machine.execVmin g d a b m w s
  | .vmax g d a b m w => Sys2Proof.Machine.execVmax g d a b m w s
  | .vfadd g d a b m t => Sys2Proof.Machine.execVfadd g d a b m t s
  | .vfsub g d a b m t => Sys2Proof.Machine.execVfsub g d a b m t s
  | .vfmul g d a b m t => Sys2Proof.Machine.execVfmul g d a b m t s
  | .vfma g d a b m t => Sys2Proof.Machine.execVfma g d a b m t s
  | .vfms g d a b m t => Sys2Proof.Machine.execVfms g d a b m t s
  | .vfnma g d a b m t => Sys2Proof.Machine.execVfnma g d a b m t s
  | .vfmin g d a b m t => Sys2Proof.Machine.execVfmin g d a b m t s
  | .vfmax g d a b m t => Sys2Proof.Machine.execVfmax g d a b m t s
  | .vfabs g d a m t => Sys2Proof.Machine.execVfabs g d a m t s
  | .vfrcp g d a m t => Sys2Proof.Machine.execVfrcp g d a m t s
  | .vfrsq g d a m t => Sys2Proof.Machine.execVfrsq g d a m t s
  | .vfex2 g d a m t => Sys2Proof.Machine.execVfex2 g d a m t s
  | .vflg2 g d a m t => Sys2Proof.Machine.execVflg2 g d a m t s
  | .vcmp g w d a b m c => Sys2Proof.Machine.execVcmp g w d a b m c s
  | .vfcmp g t d a b m c => Sys2Proof.Machine.execVfcmp g t d a b m c s
  | .vsel g d a b m => Sys2Proof.Machine.execVsel g d a b m s
  | .mand g d a b n => Sys2Proof.Machine.execMand g d a b n s
  | .mor g d a b n => Sys2Proof.Machine.execMor g d a b n s
  | .mxor g d a b n => Sys2Proof.Machine.execMxor g d a b n s
  | .mpop g d a m w => Sys2Proof.Machine.execMpop g d a m w s
  | .vperm g d a b m w => Sys2Proof.Machine.execVperm g d a b m w s
  | .vshf g d a b m w => Sys2Proof.Machine.execVshf g d a b m w s
  | .vsld g d a n w => Sys2Proof.Machine.execVsld g d a n w s
  | .vbc g d a n w => Sys2Proof.Machine.execVbc g d a n w s
  | .vext g d a n w => Sys2Proof.Machine.execVext g d a n w s
  | .vins g d k n w => Sys2Proof.Machine.execVins g d k n w s
  | .vzip g d a b h w => Sys2Proof.Machine.execVzip g d a b h w s
  | .vuzp g d a b h w => Sys2Proof.Machine.execVuzp g d a b h w s
  | .vredadd g d a m w => Sys2Proof.Machine.execVredadd g d a m w s
  | .vredmax g d a m w => Sys2Proof.Machine.execVredmax g d a m w s
  | .vredmin g d a m w => Sys2Proof.Machine.execVredmin g d a m w s
  | .vfredadd g d a m t => Sys2Proof.Machine.execVfredadd g d a m t s
  | .vfamax g d a m t => Sys2Proof.Machine.execVfamax g d a m t s
  | .vcvt g d a p m t => Sys2Proof.Machine.execVcvt g d a p m t s
  | .vqnt g d a k m p => Sys2Proof.Machine.execVqnt g d a k m p s
  | .vdqnt g d a k m p => Sys2Proof.Machine.execVdqnt g d a k m p s
  | .vscl g d a k m t => Sys2Proof.Machine.execVscl g d a k m t s
  | .vunpk g d a p m t => Sys2Proof.Machine.execVunpk g d a p m t s
  | .vimm g d t imm => Sys2Proof.Machine.execVimm g d t imm s
  | .fmt g a b r k z => Sys2Proof.Machine.execFmt g a b r k z s
  | .ctrAdd g a b d k => Sys2Proof.Machine.execCtrAdd g a b d k s
  | .ctrMax g a b d k => Sys2Proof.Machine.execCtrMax g a b d k s
  | .ctrWait g a b d k => Sys2Proof.Machine.execCtrWait g a b d k s
  | .ctrTest g a b d k => Sys2Proof.Machine.execCtrTest g a b d k s
  | .ctrRead g a d => Sys2Proof.Machine.execCtrRead g a d s
  | .ctrInit g a b d k => Sys2Proof.Machine.execCtrInit g a b d k s
  | .scoOpen g a b d => Sys2Proof.Machine.execScoOpen g a b d s
  | .scoClose g a d => Sys2Proof.Machine.execScoClose g a d s
  | .scoCancel g a => Sys2Proof.Machine.execScoCancel g a s
  | .scoSucceed g a d => Sys2Proof.Machine.execScoSucceed g a d s
  | .scoSpawn g a b d => Sys2Proof.Machine.execScoSpawn g a b d s
  | .scoLaunch g a b d => Sys2Proof.Machine.execScoLaunch g a b d s
  | .scoShield g => Sys2Proof.Machine.execScoShield g s
  | .scoUnshield g => Sys2Proof.Machine.execScoUnshield g s
  | .scoPoll g d => Sys2Proof.Machine.execScoPoll g d s
  | .scoId g d => Sys2Proof.Machine.execScoId g d s
  | .lfDiscard g a => Sys2Proof.Machine.execLfDiscard g a s
  | .lfMove g a b => Sys2Proof.Machine.execLfMove g a b s
  | .lfStat g a d => Sys2Proof.Machine.execLfStat g a d s
  | .mxLease g d => Sys2Proof.Machine.execMxLease g d s
  | .mxFree g => Sys2Proof.Machine.execMxFree g s
  | .mxOpb g a b d => Sys2Proof.Machine.execMxOpb g a b d s
  | .mxMma g a b d => Sys2Proof.Machine.execMxMma g a b d s
  | .mxLd g a b => Sys2Proof.Machine.execMxLd g a b s
  | .mxSt g a b => Sys2Proof.Machine.execMxSt g a b s
  | .mxZero g => Sys2Proof.Machine.execMxZero g s
  | .mxChk g d => Sys2Proof.Machine.execMxChk g d s
  | .ladSet g a n => Sys2Proof.Machine.execLadSet g a n s
  | .ladGet g n d => Sys2Proof.Machine.execLadGet g n d s
  | .ladGo g d => Sys2Proof.Machine.execLadGo g d s
  | .ladStat g a d => Sys2Proof.Machine.execLadStat g a d s
  | .cruSet g a n => Sys2Proof.Machine.execCruSet g a n s
  | .cruGet g n d => Sys2Proof.Machine.execCruGet g n d s
  | .cruGo g d => Sys2Proof.Machine.execCruGo g d s
  | .cruStat g a d => Sys2Proof.Machine.execCruStat g a d s
  | .sysCall g a => Sys2Proof.Machine.execSysCall g a s
  | .trap g a => Sys2Proof.Machine.execTrap g a s
  | .eret g => Sys2Proof.Machine.execEret g s
  | .yield g => Sys2Proof.Machine.execYield g s
  | .brk g => Sys2Proof.Machine.execBrk g s
  | .halt g => Sys2Proof.Machine.execHalt g s
  | .tlbInv g a b => Sys2Proof.Machine.execTlbInv g a b s
  | .tlbAll g a => Sys2Proof.Machine.execTlbAll g a s
  | .csrr g d n => Sys2Proof.Machine.execCsrr g d n s
  | .csrw g d a n => Sys2Proof.Machine.execCsrw g d a n s
  | .csrs g d a n => Sys2Proof.Machine.execCsrs g d a n s
  | .csrc g d a n => Sys2Proof.Machine.execCsrc g d a n s
  | .registerWrite target value => Sys2Proof.Machine.execRegisterWrite target value s
  | .crossDieInvalidation die line writer => Sys2Proof.Machine.execCrossDieInvalidation die line writer s
  | .invalidationAck writer => Sys2Proof.Machine.execInvalidationAck writer s
  | .settleMarker src dst => Sys2Proof.Machine.execSettleMarker src dst s
  | .settleReport die => Sys2Proof.Machine.execSettleReport die s
  | .cancelBroadcast die asid scope => Sys2Proof.Machine.execCancelBroadcast die asid scope s
  | .scopeDeath asid scope => Sys2Proof.Machine.execScopeDeath asid scope s
  | .scopeClosing asid scope => Sys2Proof.Machine.execScopeClosing asid scope s
  | .strandResume core => Sys2Proof.Machine.execStrandResume core s
  | .teamPlacement die => Sys2Proof.Machine.execTeamPlacement die s
  | .quantumEnd die team => Sys2Proof.Machine.execQuantumEnd die team s
  | .leafShrink die f => Sys2Proof.Machine.execLeafShrink die f s
  | .leafConversion die lpn asid byAccess => Sys2Proof.Machine.execLeafConversion die lpn asid byAccess s
  | .leafMoveDone die lpn => Sys2Proof.Machine.execLeafMoveDone die lpn s
  | .ladleSegment core slot => Sys2Proof.Machine.execLadleSegment core slot s
  | .ladleTransferEnd core slot => Sys2Proof.Machine.execLadleTransferEnd core slot s
  | .anvilCommandRun cluster => Sys2Proof.Machine.execAnvilCommandRun cluster s
  | .anvilRunEnd cluster => Sys2Proof.Machine.execAnvilRunEnd cluster s
  | .collectiveEnd core slot => Sys2Proof.Machine.execCollectiveEnd core slot s
  | .launchEntryConsume f q => Sys2Proof.Machine.execLaunchEntryConsume f q s
  | .completionRecord f q => Sys2Proof.Machine.execCompletionRecord f q s
  | .serviceRingPost f => Sys2Proof.Machine.execServiceRingPost f s
  | .ownershipGrant f region => Sys2Proof.Machine.execOwnershipGrant f region s
  | .benchRequestDispatch die => Sys2Proof.Machine.execBenchRequestDispatch die s
  | .benchReply bench => Sys2Proof.Machine.execBenchReply bench s
  | .syscallNull bench => Sys2Proof.Machine.execSyscallNull bench s
  | .syscallHost bench => Sys2Proof.Machine.execSyscallHost bench s
  | .syscallLpnAssign bench => Sys2Proof.Machine.execSyscallLpnAssign bench s
  | .syscallFirmware bench => Sys2Proof.Machine.execSyscallFirmware bench s
  | .interrupt die => Sys2Proof.Machine.execInterrupt die s
  | .faultQueueSlotFree asid => Sys2Proof.Machine.execFaultQueueSlotFree asid s
  | .illegalInstruction w => Sys2Proof.Machine.execIllegalInstruction w s
  | .steal thief victim => Sys2Proof.Machine.execSteal thief victim s
  | .stealWaitExpiry core => Sys2Proof.Machine.execStealWaitExpiry core s
  | .preEmptSlot core slot => Sys2Proof.Machine.execPreEmptSlot core slot s
  | .preEmptTeam core slot => Sys2Proof.Machine.execPreEmptTeam core slot s
  | .pageWalk die asid va => Sys2Proof.Machine.execPageWalk die asid va s
  | .collectiveFlit core slot flit rank first data => Sys2Proof.Machine.execCollectiveFlit core slot flit rank first data s
  | .collectiveReady core slot rank => Sys2Proof.Machine.execCollectiveReady core slot rank s
  | .collectiveCommit core slot => Sys2Proof.Machine.execCollectiveCommit core slot s
  | .collectiveAbort core abort => Sys2Proof.Machine.execCollectiveAbort core abort s
  | .errorDetected die report => Sys2Proof.Machine.execErrorDetected die report s
  | .pcieCompletion id data => Sys2Proof.Machine.execPcieCompletion id data s
  | .peerAcknowledgement id data => Sys2Proof.Machine.execPeerAcknowledgement id data s
  | .settleRoundOpen => Sys2Proof.Machine.execSettleRoundOpen s
  | .deviceReset => Sys2Proof.Machine.execDeviceReset s
  | .imageVerify source => Sys2Proof.Machine.execImageVerify source s
  | .claim epoch serial => Sys2Proof.Machine.execClaim epoch serial s
  | .leaderElectionExpiry => Sys2Proof.Machine.execLeaderElectionExpiry s
  | .loadMessage serial epoch seq chunk => Sys2Proof.Machine.execLoadMessage serial epoch seq chunk s
  | .resendRequest serial epoch seq => Sys2Proof.Machine.execResendRequest serial epoch seq s
  | .loadTimeout => Sys2Proof.Machine.execLoadTimeout s
  | .readCopyRequest die line => Sys2Proof.Machine.execReadCopyRequest die line s
  | .ownershipRequest core line => Sys2Proof.Machine.execOwnershipRequest core line s
  | .dieFence die => Sys2Proof.Machine.execDieFence die s
  | .scopeKill asid scope => Sys2Proof.Machine.execScopeKill asid scope s
  | .teamBlockPoolPush die value => Sys2Proof.Machine.execTeamBlockPoolPush die value s
  | .contextBlockPoolPush die value => Sys2Proof.Machine.execContextBlockPoolPush die value s
  | .swapAreaPoolPush die value => Sys2Proof.Machine.execSwapAreaPoolPush die value s
  | .reservationWrite die f value => Sys2Proof.Machine.execReservationWrite die f value s
  | .lpnEntryWrite die lpn value => Sys2Proof.Machine.execLpnEntryWrite die lpn value s
  | .powerStateWrite die value => Sys2Proof.Machine.execPowerStateWrite die value s
  | .collectiveTimeout core slot => Sys2Proof.Machine.execCollectiveTimeout core slot s
  | .flitReceive port authentic => Sys2Proof.Machine.execFlitReceive port authentic s
  | .flitCounterLimit port => Sys2Proof.Machine.execFlitCounterLimit port s
  | .portLaneChange port lanes => Sys2Proof.Machine.execPortLaneChange port lanes s
  | .getVersion party => Sys2Proof.Machine.execGetVersion party s
  | .getCapabilities party => Sys2Proof.Machine.execGetCapabilities party s
  | .negotiateAlgorithms party offer => Sys2Proof.Machine.execNegotiateAlgorithms party offer s
  | .getDigests party => Sys2Proof.Machine.execGetDigests party s
  | .getCertificate party offset length => Sys2Proof.Machine.execGetCertificate party offset length s
  | .challenge party nonce => Sys2Proof.Machine.execChallenge party nonce s
  | .getMeasurements party nonce => Sys2Proof.Machine.execGetMeasurements party nonce s
  | .keyExchange party exchange => Sys2Proof.Machine.execKeyExchange party exchange s
  | .finish party verifyOk => Sys2Proof.Machine.execFinish party verifyOk s
  | .keyUpdate party epoch => Sys2Proof.Machine.execKeyUpdate party epoch s
  | .endSession party => Sys2Proof.Machine.execEndSession party s
  | .peerWrite by_ offset bytes => Sys2Proof.Machine.execPeerWrite by_ offset bytes s
  | .peerRead by_ offset size => Sys2Proof.Machine.execPeerRead by_ offset size s
  | .peerAtomic by_ offset op operand comparand => Sys2Proof.Machine.execPeerAtomic by_ offset op operand comparand s
  | .peerAdd by_ offset size value => Sys2Proof.Machine.execPeerAdd by_ offset size value s
  | .peerCounterRead by_ offset size => Sys2Proof.Machine.execPeerCounterRead by_ offset size s
  | .windowAdd by_ offset size value => Sys2Proof.Machine.execWindowAdd by_ offset size value s
  | .windowRead by_ offset size => Sys2Proof.Machine.execWindowRead by_ offset size s
  | .apertureWrite by_ offset bytes => Sys2Proof.Machine.execApertureWrite by_ offset bytes s
  | .apertureRead by_ offset size => Sys2Proof.Machine.execApertureRead by_ offset size s
  | .atomicopRequest f address => Sys2Proof.Machine.execAtomicopRequest f address s
  | .doorbell f q value => Sys2Proof.Machine.execDoorbell f q value s
  | .queueReset f q => Sys2Proof.Machine.execQueueReset f q s
  | .queueRingBaseWrite f q value => Sys2Proof.Machine.execQueueRingBaseWrite f q value s
  | .replyTag f tag => Sys2Proof.Machine.execReplyTag f tag s
  | .transferToProcessor f region => Sys2Proof.Machine.execTransferToProcessor f region s
  | .lateFramePush f die value => Sys2Proof.Machine.execLateFramePush f die value s
  | .jobPointerWrite f value => Sys2Proof.Machine.execJobPointerWrite f value s
  | .pcieLinkStateChange => Sys2Proof.Machine.execPcieLinkStateChange s
  | .resolveRetry die value => Sys2Proof.Machine.execResolveRetry die value s
  | .resolveResume die value => Sys2Proof.Machine.execResolveResume die value s
  | .resolveRetire die value => Sys2Proof.Machine.execResolveRetire die value s
  | .resolveIgnored die value => Sys2Proof.Machine.execResolveIgnored die value s
  | .assayStart die value => Sys2Proof.Machine.execAssayStart die value s
  | .assayEnd die pass => Sys2Proof.Machine.execAssayEnd die pass s
  | .patinaSample cluster count => Sys2Proof.Machine.execPatinaSample cluster count s
  | .touchstoneHash pair copy hash => Sys2Proof.Machine.execTouchstoneHash pair copy hash s
  | .touchstoneTimeout pair => Sys2Proof.Machine.execTouchstoneTimeout pair s
  | .spdmResponse party answer => Sys2Proof.Machine.execSpdmResponse party answer s
  | .firmwareCoreRestart ends => Sys2Proof.Machine.execFirmwareCoreRestart ends s
  | .packagePowerLoss => Sys2Proof.Machine.execPackagePowerLoss s

end Sys2Proof.Machine
end

