-- ==== Sys2Proof/Machine/Turns.lean ====
section
/-!
DEFINITION. What moves next, over any meaning of instructions: a device step that is due, else an event of the agenda,
else the next instruction of a strand, as the model's own field `turn` says (assumption log 1; spec/09_scheduling.md
R173, R174, spec/17_traps.md R339, spec/26_bringup_power.md R409).
-/
namespace Sys2Proof.Machine

/-- What running an instruction or an event comes to. -/
abbrev Run := Instr → State → Host.Outcome State Fault Refusal

/-- The outcome after the step has taken its time. -/
def afterStep : Host.Outcome State Fault Refusal → Host.Outcome State Fault Refusal
  | .next s => .next s.pass
  | .fault f => .fault f
  | .refused r => .refused r

/-! ### Requests from outside and their order (R97, R120 to R122) -/

/-- A request that a peer or the host sends: who sends it, whether it is a posted write or an add, and whether it is a
write with the relaxed-ordering attribute. -/
structure Request where
  who     : Agent
  posted  : Bool
  relaxed : Bool
  deriving DecidableEq, Repr

/-- A write of BAR0: a posted write of the host's processor, which the model numbers as requester 0 (R376; DESIGN CHOICE, assumption
log 27). -/
def fromCpu : Request := { who := .host 0 0, posted := true, relaxed := false }

/-- The request that an event is. -/
def requestOf : Instr → Option Request
  | .peerWrite b _ _ => some { who := .peer b.f b.requester, posted := true, relaxed := false }
  | .peerRead b _ _ => some { who := .peer b.f b.requester, posted := false, relaxed := false }
  | .peerAtomic b _ _ _ _ => some { who := .peer b.f b.requester, posted := false, relaxed := false }
  | .peerAdd b _ _ _ => some { who := .peer b.f b.requester, posted := true, relaxed := false }
  | .peerCounterRead b _ _ => some { who := .peer b.f b.requester, posted := false, relaxed := false }
  | .windowAdd b _ _ _ => some { who := senderHost b, posted := true, relaxed := false }
  | .windowRead b _ _ => some { who := senderHost b, posted := false, relaxed := false }
  | .apertureWrite b _ _ => some { who := senderHost b, posted := true, relaxed := b.relaxed }
  | .apertureRead b _ _ => some { who := senderHost b, posted := false, relaxed := false }
  | .registerWrite (.bar0 _ _) _ => some fromCpu
  | .doorbell _ _ _ => some fromCpu
  | .queueReset _ _ => some fromCpu
  | .queueRingBaseWrite _ _ _ => some fromCpu
  | .replyTag _ _ => some fromCpu
  | .transferToProcessor _ _ => some fromCpu
  | _ => none

/-- A strand of a peer has sent the request. -/
def Request.fromPeer (r : Request) : Bool :=
  match r.who with
  | .peer _ _ => true
  | _ => false

/-- An earlier request is performed before a later one of the same requester: every one of a peer's strand; of the host, a
write before a read, and before a write or an add if neither carries relaxed ordering (R97, R121, R122). -/
def Request.before (a b : Request) : Bool :=
  decide (a.who = b.who) && (a.fromPeer || (a.posted && (!b.posted || (!a.relaxed && !b.relaxed))))

/-- The event of the agenda that is performed when one is chosen: the earliest that comes before it, else itself. -/
def State.firstOf (s : State) (n : Nat) : Nat :=
  match s.agenda[n]? with
  | none => n
  | some i =>
    match requestOf i with
    | none => n
    | some r => ((s.agenda.take n).findIdx? fun e => ((requestOf e).map fun q => q.before r).getD false).getD n

/-- A list with an element after the first n that a test accepts. -/
def insertAfter {α : Type} (p : α → Bool) (i : α) : Nat → List α → List α
  | 0, l => i :: l
  | _ + 1, [] => [i]
  | n + 1, x :: r => x :: insertAfter p i (if p x then n else n + 1) r

/-- The agenda with an event that stays pending: a request keeps its place among its requester's, of which n stood before
it. -/
def keepEvent (i : Instr) (n : Nat) (l : List Instr) : List Instr :=
  match requestOf i with
  | none => l ++ [i]
  | some r => insertAfter (fun e => ((requestOf e).map Request.who) == some r.who) i n l

/-- The requests of an event's requester that stand before it in the agenda. -/
def State.ahead (s : State) (n : Nat) : Nat :=
  match (s.agenda[n]?).bind requestOf with
  | none => 0
  | some r => (s.agenda.take n).countP fun e => ((requestOf e).map Request.who) == some r.who

/-- The outcome of an event, which stays pending if it waits at its home. -/
def afterEvent (i : Instr) (ahead : Nat) : Host.Outcome State Fault Refusal → Host.Outcome State Fault Refusal
  | .next s => .next (if s.stays then { s with stays := false, agenda := keepEvent i ahead s.agenda } else s)
  | .fault f => .fault f
  | .refused r => .refused r

/-- The outcome of the event at a place of the agenda. -/
def State.runEvent (run : Run) (s : State) (i : Instr) (n : Nat) : Host.Outcome State Fault Refusal :=
  afterEvent i (s.ahead n) (run i (s.takeAgenda n))

/-! ### Completion adds that wait (R86, R90, R145, R320) -/

/-- The state after the end of a strand whose launch's completion add waits is tried again (R127, R145, R380). -/
def State.retryAdd (s : State) (n : Nat) : State :=
  match s.adds[n]? with
  | none => s
  | some t =>
    let s := s.askPosted t
    if s.endWaits t false then s else ({ s with adds := s.adds.eraseIdx n } : State).strandEnds t false

/-- What is pending: the events of the agenda, then the completion adds that wait. -/
def State.pendingStep (run : Run) (s : State) (n : Nat) : Option (Host.Outcome State Fault Refusal) :=
  match s.agenda[s.firstOf n]? with
  | some i => some (s.runEvent run i (s.firstOf n))
  | none => if n - s.agenda.length < s.adds.length then some (.next (s.retryAdd (n - s.agenda.length))) else none

/-! ### Instructions (R173, R174, R339) -/

/-! ### Touchstone pairs (R400) -/

/-- The instruction is an operation of which each copy of a pair yields a hash: a store, an atomic, a counter operation, an engine
launch, a scope instruction or `sys.call` (R400). A command queued to the Anvil counts as a launch. -/
def pairOp : Instr → Bool
  | .stB .. | .stH .. | .stW .. | .stD .. | .stC .. => true
  | .stBRel .. | .stHRel .. | .stWRel .. | .stDRel .. | .stCRel .. => true
  | .vst .. | .vsts .. | .vsct .. => true
  | .amoAdd .. | .amoAnd .. | .amoOr .. | .amoXor .. | .amoMin .. | .amoMax .. | .amoSwp .. | .amoCas .. => true
  | .ctrAdd .. | .ctrMax .. | .ctrWait .. | .ctrTest .. | .ctrRead .. | .ctrInit .. => true
  | .scoOpen .. | .scoClose .. | .scoCancel .. | .scoSucceed .. | .scoSpawn .. | .scoLaunch .. => true
  | .scoShield .. | .scoUnshield .. | .scoPoll .. | .scoId .. => true
  | .mxOpb .. | .mxMma .. | .mxLd .. | .mxSt .. | .mxZero .. | .ladGo .. | .cruGo .. | .sysCall .. => true
  | _ => false

/-- The pair that the issuing strand runs as. -/
def State.pair (s : State) : Option Pair := s.pairs.find? fun p => decide (p.strand = s.cur.handle.addr)

/-- The hash of the first copy's operation. -/
def State.opHash (s : State) (i : Instr) : Word :=
  Config.opHash i.word (s.cur.regs.toList.map (fun c => c.bits.toNat) ++ s.cur.vregs.toList.map (fun v => v.toNat)) s.cur.birth

/-- The state in which an operation of a pair awaits its two hashes. The model keeps the registers of one copy: whether the second
copy's hash is the same, and what it is if not, is free (assumption log 28). -/
def State.askHashes (s : State) (x : Pair) (i : Instr) : State :=
  let h := s.opHash i
  let v := s.free
  let w := v.2.free
  let second := if v.1 = 0 then h else w.1
  ((w.2.setPair { x with asked := some s.cur.pc }).addAgenda (.touchstoneHash x.id .first h)).addAgenda
    (.touchstoneHash x.id .second second)

/-- The issue of an instruction, by a pair too: an operation of one is held until its hashes are equal, and then performed once (R400). -/
def State.issuePaired (run : Run) (s : State) (i : Instr) : Host.Outcome State Fault Refusal :=
  match s.pair with
  | none => run i s
  | some x =>
    if !pairOp i then run i (s.setPair { x with matched := none })
    else if x.matched = some s.cur.pc then run i s
    else if x.asked = some s.cur.pc then .next s
    else .next (s.askHashes x i)

/-- What stands before the next instruction of the issuing strand in the order of R339, if anything does: a kill, a
stalled trap, a pre-emption, an interrupt, the point of a resumption, a pending wait, which is a cancellation point too, or a fetch
that does not give an instruction (R94, R137, R160). -/
def State.beforeIssue (run : Run) (s : State) : Host.Outcome State Fault Refusal :=
  if s.killNow then .next s.killCur
  else
    match s.cur.run with
    | .trapStalled t => .next (s.userTrap t)
    | _ =>
      if s.stopNow then .next s.preEmpt
      else if s.interruptNow then run (.interrupt s.myDie) (s.dropRequest s.cur.core s.cur.handle.addr)
      else
        match s.cur.resuming, s.cur.wait with
        | some at_, _ => .next (s.resumePoint at_)
        | none, some w => .next (if s.cancelDue then s.actOnCancel s.cur.pc else s.presentWait w)
        | none, none =>
          match s.fetch with
          | .error s' => .next s'
          | .ok (s', bs) => s'.issuePaired run (readInstr bs)

/-- The step of a thief, or of the strand that is next among those that may issue; with none, something pending, or time alone
passes (R173, R174). -/
def State.issueTurn (run : Run) (s : State) (k : Nat) : Host.Outcome State Fault Refusal :=
  match s.stealTurn k with
  | some thief => .next (s.stealStep thief)
  | none =>
    match pickAt k s.candidates with
    | some (t, _) => (s.choose t).noteSlot.beforeIssue run
    | none => (s.pendingStep run (k % (s.agenda.length + s.adds.length))).getD (.next s)

/-- An access that waits for a peer or for the host cannot be answered any longer (R56, R361). -/
def State.hasLost (s : State) : Bool :=
  s.residents.any fun t => match t.run with
    | .waitIo id => s.outstanding.any fun o => decide (o.id = id) && s.lostPeer o
    | _ => false

/-- The step without its passing of time: first what follows from an earlier step, then what waits in vain. -/
def State.turnStep (run : Run) (s : State) : Host.Outcome State Fault Refusal :=
  match s.due with
  | i :: r => afterEvent i 0 (run i { s with due := r })
  | [] =>
    if s.hasLost then .next s.failWaiters
    else (s.pendingStep run s.turn).getD (s.issueTurn run (s.turn - s.agenda.length - s.adds.length))

/-- The event that runs when power has returned (R409). -/
def isReset : Instr → Bool
  | .deviceReset => true
  | _ => false

/-- One step of the machine. A device without power responds to nothing until power returns and reset runs (R409). -/
def State.deviceStep (run : Run) (s : State) : Host.Outcome State Fault Refusal :=
  if s.powered then afterStep (s.turnStep run)
  else
    match s.agenda.findIdx? isReset with
    | some n =>
      match s.agenda[n]? with
      | some i => afterStep (run i (s.takeAgenda n))
      | none => .fault .unpowered
    | none => .fault .unpowered

end Sys2Proof.Machine
end

