-- ==== Sys2Proof/Machine/Step.lean ====
section
/-!
DEFINITION. The step of the machine, and how an instruction is stored where it fetches next.
-/
namespace Sys2Proof.Machine

/-- One step of the machine. -/
def step (s : State) : Host.Outcome State Fault Refusal := s.deviceStep exec

/-- The state with an instruction stored where the next step fetches, and its strand about to issue (assumption log
2). -/
def State.withFetchWord (s : State) (nbits w : Nat) : State := s.placeWord (bytesOfNat 4 (w % 2 ^ nbits))

end Sys2Proof.Machine
end

