-- ==== Sys2Proof/Safety.lean ====
section
/-!
DEFINITION. What counts as a safe step, and the words that the statements share: when nothing stops an instruction at
issue, and which part of the state an instruction may change (spec/11_encoding.md R202, R203, R207 to R209, R213, R214,
spec/12_scalar_isa.md R223, R224, spec/01_addresses.md R23).
-/
namespace Sys2Proof

/-- An instruction completes at a state with a next state. -/
def completes (i : Instr) (s : Machine.State) : Prop := ∃ t, Machine.exec i s = .next t

end Sys2Proof

namespace Sys2Proof.Machine

/-! ### Nothing stops the issue (R202, R203, R207 to R209, R214, R224) -/

/-- No format code word is pending and, where STATUS.CHK asks for it, no register named waits for a result: the checks of
R203 that an instruction of the scalar, memory and engine families makes at issue pass. -/
def State.clearFor (s : State) (regs : List RegName) : Prop :=
  s.cur.pfx = false ∧ (s.cur.chk = true → shortOf s.cur.board regs = none)

/-- A scalar register that may be a source: not a tagged malformed capability (R20, R224). -/
def State.sound (s : State) (a : CIdx) : Prop :=
  (s.cur.creg a).tag = true → capMalformed (s.cur.creg a).bits = false

/-- The strand's grant has the vector registers (R214). -/
def State.granted (s : State) (l : List VIdx) : Prop := ∀ v ∈ l, v.toNat < 8 * s.cur.grant.toNat

/-- No cancel acts at the issuing strand's next cancellation point: none has reached it, or its shield holds it, and its
lease was not cut (R160, R300). -/
def State.undisturbed (s : State) : Prop :=
  s.cancelDue = false ∧ ∀ l, (s.core s.cur.core).lease = some l → l.holder = s.cur.handle.addr → l.cut = false

/-! ### What may change -/

/-- `t` differs from `s` in no more than the issuing strand's scalar registers, its pc and its record of pending
results. -/
def scalarOnly (s t : State) : Prop :=
  t = { s with cur := { s.cur with regs := t.cur.regs, pc := t.cur.pc, board := t.cur.board } }

/-- `t` differs from `s` in no more than the issuing strand's vector registers, STATUS, its pc and its record of pending
results. -/
def vectorOnly (s t : State) : Prop :=
  t = { s with cur := { s.cur with vregs := t.cur.vregs, status := t.cur.status, pc := t.cur.pc, board := t.cur.board } }

/-- Scalar register d holds v, unless it is c0, and every other scalar register what it held (R213, R223). -/
def wroteC (s t : State) (d : CIdx) (v : CapReg) : Prop :=
  ∀ r, t.cur.creg r = if r = d ∧ d ≠ 0 then v else s.cur.creg r

/-- Every scalar register holds what it held. -/
def keptC (s t : State) : Prop := ∀ r, t.cur.creg r = s.cur.creg r

/-- The strand goes on at the next instruction. -/
def wentOn (s t : State) : Prop := t.cur.pc = s.cur.pc + 4

/-- Every byte of memory outside [a, a + n) reads as before. -/
def memoryBut (s t : State) (a n : Nat) : Prop := ∀ b, ¬ (a ≤ b ∧ b < a + n) → t.mem.read b = s.mem.read b

/-- An instruction of the scalar family issues at `s` with the sources `srcs`, completes, goes on at the next instruction
and changes nothing but register d, which receives v (R203, R223). -/
def gives (s : State) (i : Instr) (srcs : List CIdx) (d : CIdx) (v : CapReg) : Prop :=
  s.clearFor (srcs.map RegName.c ++ [.c d]) → (∀ a ∈ srcs, s.sound a) →
    ∃ t, exec i s = .next t ∧ wentOn s t ∧ wroteC s t d v ∧ scalarOnly s t

/-- `t` is the state `u` in which the strand that issued at `s` has gone on: pc + 4 and its record of pending results. -/
def after (s u t : State) : Prop :=
  t = { u with cur := { u.cur with pc := s.cur.pc + 4, board := t.cur.board } }

/-- An instruction that the checks of R203 let through completes at `s`, and leaves the state `u` with the strand gone
on. -/
def leaves (s : State) (i : Instr) (u : State) : Prop := ∃ t, exec i s = .next t ∧ after s u t

/-! ### Accesses through a capability (R23, R29 to R37, R125) -/

/-- An access of the issuing strand of n bytes at `va` through a capability passes its checks and reaches the place `p`,
with the state `s1` after its translation. -/
def State.reaches (s : State) (c : CapReg) (va : Word) (n : Nat) (perms : List Perm) (k : Kind) (s1 : State) (p : Place) :
    Prop :=
  s.storeQueued = false ∧ capFault c va.toNat n perms = none ∧ va.toNat % n = 0 ∧ translate s s.me va k = (s1, .ok p)

/-- Nothing keeps an access of n bytes at a place of memory from being performed: no fenced home, no unit under test, no
page operation, no processor-owned region, no poisoned sector (R55, R56, R69, R71, R398). -/
def State.calm (s : State) (p : Place) (va : Word) (n : Nat) : Prop :=
  p.ptype ≠ .io ∧ s.gate s.me p va n = none ∧ s.poisoned p.loc n = false

/-- `t`'s dies are those of `s` but for who waits at their leaf pages (R78). -/
def queuesOnly (s t : State) : Prop :=
  ∀ d, t.die d = { s.die d with lpns := (t.die d).lpns } ∧ ∀ n, t.lpn d n = { s.lpn d n with queue := (t.lpn d n).queue }

/-- What a load may change after its translation: what the caches and the directory hold, read copies, what the strand may
acquire or carries, who waits at a leaf page, and the issuing strand's registers, pc and record of pending results. No
value that memory holds, no tag and no poison mark changes. -/
def loadOnly (s1 t : State) : Prop :=
  queuesOnly s1 t ∧
  t = { s1 with
    cur := { s1.cur with regs := t.cur.regs, vregs := t.cur.vregs, pc := t.cur.pc, board := t.cur.board }
    dirs := t.dirs, copies := t.copies, caches := t.caches, order := t.order, dies := t.dies }

/-- What a store may change beside the bytes it writes: their tags and poison marks, what the caches and the directory hold,
read copies, the invalidations it causes and their counts, what is not yet visible and what is released, and the strand's pc
and record of pending results. -/
def storeOnly (s2 t : State) : Prop :=
  t = { s2 with
    cur := { s2.cur with pc := t.cur.pc, board := t.cur.board }
    mem := t.mem, tags := t.tags, poison := t.poison
    dirs := t.dirs, copies := t.copies, caches := t.caches, order := t.order, agenda := t.agenda, cores := t.cores }

/-! ### Engines (R203, R208, R300) -/

/-- The checks of R203 pass for an instruction of an engine that takes a pending format code word of a kind or none. -/
def State.clearMx (s : State) (regs : List RegName) (ok : BitVec 24 → Bool) : Prop :=
  (∀ v, s.cur.pending = some v → payloadOk v = true ∧ ok v = true) ∧
  (s.cur.chk = true → shortOf s.cur.board regs = none)

/-- The issuing strand holds a lease on its core that no cancel has reached (R300). -/
def State.leased (s : State) (l : Lease) : Prop :=
  (s.core s.cur.core).lease = some l ∧ l.holder = s.cur.handle.addr ∧ l.ended = false ∧ l.cut = false

/-- A scope, homed on no fenced die, that accepts the birth of an engine command or a system call of the issuing strand: a sealed
or failed one only of a strand born in its subtree (R154, R166). -/
def State.bears (s : State) (a : Nat) (r : ScopeRec) : Prop :=
  s.scopeOf s.cur.asid (s.cur.scope.setWidth 32) = some (a, r) ∧ s.fencedAt a = false ∧ r.acceptsMember = true ∧
    (r.acceptsAll = true ∨ s.inSubtree s.cur.asid s.cur.birth r.id = true)

/-! ### Scopes (R146 to R152, R258) -/

/-- An operand names a scope of the strand's usable table that is in use, with its record and the record's address. -/
def State.names (s : State) (v : Word) (a : Nat) (r : ScopeRec) : Prop :=
  v.toNat < 2 ^ 32 ∧ s.scopeIn s.cur.sctb s.cur.asid (s.scopeId v) = some (a, r) ∧ s.fencedAt a = false ∧ r.state ≠ .free

/-- The same for a scope that is the strand's own or a descendant of it, by the table that SCTB names. -/
def State.namesBelow (s : State) (v : Word) (a : Nat) (r : ScopeRec) : Prop :=
  s.names v a r ∧ ∃ e ∈ s.tablePath r.id, e.2.id = s.ownScope

/-- The record that the scope cache of its home holds at an address (R149). -/
def State.cached (s : State) (a : Nat) : Option ScopeRec := mapGet? (s.die (homeDie a)).scopes a

/-! ### Vector forms (R203, R207 to R209, R214, R215) -/

/-- The pending format code word or its absence is one the instruction takes, the strand has a grant with every vector
register named, and no register named waits for a result where STATUS.CHK asks. -/
def State.clearVec (s : State) (regs : List RegName) (takes : Option (BitVec 24) → Bool) : Prop :=
  (match s.cur.pending with
    | none => takes none
    | some v => payloadOk v && takes (some v)) = true ∧
  s.cur.grant ≠ 0 ∧ (∀ v, RegName.v v ∈ regs → v.toNat < 8 * s.cur.grant.toNat) ∧
  (s.cur.chk = true → shortOf s.cur.board regs = none)

/-- No format code word is taken. -/
def bare : Option (BitVec 24) → Bool := fun p => p.isNone

/-- STATUS after an instruction that used up a pending format code word (R207, R209). -/
def State.statusAfter (s : State) : Word := (if s.cur.pfx then s.cur.clearPfx else s.cur).status

/-- Lane k of n bits is active under mask m at `s`: the mask bit of the lane's first byte (R215). -/
def State.active (s : State) (n : Nat) (m : MIdx) (k : Nat) : Prop := (s.cur.mreg m).getLsbD (k * n / 8) = true

/-- Mask register d holds v, unless it is m0, and every other one what it held (R213). -/
def wroteM (s t : State) (d : MIdx) (v : MReg) : Prop :=
  ∀ r, t.cur.mreg r = if r = d ∧ d ≠ 0 then v else s.cur.mreg r

/-- `t` differs from `s` in no more than the issuing strand's mask registers, STATUS, its pc and its record of pending
results. -/
def maskOnly (s t : State) : Prop :=
  t = { s with cur := { s.cur with masks := t.cur.masks, status := t.cur.status, pc := t.cur.pc, board := t.cur.board } }

/-- The value of every lane of n bits of a register. -/
def lanesAre (n : Nat) (v : VReg) (f : Nat → Nat) : Prop := ∀ k < 1024 / n, laneOf n v k = f k

/-- A vector instruction issues at `s`, completes, goes on at the next instruction, and changes nothing but vector
register d, which receives a value that `P` describes, and the pending format code word. -/
def givesV (s : State) (i : Instr) (reads : List RegName) (takes : Option (BitVec 24) → Bool) (d : VIdx) (P : VReg → Prop) :
    Prop :=
  s.clearVec (reads ++ [.v d]) takes →
    ∃ t, exec i s = .next t ∧ wentOn s t ∧ P (t.cur.vreg d) ∧ (∀ r, r ≠ d → t.cur.vreg r = s.cur.vreg r) ∧
      t.cur.status = s.statusAfter ∧ vectorOnly s t

/-- The same for an instruction that writes mask register d; m0 keeps all ones (R213). -/
def givesM (s : State) (i : Instr) (reads : List RegName) (takes : Option (BitVec 24) → Bool) (d : MIdx) (P : MReg → Prop) :
    Prop :=
  s.clearVec (reads ++ [.m d]) takes →
    ∃ t v, exec i s = .next t ∧ wentOn s t ∧ P v ∧ wroteM s t d v ∧ t.cur.status = s.statusAfter ∧ maskOnly s t

/-! ### Exceptions and suspensions (R135, R136, R328) -/

/-- `t` is `s` with its privileged strand at its handler: STATUS, PC and the trap registers saved, PFX and IE cleared
(R328); a wait that was presented again is kept for a return to it (R94). -/
def State.entersAt (s t : State) (cause subcode : Nat) (tval epc : Word) : Prop :=
  t = { s with
    cur := { s.cur with
      pstatus := s.cur.status, epc := epc, cause := BitVec.ofNat 64 (cause + subcode * 256), tval := tval
      status := t.cur.status, pc := s.cur.tvec, board := [], wait := none
      waitBack := match s.cur.wait with
        | some w => some (epc, w)
        | none => s.cur.waitBack } } ∧
  ∀ k, t.cur.status.getLsbD k = (s.cur.status.getLsbD k && decide (k ≠ 3 ∧ k ≠ 7))

/-- The continuation record in memory at `t` is the one that the issuing strand of `s` leaves behind (R135, R136). -/
def State.recorded (s t : State) (pc waitVa threshold carry ctx : Nat) : Prop :=
  let r := s.cur.handle.addr
  t.recPc r = pc ∧ t.recScope r = s.cur.birth ∧ t.recFlags r = s.cur.flags ∧ t.recPrio r = s.cur.prio.toNat ∧
    t.recAff r = s.cur.affinity.toNat ∧ t.recFrame r = s.cur.creg 3 ∧
    t.recWait r = waitVa % 2 ^ 48 + s.cur.core.val * 2 ^ 48 ∧ t.recThreshold r = threshold ∧ t.recCarry r = carry ∧
    t.recCtx r = ctx

/-- Ranges of memory that do not meet, by address and length. -/
def apart (l : List (Nat × Nat)) : Prop := l.Pairwise fun x y => x.1 + x.2 ≤ y.1 ∨ y.1 + y.2 ≤ x.1

/-- Some deque has the handle at its bottom, or it is the last that waits to be pushed there (R172). -/
def State.pushed (s : State) (h : Handle) : Prop :=
  ∃ c p, ((s.core c).deques.get p).head? = some h ∨ ((s.core c).pushes.getLast?).map Prod.snd = some h

/-! ### Resumption (R132, R137, R171) -/

/-- A suspended user strand without a context block, a team or a pending wait, under a live ASID, that no cancel or kill
reaches and that is not paired; the core has room for it and no strand issues. -/
def State.fitsOn (s : State) (c : CoreId) (h : Handle) : Prop :=
  let r := h.addr
  isFirmware h = false ∧ (s.desc (coreDie c) h.asid).live = true ∧ s.recordValid h = true ∧ s.recTeam h = none ∧
    s.slotFor c none = true ∧ s.registersFor c none (flagGrant (s.recFlags r)) = true ∧ s.recCtx r = 0 ∧
    s.recThreshold r = 0 ∧ s.pairWanted h = false ∧ s.cancelOf h.asid (s.recScope r) = none ∧
    s.killOf h.asid (s.recScope r) = false ∧ s.cur.run = .absent

/-- At `t` the strand of a record runs on a core with what its record at `s` gives it (R137, step 4). -/
def State.runsFrom (s t : State) (c : CoreId) (h : Handle) : Prop :=
  let r := h.addr
  t.cur.run = .ready ∧ t.cur.core = c ∧ t.cur.handle = h ∧ t.cur.asid = h.asid ∧
    t.cur.pc = BitVec.ofNat 64 (s.recPc r) ∧ t.cur.birth = s.recScope r ∧
    t.cur.grant = BitVec.ofNat 3 (flagGrant (s.recFlags r)) ∧ t.cur.creg 3 = s.recFrame r ∧
    t.cur.creg 5 = CapReg.untagged (BitVec.ofNat 64 (s.recCarry r)) ∧
    (∀ i, i ≠ 3 → i ≠ 5 → t.cur.creg i = CapReg.zero) ∧ (∀ v, t.cur.vreg v = 0) ∧
    t.cur.status = BitVec.ofNat 64 (bitsOf (s.recFlags r) 5 1 * 32 + bitsOf (s.recFlags r) 0 4 * 2 ^ 16) ∧
    t.mem = s.mem ∧ t.parked = s.parked

end Sys2Proof.Machine
end

