-- ==== Sys2Proof/Certificates/Slice0/Obligations.lean ====
section
/-!
DEFINITION. The statements for the provers.
-/
section

open Sys2Proof Sys2Proof.Machine

/-- The table of major 0x01 (R226 to R228) and the immediate forms of majors 0x02 to 0x08 (R229 to R231): what d receives,
that each operation completes, and that nothing else changes (R223). Division by zero and the overflow of the signed
division are the rows of R227. -/
def Obligations.IntegerOperations : Prop :=
  ∀ (s : State) (g : Gap) (d a b : CIdx) (i : BitVec 12) (n : CIdx) (j : BitVec 18),
    (let x := s.x a
     let y := s.x b
     let r := fun i v => gives s i [a, b] d (CapReg.untagged v)
     let u := fun i v => gives s i [a] d (CapReg.untagged v)
     r (.add g d a b) (x + y) ∧ r (.sub g d a b) (x - y) ∧ r (.mul g d a b) (x * y) ∧
     r (.mulh g d a b) (BitVec.ofInt 64 (x.toInt * y.toInt / 2 ^ 64)) ∧
     r (.mulhu g d a b) (BitVec.ofNat 64 (x.toNat * y.toNat / 2 ^ 64)) ∧
     r (.div g d a b)
       (if y = 0 then 0xFFFFFFFFFFFFFFFF
         else if x = 0x8000000000000000 ∧ y = 0xFFFFFFFFFFFFFFFF then 0x8000000000000000
         else BitVec.ofInt 64 (x.toInt.tdiv y.toInt)) ∧
     r (.divu g d a b) (if y = 0 then 0xFFFFFFFFFFFFFFFF else BitVec.ofNat 64 (x.toNat / y.toNat)) ∧
     r (.rem g d a b)
       (if y = 0 then x else if x = 0x8000000000000000 ∧ y = 0xFFFFFFFFFFFFFFFF then 0
         else BitVec.ofInt 64 (x.toInt.tmod y.toInt)) ∧
     r (.remu g d a b) (if y = 0 then x else BitVec.ofNat 64 (x.toNat % y.toNat)) ∧
     r (.and g d a b) (x &&& y) ∧ r (.or g d a b) (x ||| y) ∧ r (.xor g d a b) (x ^^^ y) ∧
     r (.sll g d a b) (x <<< (y.toNat % 64)) ∧ r (.srl g d a b) (x >>> (y.toNat % 64)) ∧
     r (.sra g d a b) (x.sshiftRight (y.toNat % 64)) ∧
     r (.slt g d a b) (if x.toInt < y.toInt then 1 else 0) ∧ r (.sltu g d a b) (if x.toNat < y.toNat then 1 else 0) ∧
     r (.min g d a b) (if x.toInt < y.toInt then x else y) ∧ r (.max g d a b) (if x.toInt < y.toInt then y else x) ∧
     r (.minu g d a b) (if x.toNat < y.toNat then x else y) ∧ r (.maxu g d a b) (if x.toNat < y.toNat then y else x) ∧
     gives s (.sel g d a b) [d, a, b] d (CapReg.untagged (if s.x d ≠ 0 then x else y)) ∧
     u (.clz g d a) (BitVec.ofNat 64 (if x = 0 then 64 else 63 - x.toNat.log2)) ∧
     u (.ctz g d a) (BitVec.ofNat 64 (((List.range 64).find? fun k => x.getLsbD k).getD 64)) ∧
     u (.popc g d a) (BitVec.ofNat 64 ((List.range 64).countP fun k => x.getLsbD k))) ∧
    (let x := s.x a
     let k : Word := i.signExtend 64
     let r := fun p v => gives s p [a] d (CapReg.untagged v)
     r (.addi g d a i) (x + k) ∧ r (.andi g d a i) (x &&& k) ∧ r (.ori g d a i) (x ||| k) ∧ r (.xori g d a i) (x ^^^ k) ∧
     r (.slti g d a i) (if x.toInt < i.toInt then 1 else 0) ∧
     r (.sltiu g d a n) (if x.toNat < n.toNat then 1 else 0) ∧
     r (.slli g d a n) (x <<< n.toNat) ∧ r (.srli g d a n) (x >>> n.toNat) ∧ r (.srai g d a n) (x.sshiftRight n.toNat) ∧
     gives s (.lui g d j) [] d (CapReg.untagged (BitVec.ofInt 64 (j.toInt * 2 ^ 12))))

/-- R224 for one instruction of each shape: the trap of cause 0x02, subcode 3, with the register's address field, taken in
the state that `registerError` leaves, whose record is the model's own choice (assumption log 15). -/
def Obligations.MalformedSource : Prop :=
  ∀ (s : State) (g : Gap) (d a b : CIdx) (i : BitVec 12),
    ((s.cur.creg a).tag = true ∧ capMalformed (s.cur.creg a).bits = true) →
    let out := Host.Outcome.next (s.registerError.takeTrap { cause := 2, subcode := 3, tval := s.x a, epc := s.cur.pc })
    (s.clearFor [.c a, .c b, .c d] → exec (.add g d a b) s = out ∧ exec (.capAddr g d a b) s = out) ∧
    (s.clearFor [.c a, .c d] → exec (.addi g d a i) s = out ∧ exec (.jalr g d a i) s = out) ∧
    (s.clearFor [.c a, .c b] → exec (.beq g a b i) s = out)

/-- The capability-producing instructions (R232 to R235, R237). -/
def Obligations.CapabilityDerivations : Prop :=
  ∀ (s : State) (g : Gap) (d a b : CIdx) (i : BitVec 12),
    let c := s.cur.creg a
    gives s (.capClr g d a) [a] d { tag := false, bits := c.bits } ∧
    gives s (.capAnd g d a b) [a, b] d
      { tag := c.tag
        bits := c.bits.extractLsb' 120 8 ++ (c.bits.extractLsb' 112 8 &&& (s.x b).extractLsb' 0 8) ++ c.bits.extractLsb' 0 112 } ∧
    (∀ n : Word,
      let r : CapReg :=
        { tag := c.tag && decide (capBaseOf c.bits ≤ (n.toNat : Int)) &&
            decide ((n.toNat : Int) < capBaseOf c.bits + 2 ^ (capE c.bits + 14)) &&
            !capMalformed (c.bits.extractLsb' 64 64 ++ n)
          bits := c.bits.extractLsb' 64 64 ++ n }
      (n = s.x b → gives s (.capAddr g d a b) [a, b] d r) ∧
      (n = c.lo + i.signExtend 64 → gives s (.capInc g d a i) [a] d r)) ∧
    (c.lo.toNat + (s.x b).toNat > 2 ^ 64 ∨ encodeBounds c.lo.toNat (c.lo.toNat + (s.x b).toNat) = none →
      gives s (.capSet g d a b) [a, b] d { tag := false, bits := c.bits }) ∧
    (∀ e nb nt, c.lo.toNat + (s.x b).toNat ≤ 2 ^ 64 →
      encodeBounds c.lo.toNat (c.lo.toNat + (s.x b).toNat) = some (e, nb, nt) →
      let bits := c.bits.extractLsb' 112 16 ++ BitVec.ofNat 6 e ++ BitVec.ofNat 14 (nb / 2 ^ e) ++
        BitVec.ofNat 14 (nt / 2 ^ e) ++ c.bits.extractLsb' 0 78
      gives s (.capSet g d a b) [a, b] d
        { tag := c.tag && decide (capBaseOf c.bits ≤ (nb : Int)) && decide ((nt : Int) ≤ capTopOf c.bits) && !capMalformed bits
          bits := bits })

/-- R22 whole: which exponent, base and top the encoding of [b, t) has, when there is none, how far it widens, the fields
E, B and T of the encoded value, and that `cap.set` (the narrowing of a capability) uses it. -/
def Obligations.BoundsEncoding : Prop :=
  ∀ b t : Nat, b ≤ t → t ≤ 2 ^ 64 →
    let fits := fun s : Nat => (t + (2 ^ s - 1)) / 2 ^ s - b / 2 ^ s ≤ 0x3000
    (encodeBounds b t = none ↔ ∀ s ≤ 50, ¬ fits s) ∧
    (∀ s base top, encodeBounds b t = some (s, base, top) →
      s ≤ 50 ∧ fits s ∧ (∀ r < s, ¬ fits r) ∧ base = b / 2 ^ s * 2 ^ s ∧ top = (t + (2 ^ s - 1)) / 2 ^ s * 2 ^ s ∧
      base ≤ b ∧ t ≤ top ∧ b - base < 2 ^ s ∧ top - t < 2 ^ s ∧
      (b % 2 ^ s = 0 → base = b) ∧ (t % 2 ^ s = 0 → top = t) ∧
      ∀ v : BitVec 128,
        capE (withBounds v s base top) = s ∧ capB (withBounds v s base top) = base / 2 ^ s % 0x4000 ∧
        capT (withBounds v s base top) = top / 2 ^ s % 0x4000) ∧
    (∀ c : CapReg, c.lo.toNat = b → ∀ s base top, encodeBounds b t = some (s, base, top) →
      (CapReg.narrow c (t - b)).bits = withBounds c.bits s base top)

/-- The last sentences of R23 and R232 for the operations of the five capability-producing instructions: a tagged result is
well formed, and its permissions and bounds do not exceed its source's. -/
def Obligations.CapabilityMonotone : Prop :=
  ∀ (c r : CapReg) (y n : Word), (c.tag = true → capMalformed c.bits = false) →
    (r = CapReg.narrow c y.toNat ∨ r = CapReg.mask c y ∨ r = CapReg.moveTo c n ∨ r = { c with tag := false }) →
    r.tag = true →
    c.tag = true ∧ capMalformed r.bits = false ∧ (∀ p, hasPerm r.bits p = true → hasPerm c.bits p = true) ∧
      capBaseOf c.bits ≤ capBaseOf r.bits ∧ capTopOf r.bits ≤ capTopOf c.bits

/-- The queries of R236. -/
def Obligations.CapabilityQueries : Prop :=
  ∀ (s : State) (g : Gap) (d a b : CIdx),
    let c := s.cur.creg a
    let r := fun i v => gives s i [a] d (CapReg.untagged v)
    r (.capBase g d a) (BitVec.ofInt 64 (capBaseOf c.bits)) ∧
    r (.capLen g d a) (BitVec.ofNat 64 (min (capLenOf c.bits) (2 ^ 64 - 1))) ∧
    r (.capPerm g d a) ((c.bits.extractLsb' 112 16).setWidth 64) ∧
    r (.capTag g d a) (if c.tag then 1 else 0) ∧
    gives s (.capSub g d a b) [a, b] d (CapReg.untagged (s.x a - s.x b))

/-- The branches of R238. -/
def Obligations.Branches : Prop :=
  ∀ (s : State) (g : Gap) (a b : CIdx) (o : BitVec 12),
    let x := s.x a
    let y := s.x b
    let br := fun (i : Instr) (taken : Prop) => s.clearFor [.c a, .c b] → s.sound a → s.sound b →
      ∃ t, exec i s = .next t ∧ scalarOnly s t ∧ keptC s t ∧
        (taken → t.cur.pc = s.cur.pc + BitVec.ofInt 64 (4 * o.toInt)) ∧ (¬ taken → t.cur.pc = s.cur.pc + 4)
    br (.beq g a b o) (x = y) ∧ br (.bne g a b o) (x ≠ y) ∧ br (.blt g a b o) (x.toInt < y.toInt) ∧
    br (.bge g a b o) (y.toInt ≤ x.toInt) ∧ br (.bltu g a b o) (x.toNat < y.toNat) ∧
    br (.bgeu g a b o) (y.toNat ≤ x.toNat)

/-- `jal`, `jalr` and `idem` (R239 to R242). -/
def Obligations.Jumps : Prop :=
  ∀ (s : State) (g : Gap) (d a : CIdx) (o : BitVec 18) (i : BitVec 12) (k : BitVec 1),
    let link := CapReg.untagged (s.cur.pc + 4)
    let tgt : Word := s.x a + i.signExtend 64
    (s.clearFor [.c d] → ∃ t, exec (.jal g d o) s = .next t ∧
      t.cur.pc = s.cur.pc + BitVec.ofInt 64 (4 * o.toInt) ∧ wroteC s t d link ∧ scalarOnly s t) ∧
    (s.clearFor [.c a, .c d] → s.sound a →
      (capFault (s.cur.creg a) tgt.toNat 4 [.execute] = none → tgt.toNat % 4 = 0 →
        ∃ t, exec (.jalr g d a i) s = .next t ∧ t.cur.pc = tgt ∧ wroteC s t d link ∧ scalarOnly s t) ∧
      (∀ sub, capFault (s.cur.creg a) tgt.toNat 4 [.execute] = some sub →
        exec (.jalr g d a i) s = .next (s.takeTrap { cause := 2, subcode := BitVec.ofNat 8 sub, tval := tgt, epc := s.cur.pc })) ∧
      (capFault (s.cur.creg a) tgt.toNat 4 [.execute] = none → tgt.toNat % 4 ≠ 0 →
        exec (.jalr g d a i) s = .next (s.takeTrap { cause := 4, subcode := 0, tval := tgt, epc := s.cur.pc }))) ∧
    (s.clearFor [] → ∃ t, exec (.idem g k) s = .next t ∧ wentOn s t ∧
      t = { s with cur := { s.cur with idem := t.cur.idem, pc := t.cur.pc, board := t.cur.board } } ∧
      t.cur.idem = if k = 1 then BitVec.ofNat 64 ((s.cur.pc + 4).toNat % 2 ^ 48 / 4 * 4 + 1) else 0)

/-- Loads of R247 and R248. The bytes are those that the issuing strand sees at the place (R50,
R106). -/
def Obligations.Loads : Prop :=
  ∀ (s s1 : State) (g : Gap) (d c : CIdx) (p : BitVec 9) (k : BitVec 3) (q : Place),
    let cap := s.cur.creg c
    let far := fun n : Nat => cap.lo + p.signExtend 64 * BitVec.ofNat 64 n
    let bits := fun n => leNat (s1.seen s1.me q n)
    let zero := fun n => CapReg.untagged (BitVec.ofNat 64 (bits n))
    let sign := fun n => CapReg.untagged ((BitVec.ofNat (8 * n) (bits n)).signExtend 64)
    let whole : CapReg :=
      { tag := s1.seenTag s1.me q && hasPerm cap.bits .loadCap && q.tags && !capMalformed (BitVec.ofNat 128 (bits 16))
        bits := BitVec.ofNat 128 (bits 16) }
    let rd := fun (i : Instr) (va : Word) (n : Nat) (v : CapReg) =>
      s.clearFor [.c c, .c d] → s.sound c → s.reaches cap va n [.load] .load s1 q → s1.calm q va n →
        ∃ t, exec i s = .next t ∧ wentOn s t ∧ wroteC s t d v ∧ loadOnly s1 t
    rd (.ldB g d c p) (far 1) 1 (sign 1) ∧ rd (.ldBu g d c p) (far 1) 1 (zero 1) ∧
    rd (.ldH g d c p) (far 2) 2 (sign 2) ∧ rd (.ldHu g d c p) (far 2) 2 (zero 2) ∧
    rd (.ldW g d c p) (far 4) 4 (sign 4) ∧ rd (.ldWu g d c p) (far 4) 4 (zero 4) ∧
    rd (.ldD g d c p) (far 8) 8 (zero 8) ∧ rd (.ldC g d c p) (far 16) 16 whole ∧
    rd (.ldBAcq g d c k) cap.lo 1 (sign 1) ∧ rd (.ldBuAcq g d c k) cap.lo 1 (zero 1) ∧
    rd (.ldHAcq g d c k) cap.lo 2 (sign 2) ∧ rd (.ldHuAcq g d c k) cap.lo 2 (zero 2) ∧
    rd (.ldWAcq g d c k) cap.lo 4 (sign 4) ∧ rd (.ldWuAcq g d c k) cap.lo 4 (zero 4) ∧
    rd (.ldDAcq g d c k) cap.lo 8 (zero 8) ∧ rd (.ldCAcq g d c k) cap.lo 16 whole

/-- Stores of R247 and R249 with the tag rules of R25, R27 and R28. Memory is in canonical form, which every step keeps
(MemoryCanonicalStep). -/
def Obligations.Stores : Prop :=
  ∀ (s s1 s2 s3 : State) (g : Gap) (d c : CIdx) (p : BitVec 9) (k : BitVec 3) (q : Place),
    s.mem.wf = true →
    let cap := s.cur.creg c
    let v := s.cur.creg d
    let far := fun n : Nat => cap.lo + p.signExtend 64 * BitVec.ofNat 64 n
    let wr := fun (i : Instr) (va : Word) (n : Nat) (tag : Bool) (released : Prop) =>
      s.clearFor [.c d, .c c] → s.sound c → s.sound d →
      (∃ s0 q0, s.reaches cap va n (if tag then [.store, .storeCap] else [.store]) .store s0 q0 ∧
        (tag = false → s0 = s1 ∧ q0 = q) ∧
        (tag = true → queueCapAt q0.loc = none ∧ (hasPerm v.bits .global = true ∨ q0.cmem = true) ∧
          s.reaches cap va n [.store, .storeCap] .tagStore s1 q)) →
      q.ptype ≠ .io → released → s2.readyWrite s2.me q va n = (s3, none) →
        ∃ t, exec i s = .next t ∧ wentOn s t ∧ keptC s t ∧ storeOnly s3 t ∧
          t.bytes q.loc n = leBytes n v.bits.toNat ∧ memoryBut s3 t q.loc n ∧
          t.tagAt q.loc = (tag && decide (n = 16) && q.tags) ∧ memoryBut s1 s3 (q.loc / 128 * 128) 128 ∧
          (q.ptype ≠ .leaf → s3 = s2.performAt q.loc n ∧ s3.mem = s1.mem)
    let now := s2 = s1
    let rel := s1.releaseAt k.toNat = (s2, none)
    wr (.stB g d c p) (far 1) 1 false now ∧ wr (.stH g d c p) (far 2) 2 false now ∧
    wr (.stW g d c p) (far 4) 4 false now ∧ wr (.stD g d c p) (far 8) 8 false now ∧
    wr (.stC g d c p) (far 16) 16 v.tag now ∧
    wr (.stBRel g d c k) cap.lo 1 false rel ∧ wr (.stHRel g d c k) cap.lo 2 false rel ∧
    wr (.stWRel g d c k) cap.lo 4 false rel ∧ wr (.stDRel g d c k) cap.lo 8 false rel ∧
    wr (.stCRel g d c k) cap.lo 16 v.tag rel

/-- Atomics of R250 on memory (R113). -/
def Obligations.Atomics : Prop :=
  ∀ (s s1 s2 s3 : State) (g : Gap) (a b d : CIdx) (k : BitVec 3) (q : Place),
    s.mem.wf = true →
    let cap := s.cur.creg a
    let y := s.x b
    let old : Word := BitVec.ofNat 64 (s1.mem64 q.loc)
    let at_ := fun (i : Instr) (srcs : List CIdx) (P : State → Prop) =>
      s.clearFor (srcs.map RegName.c ++ [.c d]) → (∀ r ∈ srcs, s.sound r) →
      s.reaches cap cap.lo 8 [.load, .store] .atomic s1 q → (∀ op, s.portRefuses op cap.lo = false) →
      s1.releaseAt k.toNat = (s2, none) → s2.calm q cap.lo 8 →
        ∃ t, exec i s = .next t ∧ wentOn s t ∧ wroteC s t d (CapReg.untagged old) ∧ P t
    let writes := fun (v : Word) (t : State) =>
      t.mem64 q.loc = v.toNat ∧ memoryBut s3 t q.loc 8 ∧ memoryBut s1 s3 (q.loc / 128 * 128) 128 ∧
        (q.ptype ≠ .leaf → s3 = s2.performAt q.loc 8 ∧ s3.mem = s1.mem) ∧
        storeOnly s3 { t with cur := { t.cur with regs := s3.cur.regs } }
    let rmw := fun (i : Instr) (v : Word) => s2.readyWrite s2.me q cap.lo 8 = (s3, none) → at_ i [a, b] (writes v)
    rmw (.amoAdd g a b d k) (old + y) ∧ rmw (.amoAnd g a b d k) (old &&& y) ∧ rmw (.amoOr g a b d k) (old ||| y) ∧
    rmw (.amoXor g a b d k) (old ^^^ y) ∧ rmw (.amoMin g a b d k) (if old.toInt < y.toInt then old else y) ∧
    rmw (.amoMax g a b d k) (if old.toInt < y.toInt then y else old) ∧ rmw (.amoSwp g a b d k) y ∧
    (old = s.x d → s2.readyWrite s2.me q cap.lo 8 = (s3, none) → at_ (.amoCas g a b d k) [a, b, d] (writes y)) ∧
    (old ≠ s.x d → at_ (.amoCas g a b d k) [a, b, d] fun t =>
      t.mem = s1.mem ∧ t.tags = s1.tags ∧ t.poison = s1.poison)

/-- Steps 1 to 5 of R23 for `ld.d` and `st.d`. -/
def Obligations.AccessFaults : Prop :=
  ∀ (s : State) (g : Gap) (d c : CIdx) (p : BitVec 9),
    s.storeQueued = false → s.sound c → s.sound d →
    let cap := s.cur.creg c
    let va : Word := cap.lo + p.signExtend 64 * 8
    let trap := fun (cause sub : Nat) => Host.Outcome.next
      (s.takeTrap { cause := BitVec.ofNat 8 cause, subcode := BitVec.ofNat 8 sub, tval := va, epc := s.cur.pc })
    (s.clearFor [.c c, .c d] →
      (∀ sub, capFault cap va.toNat 8 [.load] = some sub → exec (.ldD g d c p) s = trap 2 sub) ∧
      (capFault cap va.toNat 8 [.load] = none → va.toNat % 8 ≠ 0 → exec (.ldD g d c p) s = trap 4 0)) ∧
    (s.clearFor [.c d, .c c] →
      (∀ sub, capFault cap va.toNat 8 [.store] = some sub → exec (.stD g d c p) s = trap 2 sub) ∧
      (capFault cap va.toNat 8 [.store] = none → va.toNat % 8 ≠ 0 → exec (.stD g d c p) s = trap 4 0))

/-- The first four checks of R23, in their order. -/
def Obligations.CapabilityCheck : Prop :=
  ∀ (c : CapReg) (a n : Nat) (perms : List Perm),
    let inside := capBaseOf c.bits ≤ (a : Int) ∧ (a : Int) + n ≤ capTopOf c.bits
    let allowed := ∀ p ∈ perms, hasPerm c.bits p = true
    (c.tag = false → capFault c a n perms = some 0) ∧
    (c.tag = true → capMalformed c.bits = true → capFault c a n perms = some 3) ∧
    (c.tag = true → capMalformed c.bits = false → ¬ allowed → capFault c a n perms = some 2) ∧
    (c.tag = true → capMalformed c.bits = false → allowed → ¬ inside → capFault c a n perms = some 1) ∧
    (c.tag = true → capMalformed c.bits = false → allowed → inside → capFault c a n perms = none)

/-- R9, R34 and R35: what a translation may change. -/
def Obligations.Translation : Prop :=
  ∀ (s : State) (w : Party) (va : Word) (k : Kind), s.mem.wf = true →
    (∀ t p, translate s w va k = (t, .ok p) →
      (∀ b, t.mem.read b &&& s.mem.read b = s.mem.read b ∧ t.mem.read b ||| s.mem.read b ||| 6 = s.mem.read b ||| 6) ∧
      t = { s with
        mem := t.mem, tags := t.tags, poison := t.poison, copies := t.copies, order := t.order, tlb := t.tlb, walks := t.walks
        descs := t.descs, teams := t.teams } ∧ t.mem.wf = true) ∧
    (2 ^ 48 ≤ va.toNat → translate s w va k = (s, .error (.fault 3 4 va))) ∧
    (va.toNat < 2 ^ 48 → w.asid ≠ 0 → windowBase ≤ va.toNat →
      (translate s w va k).1 = { s with teams := (translate s w va k).1.teams }) ∧
    (∀ e, s.tlbHit w.core w.asid va.toNat = some e → (k.writes = false ∨ bitsOf e.entry.toNat 10 1 = 1) →
      (translate s w va k).1 = { s with tlb := (translate s w va k).1.tlb, teams := (translate s w va k).1.teams })

/-- Fences and cache operations of R112, R114, R119 and R252. -/
def Obligations.Fences : Prop :=
  ∀ (s s1 : State) (g : Gap) (k : BitVec 3) (a : CIdx) (q : Place),
    let u := fun n : Nat => (s.fenceAcquire n).quiet
    let mine := fun o : Outstanding => o.posted = true ∧ o.strand = s.cur.handle.addr
    let quietOnly := fun (x y : State) =>
      y = { x with
        dirs := y.dirs, copies := y.copies, caches := y.caches, order := y.order, agenda := y.agenda, cores := y.cores }
    (s.clearFor [] → s.storeQueued = false →
      (k = 0 → leaves s (.fence g k) ((s.fenceAcquire 0).toCore.fenced 0)) ∧
      (1 ≤ k.toNat → (k.toNat < 3 ∨ ((u k.toNat).settled = true ∧ (k.toNat = 3 ∨ ∀ o ∈ s.outstanding, ¬ mine o))) →
        leaves s (.fence g k) ((u k.toNat).fenced k.toNat) ∧ quietOnly s (u k.toNat))) ∧
    (s.clearFor [] → s.storeQueued = false → (u 4).settled = true → (∀ o ∈ s.outstanding, ¬ mine o) →
      s.settle.finished.contains s.cur.handle.addr = true →
      leaves s (.fenceSc g) (((u 4).leaveSettle s.cur.handle.addr).fenced 4)) ∧
    (s.clearFor [.c a] → s.sound a → capFault (s.cur.creg a) (s.x a).toNat 1 [.load] = none →
      translate s s.me (s.x a) .load = (s1, .ok q) →
      let line := q.loc / 128
      let v := fun drop : Bool => ((s1.arrive s1.me q none).performAt (line * 128) 128).cleanL1 s.cur.core line drop
      (q.cacheable = false → leaves s (.dcWb g a) s1 ∧ leaves s (.dcInv g a) s1 ∧ leaves s (.dcFlush g a) s1) ∧
      (q.cacheable = true → s1.gate s1.me q (s.x a) 8 = none →
        leaves s (.dcWb g a) (v false) ∧ leaves s (.dcInv g a) (v true) ∧ leaves s (.dcFlush g a) (v true) ∧
        ∀ b, (v b).mem = s1.mem ∧ (v b).tags = s1.tags ∧ (v b).poison = s1.poison)) ∧
    (s.clearFor [.c a] → ∃ t, exec (.dcPf g a) s = .next t ∧ wentOn s t ∧ keptC s t ∧
      (s.mem.wf = true → ∀ b, t.mem.read b ||| s.mem.read b ||| 6 = s.mem.read b ||| 6))

/-- R269 to R273 for the loads. -/
def Obligations.VectorLoads : Prop :=
  ∀ (s s1 : State) (g : Gap) (v x : VIdx) (c r : CIdx) (m : MIdx) (ps : List (Place × Elem)),
    let cap := s.cur.creg c
    let base := s.x c + s.x r
    let bytes := fun f : Nat → Nat =>
      ((List.range 128).filter fun k => (s.cur.mreg m).getLsbD k).map fun k => ({ k := k, va := base + BitVec.ofNat 64 (f k) } : Elem)
    let words := fun f : Nat → Word =>
      ((List.range 32).filter fun k => (s.cur.mreg m).getLsbD (4 * k)).map fun k => ({ k := k, va := f k } : Elem)
    let ld := fun (i : Instr) (reads : List RegName) (n : Nat) (b : Option Word) (l : List Elem) =>
      s.clearVec (reads ++ [.v v]) bare →
      (l = [] → leaves s i s) ∧
      (l ≠ [] → s.sound r → s.storeQueued = false → s.vecCheck cap n .vecLoad .load b l = (s1, .ok ps) →
        (∀ e ∈ ps, s1.calm e.1 e.2.va n) →
        ∃ t, exec i s = .next t ∧ wentOn s t ∧ loadOnly s1 t ∧ keptC s t ∧ (∀ u, u ≠ v → t.cur.vreg u = s.cur.vreg u) ∧
          lanesAre (8 * n) (t.cur.vreg v) fun k =>
            match ps.find? fun e => decide (e.2.k = k) with
            | some e => leNat (s1.seen s1.me e.1 n)
            | none => laneOf (8 * n) (s.cur.vreg v) k)
    ld (.vld g v c r m) [.c c, .c r, .m m] 1 (some base) (bytes fun k => k) ∧
    ld (.vldb g v c r m) [.c c, .c r, .m m] 1 (some base) (bytes fun k => k % 8) ∧
    ld (.vlds g v c r m) [.c c, .c r, .m m] 4 none (words fun k => s.x c + BitVec.ofNat 64 k * s.x r) ∧
    (r = c → ld (.vgat g v c x m) [.c c, .v x, .m m] 4 none
      (words fun k => s.x c + BitVec.ofNat 64 (laneOf 32 (s.cur.vreg x) k)))

/-- R269 to R272 for the stores. -/
def Obligations.VectorStores : Prop :=
  ∀ (s s1 s2 : State) (g : Gap) (v x : VIdx) (c r : CIdx) (m : MIdx) (ps : List (Place × Elem)),
    s.mem.wf = true →
    let cap := s.cur.creg c
    let base := s.x c + s.x r
    let words := fun f : Nat → Word =>
      ((List.range 32).filter fun k => (s.cur.mreg m).getLsbD (4 * k)).map fun k => ({ k := k, va := f k } : Elem)
    let st := fun (i : Instr) (regs : List RegName) (n : Nat) (b : Option Word) (l : List Elem) =>
      let come := s1.arriveAll s1.me (ps.map fun e => (e.1, e.2.va, n)) none
      s.clearVec regs bare →
      (l = [] → leaves s i s) ∧
      (l ≠ [] → s.sound r → s.storeQueued = false → s.vecCheck cap n .vecStore .store b l = (s1, .ok ps) →
        s1.vecGate n ps ps = none → come.vecAlloc ps = (s2, none, none) →
        ∃ t, exec i s = .next t ∧ wentOn s t ∧ keptC s t ∧ storeOnly s2 t ∧
          ((∀ e ∈ ps, e.1.ptype ≠ .leaf) → s2 = s1) ∧
          ∀ a, t.mem.read a =
            match (ps.filter fun e => decide (e.1.loc ≤ a ∧ a < e.1.loc + n)).getLast? with
            | some e => (s.cur.vreg v).extractLsb' (8 * n * e.2.k + 8 * (a - e.1.loc)) 8
            | none => s2.mem.read a)
    st (.vst g v c r m) [.v v, .c c, .c r, .m m] 1 (some base)
      (((List.range 128).filter fun k => (s.cur.mreg m).getLsbD k).map fun k => { k := k, va := base + BitVec.ofNat 64 k }) ∧
    st (.vsts g v c r m) [.v v, .c c, .c r, .m m] 4 none (words fun k => s.x c + BitVec.ofNat 64 k * s.x r) ∧
    (r = c → st (.vsct g v c x m) [.v v, .c c, .v x, .m m] 4 none
      (words fun k => s.x c + BitVec.ofNat 64 (laneOf 32 (s.cur.vreg x) k)))

/-- IO pages of R31, R33, R247 to R251, R359, R361 and R384. That `st.c` of a tagged queue capability completes on an IO page, where
R28 refuses it for C = 0, is assumption log 17 (DEDUCED). -/
def Obligations.Ports : Prop :=
  ∀ (s s1 s3 : State) (g : Gap) (a b d : CIdx) (p : BitVec 9) (k : BitVec 3) (q : Place),
    let cap := s.cur.creg a
    let v := s.cur.creg d
    let far := fun n : Nat => cap.lo + p.signExtend 64 * BitVec.ofNat 64 n
    let w := peerParts q.loc
    let f := s1.myFn
    let trap := fun (cause sub : Nat) (va : Word) => Host.Outcome.next
      ((s3.undo s).takeTrap { cause := BitVec.ofNat 8 cause, subcode := BitVec.ofNat 8 sub, tval := va, epc := s.cur.pc })
    let loads : List (Instr × Word × Nat × Bool) :=
      [(.ldB g d a p, far 1, 1, true), (.ldBu g d a p, far 1, 1, false), (.ldH g d a p, far 2, 2, true),
       (.ldHu g d a p, far 2, 2, false), (.ldW g d a p, far 4, 4, true), (.ldWu g d a p, far 4, 4, false),
       (.ldD g d a p, far 8, 8, false), (.ldC g d a p, far 16, 16, false), (.ldBAcq g d a k, cap.lo, 1, true),
       (.ldBuAcq g d a k, cap.lo, 1, false), (.ldHAcq g d a k, cap.lo, 2, true), (.ldHuAcq g d a k, cap.lo, 2, false),
       (.ldWAcq g d a k, cap.lo, 4, true), (.ldWuAcq g d a k, cap.lo, 4, false), (.ldDAcq g d a k, cap.lo, 8, false),
       (.ldCAcq g d a k, cap.lo, 16, false)]
    let stores : List (Instr × Word × Nat × Bool) :=
      [(.stB g d a p, far 1, 1, false), (.stH g d a p, far 2, 2, false), (.stW g d a p, far 4, 4, false),
       (.stD g d a p, far 8, 8, false), (.stC g d a p, far 16, 16, false), (.stBRel g d a k, cap.lo, 1, true),
       (.stHRel g d a k, cap.lo, 2, true), (.stWRel g d a k, cap.lo, 4, true), (.stDRel g d a k, cap.lo, 8, true),
       (.stCRel g d a k, cap.lo, 16, true)]
    let atomics : List (Instr × AmoOp) :=
      [(.amoAdd g a b d k, .add), (.amoAnd g a b d k, .and), (.amoOr g a b d k, .or), (.amoXor g a b d k, .xor),
       (.amoMin g a b d k, .min), (.amoMax g a b d k, .max), (.amoSwp g a b d k, .swp), (.amoCas g a b d k, .cas)]
    let turned := fun (i : Instr) (va : Word) =>
      (regionOf q.loc = .peer →
        (s3.peerRoute f w.1 = .none → exec i s = trap 3 3 va) ∧
        (s3.peerRoute f w.1 = .unreachable → exec i s = trap 8 0 va) ∧
        (s3.peerRoute f w.1 = .held → exec i s = .next s3)) ∧
      (regionOf q.loc = .host → s3.fencedAt q.loc = true → exec i s = trap 8 0 va)
    let owned := fun (i : Instr) (va : Word) =>
      q.owner = 1 → exec i s = .next ((s3.undo s).stopped (.chain (.ownership (q.loc / 0x200000 * 0x200000)) va))
    q.ptype = .io → s.sound a →
    (∀ i va n sx, (i, va, n, sx) ∈ loads → s.clearFor [.c a, .c d] → s.reaches cap va n [.load] .load s1 q → s3 = s1 →
      owned i va ∧ (q.owner ≠ 1 →
      (regionOf q.loc = .mmio → s1.fencedAt q.loc = false →
        leaves s i (s1.setC d (loadValue (leBytes n (s1.mmioRead q.loc n)) sx))) ∧
      (regionOf q.loc = .mmio → s1.fencedAt q.loc = true → exec i s = trap 8 0 va) ∧
      (regionOf q.loc = .host → s1.fencedAt q.loc = false →
        leaves s i (s1.awaitIo { s1.pendingOf va n none false with dest := d, sext := sx }
          (.hostRead s1.nextId (hostAddr q.loc) n))) ∧
      (regionOf q.loc = .peer →
        (∀ r, s1.peerRoute f w.1 = .rank r →
          leaves s i (s1.awaitIo { s1.pendingOf va n (some (f, r)) false with dest := d, sext := sx }
            (.peerRead s1.nextId f r w.2 n))) ∧
        (∀ s2 bs, s1.peerRoute f w.1 = .own → s1.fromPeerRead f s1.myself w.2 n = .done s2 bs →
          leaves s i (s2.setC d (loadValue bs sx)))) ∧
      turned i va)) ∧
    (∀ i va n rel, (i, va, n, rel) ∈ stores → s.clearFor [.c d, .c a] → s.sound d → (n = 16 → v.tag = false) →
      s.reaches cap va n [.store] .store s1 q →
      (if rel then s1.releaseAt k.toNat = (s3, none) else s3 = s1) →
      (n = 16 → queueCapAt q.loc = none) →
      owned i va ∧ (q.owner ≠ 1 →
      (regionOf q.loc = .mmio → s3.fencedAt q.loc = false →
        ∀ u, (if isResolve q.loc then s3.releaseAt 4 = (u, none) else u = s3) →
        leaves s i (u.addDue (.registerWrite (.mmio q.loc n) (BitVec.ofNat 64 (v.bits.toNat % 2 ^ (8 * n)))))) ∧
      (regionOf q.loc = .mmio → s3.fencedAt q.loc = true → exec i s = trap 8 0 va) ∧
      (regionOf q.loc = .host → s3.fencedAt q.loc = false →
        leaves s i (s3.depart (s3.pendingOf va n none true) (.hostWrite (hostAddr q.loc) (leBytes n v.bits.toNat)))) ∧
      (regionOf q.loc = .peer →
        (∀ r, s3.peerRoute f w.1 = .rank r →
          leaves s i (s3.depart (s3.pendingOf va n (some (f, r)) true)
            (.peerWrite s3.nextId f r w.2 (leBytes n v.bits.toNat)))) ∧
        (∀ s2 bs, s3.peerRoute f w.1 = .own → s3.fromPeerWrite f s3.myself w.2 (leBytes n v.bits.toNat) = .done s2 bs →
          leaves s i s2)) ∧
      turned i va)) ∧
    (∀ fn qu, s.clearFor [.c d, .c a] → s.sound d → queueCapAt q.loc = some (fn, qu) → s1.fencedAt q.loc = false →
      (v.tag = true → hasPerm v.bits .global = true) →
      s.reaches cap (far 16) 16 (if v.tag then [.store, .storeCap] else [.store]) .store s1 q → q.owner ≠ 1 →
      leaves s (.stC g d a p) (s1.setQueueCap fn qu v)) ∧
    (∀ i op, (i, op) ∈ atomics → s.clearFor (if op = .cas then [.c a, .c b, .c d, .c d] else [.c a, .c b, .c d]) →
      s.sound b → (op = .cas → s.sound d) → s.reaches cap cap.lo 8 [.load, .store] .atomic s1 q →
      (portTakes op q.loc = false → s3 = s1 → exec i s = trap 3 5 cap.lo) ∧
      (portTakes op q.loc = true → s.portRefuses op cap.lo = false → s1.releaseAt 4 = (s3, none) →
        owned i cap.lo ∧ (q.owner ≠ 1 →
        (regionOf q.loc = .host → s3.fencedAt q.loc = false →
          leaves s i (s3.awaitIo { s3.pendingOf cap.lo 8 none false with dest := d, atomic := true }
            (.hostAtomic s3.nextId (hostAddr q.loc) op (s.x b) (s.x d)))) ∧
        (regionOf q.loc = .peer →
          (∀ r, s3.peerRoute f w.1 = .rank r →
            leaves s i (s3.awaitIo { s3.pendingOf cap.lo 8 (some (f, r)) false with dest := d, atomic := true }
              (.peerAtomic s3.nextId f r w.2 op (s.x b) (s.x d)))) ∧
          (∀ s2 bs, s3.peerRoute f w.1 = .own → s3.fromPeerAtomic f s3.myself w.2 op (s.x b) (s.x d) = .done s2 bs →
            leaves s i (s2.setX d (BitVec.ofNat 64 (leNat bs))))) ∧
        turned i cap.lo)))

/-- The table of R274. -/
def Obligations.VectorInteger : Prop :=
  ∀ (s : State) (g : Gap) (d a b : VIdx) (m : MIdx) (w : BitVec 2),
    let n := 8 * 2 ^ w.toNat
    let x := fun k => laneOf n (s.cur.vreg a) k
    let y := fun k => laneOf n (s.cur.vreg b) k
    let sg := fun v : Nat => if v < 2 ^ (n - 1) then (v : Int) else (v : Int) - 2 ^ n
    let wrap := fun v : Int => (v % 2 ^ n).toNat
    let r := fun (i : Instr) (f : Nat → Nat) =>
      givesV s i [.v a, .v b, .m m] bare d fun v => ∀ k < 1024 / n,
        (s.active n m k → laneOf n v k = f k) ∧ (¬ s.active n m k → laneOf n v k = laneOf n (s.cur.vreg d) k)
    r (.vadd g d a b m w) (fun k => (x k + y k) % 2 ^ n) ∧
    r (.vsub g d a b m w) (fun k => (x k + 2 ^ n - y k) % 2 ^ n) ∧
    r (.vmul g d a b m w) (fun k => x k * y k % 2 ^ n) ∧
    r (.vmulh g d a b m w) (fun k => wrap (sg (x k) * sg (y k) / 2 ^ n)) ∧
    r (.vand g d a b m w) (fun k => x k &&& y k) ∧ r (.vor g d a b m w) (fun k => x k ||| y k) ∧
    r (.vxor g d a b m w) (fun k => x k ^^^ y k) ∧
    r (.vsll g d a b m w) (fun k => x k * 2 ^ (y k % n) % 2 ^ n) ∧
    r (.vsrl g d a b m w) (fun k => x k / 2 ^ (y k % n)) ∧
    r (.vsra g d a b m w) (fun k => wrap (sg (x k) / 2 ^ (y k % n))) ∧
    r (.vmin g d a b m w) (fun k => if sg (x k) ≤ sg (y k) then x k else y k) ∧
    r (.vmax g d a b m w) (fun k => if sg (x k) ≤ sg (y k) then y k else x k)

/-- R277 and R279 to R281. -/
def Obligations.VectorCompares : Prop :=
  ∀ (s : State) (g : Gap) (d a b : VIdx) (m e f : MIdx) (w : BitVec 2) (c : BitVec 3) (n : BitVec 3) (r : CIdx),
    let z := 8 * 2 ^ w.toNat
    let x := fun k => laneOf z (s.cur.vreg a) k
    let y := fun k => laneOf z (s.cur.vreg b) k
    let sg := fun v : Nat => if v < 2 ^ (z - 1) then (v : Int) else (v : Int) - 2 ^ z
    let cmp := fun (code : Nat) (P : Nat → Prop) => c.toNat = code →
      givesM s (.vcmp g w e a b m c) [.v a, .v b, .m m] bare e fun v => ∀ i < 128,
        (s.active z m (8 * i / z) → (v.getLsbD i = true ↔ P (8 * i / z))) ∧
        (¬ s.active z m (8 * i / z) → v.getLsbD i = (s.cur.mreg e).getLsbD i)
    let other : MReg := if n = 1 then ~~~(s.cur.mreg m) else s.cur.mreg m
    let op := fun (i : Instr) (v : MReg) => givesM s i [.m f, .m m] bare e fun u => u = v
    cmp 0 (fun k => x k = y k) ∧ cmp 1 (fun k => x k ≠ y k) ∧ cmp 2 (fun k => sg (x k) < sg (y k)) ∧
    cmp 3 (fun k => sg (x k) ≤ sg (y k)) ∧ cmp 4 (fun k => x k < y k) ∧ cmp 5 (fun k => x k ≤ y k) ∧
    (givesV s (.vsel g d a b m) [.v a, .v b, .m m] bare d fun v => ∀ k < 128,
      laneOf 8 v k = if (s.cur.mreg m).getLsbD k then laneOf 8 (s.cur.vreg a) k else laneOf 8 (s.cur.vreg b) k) ∧
    op (.mand g e f m n) (s.cur.mreg f &&& other) ∧ op (.mor g e f m n) (s.cur.mreg f ||| other) ∧
    op (.mxor g e f m n) (s.cur.mreg f ^^^ other) ∧
    (s.clearVec [.m f, .m m, .c r] bare → ∃ t, exec (.mpop g r f m w) s = .next t ∧ wentOn s t ∧ scalarOnly s t ∧
      wroteC s t r (CapReg.untagged (BitVec.ofNat 64
        ((List.range (1024 / z)).countP fun k => (s.cur.mreg f).getLsbD (k * z / 8) && (s.cur.mreg m).getLsbD (k * z / 8)))))

/-- R283 to R287. -/
def Obligations.VectorMoves : Prop :=
  ∀ (s : State) (g : Gap) (d a b : VIdx) (m : MIdx) (w : BitVec 2) (j : BitVec 7) (h : BitVec 1),
    let n := 8 * 2 ^ w.toNat
    let lanes := 1024 / n
    let x := fun k => laneOf n (s.cur.vreg a) k
    let y := fun k => laneOf n (s.cur.vreg b) k
    let old := fun k => laneOf n (s.cur.vreg d) k
    let two := fun (p q : Nat → Nat) (k : Nat) => if k < lanes then p k else if k < 2 * lanes then q (k - lanes) else 0
    let r := fun (i : Instr) (reads : List RegName) (f : Nat → Nat) => givesV s i reads bare d fun v => ∀ k < lanes, laneOf n v k = f k
    let masked := fun (i : Instr) (reads : List RegName) (f : Nat → Nat) => givesV s i reads bare d fun v => ∀ k < lanes,
      (s.active n m k → laneOf n v k = f k) ∧ (¬ s.active n m k → laneOf n v k = old k)
    masked (.vperm g d a b m w) [.v d, .v a, .v b, .m m] (fun k => two x y (old k)) ∧
    masked (.vshf g d a b m w) [.v a, .v b, .m m] (fun k => x (y k % lanes)) ∧
    r (.vsld g d a j w) [.v d, .v a] (fun k => two x old (k + j.toNat)) ∧
    (j.toNat < lanes → r (.vbc g d a j w) [.v a] fun _ => x j.toNat) ∧
    (j.toNat < lanes → s.clearVec [.v a, .c (d.setWidth 6)] bare →
      ∃ t, exec (.vext g d a j w) s = .next t ∧ wentOn s t ∧ scalarOnly s t ∧
        wroteC s t (d.setWidth 6) (CapReg.untagged (BitVec.ofNat 64 (x j.toNat)))) ∧
    (j.toNat < lanes → s.sound (a.setWidth 6) → r (.vins g d a j w) [.c (a.setWidth 6)] fun k =>
      if k = j.toNat then (s.x (a.setWidth 6)).toNat % 2 ^ n else old k) ∧
    r (.vzip g d a b h w) [.v a, .v b] (fun k => (if k % 2 = 0 then x else y) (h.toNat * (lanes / 2) + k / 2)) ∧
    r (.vuzp g d a b h w) [.v a, .v b] (fun k => two x y (2 * k + h.toNat))

/-- R288. -/
def Obligations.VectorReductions : Prop :=
  ∀ (s : State) (g : Gap) (d a : VIdx) (m : MIdx) (w : BitVec 2),
    let n := 8 * 2 ^ w.toNat
    let sg := fun v : Nat => if v < 2 ^ (n - 1) then (v : Int) else (v : Int) - 2 ^ n
    let on := ((List.range (1024 / n)).filter fun k => (s.cur.mreg m).getLsbD (k * n / 8)).map fun k => sg (laneOf n (s.cur.vreg a) k)
    let r := fun (i : Instr) (P : Int → Prop) => givesV s i [.v a, .m m] bare d fun v =>
      ∃ z : Int, P z ∧ v = BitVec.ofNat 1024 (z % 2 ^ 64).toNat
    r (.vredadd g d a m w) (fun z => z = on.sum) ∧
    r (.vredmax g d a m w) (fun z => (on = [] → z = -(2 ^ (n - 1))) ∧ (on ≠ [] → z ∈ on ∧ ∀ x ∈ on, x ≤ z)) ∧
    r (.vredmin g d a m w) (fun z => (on = [] → z = 2 ^ (n - 1) - 1) ∧ (on ≠ [] → z ∈ on ∧ ∀ x ∈ on, z ≤ x))

/-- R275 and R276 with the formats of R208. The exact results are those of the model's `FpNum` operations. -/
def Obligations.VectorFloat : Prop :=
  ∀ (s : State) (g : Gap) (d a b : VIdx) (m : MIdx) (t : BitVec 2),
    let p := s.cur.pending
    let fa := if t = 3 then payA (p.getD 0) else if t = 0 then 0x10 else if t = 1 then 0x11 else 0x12
    let fb := if t = 3 ∧ payB (p.getD 0) ≠ 0 then payB (p.getD 0) else fa
    let mode := (payRnd (p.getD 0)).toNat
    let sat := (paySat (p.getD 0)).toNat
    let n := fmtBits fa
    let x := fun k => valueOf fa (laneOf n (s.cur.vreg a) k)
    let y := fun k => valueOf fa (laneOf n (s.cur.vreg b) k)
    let z := fun k => valueOf fb (laneOf n (s.cur.vreg d) k)
    let r := fun (i : Instr) (reads : List RegName) (f : Nat → FpNum) =>
      givesV s i reads (typeTakes t sameWidth) d fun v => ∀ k < 1024 / n,
        (s.active n m k → laneOf n v k = roundTo fb mode sat (f k) % 2 ^ n) ∧
        (¬ s.active n m k → laneOf n v k = laneOf n (s.cur.vreg d) k)
    let two : List RegName := [.v a, .v b, .m m]
    let three : List RegName := [.v d, .v a, .v b, .m m]
    let one : List RegName := [.v a, .m m]
    r (.vfadd g d a b m t) two (fun k => FpNum.add mode (x k) (y k)) ∧
    r (.vfsub g d a b m t) two (fun k => FpNum.add mode (x k) (y k).neg) ∧
    r (.vfmul g d a b m t) two (fun k => FpNum.mul (x k) (y k)) ∧
    r (.vfma g d a b m t) three (fun k => FpNum.add mode (FpNum.mul (x k) (y k)) (z k)) ∧
    r (.vfms g d a b m t) three (fun k => FpNum.add mode (FpNum.mul (x k) (y k)) (z k).neg) ∧
    r (.vfnma g d a b m t) three (fun k => FpNum.add mode (FpNum.mul (x k) (y k)).neg (z k)) ∧
    r (.vfmin g d a b m t) two (fun k => FpNum.min (x k) (y k)) ∧ r (.vfmax g d a b m t) two (fun k => FpNum.max (x k) (y k)) ∧
    r (.vfabs g d a m t) one (fun k => (x k).abs) ∧ r (.vfrcp g d a m t) one (fun k => (x k).recip) ∧
    r (.vfrsq g d a m t) one (fun k => (x k).rsqrt) ∧ r (.vfex2 g d a m t) one (fun k => (x k).exp2) ∧
    r (.vflg2 g d a m t) one (fun k => (x k).log2)

/-- R278, R289 and R290. -/
def Obligations.VectorFloatCompare : Prop :=
  ∀ (s : State) (g : Gap) (d a b : VIdx) (e m : MIdx) (t : BitVec 2) (c : BitVec 3),
    let p := s.cur.pending
    let fa := if t = 3 then payA (p.getD 0) else if t = 0 then 0x10 else if t = 1 then 0x11 else 0x12
    let fb := if t = 3 ∧ payB (p.getD 0) ≠ 0 then payB (p.getD 0) else fa
    let mode := (payRnd (p.getD 0)).toNat
    let sat := (paySat (p.getD 0)).toNat
    let n := fmtBits fa
    let x := fun k => valueOf fa (laneOf n (s.cur.vreg a) k)
    let y := fun k => valueOf fa (laneOf n (s.cur.vreg b) k)
    let nan := fun k => (x k).isNan = true ∨ (y k).isNan = true
    let cmp := fun (code : Nat) (P : Nat → Prop) => c.toNat = code →
      givesM s (.vfcmp g t e a b m c) [.v a, .v b, .m m] (typeTakes t fun u v => decide (u = v)) e fun v => ∀ i < 128,
        (s.active n m (8 * i / n) → (v.getLsbD i = true ↔ P (8 * i / n))) ∧
        (¬ s.active n m (8 * i / n) → v.getLsbD i = (s.cur.mreg e).getLsbD i)
    let terms := (List.range (1024 / n)).map fun k => if (s.cur.mreg m).getLsbD (k * n / 8) then some (x k) else none
    let r := fun (i : Instr) (code : Nat) =>
      givesV s i [.v a, .m m] (typeTakes t fun _ v => floatCode v) d fun v => v = BitVec.ofNat 1024 code
    cmp 0 (fun k => ¬ nan k ∧ FpNum.eq (x k) (y k) = true) ∧ cmp 1 (fun k => nan k ∨ FpNum.eq (x k) (y k) = false) ∧
    cmp 2 (fun k => ¬ nan k ∧ FpNum.lt (x k) (y k) = true) ∧
    cmp 3 (fun k => ¬ nan k ∧ (FpNum.lt (x k) (y k) = true ∨ FpNum.eq (x k) (y k) = true)) ∧ cmp 4 nan ∧
    r (.vfredadd g d a m t)
      (if fb = 0x10 then roundTo 0x10 mode 0 (treeSum mode 7 terms) else roundTo fb mode sat (treeSum mode 7 terms)) ∧
    r (.vfamax g d a m t)
      (if fa = fb then roundTo fb 0 0 (amaxOf (terms.filterMap id)) else roundTo fb mode sat (amaxOf (terms.filterMap id)))

/-- R179 to R182 with R186 and R189: values that a format holds are exact in it. -/
def Obligations.RoundExact : Prop :=
  ∀ (f : BitVec 8) (v mode : Nat), (intCode f = true ∨ binaryCode f = true ∨ byteCode f = true) →
    v < 2 ^ fmtBits f → mode ≤ 4 →
    (valueOf f v ≠ .nan → roundTo f mode 0 (valueOf f v) = v) ∧
    (valueOf f v = .nan → roundTo f mode 0 (valueOf f v) = nanCode f ∧ valueOf f (nanCode f) = .nan)

/-- R291 to R295 with R196 to R198; `quantBlock` is the quantisation of one block. For `vqnt` the two destinations
differ (the model's choice for one register is assumption log 18). -/
def Obligations.Conversions : Prop :=
  ∀ (s : State) (g : Gap) (d a c : VIdx) (m : MIdx) (t : BitVec 2) (q : BitVec 2) (p : VIdx),
    let w := s.cur.pending.getD 0
    let mode := (payRnd w).toNat
    let sat := (paySat w).toNat
    let lane := fun (n : Nat) (v : VIdx) (k : Nat) => laneOf n (s.cur.vreg v) k
    let masked := fun (i : Instr) (reads : List RegName) (takes : Option (BitVec 24) → Bool) (n : Nat) (P : Nat → Prop) (f : Nat → Nat) =>
      givesV s i reads takes d fun v => ∀ k < 1024 / n,
        (s.active n m k → P k → laneOf n v k = f k % 2 ^ n) ∧ (¬ (s.active n m k ∧ P k) → laneOf n v k = lane n d k)
    (let dflt : BitVec 8 := if t = 0 then 0x10 else if t = 1 then 0x11 else if t = 2 then 0x12 else 0x05
      let fa := if payA w = 0 then dflt else payA w
      let fb := if payB w = 0 then dflt else payB w
      let ws := fmtBits fa
      let wd := fmtBits fb
      (ws ≥ wd → masked (.vcvt g d a p m t) [.v a, .m m] (cvtTakes t p) wd
        (fun e => 1024 / ws * p.toNat ≤ e ∧ e < 1024 / ws * (p.toNat + 1))
        fun e => roundTo fb mode sat (valueOf fa (lane ws a (e - 1024 / ws * p.toNat)))) ∧
      (ws < wd → masked (.vcvt g d a p m t) [.v a, .m m] (cvtTakes t p) wd (fun _ => True)
        fun e => roundTo fb mode sat (valueOf fa (lane ws a (1024 / wd * p.toNat + e))))) ∧
    (p.toNat ≤ 1 → masked (.vunpk g d a p m t) [.v a, .m m] bareTakes 8 (fun _ => True) fun k =>
      let x := lane 4 a (2 * k + p.toNat)
      if t = 0 ∧ 8 ≤ x then x + 240 else x) ∧
    (let fb := payB w
      let fa := payA w
      let lanes := 1024 / fmtBits fb
      masked (.vdqnt g d a c m q) [.v a, .v c, .m m] (dqntTakes q) (fmtBits fb) (fun _ => True) fun k =>
        let x := scaleBy (lane 8 c (q.toNat * (lanes / 32) + k / 32)) (valueOf fa (lane (fmtBits fa) a (q.toNat * lanes + k)))
        if x.isNan then nanCode fb else roundTo fb mode sat x) ∧
    (let f := if t = 3 then payA w else if t = 0 then 0x10 else if t = 1 then 0x11 else 0x12
      let n := fmtBits f
      masked (.vscl g d a c m t) [.v a, .v c, .m m] (sclTakes t) n (fun _ => True) fun k =>
        if lane 8 c (k / 32) = 0xFF then nanCode f
        else roundTo f mode sat ((valueOf f (lane n a k)).scale ((lane 8 c (k / 32) : Int) - 127))) ∧
    (let fa := payA w
      let fb := payB w
      let n := fmtBits fa
      let nb := fmtBits fb
      let on := fun b : Nat => ((List.range 32).map (32 * b + ·)).filter fun k => (s.cur.mreg m).getLsbD (k * n / 8)
      let blk := fun b => quantBlock fb mode sat ((on b).map fun k => valueOf fa (lane n a k))
      let blocks := 1024 / n / 32
      c ≠ d → s.clearVec [.v a, .m m, .v d, .v c] (qntTakes q) →
        ∃ u, exec (.vqnt g d a c m q) s = .next u ∧ wentOn s u ∧ vectorOnly s u ∧
          (∀ r, r ≠ d → r ≠ c → u.cur.vreg r = s.cur.vreg r) ∧
          (u.cur.status = if (List.range blocks).any (fun b => !(on b).isEmpty && (blk b).2.2)
            then putField s.statusAfter 6 1 1 else s.statusAfter) ∧
          (∀ b < blocks, on b ≠ [] → laneOf 8 (u.cur.vreg c) (q.toNat * blocks + b) = (blk b).1) ∧
          (∀ j < 128, (∀ b < blocks, on b ≠ [] → j ≠ q.toNat * blocks + b) → laneOf 8 (u.cur.vreg c) j = lane 8 c j) ∧
          (∀ b < blocks, ∀ i, ∀ k, (on b)[i]? = some k →
            laneOf nb (u.cur.vreg d) (q.toNat * (1024 / n) + k) = ((blk b).2.1.getD i 0) % 2 ^ nb) ∧
          ∀ j < 1024 / nb, (∀ b < blocks, ∀ k ∈ on b, j ≠ q.toNat * (1024 / n) + k) → laneOf nb (u.cur.vreg d) j = lane nb d j)

/-- R207 to R209, R211 and R212. -/
def Obligations.FormatWords : Prop :=
  ∀ (s : State) (g : Gap) (d : VIdx) (r x y : CIdx) (t : BitVec 3) (i : BitVec 16) (a b : BitVec 8) (rn : BitVec 3) (k : BitVec 2) (z : BitVec 3),
    (t.toNat ≤ 4 → givesV s (.vimm g d t i) [] (immTakes t) d fun v =>
      (t.toNat ≤ 2 → lanesAre 16 v fun _ => i.toNat) ∧
      (t.toNat = 3 → lanesAre 32 v fun _ => (i.signExtend 32).toNat) ∧ (t.toNat = 4 → lanesAre 32 v fun _ => i.toNat)) ∧
    (s.clearFor [] → ∃ u, exec (.fmt g a b rn k z) s = .next u ∧ wentOn s u ∧
      u = { s with cur := { s.cur with status := u.cur.status, pc := u.cur.pc, board := u.cur.board } } ∧
      u.cur.pending = some (a ++ b ++ rn ++ k ++ z) ∧ u.cur.status.extractLsb' 8 16 = s.cur.status.extractLsb' 8 16 ∧
      u.cur.status.extractLsb' 0 7 = s.cur.status.extractLsb' 0 7 ∧
      u.cur.status.extractLsb' 48 16 = s.cur.status.extractLsb' 48 16) ∧
    (s.cur.pfx = true →
      let trap := fun j : Instr => Host.Outcome.next ((s.modCur Strand.clearPfx).takeTrap
        { cause := 1, subcode := 0, tval := j.word.setWidth 64, epc := s.cur.pc })
      exec (.fmt g a b rn k z) s = trap (.fmt g a b rn k z) ∧ exec (.add g r x y) s = trap (.add g r x y) ∧
      (payloadOk s.cur.pfxv = false → t.toNat ≤ 4 → exec (.vimm g d t i) s = trap (.vimm g d t i)))

/-- R87 to R92 and R253 to R257. -/
def Obligations.Counters : Prop :=
  ∀ (s s1 s3 : State) (g : Gap) (a b d : CIdx) (k : BitVec 3) (q : Place),
    let cap := s.cur.creg a
    let y := (s.x b).toNat
    let old := s1.mem64 q.loc
    let ready := fun kd : Kind => s.sound a ∧ s.sound b ∧ s.reaches cap cap.lo 8 [.counter] kd s1 q ∧ s1.calm q cap.lo 8
    let s2 := s1.performAt q.loc 8
    let s4 := s3.releaseWord k.toNat q.loc 8
    let regs : List RegName := [.c a, .c b, .c d]
    let set := fun v : Nat => s4.counterSet q.loc v
    let fin := fun t : State => t.setX d (BitVec.ofNat 64 old)
    let read := s2.noteRead s2.me q.loc 8
    let got := fun t : State => t.acquire k.toNat q.loc 8
    let sum := min (old + y) (2 ^ 64 - 1)
    (s.clearFor regs → ready .ctrWrite → s2.releaseAt k.toNat = (s3, none) →
      (old + y < 2 ^ 64 ∨ old = 2 ^ 64 - 1 → leaves s (.ctrAdd g a b d k) (fin (set sum))) ∧
      (2 ^ 64 ≤ old + y → old < 2 ^ 64 - 1 → leaves s (.ctrAdd g a b d k)
        (fin ((set sum).postEvent
          { time := (set sum).time, info := BitVec.ofNat 64 q.loc, epc := 0, tval := cap.lo, record := 0, scope := 0
            die := homeDie q.loc, asid := s.cur.asid, kind := 3, subcode := 0, cause := 6 }))) ∧
      leaves s (.ctrMax g a b d k) (fin (set (max old y))) ∧
      (s.priv = true → s4.hasWaiters q.loc = false → leaves s (.ctrInit g a b d k) (fin (s4.put64 q.loc y)))) ∧
    (∀ v, (∀ w ∈ s4.waitersAt q.loc, w.pa = q.loc → v < w.threshold.toNat) → s4.markOf q.loc = none →
      set v = s4.put64 q.loc v) ∧
    (ready .ctrRead →
      (s.clearFor regs → leaves s (.ctrTest g a b d k) (if y ≤ old then (got s2).setX d 1 else read.setX d 0)) ∧
      (s.clearFor [.c a, .c d] → leaves s (.ctrRead g a d) (read.setX d (BitVec.ofNat 64 old))) ∧
      (s.clearFor (regs ++ [.c 5]) → s.undisturbed →
        (y ≤ old → leaves s (.ctrWait g a b d k) (((got s2).setX d (BitVec.ofNat 64 old)).setX 5 (BitVec.ofNat 64 old))) ∧
        (old < y → s2.quiet.settled = true → ∃ t, exec (.ctrWait g a b d k) s = .next t ∧ t.cur.run = .absent ∧
          (s2.tableRoom q.loc s.myDie = true →
            ({ pa := q.loc, threshold := s.x b, handle := s.cur.handle } : Waiter) ∈ t.waitersAt q.loc)))) ∧
    (s.clearFor regs →
      (ready .ctrWrite → s.priv = false → exec (.ctrInit g a b d k) s =
        .next ((s2.undo s).takeTrap { cause := 0x0E, subcode := 0, tval := 0, epc := s.cur.pc })) ∧
      (ready .ctrWrite → s.priv = true → s2.releaseAt k.toNat = (s3, none) → s4.hasWaiters q.loc = true →
        exec (.ctrInit g a b d k) s =
          .next ((s4.undo s).takeTrap { cause := 0x0F, subcode := 0, tval := cap.lo, epc := s.cur.pc })) ∧
      (s.sound a → s.sound b → s.storeQueued = false → cap.tag = true → hasPerm cap.bits .counter = false →
        capMalformed cap.bits = false → exec (.ctrAdd g a b d k) s =
          .next (s.takeTrap { cause := 2, subcode := 2, tval := cap.lo, epc := s.cur.pc })))

/-- R152 and R259. -/
def Obligations.ScopeOpen : Prop :=
  ∀ (s s1 : State) (g : Gap) (a b d : CIdx) (pa : Nat) (pr : ScopeRec) (tb : ScopeTable) (bs : List Byte),
    s.clearFor [.c a, .c b, .c d] → s.sound a → s.sound b → s.undisturbed →
    let c := s.cur.creg b
    let s0 := s.checkAll s.cur.asid (s.tablePath pr.id)
    let head := s1.memN tb.base 4
    let at_ := tb.base + head * 64
    let caddr := BitVec.ofNat 64 (qwordOf bs 0)
    let read := fun u : State => scopeTableOf s.cur.sctb = some tb ∧ s.storeQueued = false ∧
      capFault c c.lo.toNat 48 [.load] = none ∧ c.lo.toNat % 16 = 0 ∧ u.readPieces c.lo 3 = (s1, .ok bs) ∧
      s1.completionHeld s1.me c caddr = false
    let legal := descriptorOk bs = true ∧ s1.completionOk s1.me c caddr = true
    let room := (s1.die (homeDie tb.base)).scopes.length < 8192
    let opened := fun (parent : BitVec 32) (depth : Nat) (more : State → ScopeRec → Prop) =>
      ∃ t r, exec (.scoOpen g a b d) s = .next t ∧ wentOn s t ∧ wroteC s t d (CapReg.untagged (BitVec.ofNat 64 head)) ∧
        t.cached at_ = some r ∧ r.state = .opened ∧ r.parent = parent ∧ r.depth = depth ∧ r.births = 0 ∧ r.deaths = 0 ∧
        r.lost = 0 ∧ r.cx = false ∧ r.kl = false ∧ r.sc = false ∧ r.fl = false ∧ r.id.toNat = head ∧
        r.opener = s.cur.handle.addr ∧ r.caddr = caddr ∧ r.handler = BitVec.ofNat 64 (qwordOf bs 2) ∧
        (s1.partlyPoisoned tb.base 4 = false → t.memN tb.base 4 = s1.memN at_ 4) ∧ more t r
    let trap := fun (sub : Nat) (v : Word) => exec (.scoOpen g a b d) s = .next
      ((s1.undo s).takeTrap { cause := 7, subcode := BitVec.ofNat 8 sub, tval := v, epc := s.cur.pc })
    (s.x a ≠ 0xFFFFFFFF → s.namesBelow (s.x a) pa pr → read s0 →
      (¬ legal → trap 7 (pr.id.setWidth 64)) ∧
      (legal → 64 ≤ pr.depth → trap 4 (pr.id.setWidth 64)) ∧
      (legal → pr.depth < 64 →
        (pr.acceptsAll = true → room → head ≠ 0 → head < 2 ^ tb.n → at_ ≠ pa → s1.mem.wf = true →
          opened pr.id (pr.depth + 1) fun t r => (pr.ts = true → r.ts = true) ∧
            t.cached pa = some { pr with births := pr.births + 1 }) ∧
        (pr.acceptsAll = false → leaves s (.scoOpen g a b d) (s1.setX d 0xFFFFFFFF00000003)) ∧
        (pr.acceptsAll = true → ¬ room → leaves s (.scoOpen g a b d) (s1.setX d 0xFFFFFFFF00000002)) ∧
        (pr.acceptsAll = true → room → head = 0 → leaves s (.scoOpen g a b d) (s1.setX d 0xFFFFFFFF00000001)))) ∧
    (s.x a = 0xFFFFFFFF → s.priv = true → s.fencedAt tb.base = false → read s → legal →
      (room → head ≠ 0 → head < 2 ^ tb.n → s1.mem.wf = true → opened noParent 0 fun _ _ => True) ∧
      (¬ room → leaves s (.scoOpen g a b d) (s1.setX d 0xFFFFFFFF00000002)) ∧
      (room → head = 0 → leaves s (.scoOpen g a b d) (s1.setX d 0xFFFFFFFF00000001))) ∧
    (s.x a = 0xFFFFFFFF → scopeTableOf s.cur.sctb = some tb →
      (s.priv = false → exec (.scoOpen g a b d) s =
        .next (s.takeTrap { cause := 0x0E, subcode := 0, tval := 0, epc := s.cur.pc })) ∧
      (s.priv = true → s.fencedAt tb.base = true → exec (.scoOpen g a b d) s =
        .next (s.takeTrap { cause := 8, subcode := 0, tval := BitVec.ofNat 64 tb.base, epc := s.cur.pc })))

/-- R155, R156, R158 to R162 and R260 to R263. That the strand waits in its slot while a closing step is held is assumption log 20,
and what a page of the region waits for assumption log 31. -/
def Obligations.ScopeOperations : Prop :=
  ∀ (s s3 : State) (g : Gap) (a d : CIdx) (at_ : Nat) (r : ScopeRec),
    let s0 := s.checkAll s.cur.asid (s.tablePath r.id)
    let dead := { r with cx := true, state := if r.state = .opened then ScopeState.cancelled else r.state }
    let table := (scopeTableOf s.cur.sctb).isSome = true
    let depth := fun n : Nat => { s with cur := { s.cur with status := putField s.cur.status 16 4 n } }
    (s.clearFor [.c a, .c d, .c 5] → s.sound a → s.undisturbed → s.names (s.x a) at_ r →
      r.opener = s.cur.handle.addr → (r.state = .opened ∨ r.state = .cancelled ∨ r.state = .failed) →
      let word : Word := BitVec.ofNat 64
        ((if r.kl then 4 else if r.fl then 3 else if r.sc then 2 else if r.cx then 1 else 0) * 2 ^ 56 +
          r.result.toNat * 2 ^ 40 + r.lost % 2 ^ 40)
      let r1 := { r with state := .closing, closeWait := true }
      let u := s.pinScope at_ r1
      (r.deaths = r.births →
        (∀ t, u.closeSteps at_ r1 = (t, true) → leaves s (.scoClose g a d) ((t.setX d word).setX 5 word)) ∧
        (r.lb = false → r.caddr = 0 ∨ (u.addWaits (r.party (homeDie at_)) r.caddr = false ∧ r.cscope ≠ 4) →
          ∃ t, u.closeSteps at_ r1 = (t, true)) ∧
        (r.lb = false → r.caddr = 0 → s.mem.wf = true →
          ∃ t, exec (.scoClose g a d) s = .next t ∧ wentOn s t ∧
            (∀ x, t.cur.creg x = if (x = d ∨ x = 5) ∧ x ≠ 0 then CapReg.untagged word else s.cur.creg x) ∧
            t.cached at_ = none ∧
            (s.fencedAt (at_ - r.id.toNat * 64) = false → s.partlyPoisoned (at_ - r.id.toNat * 64) 4 = false →
              t.memN (at_ - r.id.toNat * 64) 4 = r.id.toNat) ∧
            (∀ pa pr, r.depth ≠ 0 → u.scopeOf r.asid r.parent = some (pa, pr) → pa ≠ at_ → s.fencedAt pa = false →
              t.cached pa = some { pr with
                deaths := pr.deaths + 1
                state := if pr.state = .sealed ∧ pr.deaths + 1 = pr.births then .closing else pr.state })) ∧
        (∀ t, u.closeSteps at_ r1 = (t, false) → ∃ v, exec (.scoClose g a d) s = .next v ∧ wentOn s v ∧ keptC t v ∧
          v.cur.run = .waitClose d r.id ∧ Instr.scopeClosing r.asid r.id ∈ v.agenda)) ∧
      (r.deaths ≠ r.births → s.quiet.settled = true → ∃ t, exec (.scoClose g a d) s = .next t ∧ t.cur.run = .absent ∧
        t.cached at_ = some { r with state := .sealed, closeWait := true })) ∧
    (s.clearFor [.c a] → s.sound a → s.namesBelow (s.x a) at_ r → s0.releaseAt 3 = (s3, none) →
      leaves s (.scoCancel g a)
        { s3.pinScope at_ dead with due := s3.due ++
          ((([0, 1, 2, 3] : List DieId).filter fun k => !(s3.die k).fenced).map fun k => .cancelBroadcast k s.cur.asid r.id) }) ∧
    (s.clearFor [.c a, .c d] → s.sound a → s.names 0 at_ r → s.releaseAt 3 = (s3, none) →
      (r.sc = true ∨ r.cx = true → leaves s (.scoSucceed g a d) (s3.setX d 0)) ∧
      (r.sc = false → r.cx = false → s.cur.shield < 15 →
        ∃ t, exec (.scoSucceed g a d) s = .next t ∧ wentOn s t ∧ wroteC s t d (CapReg.untagged 1) ∧
          t.cur.shield = s.cur.shield + 1 ∧
          t.cached at_ = some { dead with sc := true, result := (s.x a).setWidth 16 }) ∧
      (r.sc = false → r.cx = false → s.cur.shield = 15 → exec (.scoSucceed g a d) s =
        .next ((s3.undo s).takeTrap { cause := 7, subcode := 5, tval := r.id.setWidth 64, epc := s.cur.pc }))) ∧
    (s.clearFor [] → table →
      (s.cur.shield < 15 → leaves s (.scoShield g) (depth (s.cur.shield + 1))) ∧
      (s.cur.shield = 15 → exec (.scoShield g) s =
        .next (s.takeTrap { cause := 7, subcode := 5, tval := (s.cur.scope.setWidth 32).setWidth 64, epc := s.cur.pc })) ∧
      (1 < s.cur.shield ∨ (s.cur.shield = 1 ∧ s.cur.cancelled = false ∧ s.undisturbed) →
        leaves s (.scoUnshield g) (depth (s.cur.shield - 1))) ∧
      (s.cur.shield = 1 → s.cur.cancelled = true → ∀ x q, s.scopeOf s.cur.handle.asid s.cur.birth = some (x, q) →
        q.handler ≠ 0 → ∃ t, exec (.scoUnshield g) s = .next t ∧ t.cur.pc = q.handler ∧ t.cur.shield = 1 ∧
          t.cur.creg 1 = CapReg.untagged (s.cur.pc + 4) ∧ t.cur.idem = 0) ∧
      (s.cur.shield = 0 → exec (.scoUnshield g) s =
        .next (s.takeTrap { cause := 7, subcode := 6, tval := (s.cur.scope.setWidth 32).setWidth 64, epc := s.cur.pc }))) ∧
    (s.clearFor [.c d] → table →
      (s.undisturbed → leaves s (.scoPoll g d) (s.setX d (if s.cur.cancelled then 1 else 0))) ∧
      leaves s (.scoId g d) (s.setX d ((s.cur.scope.setWidth 32).setWidth 64)))

/-- R140, R172, R264 and R265. -/
def Obligations.SpawnAndLaunch : Prop :=
  ∀ (s s1 s3 : State) (g : Gap) (a b d : CIdx) (at_ : Nat) (r : ScopeRec) (q : Place) (bs : List Byte) (tag : Bool),
    let s0 := s.checkAll s.cur.asid (s.tablePath r.id)
    s1.releaseAt 3 = (s3, none) → s.undisturbed → s.sound a → s.sound b → s.storeQueued = false →
    (s.clearFor [.c a, .c b, .c d] → s.namesBelow (s.x a) at_ r → s0.recordPlace (s.cur.creg b) = (s1, .ok q) →
      let h : Handle := { asid := s.cur.asid, addr := q.loc }
      (s1.spawnable h = false → leaves s (.scoSpawn g a b d) (s1.setX d 1)) ∧
      (s1.spawnable h = true → r.acceptsAll = false → leaves s (.scoSpawn g a b d) (s3.setX d 4)) ∧
      (s1.spawnable h = true → r.acceptsAll = true → s1.mem.wf = true →
        ∃ t p, exec (.scoSpawn g a b d) s = .next t ∧ wentOn s t ∧ wroteC s t d (CapReg.untagged 0) ∧
          t.cached at_ = some { r with births := r.births + 1 } ∧ t.recScope q.loc = r.id ∧
          let c := t.core (s1.pushTarget s.cur.core h)
          ((c.deques.get p).head? = some h ∨ c.pushes.getLast? = some (s1.recPrio q.loc, h)))) ∧
    (s.clearFor [.c a, .c b, .c d, .c d] → s.sound d → s.namesBelow (s.x d) at_ r →
      s0.readHeader (s.cur.creg a) = some (s1, .ok (bs, tag)) →
      let l := { headerLaunch bs tag (s.cur.creg b) with asid := s.cur.asid, f := s.myFn, scope := r.id }
      let st := s1.launchStatus s1.me (s.cur.creg a) bs l (some r)
      s1.launchHeld s1.me (s.cur.creg a) bs l (some r) = false →
      (st ≠ 0 → leaves s (.scoLaunch g a b d) (s1.setX d (BitVec.ofNat 64 st))) ∧
      (st = 0 → l.teams = 0 → leaves s (.scoLaunch g a b d) ((s3.performAdd s3.me l).setX d 0) ∧
        (l.caddr = 0 → s3.performAdd s3.me l = s3)) ∧
      (st = 0 → l.teams ≠ 0 →
        ∃ t, exec (.scoLaunch g a b d) s = .next t ∧ wentOn s t ∧ wroteC s t d (CapReg.untagged 0) ∧
          t.cached at_ = some { r with births := r.births + BitVec.ofNat 64 (l.teams * l.strands) } ∧
          { l with id := s3.nextId, left := l.teams * l.strands } ∈ t.launches ∧
          (t.die s.myDie).teamQ = (s3.die s.myDie).teamQ ++ [.fresh s3.nextId 0 0]))

/-- R74 to R79, R266 and R267; the 64 KiB page base as the access address is assumption log 22. -/
def Obligations.LeafInstructions : Prop :=
  ∀ (s s1 : State) (g : Gap) (a b d : CIdx) (q : Place),
    let cap := s.cur.creg a
    let page : Word := BitVec.ofNat 64 ((s.x a).toNat / 65536 * 65536)
    let k := leafParts q.loc
    let die := dieOfNat k.1
    let e := s1.lpn die k.2.1
    let who := s.cur.handle.addr
    let s2 := s1.departAt die k.2.1 (.strand who)
    let checked := s.sound a ∧ s.storeQueued = false ∧ capFault cap page.toNat 65536 [.store] = none ∧
      translate s s.me page .leafOp = (s1, .ok q) ∧ s1.fencedAt q.loc = false ∧ e.state ≠ .backed
    let free := e.state ≠ .converting ∧ e.holds (.strand who) = false
    (s.clearFor [.c a] → checked → ¬ free → exec (.lfDiscard g a) s = .next (s1.arriveAt die k.2.1 (.strand who))) ∧
    (s.clearFor [.c a] → checked → free → s1.mem.wf = true →
      ∃ t, exec (.lfDiscard g a) s = .next t ∧ wentOn s t ∧ keptC s t ∧
        (t.lpn die k.2.1).state = .empty ∧ (t.lpn die k.2.1).lines = [] ∧
        ((t.die die).resv.get e.f.toFin).resident = ((s1.die die).resv.get e.f.toFin).resident - e.lines.length ∧
        (∀ i < 65536, t.mem.read (leafLoc die.val k.2.1 i) = 0) ∧ memoryBut s1 t (leafLoc die.val k.2.1 0) 65536) ∧
    (s.clearFor [.c a, .c b] → s.sound a → s.sound b →
      (∀ x, s.leafResult who = some (x, 0) → leaves s (.lfMove g a b) (s.takeLeafResult x who)) ∧
      (∀ x n, s.leafResult who = some (x, n + 1) → exec (.lfMove g a b) s =
        .next (((s.takeLeafResult x who).undo s).takeTrap { cause := 0x0B, subcode := BitVec.ofNat 8 n, tval := page, epc := s.cur.pc })) ∧
      (s.leafResult who = none → s.moveRuns who = false → checked → free → e.state ≠ .lost → (s.x b).toNat < 2 ^ 14 →
        let td := dieOfNat (bitsOf (s.x b).toNat 12 2)
        let tl := (s.x b).toNat % 4096
        (td = die → tl = k.2.1 → leaves s (.lfMove g a b) s2) ∧
        (¬ (td = die ∧ tl = k.2.1) → s2.moveRefused die k.2.1 (s.x b) = none →
          ∃ t, exec (.lfMove g a b) s = .next t ∧ t.cur.pc = s.cur.pc ∧ (t.lpn die k.2.1).state = .moving ∧
            (t.lpn td tl).state = .moving ∧ Instr.leafMoveDone die (BitVec.ofNat 12 k.2.1) ∈ t.agenda))) ∧
    (s.clearFor [.c a, .c d] → s.sound a → capFault cap cap.lo.toNat 1 [.load] = none →
      (s.cur.asid ≠ 0 → windowBase ≤ cap.lo.toNat → cap.lo.toNat < 2 ^ 48 → leaves s (.lfStat g a d) (s.setX d 7)) ∧
      (¬ (s.cur.asid ≠ 0 ∧ windowBase ≤ cap.lo.toNat ∧ cap.lo.toNat < 2 ^ 48) →
        translate s s.me cap.lo .stat = (s1, .ok q) →
        (q.ptype ≠ .leaf → leaves s (.lfStat g a d) (s1.setX d 7)) ∧
        (q.ptype = .leaf → s1.fencedAt q.loc = false →
          leaves s (.lfStat g a d) (s1.setX d (BitVec.ofNat 64 (k.2.1 * 65536 + k.1 * 16384 + e.lines.length * 16 +
            (if q.spill then 8 else 0) + e.state.code))))))

/-- R297, R299 to R301 and R307 to R314. -/
def Obligations.AnvilInstructions : Prop :=
  ∀ (s : State) (g : Gap) (a b d : CIdx) (l : Lease) (sa sub : Nat) (r : ScopeRec) (sc : Option Nat),
    let c := s.cur.core
    let cl := coreCluster c
    let who := s.cur.handle.addr
    let word := s.x b
    let base := (s.x a).toNat
    let trap := fun (cause sub : Nat) (tval : Word) => Host.Outcome.next
      (s.takeTrap { cause := BitVec.ofNat 8 cause, subcode := BitVec.ofNat 8 sub, tval := tval, epc := s.cur.pc })
    let cmd := fun (op : AnvilOp) (fmt : BitVec 8) (scales : Option Nat) =>
      ({ op := op, base := s.windowPa base, geom := word, fmt := fmt, scales := scales, issuer := who
         first := s.earlyCluster, got := [], bad := false } : AnvilCmd)
    let pend := fun f : BitVec 24 → BitVec 8 => if geomFmt word = 0 then ((s.cur.pending.map f).getD 0) else geomFmt word
    let queued := fun (i : Instr) (q : AnvilCmd) (P : State → Prop) =>
      ∃ t, exec i s = .next t ∧ wentOn s t ∧ keptC s t ∧ t.cur.status = s.statusAfter ∧
        (t.core c).queue = (s.core c).queue ++ [q] ∧ t.mem = s.mem ∧ P t
    let operand := fun (fmt : BitVec 8) (z : MxShape) =>
      s.sound a ∧ s.sound b ∧ s.sound d ∧ s.leased l ∧ (s.core c).queue.length < 8 ∧
        geomFault word base (mxClass fmt).isSome z = none ∧
        s.windowFault (s.cur.creg a) base (operandTop base word z) 0 .load = none ∧
        s.scaleOperand d ((mxClass fmt).getD .byte).groups = .ok sc
    let image := fun p : Perm =>
      s.sound a ∧ s.sound b ∧ s.leased l ∧ (s.core c).queue.length < 8 ∧
        geomFault word base (imageCode (geomFmt word)) (shapeImage (geomFmt word)) = none ∧
        s.windowFault (s.cur.creg a) base (operandTop base word (shapeImage (geomFmt word))) 2 p = none
    (s.clearFor [.c d] → s.undisturbed →
      (s.leased l → leaves s (.mxLease g d) (s.setX d (s.leaseWord (some l) true))) ∧
      ((s.core c).lease = none → (s.cluster cl).anvilOut = false → s.anvilTested cl = false →
        (s.cluster cl).grant = none ∨ (s.cluster cl).grant = some (coreIx c) → s.bears sa r →
        ∃ t w, exec (.mxLease g d) s = .next t ∧ wentOn s t ∧ wroteC s t d (CapReg.untagged w) ∧ w.getLsbD 0 = true ∧
          (t.core c).lease = some { holder := who, asid := s.cur.asid, scope := s.cur.scope.setWidth 32, completed := 0
                                    rerun := false, dropped := false, cut := false, ended := false } ∧
          (t.cluster cl).grant = some (coreIx c) ∧
          ((s.cluster cl).grant = none → (t.cluster cl).cmdsLeft = 64 ∧ (t.cluster cl).cyclesLeft = 4096) ∧
          t.cached sa = some { r with births := r.births + 1 })) ∧
    (s.clearFor [] → leaves s (.mxFree g) (s.endLease c who)) ∧
    (s.clearMx [.c a, .c b, .c d] (fun v => decide (payA v = 0) && mxCodeOk (payB v)) →
      operand (pend payB) (shapeB (pend payB)) →
      queued (.mxOpb g a b d) (cmd .opb (pend payB) sc) fun t => (t.core c).bClass = ((mxClass (pend payB)).getD .byte).code) ∧
    (s.clearMx [.c a, .c b, .c d] (fun v => mxCodeOk (payA v) && decide (payB v = 0)) →
      operand (pend payA) (shapeA (pend payA)) → depthsAgree (pend payA) (s.core c).bClass = true →
      queued (.mxMma g a b d) (cmd .mma (pend payA) sc) fun _ => True) ∧
    (s.clearFor [.c a, .c b] → image .load → queued (.mxLd g a b) (cmd .ld (geomFmt word) none)
      fun _ => True) ∧
    (s.clearFor [.c a, .c b] → image .store → windowBase + 4096 ≤ base → (s.core c).queue = [] → (s.core c).accPoison = false →
      queued (.mxSt g a b) (cmd .st (geomFmt word) none) fun _ => True) ∧
    (s.clearFor [] → s.leased l → (s.core c).queue.length < 8 → queued (.mxZero g)
      { op := .zero, base := s.windowPa 0, geom := 0, fmt := 0, scales := none, issuer := who
        first := s.earlyCluster, got := [], bad := false } fun _ => True) ∧
    (s.clearFor [.c d] → s.anvilPending who = false →
      (s.leased l → leaves s (.mxChk g d) (s.setX d (s.leaseWord (some l) true))) ∧
      ((s.core c).lease = none → leaves s (.mxChk g d) (s.setX d (s.leaseWord none false)))) ∧
    (s.clearFor [] → (s.core c).lease = none → exec (.mxZero g) s = trap 9 0 0) ∧
    (s.clearFor [.c d] → s.undisturbed → (s.core c).lease = none → (s.cluster cl).anvilOut = true →
      exec (.mxLease g d) s = .next ((s.dropRequest c who).takeTrap
        { cause := 9, subcode := 1, tval := 0, epc := s.cur.pc })) ∧
    (s.clearFor [.c a, .c b] → s.sound a → s.sound b → s.leased l →
      geomFault word base (imageCode (geomFmt word)) (shapeImage (geomFmt word)) = some sub →
      exec (.mxLd g a b) s = trap 0x0A sub (BitVec.ofNat 64 (sub + 2 * 256)))

/-- R192, R193, R298, R299, R305, R309 to R313 and R398. That a command reads its pieces at points of their own is R126 with
assumption log 1; the mismatch as an ERROR_DETECTED held for the next product is assumption log 36, its report assumption log 25. -/
def Obligations.AnvilRuns : Prop :=
  ∀ (s : State) (cl : ClusterId) (k : Fin 4) (q : AnvilCmd) (rest : List AnvilCmd) (l : Lease),
    let c := clusterCore cl k.val
    let x := s.cluster cl
    let y := s.core c
    let fp := fun v : FpNum => BitVec.ofNat 32 (roundFloat fp32 0 0 v)
    let again := q.op = .mma ∧ x.mismatch ≠ none
    let runs := x.grant = some k ∧ y.queue = q :: rest ∧ x.cmdsLeft ≠ 0 ∧ x.cyclesLeft ≠ 0
    let row := fun r => (List.range 128).flatMap fun j =>
      leBytes (fmtBits q.fmt / 8) (roundFloat q.fmt 0 0 (binaryValue fp32 (y.acc.getD (128 * r + j) 0).toNat))
    let chunks := (List.range 128).flatMap fun r => (List.range (2 * (fmtBits q.fmt / 8))).map fun n =>
      (chunkAt q.base q.geom r n, ((row r).drop (64 * n)).take 64)
    let first := if q.got = [] then s.performFirst q else s
    (x.grant = none → exec (.anvilCommandRun cl) s = .next s ∧ exec (.anvilRunEnd cl) s = .next s) ∧
    (runs → s.anvilTested cl = true → exec (.anvilCommandRun cl) s = .next { s with stays := true }) ∧
    (runs → s.anvilTested cl = false → s.anvilUnread c q ≠ [] →
      ∃ t i, exec (.anvilCommandRun cl) s = .next t ∧ i ∈ s.anvilUnread c q ∧ t.stays = true ∧ t.cur = s.cur ∧ t.mem = s.mem ∧
        let p := (s.anvilReads c q).getD i (0, 0)
        (t.core c).queue = { q with
          got := q.got ++ [(i, first.seenAt (anvilReader c) p.1 p.2)]
          bad := q.bad || (decide (p.2 ≠ 0) && s.poisoned p.1 p.2) } :: rest) ∧
    (runs → s.anvilTested cl = false → s.anvilUnread c q = [] → y.lease = some l → l.ended = false →
      ∃ t, exec (.anvilCommandRun cl) s = .next t ∧ (t.core c).queue = rest ∧
        (¬ again → (t.core c).lease = some { l with completed := min (l.completed + 1) (2 ^ 32 - 1) }) ∧
        (again → (t.core c).lease = some { l with completed := min (l.completed + 1) (2 ^ 32 - 1), rerun := true }) ∧
        (t.cluster cl).cmdsLeft = x.cmdsLeft - 1 ∧ t.cur = s.cur ∧
        (t.cluster cl).cyclesLeft = x.cyclesLeft -
          (match q.op with | .opb => 32 | .mma => if x.mismatch = none then 128 else 256 | .zero => 4 | _ => 64) ∧
        (q.op = .opb → (t.core c).staged =
          { bytes := q.rows.flatten, fmt := q.fmt, scales := q.scaleData, poison := q.bad } ∧ (t.core c).acc = y.acc) ∧
        (q.op = .zero → (t.core c).acc = [] ∧ (t.core c).accPoison = false) ∧
        (q.op = .ld → q.bad = false →
          (t.core c).acc = (q.rows.map (rowValues q.fmt)).flatten.map fp ∧ (t.core c).accPoison = false) ∧
        (q.op = .ld → q.bad = true → (t.core c).acc = y.acc ∧ (t.core c).accPoison = true) ∧
        (q.op = .st → s.mem.wf = true → apart (chunks.map fun z => (z.1, 64)) →
          (∀ z ∈ chunks, z.1 % 64 = 0 ∧ s.fencedAt z.1 = false) → imageCode q.fmt = true → t.teams = s.teams →
          (∀ z ∈ chunks, t.bytes z.1 64 = z.2) ∧
          ∀ b, (∀ z ∈ chunks, ¬ (z.1 ≤ b ∧ b < z.1 + 64)) → t.mem.read b = s.mem.read b) ∧
        (∀ e, q.op = .mma → x.mismatch = some e → e.severity ≠ 0 → (t.core c).acc = y.acc ∧ (t.core c).accPoison = true) ∧
        (q.op = .mma → x.mismatch = none → q.bad = true ∨ y.staged.poison = true ∨ y.accPoison = true →
          (t.core c).acc = y.acc ∧ (t.core c).accPoison = true) ∧
        (q.op = .mma → (∀ e, x.mismatch = some e → e.severity = 0) →
          ∀ cls, mxClass q.fmt = some cls → mxClass y.staged.fmt = some cls →
          q.bad = false → y.staged.poison = false → y.accPoison = false → ∀ i < 128, ∀ j < 128,
          let row := rowValues q.fmt (q.rows.getD i [])
          let col := y.staged.rows.map fun z => z.getD j .zero
          let product := FpNum.mulAs (intCode q.fmt && intCode y.staged.fmt)
          let groups := (List.range cls.groups).map fun n =>
            toFp32 0 (scaleBy (scaleCode q.scaleData cls.groups i n)
              (scaleBy (scaleCode y.staged.scales cls.groups j n)
                (exactSum (List.zipWith product ((row.drop (32 * n)).take 32) ((col.drop (32 * n)).take 32)))))
          (t.core c).acc.getD (128 * i + j) 0 =
            fp (groups.foldl (fun v w => toFp32 0 (FpNum.add 0 v w)) (binaryValue fp32 (y.acc.getD (128 * i + j) 0).toNat)))) ∧
    (x.grant = some k → (y.inProgress = true ∨ s.anvilTested cl = true) →
      exec (.anvilRunEnd cl) s = .next { s with stays := true }) ∧
    (x.grant = some k → y.inProgress = false → s.anvilTested cl = false →
      ∃ t, exec (.anvilRunEnd cl) s = .next t ∧ t.cur = s.cur ∧ t.mem = s.mem ∧ (t.core c).lease = y.lease ∧
        (t.core c).queue = y.queue ∧
        (∀ j, (t.cluster cl).grant = some j → (t.cluster cl).cmdsLeft = 64 ∧ (t.cluster cl).cyclesLeft = 4096) ∧
        (y.lease = none → (t.cluster cl).grant = nextGrant (waitFor k x.waiting (!y.asks.isEmpty)) x.lastGrant) ∧
        (y.lease = some l →
          (t.cluster cl).grant = nextGrant (if k ∈ x.waiting then x.waiting else x.waiting ++ [k]) x.lastGrant ∧
          (x.waiting = [] → (t.cluster cl).grant = some k) ∧
          (∀ j ∈ x.waiting, j ≠ k → x.lastGrant = k →
            (t.cluster cl).grant ≠ some k ∧ k ∈ (t.cluster cl).waiting)))

/-- R315 to R318, R321 and R324. -/
def Obligations.LadleInstructions : Prop :=
  ∀ (s s1 : State) (g : Gap) (a d n : CIdx) (sa slot : Nat) (r : ScopeRec) (sub reg : Nat),
    let c := s.cur.core
    let w := (s.x a).toNat
    (s.clearFor [.c a] → s.sound a → n.toNat ≤ 8 → ∃ t, exec (.ladSet g a n) s = .next t ∧ wentOn s t ∧
      t = { s with cur := { s.cur with lad := t.cur.lad, pc := t.cur.pc, board := t.cur.board } } ∧
      ∀ k < 9, t.cur.lad.toList[k]? = if k = n.toNat
        then some (if k = 0 ∨ k = 1 ∨ k = 7 then s.cur.creg a else CapReg.untagged (s.x a)) else s.cur.lad.toList[k]?) ∧
    (s.clearFor [.c d] → n.toNat ≤ 8 → leaves s (.ladGet g n d) (s.setC d (s.cur.lad.toList.getD n.toNat CapReg.zero))) ∧
    (s.clearFor [.c a, .c d] → s.sound a → leaves s (.ladStat g a d) (s.setX d
      (if w / 2 ^ 27 ≠ 0 ∨ w / 2 ^ 16 / 448 ≠ s.myDie.val then 0xF000000000000000
        else (((s.core (coreOfNat (w / 2 ^ 16))).ladStats.find? fun e =>
          decide (e.id.toNat = w % 2 ^ 16) && decide (e.asid = s.cur.asid)).map EngStatus.word).getD 0xF000000000000000))) ∧
    (s.clearFor [.c d] → s.undisturbed →
      (s.ladFault s.cur.lad.toList = none → s.storeQueued = false →
        s.releaseAt (if (boxOf s.cur.lad.toList).allSources.isEmpty then 0
          else s.sourceScope s.me c (boxOf s.cur.lad.toList).allSources) = (s1, none) →
        freeOf ((s.core c).lads.map LadleXfer.slot) 16 = some slot → s.bears sa r →
        ∃ t x, exec (.ladGo g d) s = .next t ∧ wentOn s t ∧
          wroteC s t d (CapReg.untagged (BitVec.ofNat 64 ((s.core c).ladSeq.toNat + c.val * 2 ^ 16))) ∧
          (t.core c).lads = (s.core c).lads ++ [x] ∧ x.slot = slot ∧ x.regs = s.cur.lad ∧ x.asid = s.cur.asid ∧
          x.scope = s.cur.scope.setWidth 32 ∧ x.id = (s.core c).ladSeq ∧ x.state = 0 ∧ t.mem = s.mem ∧
          t.cached sa = some { r with births := r.births + 1 }) ∧
      (s.shapeFault s.cur.lad.toList = some (sub, reg) → exec (.ladGo g d) s = .next (s.takeTrap
        { cause := 0x0A, subcode := BitVec.ofNat 8 sub, tval := BitVec.ofNat 64 (sub + reg * 256), epc := s.cur.pc })))

/-- R126 to R128, R153, R163 to R165, R320, R321 and R343. Which sector is read next is open (assumption log 1). -/
def Obligations.LadleTransfers : Prop :=
  ∀ (s s1 s2 : State) (c : CoreId) (slot : Fin 16) (x : LadleXfer) (seg : List (Nat × Nat × Nat)) (got : Fetched),
    let box := boxOf x.regs.toList
    let here := (s.core c).ladIn slot.val = some x
    let u := if x.flying then s.performOf (.ladle c x.slot) else s
    let z := if x.flying then { x with flying := false, count := x.count + 1 } else x
    let goes := fun (v : State) (y : LadleXfer) => ∃ t, exec (.ladleSegment c slot) s = .next t ∧ t.mem = v.mem ∧
      (t.core c).ladIn slot.val = some y ∧ Instr.ladleSegment c slot ∈ t.agenda
    let ends := fun st : BitVec 4 => ∃ t, exec (.ladleSegment c slot) s = .next t ∧
      (t.core c).ladIn slot.val = some { z with state := st } ∧ Instr.ladleTransferEnd c slot ∈ t.due ∧ t.mem = s.mem
    let need := (sectorsOf (box.needs x.row seg)).filter fun k => !hasSector x.got k
    let faults := fun (cause sub : Nat) (tval : Word) => ∀ at_ r, (s1.undo u).scopeOf x.asid x.scope = some (at_, r) →
      (s1.core c).ladIn slot.val = some x → ¬ (cause = 0x0B ∧ sub = 2) →
      let v := if r.cf ∧ cfCause (BitVec.ofNat 8 cause) then (s1.undo u).cancelScope x.asid x.scope else s1.undo u
      ∃ t, exec (.ladleSegment c slot) s = .next t ∧ Instr.ladleTransferEnd c slot ∈ t.due ∧
        (t.core c).ladIn slot.val =
          some { z with state := 4, cause := BitVec.ofNat 8 cause, subcode := BitVec.ofNat 4 sub } ∧
        t.mem = (v.postEvent
          { time := v.time, info := BitVec.ofNat 64 (x.id.toNat + c.val * 2 ^ 16), epc := 0, tval := tval, record := 0
            scope := x.scope, die := coreDie c, asid := x.asid, kind := 2, subcode := BitVec.ofNat 8 sub
            cause := BitVec.ofNat 8 cause }).mem
    let who := Agent.ladle c x.slot
    let closes := fun v : State => ∃ t, exec (.ladleTransferEnd c slot) s = .next t ∧ (t.core c).ladIn slot.val = none ∧
      Instr.scopeDeath x.asid x.scope ∈ t.due ∧ t.mem = v.mem
    let added := s2.engineAdd (x.party c) c x.carried box.scope (x.regs.get 7).lo (x.regs.get 8).lo x.scope
      (BitVec.ofNat 64 (x.id.toNat + c.val * 2 ^ 16))
    (here → x.state.toNat < 2 →
      (x.kill = true → ends 5) ∧ (x.kill = false → x.cancel = true → ends 3) ∧
      (x.kill = false → x.cancel = false →
        (box.h ≤ x.row ∨ box.w = 0 → ends 2) ∧
        (x.row < box.h → box.w ≠ 0 →
          ((box.segments x.row)[x.byte]? = none → goes s { z with state := 1, row := x.row + 1, byte := 0 }) ∧
          ((box.segments x.row)[x.byte]? = some seg →
            (∀ k, x.nextSector u.tick need = some k →
              u.fetchSector (x.party c) (sectorPart box.allSources k).1 (sectorPart box.allSources k).2 = (s1, .ok got) →
              (s1.core c).ladIn slot.val = some x → goes s1 { z with state := 1, got := x.got ++ [got] }) ∧
            (x.nextSector u.tick need = none → u.segment c z x.row seg = (s1, none) →
              (s1.core c).ladIn slot.val = some x → goes s1 { z with state := 1, flying := true, byte := x.byte + 1 }) ∧
            (∀ cause sub tval,
              (x.nextSector u.tick need = none → u.segment c z x.row seg = (s1, some (.fault cause sub tval)) →
                faults cause sub tval) ∧
              (∀ k ∈ need, x.nextSector u.tick need = some k →
                u.fetchSector (x.party c) (sectorPart box.allSources k).1 (sectorPart box.allSources k).2 =
                  (s1, .error (.fault cause sub tval)) → faults cause sub tval)))))) ∧
    (here → 2 ≤ x.state.toNat → x.added = false → x.teamId = 0 →
      s.engineSettled who x.carried (engineKey c 0 x.slot) box.scope = (s2, true) →
      ((x.state = 5 ∨ x.kill = true ∨ x.regs.get 7 = CapReg.zero) → (s2.performOf who).pendingOn who = 0 → closes s2) ∧
      (x.state ≠ 5 → x.kill = false → x.regs.get 7 ≠ CapReg.zero → s2.addWaits (x.party c) (x.regs.get 7).lo = false →
        (added.performOf who).pendingOn who = 0 → closes added))

/-- R321 to R324. -/
def Obligations.CrucibleInstructions : Prop :=
  ∀ (s s1 : State) (g : Gap) (a d n : CIdx) (sa slot : Nat) (r : ScopeRec) (gr : Group) (sub reg : Nat),
    let c := s.cur.core
    let w := (s.x a).toNat
    let l := s.cur.cru.toList
    let dd := cruDesc l
    (s.clearFor [.c a] → s.sound a → n.toNat ≤ 7 → ∃ t, exec (.cruSet g a n) s = .next t ∧ wentOn s t ∧
      t = { s with cur := { s.cur with cru := t.cur.cru, pc := t.cur.pc, board := t.cur.board } } ∧
      ∀ k < 8, t.cur.cru.toList[k]? = if k = n.toNat
        then some (if k = 0 ∨ k = 1 ∨ k = 2 ∨ k = 6 then s.cur.creg a else CapReg.untagged (s.x a)) else s.cur.cru.toList[k]?) ∧
    (s.clearFor [.c d] → n.toNat ≤ 7 → leaves s (.cruGet g n d) (s.setC d (s.cur.cru.toList.getD n.toNat CapReg.zero))) ∧
    (s.clearFor [.c a, .c d] → s.sound a → leaves s (.cruStat g a d) (s.setX d
      (if w / 2 ^ 27 ≠ 0 ∨ w / 2 ^ 16 / 448 ≠ s.myDie.val then 0xF000000000000000
        else (((s.core (coreOfNat (w / 2 ^ 16))).cruStats.find? fun e =>
          decide (e.id.toNat = w % 2 ^ 16) && decide (e.asid = s.cur.asid)).map EngStatus.word).getD 0xF000000000000000))) ∧
    (s.clearFor [.c d] → s.undisturbed →
      (s.kindFault l = none → s.group s.myFn dd.group = some gr → s.sideFault l dd gr = none → dd.nr = false →
        ctrRegOk (l.getD 6 CapReg.zero) = true → s.storeQueued = false →
        s.releaseAt (if (cruSource l dd gr.n gr.me).isEmpty then 0 else s.sourceScope s.me c (cruSource l dd gr.n gr.me)) = (s1, none) →
        freeOf ((s.core c).crus.map Collective.slot) 4 = some slot → s.bears sa r →
        ∃ t x, exec (.cruGo g d) s = .next t ∧ wentOn s t ∧
          wroteC s t d (CapReg.untagged (BitVec.ofNat 64 ((s.core c).cruSeq.toNat + c.val * 2 ^ 16))) ∧
          (t.core c).crus = (s.core c).crus ++ [x] ∧ x.slot = slot ∧ x.regs = s.cur.cru ∧ x.asid = s.cur.asid ∧
          x.ranks = gr.n ∧ x.me = gr.me ∧ x.phase = .queued ∧ x.state = 0 ∧ t.mem = s.mem ∧
          t.cached sa = some { r with births := r.births + 1 }) ∧
      (s.kindFault l = some (sub, reg) → exec (.cruGo g d) s = .next (s.takeTrap
        { cause := 0x0A, subcode := BitVec.ofNat 8 sub, tval := BitVec.ofNat 64 (sub + reg * 256), epc := s.cur.pc })))

/-- R126 to R128, R130, R194, R323 and R365 to R373. Which sector is read next is open (assumption log 1); that the source is read
at the start is assumption log 26; the flits of agreement and code 1 of a group that is gone are assumption log 37. -/
def Obligations.Collectives : Prop :=
  ∀ (s s1 s2 : State) (c : CoreId) (slot : Fin 4) (x z : Collective) (head : FlitHead) (kind : FlitKind) (rank first : Nat)
    (data : List Word) (wrong : Bool),
    let here := (s.core c).cruIn slot.val = some x
    let d := x.desc
    let who := Agent.crucible c x.slot
    let flit := Instr.collectiveFlit c slot { head := head, kind := kind } rank first data
    let own := Instr.collectiveEnd c slot
    let u := if x.flying = 0 then s else s.performOf who
    let landed := fun y : Collective => if y.flying = 0 then y else { y with written := y.written + y.flying, flying := 0 }
    let is_ := fun (t : State) (y : Collective) => (t.core c).cruIn slot.val = some y
    let goes := fun (i : Instr) (v : State) (y : Collective) (msgs : List Sent) =>
      ∃ t, exec i s = .next t ∧ t.mem = v.mem ∧ t.sent = v.sent ++ msgs ∧ is_ t y
    let told := if x.phase = .queued then ((s.group x.f d.group).map s.pathsOf).getD x.paths else x.paths
    let now := (told.filter fun q => s.anyUp q.2 && !s.allHeld x.f q.2).map Prod.fst
    let later := told.filter fun q => s.allHeld x.f q.2
    let ends := fun (i : Instr) (y : Collective) (st : BitVec 4) (link : BitVec 8) (tell : Bool) => ∃ t, exec i s = .next t ∧
      t.mem = s.mem ∧ own ∈ t.due ∧
      t.sent = s.sent ++ (if tell ∧ now ≠ [] then [Sent.abort c x.slot now (decide (link = 6))] else []) ∧
      is_ t { landed y with
        state := st, link := link, tell := if tell ∧ later ≠ [] then some (decide (link = 6), later) else none }
    let done := fun (i : Instr) (v : State) (y : Collective) => v.writeAll (x.party c) (engineKey c 1 x.slot) y.residualRuns = (s2, none) →
      is_ s2 x → ∃ t, exec i s = .next t ∧ t.mem = s2.mem ∧ own ∈ t.due ∧
        is_ t { y with state := if y.kill then 5 else 2, link := 0, tell := none }
    let commits := fun (i : Instr) (v : State) (y : Collective) => ∀ bs,
      v.readBytes (x.party c) (x.regs.get 2).lo.toNat (fmtBytes d.dst (d.targets x.ranks)) = (s1, .ok bs) →
      d.targets x.ranks * fmtBits d.dst % 8 = 0 →
      s1.writeAll (x.party c) (engineKey c 1 x.slot) (lineRuns (x.regs.get 1).lo.toNat bs) = (s2, none) → is_ s2 x →
      ∃ t, exec i s = .next t ∧ t.mem = s2.mem ∧ own ∈ t.agenda ∧
        is_ t { y with phase := .written, written := 0, flying := d.targets x.ranks }
    let settles := fun (i : Instr) (v : State) (y : Collective) =>
      v.writeResults c y = (s1, z, none) → z.slot = x.slot → z.phase = .gather → is_ s1 x →
      (z.flying ≠ 0 ∨ z.full = false ∨ z.agreed = false → goes i s1 z []) ∧
      (z.flying = 0 → z.full = true → z.agreed = true →
        (z.desc.staged = false → done i s1 z) ∧
        (z.desc.staged = true → z.me ≠ 0 → s1.cruHeld z = true → goes i s1 z []) ∧
        (z.desc.staged = true → z.me ≠ 0 → s1.cruHeld z = false →
          goes i s1 { z with phase := .sentReady } [.ready c x.slot]) ∧
        (z.desc.staged = true → z.me = 0 → ¬ (∀ r < z.ranks, r ∈ setIns z.readies 0) →
          goes i s1 { z with phase := .sentReady, readies := setIns z.readies 0 } []))
    let m := (d.n + x.ranks - 1) / x.ranks
    let block := fun j => if d.op = 1 then (j * d.n, d.n) else (min d.n (j * m), min d.n ((j + 1) * m) - min d.n (j * m))
    let mine := block x.me
    let others := (List.range x.ranks).filter fun r => r != x.me
    let gathers := fun (i : Instr) (y : Collective) => x.phase = .gather → x.kill = false →
      let in_ := ∀ r < x.ranks, ∀ n < mine.2, (y.contribAt r (mine.1 + n)).isSome = true
      let sums := (List.range mine.2).map fun n => (BitVec.ofNat 64 (roundTo d.dst d.rnd d.sat (treeSum 0 12
        ((List.range x.ranks).map fun r => some (y.elemNum ((y.contribAt r (mine.1 + n)).getD 0))))) : Word)
      let lo := if d.op = 1 then 0 else mine.1
      (y.reduced = true ∨ ¬ in_ → settles i u y) ∧
      (y.reduced = false → in_ →
        (d.op = 0 → s.cruHeld x = true → goes i u y []) ∧
        (d.op ≠ 0 ∨ s.cruHeld x = false →
          settles i { u with sent := u.sent ++ if d.op = 0 then others.map fun r => .flit c x.slot x.head r lo sums else [] }
            { y with reduced := true, results := y.results ++ [(lo, sums)], toWrite := y.toWrite ++ [(lo, sums)] }))
    let reads := fun y : Collective =>
      let rest := (sectorsOf y.inputs).filter fun k => !hasSector y.got k
      let next := rest[(Config.freeWord s.tick).toNat % rest.length]?
      let codes := y.inputElems (x.regs.get 0).lo.toNat d.src (d.sources x.ranks x.me)
      let es : List Word := if 2 ≤ d.op then codes.map (BitVec.ofNat 64 ·)
        else if d.nr = false then codes.map fun v => BitVec.ofNat 64 (roundFloat fp32 0 0 (valueOf d.src v))
        else y.contribution.1
      let cut := fun r => (es.drop (block r).1).take (block r).2
      let lo := if d.op = 2 then x.me * d.n else 0
      let kept := { y with phase := .gather, got := [], residuals := y.contribution.2 }
      (∀ k got, next = some k →
        u.fetchSector (x.party c) (sectorPart y.inputs k).1 (sectorPart y.inputs k).2 = (s1, .ok got) →
        is_ s1 x → goes own s1 { y with got := y.got ++ [got] } []) ∧
      (next = none → s.cruHeld y = true → goes own s y []) ∧
      (next = none → s.cruHeld y = false →
        (d.op ≤ 1 → y.inSwitch = false → goes own s { kept with contrib := y.contrib ++ [(x.me, mine.1, cut x.me)] }
          (others.map fun r => .flit c x.slot x.head r (block r).1 (cut r))) ∧
        (d.op ≤ 1 → y.inSwitch = true → goes own s { kept with reduced := true } [.flit c x.slot x.head x.ranks 0 es]) ∧
        (2 ≤ d.op → ¬ (d.op = 3 ∧ x.me ≠ d.root) → goes own s
          { kept with
            reduced := true, results := y.results ++ [(lo, es)], toWrite := y.toWrite ++ [(lo, es)] }
          (others.map fun r => .flit c x.slot x.head r lo es)) ∧
        (d.op = 3 → x.me ≠ d.root → goes own s { kept with reduced := true }
          (others.map fun r => .flit c x.slot x.head r 0 [])))
    (here → x.state.toNat < 2 → x.phase ≠ .committed → x.phase ≠ .written →
      (head.k ≠ x.k → exec flit s = .next s) ∧
      (head.k = x.k →
        let agrees := head = x.head ∧ (data = [] ∨ x.accepts { head := head, kind := kind } rank first data.length = true)
        let y := { (if data = [] then x else x.keep kind rank first data) with
          heads := if rank < x.ranks ∧ rank ≠ x.me then setIns x.heads rank else x.heads }
        (¬ agrees → ends flit x 3 6 true) ∧
        (agrees → x.phase = .queued ∨ x.phase = .reading → goes flit s y []) ∧
        (agrees → gathers flit (landed y))) ∧
      (d.staged = true → x.me = 0 → 0 < rank → rank < x.ranks →
        let y := { x with readies := setIns x.readies rank }
        let all := x.phase = .sentReady ∧ ∀ r < x.ranks, r ∈ y.readies
        (¬ all → goes (.collectiveReady c slot rank) s y []) ∧
        (all → s.cruHeld x = true → goes (.collectiveReady c slot rank) s y []) ∧
        (all → s.cruHeld x = false → commits (.collectiveReady c slot rank) (s.send (.commit c x.slot)) y)) ∧
      ends (.collectiveAbort c { slot := slot, mismatch := wrong }) x 3 (if wrong then 6 else 4) (d.staged && decide (x.me = 0)) ∧
      (x.awaits = true → (x.phase = .sentReady ∧ x.me ≠ 0 → ends (.collectiveTimeout c slot) x 3 5 false) ∧
        (¬ (x.phase = .sentReady ∧ x.me ≠ 0) → ends (.collectiveTimeout c slot) x 3 1 true)) ∧
      (x.awaits = false → exec (.collectiveTimeout c slot) s = .next s) ∧
      (x.kill = true → ends own x 5 0 true) ∧
      (x.kill = false → x.phase = .queued →
        (s.heldBack x = true → goes own s (landed x) []) ∧
        (s.heldBack x = false → s.group x.f d.group = none → ends own x 3 1 true) ∧
        (∀ g, s.heldBack x = false → s.group x.f d.group = some g →
          (s.membersUp x.f g = false → ends own { x with paths := s.pathsOf g } 3 1 true) ∧
          (s.membersUp x.f g = true → reads { landed x with
            paths := s.pathsOf g, phase := .reading, state := 1, inSwitch := s.switchPath g
            switch := if s.switchPath g then s.pathSwitch x.f g else none }))) ∧
      (x.kill = false → x.phase = .reading → reads (landed x)) ∧ gathers own (landed x)) ∧
    (here → x.state.toNat < 2 →
      (x.phase = .sentReady → x.me ≠ 0 → commits (.collectiveCommit c slot) s x) ∧
      (x.phase = .committed → commits own u (landed x)) ∧
      (x.phase = .written → done own u (landed x))) ∧
    (here → 2 ≤ x.state.toNat → ∀ l, x.tell = some (wrong, l) →
      let now := (l.filter fun q => s.anyUp q.2 && !s.allHeld x.f q.2).map Prod.fst
      now ≠ [] → ∃ t, exec own s = .next t ∧ Sent.abort c x.slot now wrong ∈ t.sent) ∧
    (here → 2 ≤ x.state.toNat → x.added = false → x.tell = none → x.teamId = 0 →
      let closes := fun v : State => ∃ t, exec own s = .next t ∧ (t.core c).cruIn slot.val = none ∧
        Instr.scopeDeath x.asid x.scope ∈ t.due ∧ t.mem = v.mem
      let added := s2.engineAdd (x.party c) c x.carried d.scope (x.regs.get 6).lo (x.regs.get 7).lo x.scope
        (BitVec.ofNat 64 (x.id.toNat + c.val * 2 ^ 16))
      s.engineSettled who x.carried (engineKey c 1 x.slot) d.scope = (s2, true) →
      (x.state = 5 ∨ x.kill = true ∨ x.regs.get 6 = CapReg.zero → (s2.performOf who).pendingOn who = 0 → closes s2) ∧
      (x.state ≠ 5 → x.kill = false → x.regs.get 6 ≠ CapReg.zero → s2.addWaits (x.party c) (x.regs.get 6).lo = false →
        (added.performOf who).pendingOn who = 0 → closes added))

/-- R332, R333 and R335. -/
def Obligations.ControlRegisters : Prop :=
  ∀ (s : State) (g : Gap) (a d : CIdx) (n : BitVec 10),
    let trap := fun (cause : Nat) (tval : Word) => Host.Outcome.next
      (s.takeTrap { cause := BitVec.ofNat 8 cause, subcode := 0, tval := tval, epc := s.cur.pc })
    let table : List (Nat × Csr × CsrRight × CsrRight) :=
      [(0x000, .status, .write, .write), (0x001, .cause, .none, .write), (0x002, .epc, .none, .write),
       (0x003, .tval, .none, .write), (0x004, .tvec, .none, .write), (0x005, .idem, .read, .write),
       (0x010, .scope, .read, .write), (0x011, .sctb, .read, .write), (0x012, .asid, .read, .write),
       (0x013, .strand, .read, .read), (0x014, .team, .read, .read), (0x015, .core, .read, .read),
       (0x020, .cycle, .read, .read), (0x021, .time, .read, .read), (0x030, .astb, .none, .write),
       (0x031, .pstatus, .none, .write), (0x032, .fqctr, .none, .write)]
    let masks : List (Csr × Word) :=
      [(.cause, 0xFFFF), (.epc, 0xFFFFFFFFFFFFFFFC), (.tval, 0xFFFFFFFFFFFFFFFF), (.tvec, 0x0000FFFFFFFFFFFC),
       (.idem, 0x0000FFFFFFFFFFFF), (.scope, 0x00000000FFFFFFFF), (.sctb, 0x000FFFFFFFFFF01F), (.asid, 0xFFF),
       (.astb, 0x000FFFFFFFFC0000), (.pstatus, 0x0000FFFFFF0F00E9), (.fqctr, 0x000FFFFFFFFFFFF8)]
    (∀ r, csrOf n = some r →
      let right := if s.priv then r.privileged else r.user
      let new := fun v : Word => (s.setCsr r v).setX d (s.csr r)
      (s.clearFor [.c d] →
        (right ≠ .none → leaves s (.csrr g d n) (s.setX d (s.csr r))) ∧
        (right = .none → exec (.csrr g d n) s = trap 0x0E 0)) ∧
      (s.clearFor [.c a, .c d] → s.sound a →
        (right = .write → leaves s (.csrw g d a n) (new (s.x a)) ∧ leaves s (.csrs g d a n) (new (s.csr r ||| s.x a)) ∧
          leaves s (.csrc g d a n) (new (s.csr r &&& ~~~(s.x a)))) ∧
        (right = .none → exec (.csrw g d a n) s = trap 0x0E 0 ∧ exec (.csrs g d a n) s = trap 0x0E 0 ∧
          exec (.csrc g d a n) s = trap 0x0E 0) ∧
        (right = .read → exec (.csrw g d a n) s =
          if s.priv = false ∧ r.privileged = .write then trap 0x0E 0 else trap 1 ((Instr.csrw g d a n).word.setWidth 64)))) ∧
    (∀ e ∈ table, csrOf (BitVec.ofNat 10 e.1) = some e.2.1 ∧ e.2.1.user = e.2.2.1 ∧ e.2.1.privileged = e.2.2.2) ∧
    (∀ r, csrOf n = some r → ∃ e ∈ table, n.toNat = e.1 ∧ r = e.2.1) ∧
    (∀ e ∈ masks, ∀ v : Word, (s.setCsr e.1 v).csr e.1 = v &&& e.2) ∧
    (∀ (q r : Csr) (v : Word), q ≠ r → (s.setCsr q v).csr r = s.csr r) ∧
    (s.csr .asid = s.cur.asid.setWidth 64 ∧ s.csr .strand = s.cur.strandNo.setWidth 64 ∧ s.csr .team = s.cur.team ∧
      s.csr .core = BitVec.ofNat 64 s.cur.core.val ∧ s.csr .cycle = (s.core s.cur.core).cycle ∧ s.csr .time = s.time) ∧
    (csrOf n = none → s.clearFor [.c d] → exec (.csrr g d n) s = trap 1 ((Instr.csrr g d n).word.setWidth 64)) ∧
    ∀ (v : Word) (k : Nat), (s.setCsr .status v).cur.status.getLsbD k =
      if k = 0 ∨ (s.priv = false ∧ (k = 3 ∨ (16 ≤ k ∧ k < 20))) then s.cur.status.getLsbD k
      else if k = 6 then s.cur.status.getLsbD 6 && v.getLsbD 6
      else v.getLsbD k && decide (k = 3 ∨ k = 5 ∨ k = 7 ∨ (16 ≤ k ∧ k < 20) ∨ (24 ≤ k ∧ k < 48))

/-- R13, R36, R209, R217, R325, R327, R328, R331 and R338. -/
def Obligations.Traps : Prop :=
  ∀ (s s3 : State) (g : Gap) (a b : CIdx) (w : BitVec 32) (dd : DieId) (k : Nat) (rest : List Nat),
    let id : Asid := (s.x b).setWidth 12
    let va := (s.x a).toNat % 2 ^ 48
    let ordered := (s.fenceAcquire 3).releaseAt 3 = (s3, none)
    let refuses := fun i : Instr =>
      exec i s = .next (s.takeTrap { cause := 0x0E, subcode := 0, tval := 0, epc := s.cur.pc })
    (s.priv = true →
      (s.clearFor [.c a] → s.sound a →
        (∃ t, exec (.trap g a) s = .next t ∧ s.entersAt t 0x10 0 (s.x a) (s.cur.pc + 4)) ∧
        (ordered → ∃ t, exec (.tlbAll g a) s = .next t ∧ wentOn s t ∧
          after s (({ s3 with
            tlb := t.tlb, walks := t.walks, descs := t.descs
            bootMap := s.bootMap && ((s.x a).setWidth 12 != (0 : Asid)) } : State).fenced 3) t ∧
          (∀ e, e ∈ t.tlb ↔ e ∈ s.tlb ∧ e.asid ≠ (s.x a).setWidth 12) ∧
          (∀ e, e ∈ t.walks ↔ e ∈ s.walks ∧ e.asid ≠ (s.x a).setWidth 12) ∧
          ∀ e, e ∈ t.descs ↔ e ∈ s.descs ∧ e.asid ≠ (s.x a).setWidth 12)) ∧
      (s.clearFor [.c a, .c b] → s.sound a → s.sound b → ordered →
        ∃ t, exec (.tlbInv g a b) s = .next t ∧ wentOn s t ∧
          after s (({ s3 with tlb := t.tlb, walks := t.walks } : State).fenced 3) t ∧
          (∀ e, e ∈ t.tlb ↔ e ∈ s.tlb ∧ ¬ (e.asid = id ∧ e.base ≤ va ∧ va < e.base + 2 ^ e.bits)) ∧
          ∀ e, e ∈ t.walks ↔ e ∈ s.walks ∧ ¬ (e.asid = id ∧ e.top = topOf va e.level)) ∧
      (s.clearFor [] →
        (∃ t, exec (.brk g) s = .next t ∧ s.entersAt t 0x0C 0 0 s.cur.pc) ∧
        (∃ t, exec (.eret g) s = .next t ∧
          t = { s with cur := { s.cur with
            status := t.cur.status, pc := s.cur.epc, board := []
            wait := s.cur.waitBack.bind fun x => if x.1 = s.cur.epc then some x.2 else none
            waitBack := none } } ∧
          ∀ j, t.cur.status.getLsbD j = if j = 0 then s.cur.status.getLsbD 0 else s.cur.pstatus.getLsbD j)) ∧
      (∃ t, exec (.illegalInstruction w) s = .next t ∧
        (s.modCur fun x => { x with status := putField x.status 7 1 0 }).entersAt t 1 0 (w.setWidth 64) s.cur.pc) ∧
      (s.cur.ie = true → dd = s.myDie → (s.die dd).ints = k :: rest →
        ∃ t, exec (.interrupt dd) s = .next t ∧
          (s.modDie dd fun x => { x with ints := rest }).entersAt t 0x11 0 (BitVec.ofNat 64 k) s.cur.pc)) ∧
    (s.priv = false ∨ s.cur.ie = false → exec (.interrupt dd) s = .next s) ∧
    (s.priv = false → (s.clearFor [] → refuses (.eret g)) ∧ (s.clearFor [.c a] → s.sound a → refuses (.tlbAll g a)) ∧
      (s.clearFor [.c a, .c b] → s.sound a → s.sound b → refuses (.tlbInv g a b)))

/-- R135, R157, R326, R329, R330 and R385. A record on a fenced die is not written: assumption log 35. -/
def Obligations.Suspensions : Prop :=
  ∀ (s s1 : State) (g : Gap) (a : CIdx) (sa : Nat) (r : ScopeRec),
    let h := s.cur.handle
    let pc := (s.cur.pc + 4).toNat
    let p := prioIx s.cur.prio.toNat
    let f := s.fnOf s.myDie h.asid
    let writable := s.mem.wf = true ∧ s.fencedAt h.addr = false ∧ h.addr % 64 = 0
    (s.clearFor [] → s.undisturbed → s.releaseAt 3 = (s1, none) →
      ∃ t, exec (.yield g) s = .next t ∧ t.cur.run = .absent ∧
        (s.swappedTeam h.addr = none → memoryBut s t h.addr 64 ∧ (writable → s.recorded t pc 0 0 (s.x 5).toNat 0) ∧
          (((s.core s.cur.core).deques.get p).length < 256 →
            (t.core s.cur.core).deques.get p = (s.core s.cur.core).deques.get p ++ [h])) ∧
        ∀ x, s.swappedTeam h.addr = some x → h.addr + 64 ≤ x.block + 4136 → writable → s.fencedAt (x.block + 4136) = false →
          s.partlyPoisoned (x.block + 4136) 8 = false → s.recorded t pc 0 0 (s.x 5).toNat 0 ∧ t.mem64 (x.block + 4136) = s.mem64 (x.block + 4136) ||| 2 ^ ((h.addr - x.block) / 64)) ∧
    (s.clearFor [.c a] → s.sound a → s.bears sa r → s.releaseAt 3 = (s1, none) →
      ∃ t, exec (.sysCall g a) s = .next t ∧ t.cur.run = .absent ∧ (writable → s.recorded t pc 0 0 (s.x a).toNat 0) ∧
        memoryBut s t h.addr 64 ∧ t.cached sa = some { r with births := r.births + 1 } ∧
        (t.die s.myDie).benchQ.get f =
          (s.die s.myDie).benchQ.get f ++ [.call h s.cur.asid (s.cur.scope.setWidth 32) (s.x a)]) ∧
    (s.clearFor [] →
      (s.openScopeOf h.addr = none → s.releaseAt 3 = (s1, none) →
        (s1.endWaits s.cur false = true → exec (.halt g) s = .next (s1.askPosted s.cur)) ∧
        (s1.endWaits s.cur false = false → ∃ t, exec (.halt g) s = .next t ∧ t.cur.run = .absent ∧
          (Instr.scopeDeath h.asid s.cur.birth ∈ t.due ∨ s.cur ∈ t.adds) ∧
          (s.lastOf s.cur false = none → Instr.scopeDeath h.asid s.cur.birth ∈ t.due))) ∧
      (∀ id, s.openScopeOf h.addr = some id → exec (.halt g) s =
        .next ((s.closeOpened h.addr).takeTrap { cause := 7, subcode := 0, tval := id.setWidth 64, epc := s.cur.pc })))

/-- R327, R336, R337, R340, R342 and R343. -/
def Obligations.UserStop : Prop :=
  ∀ (s : State) (g : Gap) (a : CIdx) (w : BitVec 32) (b n : Nat),
    let h := s.cur.handle
    let fq := (s.desc s.myDie h.asid).faultQueue
    let p := s.mem64 fq
    let slot := fq + 64 + 64 * (p % 2 ^ n)
    let ranges := [(h.addr, 64), (b, 4096), (fq, 64), (slot, 64)]
    let stops := fun (i : Instr) (cause : Nat) (tval epc : Word) =>
      ∃ t, exec i s = .next t ∧ t.cur.run = .absent ∧ t.recPc h.addr = epc.toNat ∧ t.recCtx h.addr = b ∧
        t.mem64 (b + 0x408) = s.cur.status.toNat ∧ t.mem64 (b + 0x418) = epc.toNat ∧ t.mem64 (b + 0x420) = cause ∧
        t.mem64 (b + 0x428) = tval.toNat ∧
        (∀ i : CIdx, i ≠ 0 → t.memN (b + 16 * i.toNat) 16 = (s.cur.creg i).bits.toNat) ∧
        t.mem64 fq = p + 1 ∧ t.mem64 slot = cause ∧ t.mem64 (slot + 8) = p ∧ t.mem64 (slot + 24) = h.addr ∧
        t.mem64 (slot + 32) = tval.toNat ∧ t.mem64 (slot + 40) = epc.toNat
    s.priv = false → s.mem.wf = true → s.quiet.settled = true → s.cur.grant = 0 → s.cur.pfx = false →
    (s.desc s.myDie h.asid).live = true → s.queueBits fq = some n → s.slotFree fq n = true → p + 1 < 2 ^ 64 →
    h.addr < 2 ^ 64 → b < 2 ^ 64 → (s.die s.myDie).ctxPool.count ≠ 0 → (s.die s.myDie).ctxPool.top = b → (s.die s.myDie).fqctr = 0 →
    apart (ranges ++ [(s.descAddr h.asid, 64)]) → (∀ x ∈ ranges, s.fencedAt x.1 = false ∧ s.poisoned x.1 x.2 = false) →
    (∀ q r, s.scopeOf h.asid s.cur.birth = some (q, r) → r.cf = false) →
    (s.clearFor [.c a] → s.sound a → stops (.trap g a) 0x10 (s.x a) (s.cur.pc + 4)) ∧
    (s.clearFor [] → stops (.brk g) 0x0C 0 s.cur.pc) ∧
    stops (.illegalInstruction w) 1 (w.setWidth 64) s.cur.pc

/-- R156. -/
def Obligations.CloseResult : Prop :=
  ∀ r : ScopeRec, r.lost < 2 ^ 40 →
    let w := r.resultWord
    (w.extractLsb' 56 8).toNat = (if r.kl then 4 else if r.fl then 3 else if r.sc then 2 else if r.cx then 1 else 0) ∧
    w.extractLsb' 40 16 = r.result ∧ (w.extractLsb' 0 40).toNat = r.lost

/-- R47 to R50, R54, R119 and R166. That a line needs a way in the LLCs of its home and of the die that takes it, that a read copy
recalls a remote owner, the L1 state after a request for ownership, and the dies that an invalidation passes over are assumption log 34.
The last clause is restricted to a die that holds no user strand, call, command or
waiting add: what happens to those is R166's, and ScopeDeaths and others state it. -/
def Obligations.Coherence : Prop :=
  ∀ (s : State) (d src : DieId) (c : CoreId) (w : Agent) (line : Nat),
    let home := homeDie (line * 128)
    let open_ := s.settle
    let cacheOnly := fun t : State => t =
      { s with dirs := t.dirs, copies := t.copies, caches := t.caches, agenda := t.agenda, cores := t.cores }
    let gone := fun (t : State) (l : Nat) => (∀ x ∈ t.copies, ¬ (x.die = d ∧ x.line = l)) ∧
      (∀ x ∈ t.caches.l1, ¬ (coreDie x.core = d ∧ x.line = l)) ∧ ∀ x ∈ t.caches.llc, ¬ (x.die = d ∧ x.line = l)
    -- invalidations and their acknowledgements
    (∃ t, exec (.crossDieInvalidation d line w) s = .next t ∧ t.agenda = s.agenda ++ [.invalidationAck w] ∧ t.cores = s.cores ∧
      cacheOnly t ∧ (s.ownerDie line ≠ d → gone t line) ∧ (s.ownerDie line = d → t.copies = s.copies ∧ t.caches = s.caches)) ∧
    (∃ t, exec (.invalidationAck w) s = .next t ∧ t = { s with cores := t.cores, order := t.order } ∧
      t.pendingOn w = s.pendingOn w - 1 ∧ ∀ v, v ≠ w → t.pendingOn v = s.pendingOn v) ∧
    -- copies and owners
    (cacheableLine line = true → (s.die home).fenced = false → s.lineExists line = true → (s.dir line).remote.toNat < 3 →
      (d ≠ home → s.ownerDie line ≠ d → (s.die d).fenced = false → (∀ x ∈ s.copies, ¬ (x.die = d ∧ x.line = line)) →
        s.earlyIn line = false → s.hasWays d line = true →
        ∃ t x, exec (.readCopyRequest d line) s = .next t ∧ cacheOnly t ∧ t.agenda = s.agenda ∧ t.cores = s.cores ∧
          x ∈ t.copies ∧ x.die = d ∧ x.line = line ∧ x.data = s.bytes (line * 128) 128 ∧
          (t.dir line).dieCopies.getLsbD (otherIx home d) = true ∧ (t.dir line).rv = false) ∧
      ((s.die (coreDie c)).fenced = false → s.hasWays (coreDie c) line = true →
        ∃ t y, exec (.ownershipRequest c line) s = .next t ∧ cacheOnly t ∧
          (t.dirOn (coreDie c) line).ov = true ∧ (t.dirOn (coreDie c) line).owner.toNat = c.val % 448 ∧
          (t.dirOn (coreDie c) line).sharers = 0 ∧ (t.dir line).dieCopies = 0 ∧
          t.l1At c line = some y ∧ y.state = .modified ∧ t.ownerDie line = coreDie c ∧
          (∀ e : DieId, e ≠ home → e ≠ coreDie c → (s.dir line).dieCopies.getLsbD (otherIx home e) = true →
            .crossDieInvalidation e line (.core c) ∈ t.agenda) ∧
          (t.core c).invCount + s.agenda.length = (s.core c).invCount + t.agenda.length ∧
          ∀ x ∈ t.copies, ¬ (x.die = coreDie c ∧ x.line = line))) ∧
    (cacheableLine line = false ∨ s.lineExists line = false ∨ (s.die home).fenced = true →
      exec (.readCopyRequest d line) s = .next s ∧ exec (.ownershipRequest c line) s = .next s) ∧
    (s.hasWays d line = false → exec (.readCopyRequest d line) s = .next s) ∧
    -- settle rounds
    (open_.isOpen = false →
      exec (.settleMarker src d) s = .next s ∧ exec (.settleReport d) s = .next s ∧
      (open_.queued = [] → exec .settleRoundOpen s = .next s) ∧
      (open_.queued ≠ [] → exec .settleRoundOpen s = .next
        { s with
          settle := { isOpen := true, joined := open_.queued, queued := [], finished := open_.finished, markers := [], reports := [] }
          agenda := s.agenda ++ s.liveDies.map fun e => .settleMarker e e })) ∧
    (open_.isOpen = true →
      exec .settleRoundOpen s = .next s ∧
      (let u : State :=
        { s with
          settle := { open_ with markers := open_.markers ++ [(src, d)] }
          agenda := s.agenda ++
            if src = d then (s.liveDies.filter fun e => decide (e ≠ src)).map fun e => .settleMarker src e else [] }
      (u.markersIn d = false ∨ d ∈ open_.reports → exec (.settleMarker src d) s = .next u) ∧
      (u.markersIn d = true → d ∉ open_.reports →
        ∃ t, exec (.settleMarker src d) s = .next t ∧
          t = { u with
            dirs := t.dirs, copies := t.copies, caches := t.caches, order := t.order, cores := t.cores, agenda := t.agenda } ∧
          .settleReport d ∈ t.agenda ∧ (∀ l v, .crossDieInvalidation d l v ∉ t.agenda) ∧
          ∀ l v, .crossDieInvalidation d l v ∈ u.agenda → u.ownerDie l ≠ d → gone t l)) ∧
      ((s.liveDies.all (open_.reports ++ [d]).contains) = false →
        exec (.settleReport d) s = .next { s with settle := { open_ with reports := open_.reports ++ [d] } }) ∧
      ((s.liveDies.all (open_.reports ++ [d]).contains) = true →
        ∃ t, exec (.settleReport d) s = .next t ∧
          t = { s with
            agenda := t.agenda
            settle := { isOpen := false, joined := [], queued := open_.queued, finished := open_.finished ++ open_.joined
                        markers := [], reports := [] } } ∧
          (open_.queued = [] → t.agenda = s.agenda) ∧ (open_.queued ≠ [] → .settleRoundOpen ∈ t.agenda))) ∧
    -- a die is fenced
    ((s.die d).fenced = true → exec (.dieFence d) s = .next s) ∧
    (let u := (s.modDie d fun x => { x with fenced := true }).scanDirectory d
    (s.die d).fenced = false → open_.isOpen = false → u.overflowAsids u.scanDie = [] → u.lostStrands d = [] → u.callsOn d = [] →
      u.commandsOn d = [] → u.queuedLosses d = [] → s.chains = [] →
      ((∀ x ∈ s.residents, (∀ k, x.run ≠ .waitIo k) ∧ ∀ e k, x.run ≠ .waitClose e k) →
      ∃ t, exec (.dieFence d) s = .next t ∧ (t.die d).fenced = true ∧
        (s.order.early = [] → t.mem = s.mem ∧ t.tags = s.tags) ∧ (∀ l ∈ s.ownedBy d, 2 * l ∈ t.poison ∧ 2 * l + 1 ∈ t.poison) ∧ (∀ x ∈ t.copies, x.die ≠ d) ∧
        (∀ x ∈ t.residents, coreDie x.core ≠ d) ∧ (∀ l v, .crossDieInvalidation d l v ∉ t.agenda) ∧
        (∀ x ∈ t.caches.l1, coreDie x.core ≠ d) ∧ (∀ x ∈ t.caches.llc, x.die ≠ d) ∧
        (t.die d).waiters = [] ∧ (t.die d).teamQ = [] ∧ ∀ e : DieId, e ≠ d → (t.die e).fenced = (s.die e).fenced) ∧
      (∀ z, d = 0 → coreDie s.cur.core ≠ 0 → s.priv = true → s.cur.killed = false → s.parked = [] → s.outstanding = [z] → z.peer = none →
        s.cur.run = .waitIo z.id → ∃ t, exec (.dieFence d) s = .next t ∧ (t.die 0).fenced = true ∧ t.outstanding = [] ∧
          t.cur = { s.cur with run := .ready }.enterHandler
            { cause := 8, subcode := 0, tval := z.addr, epc := s.cur.pc - 4 }))

/-- R59 to R62, R73, R168, R169, R346, R376, R377, R384, R391, R392, R394, R395, R398 and R408. What a fenced die's memory and
registers do under such a write is assumption log 35. -/
def Obligations.RegisterWrites : Prop :=
  ∀ (s : State) (d : DieId) (f : FnId) (q : Fin 4) (v : Word) (n : BitVec 12) (loc k : Nat),
    let x := v.toNat
    let at_ := fun (d : DieId) (o : Nat) => RegTarget.mmio (mmioBase + d.val * 2 ^ 32 + o) 8
    let same := fun (t : RegTarget) (i : Instr) => exec (.registerWrite t v) s = exec i s
    -- which event a register's write is
    (same (at_ d 0x200020) (.teamBlockPoolPush d v) ∧ same (at_ d 0x200028) (.contextBlockPoolPush d v) ∧
      same (at_ d 0x200030) (.swapAreaPoolPush d v) ∧ same (at_ d (0x100200 + 8 * f.val)) (.reservationWrite d f v) ∧
      same (at_ d 0x700000) (.powerStateWrite d v) ∧ same (at_ d 0x600018) (.assayStart d v) ∧
      same (at_ 0 (0x400000 + 8 * f.val)) (.jobPointerWrite f v) ∧
      same (at_ 0 (0x500100 + 0x1000 * f.val + 0x40 * q.val)) (.queueRingBaseWrite f q v) ∧
      same (at_ 0 (0x500010 + 0x1000 * f.val + 8 * d.val)) (.lateFramePush f d v) ∧
      exec (.registerWrite (.mmio (mmioBase + d.val * 2 ^ 32 + 0x104000 + 4 * n.toNat) 4) v) s =
        exec (.lpnEntryWrite d n (v.setWidth 32)) s) ∧
    ((x / 2 ^ 62 = 0 → same (at_ d 0x300000) (.resolveRetry d v)) ∧
      (x / 2 ^ 62 = 1 → same (at_ d 0x300000) (.resolveResume d v)) ∧
      (x / 2 ^ 62 = 2 → same (at_ d 0x300000) (.resolveRetire d v)) ∧
      (x / 2 ^ 62 = 3 → same (at_ d 0x300000) (.resolveIgnored d v))) ∧
    (x % 512 < 448 →
      let c := coreOfNat (d.val * 448 + x % 512)
      let slot : Fin 16 := ⟨x / 2 ^ 16 % 16, Nat.mod_lt _ (by decide)⟩
      (v.getLsbD 63 = false → same (at_ d 0x200038) (.preEmptSlot c slot)) ∧
      (v.getLsbD 63 = true → same (at_ d 0x200038) (.preEmptTeam c slot))) ∧
    (same (.bar0 f (0x40 * q.val)) (.doorbell f q (v.setWidth 32)) ∧
      (v = 1 → same (.bar0 f (0x40 * q.val + 0x20)) (.queueReset f q)) ∧ same (.bar0 f 0x200) (.replyTag f v) ∧
      same (.bar0 f 0x208) (.transferToProcessor f v)) ∧
    -- the scheduler control block
    (let sets := fun (o : Nat) (g : Policy → Policy) => exec (.registerWrite (at_ d (0x200000 + o)) v) s = .next (s.modPol d g)
    sets 0 (fun y => { y with quantum := min 10000 (max 10 (x % 2 ^ 14)) }) ∧
      sets 8 (fun y => { y with ageing := min 64 (max 1 (x % 2 ^ 7)) }) ∧
      sets 0x10 (fun y => { y with pack := v.getLsbD 0 }) ∧
      sets (0x200 + 8 * f.val) (fun y => { y with
        weights := y.weights.set f (if x % 256 = 0 then 1 else BitVec.ofNat 8 x) }) ∧
      sets (0x400 + 16 * f.val) (fun y => { y with
        cmasks := y.cmasks.set f (BitVec.ofNat 112 ((y.cmasks.get f).toNat / 2 ^ 64 * 2 ^ 64 + x)) }) ∧
      sets (0x400 + 16 * f.val + 8) (fun y => { y with
        cmasks := y.cmasks.set f (BitVec.ofNat 112 (x % 2 ^ 48 * 2 ^ 64 + (y.cmasks.get f).toNat % 2 ^ 64)) })) ∧
    -- Ceiling
    (let c := min (x % 2 ^ 13) 4096
    (c < (s.die d).totalReserved → exec (.registerWrite (at_ d 0x100000) v) s = .next s) ∧
      ((s.die d).totalReserved ≤ c →
        exec (.registerWrite (at_ d 0x100000) v) s = .next (s.modDie d fun y => { y with ceiling := c }))) ∧
    -- the error bank
    (exec (.registerWrite (at_ d 0x600008) v) s = .next (s.modDie d fun y => { y with errConsumed := x }) ∧
      ∀ j, j < 256 →
        let w := exec (.registerWrite (at_ d (0x601000 + 64 * j)) v) s
        (mapGet? (s.die d).errSlots j = none → w = .next s) ∧
        ∀ e, mapGet? (s.die d).errSlots j = some e →
          let e' : ErrSlot :=
            { e with
              assay := BitVec.ofNat 4 (x / 16 % 16), removed := decide (x / 4 % 2 = 1)
              cls := if x % 4 = 3 then e.cls else BitVec.ofNat 2 (x % 4) }
          let u := s.modDie d fun y => { y with errSlots := mapSet y.errSlots j e' }
          w = .next (if x / 4 % 2 = 1 ∧ e.removed = false then u.removeUnit e.report.kind.toNat e.report.unit.toNat else u)) ∧
    -- a function's control block
    (let block := fun (o : Nat) => exec (.registerWrite (at_ 0 (0x500000 + 0x1000 * f.val + o)) v) s
    let sets := fun (o : Nat) (g : Function → Function) => block o = .next (s.modFn f g)
    let tells := fun (o : Nat) (g : Function → Function) =>
      ∃ t, block o = .next t ∧ t = { s.modFn f g with agenda := t.agenda } ∧ ∀ i ∈ s.agenda, i ∈ t.agenda
    let base := BitVec.ofNat 64 (x / 2 ^ 16 % 2 ^ 32 * 2 ^ 16)
    let queue := fun (g : Queue → Queue) (y : Function) => { y with queues := y.queues.set q (g (y.queues.get q)) }
    sets 0 (fun y => { y with
        windowAsid := BitVec.ofNat 12 (x / 2 ^ 52), wb := base
        windowSize := if 16 ≤ x % 64 ∧ x % 64 ≤ 40 then x % 64 else y.windowSize }) ∧
      sets 8 (fun y => { y with weight := if x % 256 = 0 then 1 else BitVec.ofNat 8 x }) ∧
      tells 0x30 (fun y => { y with ring := BitVec.ofNat 64 (x / 4096 * 4096) }) ∧
      tells 0x38 (fun y => { y with ringSize := if 4 ≤ x % 32 ∧ x % 32 ≤ 12 then x % 32 else y.ringSize }) ∧
      sets 0x40 (fun y => { y with apAsid := BitVec.ofNat 12 (x / 2 ^ 52), ab := base }) ∧
      sets 0x48 (fun y => { y with apSize := if 16 ≤ x % 64 ∧ x % 64 ≤ 40 then x % 64 else y.apSize }) ∧
      tells (0x108 + 0x40 * q.val) (queue fun y => { y with n := x % 32 }) ∧
      sets (0x110 + 0x40 * q.val) (queue fun y => { y with cbase := v }) ∧
      tells (0x118 + 0x40 * q.val) (queue fun y => { y with m := x % 32 }) ∧
      sets (0x120 + 0x40 * q.val) (queue fun y => { y with asid := v.setWidth 12 })) ∧
    -- other writes
        (k ≠ 4 → k ≠ 8 → exec (.registerWrite (.mmio loc k) v) s = .next s) ∧
    (loc % 8 ≠ 0 → exec (.registerWrite (.bar0 f loc) v) s = .next s) ∧
    -- pools
    (s.mem.wf = true → ∀ i p size, (i, p, size) ∈
        ([(.teamBlockPoolPush d v, .team, 8192), (.contextBlockPoolPush d v, .context, 4096),
          (.swapAreaPoolPush d v, .swap, 2056 * 1024)] : List (Instr × Pool × Nat)) →
      let b := x % 2 ^ 52
      let own := b % 4096 = 0 ∧ b / hbmSpan = d.val ∧ (b + size - 1) / hbmSpan = d.val
      (own → (s.die d).fenced = false → s.partlyPoisoned b 8 = false →
        ∃ t, exec i s = .next t ∧
          t = { s with
            mem := t.mem, tags := t.tags, poison := t.poison, copies := t.copies, order := t.order, dies := t.dies
            agenda := t.agenda } ∧
          t.die d = (s.die d).setPool p { top := b, count := ((s.die d).pool p).count + 1 } ∧
          t.mem64 b = ((s.die d).pool p).top % 2 ^ 64 ∧
          memoryBut s t b 8 ∧ (∀ e : DieId, e ≠ d → t.die e = s.die e) ∧ (∀ j ∈ s.agenda, j ∈ t.agenda) ∧
          (p = .team → (s.die d).teamQ ≠ [] → .teamPlacement d ∈ t.agenda) ∧
          (p = .context → ∀ e ∈ s.cores, e.1 / 448 = d.val → e.2.pushes ≠ [] → .strandResume (coreOfNat e.1) ∈ t.agenda)) ∧
      (¬ own → exec i s = .next (s.refuse d none))) ∧
    -- reservations
    (let y := s.die d
    let old := (y.resv.get f).reservation.toNat
    let m := x % 2 ^ 13
    (old < m ∧ y.ceiling < y.totalReserved - old + m → exec (.reservationWrite d f v) s = .next s) ∧
    (¬ (old < m ∧ y.ceiling < y.totalReserved - old + m) →
      ∃ t, exec (.reservationWrite d f v) s = .next t ∧ t = { s with dies := t.dies, agenda := t.agenda } ∧
        t.die d = { y with resv := y.resv.set f { reservation := BitVec.ofNat 13 m, resident := (y.resv.get f).resident } } ∧
        (∀ e : DieId, e ≠ d → t.die e = s.die e) ∧
        (m < old → m * 512 < (y.resv.get f).resident → .leafShrink d f ∈ t.agenda))) ∧
    -- LPN entries
    (∀ w : BitVec 32,
      ((s.lpn d n.toNat).state ≠ .empty → exec (.lpnEntryWrite d n w) s = .next s) ∧
      ((s.lpn d n.toNat).state = .empty →
        ∃ t, exec (.lpnEntryWrite d n w) s = .next t ∧ t = { s with dies := t.dies } ∧
          t.lpn d n.toNat = { s.lpn d n.toNat with v := w.getLsbD 31, f := w.setWidth 6 } ∧
          ∀ e m, (e ≠ d ∨ m ≠ n.toNat) → t.lpn e m = s.lpn e m)) ∧
    -- late frames
    (let frame := x / 2 ^ 16 % 2 ^ 36 * 2 ^ 16
    (frame < hbmTop → homeDie frame = d →
      ∃ t, exec (.lateFramePush f d v) s = .next t ∧ t = { s with funcs := t.funcs } ∧
        t.fn f = { s.fn f with frames := (s.fn f).frames.set d (frame :: (s.fn f).frames.get d) } ∧
        ∀ g : FnId, g ≠ f → t.fn g = s.fn g) ∧
    (¬ (frame < hbmTop ∧ homeDie frame = d) → exec (.lateFramePush f d v) s = .next (s.refuse 0 none))) ∧
    -- power states
    (let top := min (s.die d).ceiling (powerCeiling (x % 4))
    let w := match x % 4 with | 0 => 12 | 1 => 8 | _ => 4
    let u := s.leaveQueues (.power d)
    (x % 4 = 3 ∨ top < (s.die d).totalReserved ∨ (s.die d).fenced → exec (.powerStateWrite d v) s = .next u) ∧
    (x % 4 ≠ 3 → (s.die d).totalReserved ≤ top → (s.die d).fenced = false →
      (s.leafLines d fun _ _ way => decide (w ≤ way)) = [] →
      ∃ t, exec (.powerStateWrite d v) s = .next t ∧
        t = { u with dies := t.dies, dirs := t.dirs, copies := t.copies, caches := t.caches } ∧
        t.die d = { u.die d with ceiling := top, power := BitVec.ofNat 2 (x % 4), powerReq := BitVec.ofNat 2 (x % 4) } ∧
        (∀ e : DieId, e ≠ d → t.die e = u.die e) ∧ ∀ y ∈ t.caches.llc, y.die = d → y.way < w))

/-- R377 to R384. Where the ring is in host memory, the entry is the data of the read, which the spec does not state
(assumption log 8); whether the host has enabled a vector is a free value (assumption log 30); what lies on a fenced die or in
a poisoned sector is assumption log 35, and that an add at `sys` waits for the writes of all strands is assumption log 20. -/
def Obligations.LaunchQueues : Prop :=
  ∀ (s u : State) (f : FnId) (q : Fin 4) (v : BitVec 32) (w : Word) (bs : List Byte) (tag : Bool),
    let x := s.queue f q
    -- doorbells
    (x.state = 2 ∨ follows v x.latched = false → exec (.doorbell f q v) s = .next s) ∧
    (x.state ≠ 2 → follows v x.latched = true →
      ∃ t, exec (.doorbell f q v) s = .next t ∧ t = { s with funcs := t.funcs, dies := t.dies, agenda := t.agenda } ∧
        t.queue f q = { x with latched := v, state := if x.state = 0 then 1 else x.state } ∧ 0 ∈ (t.die 0).ints ∧
        (t.mayConsume f q = true → .launchEntryConsume f q ∈ t.agenda)) ∧
    -- entries
    (s.mayConsume f q = false → exec (.launchEntryConsume f q) s = .next s) ∧
    (s.fencedAt (x.slot (x.consumed + 1)) = true → exec (.launchEntryConsume f q) s = .next s) ∧
    (let seq := x.consumed + 1
    let r := s.physRead (x.base.toNat + 32 * (seq.toNat % 2 ^ x.n)) 32
    let e := entryOf r.1
    let s1 := r.2.modQueue f q fun y => { y with consumed := seq }
    let hdr := headerCap x.cap e.header
    let reached := capFault hdr e.header.toNat 64 [.load] = none ∧ e.header.toNat % 64 = 0
    let ends := fun (b : State) (st : Nat) =>
      ∃ t, exec (.launchEntryConsume f q) s = .next t ∧
        t = { b with funcs := t.funcs, due := b.due ++ [.completionRecord f q], agenda := t.agenda } ∧
        t.queue f q = { b.queue f q with ready := (b.queue f q).ready ++ [(seq, BitVec.ofNat 8 st, 0)] }
    let later := fun (b : State) =>
      ∃ t, exec (.launchEntryConsume f q) s = .next t ∧ t = { b with funcs := t.funcs, agenda := t.agenda } ∧
        t.queue f q = { b.queue f q with consumed := x.consumed }
    s.mayConsume f q = true → s.fencedAt (x.slot seq) = false →
      (e.seq ≠ seq → exec (.launchEntryConsume f q) s = .next r.2) ∧
      (e.seq = seq →
        ((r.2.desc 0 x.asid).live = false →
          ends (if (r.2.desc 0 x.asid).refused then s1.refuse 0 (some x.asid) else s1) 6) ∧
        ((r.2.desc 0 x.asid).live = true → ¬ reached → ends s1 1) ∧
        ((r.2.desc 0 x.asid).live = true → reached → s1.hostHeader f x.asid e.header = (.rejected u, tag) → ends u 1) ∧
        ((r.2.desc 0 x.asid).live = true → reached → s1.hostHeader f x.asid e.header = (.waits u, tag) → later u) ∧
        ((r.2.desc 0 x.asid).live = true → reached → s1.hostHeader f x.asid e.header = (.done u bs, tag) →
          let u1 := u.cacheDesc 0 x.asid
          let u2 := u1.checkRoot x.asid e.scope
          let l : Launch := { headerLaunch bs tag (arenaCap x.cap e.arena e.length) with
            asid := x.asid, f := u1.fnOf 0 x.asid, scope := e.scope, queue := some (f, q, seq) }
          let root := u1.rootScope x.asid e.scope
          let w := outsider x.asid (.host f 0)
          let st := u1.launchStatus w hdr bs l (root.map Prod.snd)
          let held := u1.launchHeld w hdr bs l (root.map Prod.snd)
          (held = true → later (u1.askAdd e.header.toNat l)) ∧
          (held = false → st ≠ 0 → ends u2 st) ∧
          (held = false → st = 0 → l.teams = 0 → ends (u2.performAdd w l) 0) ∧
          (held = false → st = 0 → l.teams ≠ 0 → ∃ a c, root = some (a, c) ∧ c.acceptsAll = true ∧
            ∃ t, exec (.launchEntryConsume f q) s = .next t ∧
              t = { u2 with nextId := u2.nextId + 1, launches := t.launches, dies := t.dies, agenda := t.agenda } ∧
              t.launches = u2.launches ++ [{ l with id := u2.nextId, left := l.teams * l.strands }] ∧
              t.cached a = some { c with births := c.births + BitVec.ofNat 64 (l.teams * l.strands) } ∧
              (t.die 0).teamQ = (u2.die 0).teamQ ++ [.fresh u2.nextId 0 0] ∧ .teamPlacement 0 ∈ t.agenda)))) ∧
    -- completion records
    (x.state ≠ 2 → (x.ready = [] ∨ (x.hasRoom = false ∧ ∀ o ∈ s.outstanding, o.posted = false)) →
      exec (.completionRecord f q) s = .next s) ∧
    (∀ seq st lost, x.state ≠ 2 → x.ready = [(seq, st, lost)] → x.hasRoom = true → s.mem.wf = true →
      (∀ o ∈ s.outstanding, o.posted = false) →
      let a := x.cbase.toNat + 16 * (seq.toNat % 2 ^ x.m)
      let record := seq.toNat + st.toNat * 2 ^ 32 + lost % 2 ^ 40 * 2 ^ 88
      let vector := if (Config.freeWord s.tick).getLsbD q.val then [Sent.msix f q.val] else []
      s.fencedAt a = false → (s.die 0).fenced = false → s.partlyPoisoned a 16 = false →
      ∃ t, exec (.completionRecord f q) s = .next t ∧ (t.queue f q).ready = [] ∧
        (t.queue f q).produced = x.produced + 1 ∧
        (x.written = [] → x.completed + 1 = seq → (t.queue f q).completed = seq) ∧
        (regionOf a = .host →
          t = { s with
            funcs := t.funcs, tick := s.tick + 1, sent := s.sent ++ .hostWrite (hostAddr a) (leBytes 16 record) :: vector }) ∧
        (regionOf a ≠ .host → t.memN a 16 = record ∧ memoryBut s t a 16 ∧ t.sent = s.sent ++ vector)) ∧
    -- configuration, resets and restarts
    (∃ t, exec (.queueRingBaseWrite f q w) s = .next t ∧ t = { s with funcs := t.funcs } ∧
      t.queue f q = { x with
        base := w, latched := 0, consumed := 0, completed := 0, head := 0, state := 0, produced := 0, written := [], killing := [] }) ∧
    (x.state = 2 → exec (.queueReset f q) s = .next s) ∧
    (x.state ≠ 2 → (∀ l ∈ s.launches, ∀ k, l.queue ≠ some (f, q, k)) →
      ∃ t, exec (.queueReset f q) s = .next t ∧
        t = { s with funcs := t.funcs, due := s.due ++ [.completionRecord f q] } ∧
        t.queue f q = { x with state := 2, killing := [] }) ∧
    (x.state ≠ 2 →
      let mine := s.launches.filter fun l => l.fromQueue f q
      let kills := mine.foldl (fun y l => (y.killScope l.asid l.scope).modLaunch l.id fun l => { l with killed := true })
        (s.modQueue f q fun x => { x with state := 2, killing := (mine.map Launch.scope).eraseDups })
      ∃ t, exec (.queueReset f q) s = .next t ∧ t = { kills with due := kills.due ++ [.completionRecord f q] } ∧
        (t.queue f q).state = 2 ∧ (t.queue f q).killing = (mine.map Launch.scope).eraseDups ∧
        (t.queue f q).latched = x.latched ∧ ∀ l ∈ t.launches, l.fromQueue f q = true → l.killed = true) ∧
    (x.state = 2 → x.ready = [] → (∀ l ∈ s.launches, ∀ k, l.queue ≠ some (f, q, k)) →
      (∀ r ∈ x.killing, s.killReported x.asid r = true) →
      ∃ t, exec (.completionRecord f q) s = .next t ∧ t = { s with funcs := t.funcs } ∧
        t.queue f q = { x with latched := x.consumed, state := 0, killing := [] }) ∧
    exec (.firmwareCoreRestart false) s = .next { s with restarting := true } ∧
    ∃ t, exec (.firmwareCoreRestart true) s = .next t ∧ t = { s with restarting := false, agenda := t.agenda } ∧
      ∀ g k, t.mayConsume g k = true → .launchEntryConsume g k ∈ t.agenda

/-- R326, R385 to R391. Whether the host has enabled a vector is a free value (assumption log 30). The tag of a posted entry is
assumption log 20; that a request which waits for the host is passed over and goes back to its queue, that every entry that maps
the region is rewritten, and what a transfer that names no region of the host window does are assumption log 31; what lies on a
fenced die or in a poisoned sector is assumption log 35. -/
def Obligations.BenchCalls : Prop :=
  ∀ (s : State) (d : DieId) (f : FnId) (b : Fin 64) (pre post : List BenchEntry) (e : BenchEntry) (h : Handle) (a : Asid)
      (sc : BitVec 32) (w tag : Word),
    let number := w.toNat % 2 ^ 16
    let x := s.fn f
    -- dispatch (R386)
    ((∀ k < 16, s.benchServes (benchOf d k) = true → 256 ≤ (s.ring (benchOf d k)).length) → exec (.benchRequestDispatch d) s = .next s) ∧
    ((∃ k < 16, s.benchServes (benchOf d k) = true ∧ (s.ring (benchOf d k)).length < 256) →
      (∀ front r back, (s.die d).benchQ.get f = front ++ r :: back → (∀ y ∈ front, s.waitsForHost f y = true) →
        s.waitsForHost f r = false → 0 < (s.die d).deficits.get f →
        (∀ g : FnId, g < f → s.nextRequest d g = none ∨ (s.die d).deficits.get g ≤ 0) →
        ∃ t c, exec (.benchRequestDispatch d) s = .next t ∧ benchDie c = d ∧ s.benchServes c = true ∧ (s.ring c).length < 256 ∧
          t.ring c = s.ring c ++ [{ f := f, req := r, stage := r.stage }] ∧ (∀ k, k ≠ c → t.ring k = s.ring k) ∧
          (t.die d).benchQ.get f = front ++ back ∧ (∀ g : FnId, g ≠ f → (t.die d).benchQ.get g = (s.die d).benchQ.get g) ∧
          (∀ g : FnId, (t.die d).deficits.get g = if g = f ∧ front ++ back = [] then 0 else (s.die d).deficits.get g) ∧
          t = { s with tick := t.tick, dies := t.dies, rings := t.rings, agenda := t.agenda }) ∧
      ((∀ g : FnId, s.nextRequest d g = none) → exec (.benchRequestDispatch d) s = .next s) ∧
      ((∃ g : FnId, s.nextRequest d g ≠ none) →
        (∀ g : FnId, s.nextRequest d g = none ∨ (s.die d).deficits.get g ≤ 0) →
        ∃ t, exec (.benchRequestDispatch d) s = .next t ∧ t = { s with dies := t.dies, agenda := t.agenda } ∧
          .benchRequestDispatch d ∈ t.agenda ∧
          ∀ g : FnId, (t.die d).deficits.get g =
            if (s.die d).benchQ.get g = [] then (s.die d).deficits.get g
            else min ((s.die d).deficits.get g + ((s.fn g).weight.toNat : Int) * 4096)
              (((s.fn g).weight.toNat : Int) * 65536))) ∧
    -- system calls (R387)
    (let served := fun (i : Instr) (p : Nat → Bool) (v : Word) (P : State → Prop) =>
      (∀ y ∈ pre, y.isCall p = false) → s.ring b = pre ++ e :: post → e.stage = .waiting → e.req = .call h a sc w →
      p number = true →
        ∃ t, exec i s = .next t ∧ t.ring b = pre ++ { e with stage := .answered v } :: post ∧
          (∀ k, k ≠ b → t.ring k = s.ring k) ∧ .benchReply b ∈ t.agenda ∧ P t
    let still := fun t : State => t = { s with rings := t.rings, agenda := s.agenda ++ [.benchReply b] }
    let td := dieOfNat (w.toNat / 2 ^ 16 % 4)
    let free := fun n : Nat => n < 4096 ∧ (s.lpn td n).state = .empty ∧ (s.lpn td n).v = false
    served (.syscallNull b) (fun n => decide (n = 0)) 0 still ∧
    ((s.fn e.f).ring = 0 → served (.syscallHost b) (fun n => decide (n = 1)) (BitVec.allOnes 64) still) ∧
    ((s.fn e.f).ring ≠ 0 → (∀ y ∈ pre, (y.isCall fun n => decide (n = 1)) = false) → s.ring b = pre ++ e :: post →
      (e.isCall fun n => decide (n = 1)) = true →
        ∃ t, exec (.syscallHost b) s = .next t ∧ t = { s with agenda := t.agenda } ∧ .serviceRingPost e.f ∈ t.agenda) ∧
    ((∀ n, ¬ free n) → served (.syscallLpnAssign b) (fun n => decide (n = 2)) (BitVec.allOnes 64) still) ∧
    (∀ n, free n → (∀ m < n, ¬ free m) →
      served (.syscallLpnAssign b) (fun n => decide (n = 2)) (BitVec.ofNat 64 n) fun t =>
        t = { s with rings := t.rings, dies := t.dies, agenda := s.agenda ++ [.benchReply b] } ∧
        t.lpn td n = { s.lpn td n with v := true, f := BitVec.ofNat 6 e.f.val } ∧
        ∀ c m, (c ≠ td ∨ m ≠ n) → t.lpn c m = s.lpn c m) ∧
    served (.syscallFirmware b) (fun n => decide (n ≥ 3)) (Config.firmwareCall w) still) ∧
    -- replies (R326, R385)
    ((∀ y ∈ s.ring b, y.isAnswered = false) → exec (.benchReply b) s = .next s) ∧
    (∀ v, (∀ y ∈ pre, y.isAnswered = false) → s.ring b = pre ++ e :: post → e.stage = .answered v →
      e.req = .call h a sc w → s.teamOfRecord h.addr = none → s.mem.wf = true →
        (s.die (coreDie (coreOfNat (s.recCore h.addr)))).fenced = false → s.fencedAt (h.addr + 48) = false →
        s.partlyPoisoned (h.addr + 48) 8 = false →
        ∃ t, exec (.benchReply b) s = .next t ∧ t.ring b = pre ++ post ∧ t.mem64 (h.addr + 48) = v.toNat ∧
          memoryBut s t (h.addr + 48) 8 ∧ t.pushed h ∧ t.due = s.due ++ [.scopeDeath a sc] ∧
          1 ∈ (t.die (benchDie b)).ints) ∧
    (∀ v, (∀ y ∈ pre, y.isAnswered = false) → s.ring b = pre ++ e :: post → e.stage = .answered v → e.req.caller = none →
      ∃ t, exec (.benchReply b) s = .next t ∧ t.ring b = pre ++ post ∧ t.mem = s.mem ∧ t.due = s.due ∧
        1 ∈ (t.die (benchDie b)).ints) ∧
    -- the host service ring (R388)
    (s.hostWaiter f = none → exec (.serviceRingPost f) s = .next s) ∧
    (s.hostWaiter f = some (b, e) → x.serviceRoom = false → (s.rings.map Prod.fst).Pairwise (· < ·) →
      (∀ r ∈ s.rings, r.1 < 64) → s.ring b = pre ++ e :: post → (∀ y ∈ pre, y.toHost f = false) →
        ∃ t, exec (.serviceRingPost f) s = .next t ∧ (∀ k, k ≠ b → t.ring k = s.ring k) ∧
          (x.ring = 0 ∧ (∃ h a sc w, e.req = .call h a sc w) →
            t = { s with rings := t.rings, agenda := t.agenda } ∧ .benchReply b ∈ t.agenda ∧
            t.ring b = pre ++ { e with stage := .answered (BitVec.allOnes 64) } :: post) ∧
          (¬ (x.ring = 0 ∧ (∃ h a sc w, e.req = .call h a sc w)) →
            t = { s with rings := t.rings, dies := t.dies, agenda := t.agenda } ∧ t.ring b = pre ++ post ∧
            t.dies = (s.modDie (benchDie b) fun y => { y with benchQ := y.benchQ.set f (e.req :: y.benchQ.get f) }).dies)) ∧
    (s.hostWaiter f = some (b, e) → x.serviceRoom = true → (s.rings.map Prod.fst).Pairwise (· < ·) →
      (∀ r ∈ s.rings, r.1 < 64) → (∀ o ∈ s.outstanding, o.posted = false) →
        let k : Nat × Nat × Asid := match e.req with
          | .call _ a _ w => (1, w.toNat, a)
          | .transfer _ region a => (2, region.toNat, a)
          | _ => (0, 0, 0)
        let address := x.ring.toNat + 64 * (x.produced.toNat % 2 ^ x.ringSize)
        ∃ t, exec (.serviceRingPost f) s = .next t ∧ (t.fn f).produced = x.produced + 1 ∧ t.nextId = s.nextId + 1 ∧
          t.sent = s.sent ++ .hostWrite address (serviceEntry x.produced k.1 s.nextId k.2.1 k.2.2) ::
            (if (Config.freeWord s.tick).getLsbD 4 then [Sent.msix f 4] else []) ∧
          (t.fn f).tags = x.tags ++ [(BitVec.ofNat 64 s.nextId, b.val)] ∧
          { e with stage := .forwarded (BitVec.ofNat 64 s.nextId) } ∈ t.ring b ∧
          t = { s with tick := s.tick + 1, nextId := t.nextId, sent := t.sent, funcs := t.funcs, rings := t.rings, agenda := t.agenda }) ∧
    ((∀ y ∈ x.tags, y.1 = tag → s.isForwarded y.2 tag = false) →
      exec (.replyTag f tag) s = .next (s.refuse 0 (some x.windowAsid))) ∧
    ((tag, b.val) ∈ x.tags → (∀ y ∈ x.tags, y.1 = tag → y.2 = b.val) → s.isForwarded b.val tag = true →
      ∃ t, exec (.replyTag f tag) s = .next t ∧
        t = { s with funcs := t.funcs, rings := t.rings, dies := t.dies, agenda := t.agenda } ∧
        (t.ring b = (s.ring b).map fun y =>
          if y.stage = .forwarded tag then { y with stage := .answered x.replyValue } else y) ∧
        (∀ y, y ∈ (t.fn f).tags ↔ y ∈ x.tags ∧ y.1 ≠ tag) ∧ 3 ∈ (t.die 0).ints ∧ .benchReply b ∈ t.agenda ∧
        ∀ r, (r, tag) ∈ x.grants → (∀ y ∈ x.grants, y.2 = tag → y.1 = r) → .ownershipGrant f r ∈ t.agenda) ∧
    -- ownership transfers (R390, R391)
    (let region := regionOfWord w
    let chained := ∃ c ∈ s.chains, c.1 = .ownership region
    let asked := s.modFn f fun y => { y with xferReg := BitVec.ofNat 64 region }
    let owned := fun (u t : State) (owner : Nat) =>
      (∀ p ∈ u.regionEntries region, t.mem64 p = s.mem64 p - bitsOf (s.mem64 p) 59 2 * 2 ^ 59 + owner * 2 ^ 59) ∧
      ∀ k, ¬ (regionOf region = .host ∧ region ≤ k ∧ k < region + regionBytes) →
        (∀ p ∈ u.regionEntries region, ¬ (p ≤ k ∧ k < p + 8)) → t.mem.read k = s.mem.read k
    ((s.die 0).fenced = true → exec (.ownershipGrant f w) s = .next s) ∧
    (s.mem.wf = true → (∀ e : DieId, (s.die e).fenced = false) → (∀ p ∈ s.regionEntries region, s.partlyPoisoned p 8 = false) →
      (∀ c ∈ s.chains, c.1 = .ownership region → ∀ y ∈ c.2, s.teamOfRecord y.handle.addr = none) →
      ∃ t, exec (.ownershipGrant f w) s = .next t ∧ owned s t 2 ∧
        ∀ k y, s.chains.find? (fun c => decide (c.1 = .ownership region)) = some (k, [y]) → t.pushed y.handle) ∧
    (chained → exec (.transferToProcessor f w) s = .next { asked with stays := true }) ∧
    (¬ chained → regionOf region ≠ .host ∨ (s.die 0).fenced = true → exec (.transferToProcessor f w) s = .next asked) ∧
    (¬ chained → regionOf region = .host → s.mem.wf = true → (∀ e : DieId, (s.die e).fenced = false) →
      let back := s.regionOwned region
      let u := if back then (s.dropCopies region regionBytes).zeroRange region regionBytes else s
      (∀ p ∈ u.regionEntries region, s.partlyPoisoned p 8 = false) →
      ∃ t, exec (.transferToProcessor f w) s = .next t ∧ owned u t 1 ∧
        t.sent = (if back then s.sent ++ [.hostWrite (hostAddr region) (s.bytes region regionBytes)] else s.sent) ∧
        (t.fn f).xferReg = BitVec.ofNat 64 (region + 1)))

/-- R137, R141 to R143, R168, R170 to R173, R175 and R178. What placed time is and the swap in steps of QUANTUM_END are assumption
log 30, that saved waiters all join their controller's table is assumption log 36, that the order of a thief's circuit is free is
assumption log 1, and what lies on a fenced die or in a poisoned sector is assumption log 35. -/
def Obligations.Scheduling : Prop :=
  ∀ (s : State) (c v : CoreId) (d : DieId) (f : FnId) (k : Fin 16) (p : Fin 4) (h : Handle) (r : List Handle),
    let u := s.countTimes d
    let only := fun (x : CoreId) (q : List Handle) =>
      (s.core x).deques.get p = q ∧ ∀ j, j ≠ p → (s.core x).deques.get j = []
    -- resumption and steals
    (only c (h :: r) → (∀ j, (s.core c).spills.get j = []) → (s.core c).pushes = [] → s.testing 0 c.val = false → s.fitsOn c h →
      ∃ t, exec (.strandResume c) s = .next t ∧ s.runsFrom t c h ∧ (t.core c).deques.get p = r) ∧
    ((∀ j, (s.core c).deques.get j = [] ∧ (s.core c).spills.get j = []) → (s.core c).pushes = [] → exec (.strandResume c) s = .next s) ∧
    (s.isThief c = true → (s.core c).stealWait = false →
      (v ∈ s.stealChoices c → s.openCore v = true → only v (r ++ [h]) → (∀ j, (s.core v).spills.get j = []) →
        (s.core v).pushes = [] → (s.affinityOf h.addr = 1 → coreCluster c = coreCluster v) → s.affinityOf h.addr ≠ 0 →
        s.fitsOn c h →
        ∃ t, exec (.steal c v) s = .next t ∧ s.runsFrom t c h ∧ (t.core v).deques.get p = r) ∧
      (v ∈ s.stealChoices c → s.hasFor c v = false →
        let last := (s.unvisited c).all fun x => decide (x = v)
        ∃ t, exec (.steal c v) s = .next t ∧ t = { s with cores := t.cores } ∧ (∀ x : CoreId, x ≠ c → t.core x = s.core x) ∧
          t.core c =
            if last then { s.core c with visited := [], stole := false, stealWait := !(s.core c).stole }
            else { s.core c with visited := v :: (s.core c).visited }) ∧
      (s.stealChoices c = [] → ∃ t, exec (.steal c v) s = .next t ∧ t = { s with cores := t.cores } ∧
        t.core c = { s.core c with visited := [], stole := false, stealWait := true }) ∧
      (s.stealChoices c ≠ [] → v ∉ s.stealChoices c → exec (.steal c v) s = .next s)) ∧
    (∀ x ∈ s.stealChoices c, x ≠ c ∧ coreDie x = coreDie c ∧ (s.hasFor c x = true ∨ (s.userCore x = true ∧ x ∉ (s.core c).visited))) ∧
    (∀ x, x ≠ c → coreCluster x = coreCluster c → s.hasFor c x = true →
      ∃ y, s.stealChoices c = [y] ∧ coreCluster y = coreCluster c ∧ s.hasFor c y = true) ∧
    ((s.isThief c = false ∨ (s.core c).stealWait = true) → exec (.steal c v) s = .next s) ∧
    (∃ t, exec (.stealWaitExpiry c) s = .next t ∧ t = { s with cores := t.cores } ∧
      t.core c = { s.core c with stealWait := false } ∧ ∀ x : CoreId, x ≠ c → t.core x = s.core x) ∧
    -- placement
    (∀ x, s.teams = [x] → x.placed = true → x.die = d →
      u.teams = [{ x with since := s.time }] ∧
        (u.die d).placed.get x.f = (s.die d).placed.get x.f + (s.time - x.since).toNat) ∧
    (u = { s with teams := u.teams, dies := u.dies } ∧
      ∀ e : DieId, u.die e = { s.die e with placed := (u.die e).placed }) ∧
    (s.forwardable d = none → u.nextStep d = none → exec (.teamPlacement d) s = .next u) ∧
    (∀ e x, s.forwardable d = some (e, x) → x ≠ d →
      let e' := match e with
        | .fresh id j _ => QEntry.fresh id j 0
        | .swapped id => .swapped id
      ∃ t, exec (.teamPlacement d) s = .next t ∧ (t.die x).teamQ = (s.die x).teamQ ++ [e'] ∧ e ∉ (t.die d).teamQ) ∧
    (∀ id j b0 b left, s.forwardable d = none → u.nextStep d = some (.take (.fresh id j b0)) →
      (s.die d).teamPool = { top := b, count := left + 1 } →
      ∃ t, exec (.teamPlacement d) s = .next t ∧ (t.die d).teamPool = { top := s.mem64 b, count := left } ∧
        (t.die d).teamQ = ((s.die d).teamQ.map fun y => if y = .fresh id j b0 then .fresh id j b else y) ∧ t.teams = u.teams ∧
        .teamPlacement d ∈ t.agenda) ∧
    (∀ id j b l age aged spot, s.forwardable d = none → u.nextStep d = some (.place f (.fresh id j b) l age aged spot) →
      b % 4096 = 0 → b + 8192 ≤ hbmTop → (∀ e : DieId, (s.die e).fenced = false) →
      s.mem.wf = true → l.strands ≤ 64 → (∀ x ∈ s.teams, x.block + 8192 ≤ b ∨ b + 8192 ≤ x.block) →
      let cores := s.userCores spot.cluster
      ∃ t, exec (.teamPlacement d) s = .next t ∧
        (∃ x ∈ t.teams, x.id = s.nextId ∧ x.launchId = l.id ∧ x.index = j ∧ x.block = b ∧ x.die = d ∧
          x.cluster = spot.cluster ∧ x.cores = cores ∧ x.page0 = spot.page0 ∧ x.pages = l.pages ∧ x.placed = true) ∧
        (l.pages ≠ 0 → (s.nextId, spot.page0, l.pages) ∈ (t.cluster spot.cluster).allocs) ∧ .quantumEnd d s.nextId ∈ t.agenda ∧
        (∀ a, a < l.pages * 4096 → t.mem.read (clusterLoc spot.cluster + spot.page0 * 4096 + a) = unlisted) ∧
        t.mem64 (b + 4096 + 32) = 2 ^ l.strands - 1 ∧
        ∀ i < l.strands,
          let a := b + 64 * i
          t.recPc a = l.entry.toNat ∧ t.recScope a = l.scope ∧ t.recFlags a = 0x800 + l.grant.toNat * 64 ∧
            t.recPrio a = l.prio.toNat ∧ t.recAff a = 1 ∧ t.recFrame a = l.frameCap j i ∧
            t.recWait a = (coreFor cores i).val * 2 ^ 48 ∧ t.recThreshold a = 0 ∧ t.recCarry a = 0 ∧ t.recCtx a = 0 ∧
            ∃ x : CoreId, { asid := l.asid, addr := a } ∈ (t.core x).handles) ∧
    -- quanta
    (∀ id, (∀ x ∈ s.teams, x.id = id → x.placed = true → x.die ≠ d) → exec (.quantumEnd d id) s = .next s) ∧
    (∀ x, s.teams.find? (fun y => decide (y.id = x.id) && y.placed && decide (y.die = d)) = some x → s.mem.wf = true →
      let w := x.block + 4096
      let c := u.countQuantum x
      let area := x.area
      (area = 0 → s.swapping x.cluster = true →
        exec (.quantumEnd d x.id) s = .next { s with agenda := s.agenda ++ [.quantumEnd d x.id] }) ∧
      (area = 0 → s.swapping x.cluster = false → (c.wantsCluster x = false ∨ (s.die d).swapPool.count = 0) →
        s.fencedAt (w + 24) = false → s.fencedAt (w + 48) = false →
        s.partlyPoisoned (w + 24) 8 = false → s.partlyPoisoned (w + 48) 8 = false →
        ∃ t, exec (.quantumEnd d x.id) s = .next t ∧ .quantumEnd d x.id ∈ t.agenda ∧ t.teams = u.teams ∧
          t.dies = u.dies ∧ bitsOf (t.mem64 (w + 24)) 48 16 = min (bitsOf (s.mem64 (w + 24)) 48 16 + 1) 65535 ∧
          t.mem64 (w + 48) = s.time.toNat ∧ memoryBut s t (w + 24) 32) ∧
      (∀ a left, area = 0 → s.swapping x.cluster = false → c.wantsCluster x = true →
        (s.die d).swapPool = { top := a, count := left + 1 } →
        ∃ t, exec (.quantumEnd d x.id) s = .next t ∧ .quantumEnd d x.id ∈ t.agenda ∧
          (t.die d).swapPool = { top := c.mem64 a, count := left } ∧
          (∃ y ∈ t.teams, y.id = x.id ∧ y.area = a) ∧ (∀ y ∈ t.teamResidents x, y.stopWanted = true) ∧
          ∀ n : CoreId, coreCluster n = x.cluster → ∀ y ∈ (t.core n).handles, x.owns y = false) ∧
      (area ≠ 0 → s.swapReady x = false →
        exec (.quantumEnd d x.id) s = .next { s with agenda := s.agenda ++ [.quantumEnd d x.id] }) ∧
      -- the end of a swap-out
      (area ≠ 0 → s.swapReady x = true →
        ∃ t, exec (.quantumEnd d x.id) s = .next t ∧ (t.die d).teamQ = (s.die d).teamQ ++ [.swapped x.id] ∧
          (∀ y ∈ t.teams, y.id = x.id → y.placed = false) ∧ (∀ a ∈ (t.cluster x.cluster).allocs, a.1 ≠ x.id) ∧
          let n := x.pages * 4096
          let ws := if n = 0 then [] else
            (s.cluster x.cluster).waiters.filter fun y => decide (x.base ≤ y.pa) && decide (y.pa < x.base + n)
          let saved := (s.copyRange x.base area n).putBlock (area + 0x200000) (ws.flatMap (waiterBytes x.base))
          (s.order.early = [] → area % 4096 = 0 → x.block % 4096 = 0 → x.pages ≤ 512 → ws.length ≤ 256 →
            apart [(x.base, n), (area, 0x202000), (w, 64)] → (n = 0 ∨ saved.overflowList x.die (saved.swapAsid x) = []) →
            (∀ e : DieId, (s.die e).fenced = false) → s.poison = [] →
            (∀ a < n, t.mem.read (area + a) = s.mem.read (x.base + a)) ∧
            (∀ a < x.pages * 256, t.tagAt (area + 16 * a) = s.tagAt (x.base + 16 * a)) ∧
            (∀ i y, ws[i]? = some y →
              let a := area + 0x200000 + 32 * i
              t.mem64 a = (y.pa - x.base) % 2 ^ 64 ∧ t.mem64 (a + 8) = y.threshold.toNat ∧
                t.mem64 (a + 16) = y.handle.addr % 2 ^ 64 ∧ t.mem64 (a + 24) = y.handle.asid.toNat) ∧
            bitsOf (t.mem64 (w + 24)) 32 16 = ws.length ∧ t.mem64 (w + 56) = area % 2 ^ 64 ∧
            ∀ y ∈ (t.cluster x.cluster).waiters, y ∈ (s.cluster x.cluster).waiters ∧ y ∉ ws))) ∧
    -- swap-ins
    (∀ x l age aged spot, s.forwardable d = none → u.nextStep d = some (.place f (.swapped x.id) l age aged spot) →
      s.teams.find? (fun y => decide (y.id = x.id)) = some x → x.placed = false → s.mem.wf = true →
      (∀ e : DieId, (s.die e).fenced = false) → s.poison = [] → l.strands ≤ 64 → x.block % 4096 = 0 → x.area % 4096 = 0 →
      (∀ y ∈ s.teams, y.id ≠ x.id → y.block + 8192 ≤ x.block ∨ x.block + 8192 ≤ y.block) →
      let n := x.pages * 4096
      let base := clusterLoc spot.cluster + spot.page0 * 4096
      let cores := s.userCores spot.cluster
      let w := x.block + 4096
      apart [(base, n), (x.area, 0x202000), (x.block, 8192)] → x.pages ≤ 512 →
      ∃ t, exec (.teamPlacement d) s = .next t ∧ .swapped x.id ∉ (t.die d).teamQ ∧
        { x with
          die := d, cluster := spot.cluster, cores := cores, page0 := spot.page0, placed := true, area := 0, twins := spot.twins
          since := s.time } ∈ t.teams ∧
        (∀ a < n, t.mem.read (base + a) = s.mem.read (x.area + a)) ∧
        (∀ a < x.pages * 256, t.tagAt (base + 16 * a) = s.tagAt (x.area + 16 * a)) ∧
        (t.cluster spot.cluster).waiters = (s.cluster spot.cluster).waiters ++ s.restoredWaiters x base ∧
        t.mem64 (w + 40) = 0 ∧ t.mem64 (w + 56) = 0 ∧ bitsOf (t.mem64 (w + 24)) 32 16 = 0 ∧
        bitsOf (t.memN w 32) 199 7 = spot.cluster.val % 112 ∧ bitsOf (t.memN w 32) 206 2 = d.val ∧
        (t.die (homeDie x.area)).swapPool = { top := x.area, count := (s.die (homeDie x.area)).swapPool.count + 1 } ∧
        (∀ i < l.strands, t.recCore (x.block + 64 * i) = (coreFor cores i).val) ∧
        ∀ i < 64, bitsOf (s.mem64 (w + 40)) i 1 = 1 →
          ∃ c : CoreId, { asid := s.swapAsid x, addr := x.block + 64 * i } ∈ (t.core c).handles) ∧
    -- pre-emption requests
    (let mark := fun x : Strand => if x.core = c ∧ x.slot = k ∧ x.run ≠ .absent then { x with stopWanted := true } else x
    s.userCore c = true →
      exec (.preEmptSlot c k) s = .next { s with cur := mark s.cur, parked := s.parked.map mark } ∧
      ((∀ x ∈ s.onCore c, x.slot ≠ k) → exec (.preEmptTeam c k) s = .next s) ∧
      (∀ x, s.onCore c = [x] → x.slot = k → (∀ y ∈ s.teams, y.id = x.teamId → y.placed = false) →
        exec (.preEmptTeam c k) s = exec (.preEmptSlot c k) s) ∧
      ∀ x y area left, s.onCore c = [x] → x.slot = k → s.teams = [y] → y.id = x.teamId → y.placed = true →
        (∀ n : CoreId, coreCluster n = y.cluster → ∀ j, (s.core n).spills.get j = []) →
        (y.area ≠ 0 ∨ (s.die y.die).swapPool.count = 0 → exec (.preEmptTeam c k) s = .next s) ∧
        (y.area = 0 → (s.die y.die).swapPool = { top := area, count := left + 1 } →
          ∃ t z, exec (.preEmptTeam c k) s = .next t ∧ t.teams = [z] ∧ z.id = y.id ∧ z.area = area ∧ z.placed = true ∧
            (∀ n ∈ t.teamResidents y, n.stopWanted = true) ∧ .quantumEnd y.die y.id ∈ t.agenda ∧
            (t.die y.die).swapPool = { top := s.mem64 area, count := left } ∧
            memoryBut s t (y.block + 4096 + 40) 16)) ∧
    (s.userCore c = false → exec (.preEmptSlot c k) s = .next s ∧ exec (.preEmptTeam c k) s = .next s)

/-- R342 to R347. Strands of teams, and what else ends with a strand that retires, are stated by Scheduling, ScopeDeaths
and Suspensions. That action 1 clears the wait of the record, and that the blocks of a strand that will not resume go back to their
pools, is assumption log 20; what lies on a fenced die or in a poisoned sector is assumption log 35. -/
def Obligations.FaultRecords : Prop :=
  ∀ (s : State) (d : DieId) (v : Word),
    let a : Asid := v.extractLsb' 48 12
    let seq := v.toNat % 2 ^ 40
    let fq := (s.desc d a).faultQueue
    let slot := fun n : Nat => fq + 64 + 64 * (seq % 2 ^ n)
    let acts := fun n : Nat =>
      (s.desc d a).live = true ∧ s.queueBits fq = some n ∧ s.mem64 (slot n + 8) % 2 ^ 40 = seq ∧
        bitsOf (s.mem64 (slot n)) 24 8 ≤ 1 ∧ bitsOf (s.mem64 (slot n)) 16 1 = 0 ∧
        bitsOf (s.mem64 (slot n + 16)) 16 2 = d.val ∧ s.mem64 (slot n + 8) < s.mem64 fq
    ((∀ n, ¬ acts n) →
      exec (.resolveRetry d v) s = .next (s.refuse d none) ∧ exec (.resolveResume d v) s = .next (s.refuse d none) ∧
      exec (.resolveRetire d v) s = .next (s.refuse d none)) ∧
    exec (.resolveIgnored d v) s = .next (s.refuse d none) ∧
    (∀ n, acts n → s.mem.wf = true → (∀ e : DieId, (s.die e).fenced = false) → s.partlyPoisoned (slot n) 8 = false →
      let p := slot n
      let head : Handle := { asid := BitVec.ofNat 12 (s.mem64 (p + 16)), addr := s.mem64 (p + 24) }
      let chain := ((s.openRecord d a seq).map OpenFault.chain).getD []
      let b := s.recCtx head.addr
      let resolved := fun t : State =>
        bitsOf (t.mem64 p) 16 1 = 1 ∧ (∀ k, k ≠ 16 → (t.mem64 p).testBit k = (s.mem64 p).testBit k) ∧
          ∀ o ∈ (t.die d).openFaults, ¬ (o.asid = a ∧ o.seq % 2 ^ 40 = seq)
      let pushes := fun (t : State) (l : List Handle) => ∀ h ∈ l, ∃ c : CoreId, h ∈ (t.core c).handles
      ((∀ h ∈ head :: chain, s.teamOfRecord h.addr = none) →
        (∃ t, exec (.resolveRetry d v) s = .next t ∧ resolved t ∧ pushes t (head :: chain) ∧ memoryBut s t p 8) ∧
        (bitsOf (s.mem64 p) 24 8 = 1 ∨ (b = 0 ∧ apart [(p, 64), (head.addr, 64)]) →
          ∃ t, exec (.resolveResume d v) s = .next t ∧ resolved t ∧ pushes t (head :: chain) ∧ memoryBut s t p 8) ∧
        (bitsOf (s.mem64 p) 24 8 = 0 → b ≠ 0 → apart [(p, 64), (b, 4096), (head.addr, 64)] →
          (∀ k ∈ [b + 0x418, b + 0x408, head.addr + 32, head.addr + 40], s.partlyPoisoned k 8 = false) →
          ∃ t, exec (.resolveResume d v) s = .next t ∧ resolved t ∧ pushes t (head :: chain) ∧
            t.mem64 (b + 0x418) = (s.mem64 (b + 0x418) + 4) % 2 ^ 64 ∧
            (∀ k, (t.mem64 (b + 0x408)).testBit k = ((s.mem64 (b + 0x408)).testBit k && decide (k ≠ 7))) ∧
            t.recThreshold head.addr = 0 ∧ t.recCtx head.addr = b ∧ t.recPc head.addr = s.recPc head.addr)) ∧
      (let blocks := fun h : Handle =>
        if s.recCtx h.addr ≠ 0 ∧ s.blocksOk h.addr = true then
          s.recCtx h.addr :: (if flagGrant (s.recFlags h.addr) = 0 then [] else [s.vecBlock (s.recCtx h.addr)])
        else []
      let freed := (head :: chain).flatMap blocks
      let on := fun e : DieId => freed.filter fun k => decide (homeDie k = e)
      (∀ h ∈ head :: chain, flagTeam (s.recFlags h.addr) = false ∧ s.openedBy h.addr = []) → (∀ l ∈ s.launches, l.id ≠ 0) →
        apart ((p, 64) :: (head :: chain).flatMap fun h => (h.addr, 64) :: (blocks h).map fun k => (k, 4096)) →
        ∃ t, exec (.resolveRetire d v) s = .next t ∧ resolved t ∧ t.cores = s.cores ∧ t.launches = s.launches ∧
          t.due = s.due ++ (head :: chain).map (fun h => .scopeDeath h.asid (s.recScope h.addr)) ∧
          (∀ e : DieId, (t.die e).ctxPool =
            { top := (on e).getLastD (s.die e).ctxPool.top, count := (s.die e).ctxPool.count + (on e).length }) ∧
          ∀ k, ¬ (p ≤ k ∧ k < p + 8) → (∀ h ∈ head :: chain, ¬ (h.addr + 56 ≤ k ∧ k < h.addr + 64)) →
            (∀ q ∈ freed, ¬ (q ≤ k ∧ k < q + 8)) → t.mem.read k = s.mem.read k)) ∧
    -- held records
    ((∀ e : DieId, ∀ y ∈ (s.die e).hold, y.asid ≠ a) → exec (.faultQueueSlotFree a) s = .next s) ∧
    (∀ r rest n, (s.die d).hold = r :: rest → r.asid = a → (∀ y ∈ rest, y.asid ≠ a) →
      (∀ e : DieId, e ≠ d → ∀ y ∈ (s.die e).hold, y.asid ≠ a) →
      let fq := (s.desc r.die a).faultQueue
      s.queueBits fq = some n →
      (s.slotFree fq n = false →
        ∃ t, exec (.faultQueueSlotFree a) s = .next t ∧ t = { s with dies := t.dies, agenda := t.agenda, chains := t.chains, funcs := t.funcs } ∧
          (t.die d).hold = rest ++ [r] ∧ .faultQueueSlotFree a ∈ t.agenda) ∧
      (s.slotFree fq n = true → 2 ≤ r.kind.toNat → (s.die r.die).fqctr = 0 → s.mem64 fq + 1 < 2 ^ 64 → s.mem.wf = true →
        let p := s.mem64 fq
        let at_ := fq + 64 + 64 * (p % 2 ^ n)
        s.partlyPoisoned fq 8 = false → s.fencedAt at_ = false → s.partlyPoisoned at_ 64 = false →
        ∃ t, exec (.faultQueueSlotFree a) s = .next t ∧ (t.die d).hold = rest ∧ t.mem64 fq = p + 1 ∧
          t.bytes (fq + 64 + 64 * (p % 2 ^ n)) 64 = { r with time := s.time }.image p ∧
          ∀ k, ¬ (fq ≤ k ∧ k < fq + 8) → ¬ (fq + 64 + 64 * (p % 2 ^ n) ≤ k ∧ k < fq + 128 + 64 * (p % 2 ^ n)) →
            t.mem.read k = s.mem.read k))

/-- R34, R35, R37, R56, R68 to R72, R74 and R78. That every group of the causing ASID is rewritten is assumption log 38; what lies
in a poisoned sector is assumption log 35. -/
def Obligations.LeafEvents : Prop :=
  ∀ (s : State) (d : DieId) (f : FnId) (n : BitVec 12) (a : Asid) (byAccess : Bool) (va : BitVec 48),
    let lpn := n.toNat
    let e := s.lpn d lpn
    let g : FnId := e.f.toFin
    let held := fun t : State => ((t.die d).resv.get g).resident
    let base := leafLoc d.val lpn 0
    let lost := fun (t : State) (q : List Agent) =>
      t.lpn d lpn = { e with state := .lost, lines := [], queue := q } ∧ held t = held s - e.lines.length ∧
        (∀ k < 65536, t.mem.read (base + k) = unlisted) ∧ ∀ k, ¬ (base ≤ k ∧ k < base + 65536) → t.mem.read k = s.mem.read k
    let backed := fun (t : State) (b : Asid) (frame : Nat) (rest : List Nat) =>
      let fq := (s.desc d b).faultQueue
      t.lpn d lpn = { e with state := .backed, lines := [], frame := frame, queue := [] } ∧ (t.fn g).frames.get d = rest ∧
        held t = held s - e.lines.length ∧ (∀ x ∈ t.tlb, namesPage x.entry.toNat d lpn = false) ∧
        ((s.desc d b).live = false → apart [(frame, 65536), (base, 65536), (s.descAddr b, 64)] →
          (∀ k < 65536, t.mem.read (frame + k) = s.mem.read (base + k)) ∧
          ∀ k, ¬ (base ≤ k ∧ k < base + 65536) → ¬ (frame ≤ k ∧ k < frame + 65536) → t.mem.read k = s.mem.read k) ∧
        ∀ l, s.leafGroups b d lpn = [l] → s.fencedAt l = false → (∀ i < 16, s.partlyPoisoned (l + 8 * i) 8 = false) → l % 128 = 0 →
          apart [(frame, 65536), (base, 65536), (s.descAddr b, 64), (l, 128), (fq, 64 + 64 * 2 ^ 20)] →
          ∀ i < 16, t.mem64 (l + 8 * i) = (s.mem64 (l + 8 * i) % 4096 + frame + i * 4096 + 2 ^ 58) % 2 ^ 64
    let alone := ∀ c ∈ s.chains, c.1 ≠ .conversion d lpn
    let fits := held s - e.lines.length ≤ ((s.die d).resv.get f).reservation.toNat * 512
    -- shrinks
    ((s.die d).fenced = true → exec (.leafShrink d f) s = .next s ∧ exec (.leafConversion d n a byAccess) s = .next s) ∧
    ((s.die d).fenced = false → s.overReserved d f = false → exec (.leafShrink d f) s = .next (s.endShrink d f)) ∧
    (∀ rest, (s.die d).fenced = false → s.overReserved d f = true → g = f → f.val ∉ (s.die d).shrunk → s.mem.wf = true →
      (s.pagesOf d f true = [] → s.pagesOf d f false = lpn :: rest → e.spill = false → s.pageBusy d lpn (.shrink d f) = false → fits →
        ∃ t, exec (.leafShrink d f) s = .next t ∧ lost t (e.queue.filter fun x => decide (x ≠ .shrink d f))) ∧
      (s.pagesOf d f true = lpn :: rest → e.spill = true → s.pageBusy d lpn (.shrink d f) = false → fits → (s.die d).fqctr = 0 →
        (∀ frame more, (s.fn g).frames.get d = frame :: more →
          ∃ t, exec (.leafShrink d f) s = .next t ∧ backed t e.lastAsid frame more) ∧
        ((s.fn g).frames.get d = [] →
          ∃ t, exec (.leafShrink d f) s = .next t ∧ lost t (e.queue.filter fun x => decide (x ≠ .shrink d f)))) ∧
      (s.pagesOf d f true = lpn :: rest → s.pageBusy d lpn (.shrink d f) = true →
        ∃ t, exec (.leafShrink d f) s = .next t ∧ t = { s with dies := t.dies, teams := t.teams, agenda := t.agenda } ∧
          .shrink d f ∈ (t.lpn d lpn).queue ∧ .leafShrink d f ∈ t.agenda ∧
          t.lpn d lpn = { e with queue := (t.lpn d lpn).queue })) ∧
    -- conversions
    (e.state ≠ .converting → exec (.leafConversion d n a byAccess) s = .next s) ∧
    (e.state = .converting → (s.die d).fenced = false → s.mem.wf = true → alone →
      ((s.fn g).frames.get d = [] → ∃ t, exec (.leafConversion d n a byAccess) s = .next t ∧ lost t e.queue) ∧
      (∀ frame rest, (s.fn g).frames.get d = frame :: rest → (s.die d).fqctr = 0 →
        ∃ t, exec (.leafConversion d n a byAccess) s = .next t ∧ backed t a frame rest)) ∧
    -- moves
    ((∀ m ∈ (s.die d).moves, m.lpn ≠ lpn) → exec (.leafMoveDone d n) s = .next s) ∧
    (∀ m, (s.die d).moves = [m] → m.lpn = lpn → (m.dstDie ≠ d ∨ m.dstLpn ≠ lpn) →
      let s0 := s.modDie d fun x => { x with moves := [] }
      let way := s0.deliverLines m.dstDie m.dstLpn (e.lines.map Prod.fst)
      let target := leafLoc m.dstDie.val m.dstLpn 0
      let told := fun (t : State) (r : Nat) =>
        (t.die d).moves = [] ∧ (t.die d).leafDone = (s.die d).leafDone ++ [{ issuer := m.issuer, outcome := r }]
      (∀ u, way = some u →
        ∃ t, exec (.leafMoveDone d n) s = .next t ∧ told t 0 ∧ (t.lpn d lpn).state = .empty ∧ (t.lpn d lpn).lines = [] ∧
          (t.lpn d lpn).queue = [] ∧ (t.lpn m.dstDie m.dstLpn).queue = e.queue.filter Agent.follows ∧
          (t.lpn m.dstDie m.dstLpn).lines = (u.lpn m.dstDie m.dstLpn).lines ∧
          (t.lpn m.dstDie m.dstLpn).state = (if (u.lpn m.dstDie m.dstLpn).lines = [] then .empty else .resident) ∧
          (s.mem.wf = true → m.dstLpn < 4096 → u.leafGroups m.asid d lpn = [] →
            (∀ k < 65536, t.mem.read (target + k) = s.mem.read (base + k) ∧ t.mem.read (base + k) = unlisted) ∧
            ∀ k, ¬ (base ≤ k ∧ k < base + 65536) → ¬ (target ≤ k ∧ k < target + 65536) → t.mem.read k = s.mem.read k)) ∧
      (way = none →
        ∃ t, exec (.leafMoveDone d n) s = .next t ∧ told t 4 ∧ t.mem = s.mem ∧
          t.lpn d lpn = { e with state := if e.lines = [] then .empty else .resident } ∧
          (t.lpn m.dstDie m.dstLpn).state = .empty ∧ (t.lpn m.dstDie m.dstLpn).lines = [])) ∧
    -- walks
    (let start := s.walkStart d a va.toNat (s.desc d a).root
    let end_ := walkFrom s va.toNat start.1 start.2
    (s.walkable d a va.toNat = false ∨ (s.openFor d a (va.toNat / 4096)).isSome = true →
      exec (.pageWalk d a va) s = .next s) ∧
    (s.walkable d a va.toNat = true → s.openFor d a (va.toNat / 4096) = none → s.mem.wf = true →
      ((∀ w bits at_, end_ ≠ .page w bits at_) → exec (.pageWalk d a va) s = .next s) ∧
      ∀ w bits at_, end_ = .page w bits at_ →
        let p := placeOf w bits va.toNat
        (frameOk w p.loc a = true → (p.ptype = .leaf → s.leafOk p.loc a = true) →
          ∃ t, exec (.pageWalk d a va) s = .next t ∧
            t = { s with
              mem := t.mem, tags := t.tags, poison := t.poison, copies := t.copies, order := t.order, walks := t.walks
              descs := t.descs } ∧
            (∀ x ∈ walkTables s va.toNat start.1 start.2,
              ({ die := d, asid := a, level := x.1, top := topOf va.toNat x.1, table := x.2 } : WalkPtr) ∈ t.walks) ∧
            (bits ≠ 16 → t.mem64 at_ = markEntry w false ∧ memoryBut s t at_ 8) ∧
            (bits = 16 → memoryBut s t at_ 128)) ∧
        (frameOk w p.loc a = false ∨ (p.ptype = .leaf ∧ s.leafOk p.loc a = false) →
          exec (.pageWalk d a va) s = .next s)))

/-- R96, R97, R120, R251, R356, R359, R360, R375, R376 and R392. That a rejected peer write is answered all the same, that an
answer waits for a port, and what becomes of accesses beyond a BAR or without an aperture are assumption log 27; the data of a load
that the host rejects is assumption log 8. -/
def Obligations.Outside : Prop :=
  ∀ (s s1 s2 : State) (b : Sender) (o n : Nat) (bs : List Byte) (op : AmoOp) (y e v : Word) (p : Place) (j : Job) (id : Nat)
      (ob : Outstanding) (data : Option (List Byte)),
    let f := b.f
    let x := s.fn f
    let replies := fun (t : State) (l : List Byte) => t.send (.reply l)
    let ones := List.replicate n (0xFF : Byte)
    let plain_ := p.ptype = .normal ∨ p.ptype = .leaf
    let peer := fun a : Asid => outsider a (senderPeer b)
    let host := fun a : Asid => outsider a (senderHost b)
    let writes := fun (w : Party) (va : Nat) =>
      bs ≠ [] ∧ va + bs.length ≤ 2 ^ 48 ∧ va % 4096 + bs.length ≤ 4096 ∧
        translate s w (BitVec.ofNat 64 va) .store = (s1, .ok p) ∧ plain_ ∧
        s1.readyWrite w p (BitVec.ofNat 64 va) bs.length = (s2, none)
    let written := fun t : State => t.bytes p.loc bs.length = bs ∧ memoryBut s2 t p.loc bs.length
    let reads := fun (w : Party) (va : Nat) =>
      0 < n ∧ va + n ≤ 2 ^ 48 ∧ va % 4096 + n ≤ 4096 ∧
        translate s w (BitVec.ofNat 64 va) .load = (s1, .ok p) ∧ plain_ ∧
        s1.gate w p (BitVec.ofNat 64 va) n = none ∧ s1.poisoned p.loc n = false
    let read := fun w : Party => replies ((s1.noteReads w p n).arrive w p none) (s1.seen w p n)
    let faults := fun (w : Party) (va : Nat) (k : Kind) =>
      va + n ≤ 2 ^ 48 ∧ va % 4096 + n ≤ 4096 ∧ 0 < n ∧ n = bs.length ∧
        ((∃ c sub tval, translate s w (BitVec.ofNat 64 va) k = (s1, .error (.fault c sub tval))) ∨
          ∃ sub tval, translate s w (BitVec.ofNat 64 va) k = (s1, .error (.walkFault sub tval)))
    let refused := fun w : Party => (s1.clearCauser w.who).refuse 0 (some w.asid)
    let counter := fun (w : Party) (va : Nat) (k : Kind) =>
      va % 8 = 0 ∧ va + 8 ≤ 2 ^ 48 ∧ s.counterPlace w (BitVec.ofNat 64 va) k = (s1, .ok p)
    let added := fun (w : Party) (va : Nat) => (s1.counterAdd w.asid p.loc (BitVec.ofNat 64 va) v).2
    s.mem.wf = true → (s.die 0).fenced = false →
    -- what a request reads
    (∀ a, s1.order.early = [] → s1.seen (peer a) p n = s1.bytes p.loc n ∧ s1.seen (host a) p n = s1.bytes p.loc n) ∧
    -- peers
    (s.allHeld f (BitVec.allOnes 12) = true → ∀ i ∈
      ([.peerWrite b o bs, .peerRead b o n, .peerAtomic b o op y e, .peerAdd b o n v, .peerCounterRead b o n] : List Instr),
      exec i s = .next { s with stays := true }) ∧
    (s.allHeld f (BitVec.allOnes 12) = false →
    (s.jobs.get f = none →
      exec (.peerWrite b o bs) s = .next (replies (s.refuse 0 none) []) ∧
      exec (.peerRead b o n) s = .next (replies (s.refuse 0 none) ones)) ∧
    (s.jobs.get f = some j → j.peerBase = 0 →
      exec (.peerWrite b o bs) s = .next (replies (s.refuse 0 (some j.peerAsid)) []) ∧
      exec (.peerRead b o n) s = .next (replies (s.refuse 0 (some j.peerAsid)) ones)) ∧
    (s.jobs.get f = some j → j.peerBase ≠ 0 → o < addHalf → j.peerBase + o < 2 ^ 48 →
      let w := peer j.peerAsid
      let va := j.peerBase + o
      (writes w va → ∃ t, exec (.peerWrite b o bs) s = .next t ∧ written t ∧ t.sent = s.sent ++ [.reply []]) ∧
      (reads w va → exec (.peerRead b o n) s = .next (read w)) ∧
      (faults w va .store → exec (.peerWrite b o bs) s = .next (replies (refused w) [])) ∧
      (faults w va .load → exec (.peerRead b o n) s = .next (replies (refused w) ones)) ∧
      (∀ new, va % 8 = 0 → va + 8 ≤ 2 ^ 48 → translate s w (BitVec.ofNat 64 va) .atomic = (s1, .ok p) → plain_ →
        s1.gate w p (BitVec.ofNat 64 va) 8 = none → s1.poisoned p.loc 8 = false →
        amoResult op (BitVec.ofNat 64 (s1.mem64 p.loc)) y e = some new →
        s1.readyWrite w p (BitVec.ofNat 64 va) 8 = (s2, none) →
        ∃ t, exec (.peerAtomic b o op y e) s = .next t ∧ t.mem64 p.loc = new.toNat ∧ memoryBut s2 t p.loc 8 ∧
          t.sent = s.sent ++ [.reply (leBytes 8 (s1.mem64 p.loc))]) ∧
      (counter w va .ctrWrite →
        (s.pendingOn w.who = 0 → exec (.peerAdd b o 8 v) s = .next (replies (added w va) [])) ∧
        (s.pendingOn w.who ≠ 0 → exec (.peerAdd b o 8 v) s = .next { s with stays := true })) ∧
      (counter w va .ctrRead →
        exec (.peerCounterRead b o 8) s = .next (replies s1 (s1.bytes p.loc 8)) ∧
        exec (.peerCounterRead b o 4) s = .next (replies s1 (s1.bytes p.loc 4))))) ∧
    -- the add window and the aperture
    (let va := x.wb.toNat + o
    let a := x.windowAsid
    (o + n > 2 ^ x.windowSize →
      exec (.windowAdd b o n v) s = .next s ∧ exec (.windowRead b o n) s = .next (s.send (.unsupported o))) ∧
    (o + n ≤ 2 ^ x.windowSize → x.wb = 0 →
      exec (.windowAdd b o n v) s = .next (s.refuse 0 none) ∧ exec (.windowRead b o n) s = .next (replies (s.refuse 0 none) ones)) ∧
    (o + 8 ≤ 2 ^ x.windowSize → x.wb ≠ 0 →
      (counter (host a) va .ctrWrite →
        (s.pendingOn (senderHost b) = 0 → exec (.windowAdd b o 8 v) s = .next (added (host a) va)) ∧
        (s.pendingOn (senderHost b) ≠ 0 → exec (.windowAdd b o 8 v) s = .next { s with stays := true })) ∧
      (counter (host a) va .ctrRead → exec (.windowRead b o 8) s = .next (replies s1 (s1.bytes p.loc 8)))) ∧
    (o + n ≤ 2 ^ x.windowSize → x.wb ≠ 0 → n ≠ 4 → n ≠ 8 →
      exec (.windowAdd b o n v) s = .next (s.refuse 0 (some a)) ∧
      exec (.windowRead b o n) s = .next (replies (s.refuse 0 (some a)) ones))) ∧
    (let va := x.ab.toNat + o
    let w := host x.apAsid
    (x.ab = 0 ∨ o + bs.length > 2 ^ x.apSize → exec (.apertureWrite b o bs) s = .next s) ∧
    (x.ab = 0 ∨ o + n > 2 ^ x.apSize → exec (.apertureRead b o n) s = .next (s.send (.unsupported o))) ∧
    (x.ab ≠ 0 → o + bs.length ≤ 2 ^ x.apSize →
      (writes w va → ∃ t, exec (.apertureWrite b o bs) s = .next t ∧ written t ∧ t.sent = s.sent) ∧
      (faults w va .store → exec (.apertureWrite b o bs) s = .next (refused w))) ∧
    (x.ab ≠ 0 → o + n ≤ 2 ^ x.apSize →
      (reads w va → exec (.apertureRead b o n) s = .next (read w)) ∧
      (faults w va .load → exec (.apertureRead b o n) s = .next (replies (refused w) ones)))) ∧
    exec (.atomicopRequest f o) s = .next (s.send (.unsupported o)) ∧
    -- completions
    ((∀ z ∈ s.outstanding, z.id ≠ id) →
      exec (.pcieCompletion id data) s = .next s ∧ exec (.peerAcknowledgement id data) s = .next s) ∧
    (s.outstanding.find? (fun z => decide (z.id = id)) = some ob → (∀ z ∈ s.outstanding, z.id = id → z = ob) →
      let left := s.outstanding.filter fun z => !decide (z.id = id)
      let going := fun (u : State) => { u with cur := { s.cur with run := .ready }, outstanding := left }
      (s.cur.run = .waitIo id → ob.posted = false → bs.length = ob.size →
        let t := (going s).setC ob.dest (loadValue bs ob.sext)
        (ob.peer = none → exec (.pcieCompletion id (some bs)) s = .next t) ∧
        (ob.peer ≠ none → exec (.peerAcknowledgement id (some bs)) s = .next t)) ∧
      (s.cur.run = .waitIo id → ob.posted = false → ob.peer = none → ob.atomic = true → s.cur.killed = true →
        exec (.pcieCompletion id none) s = .next (going s)) ∧
      (s.cur.run = .waitIo id → ob.posted = false → ob.peer = none → ob.atomic = true → s.cur.killed = false →
        exec (.pcieCompletion id none) s = .next
          ((going s).takeTrap { cause := 3, subcode := 5, tval := ob.addr, epc := s.cur.pc - 4 })) ∧
      (s.cur.run = .waitIo id → ob.posted = false → ob.peer = none → ob.atomic = false →
        ∃ l k, l.length = ob.size ∧ exec (.pcieCompletion id none) s = .next
          ((going { s with tick := k }).setC ob.dest (loadValue l ob.sext))) ∧
      (ob.posted = true → ob.peer ≠ none → exec (.peerAcknowledgement id data) s = .next { s with outstanding := left }) ∧
      (ob.posted = true → ob.peer = none → ob.size = 0 →
        ∃ t, exec (.pcieCompletion id data) s = .next t ∧ t = { s with outstanding := t.outstanding } ∧
          ∀ z, z ∈ t.outstanding ↔
            z ∈ s.outstanding ∧ ¬ (z.posted = true ∧ z.strand = ob.strand ∧ z.peer = none ∧ z.id ≤ id)))

/-- R356 to R363, R365 and R389; the order of SPDM messages is the model's (assumption log 21). What FLIT_COUNTER_LIMIT stops, the fourth
failed reception and the EPC of a load that waits for a lost peer are assumption log 27. Links that carry a
collective are stated by Collectives; the clauses on jobs, ports that fail and sessions that end suppose that none runs. -/
def Obligations.Links : Prop :=
  ∀ (s : State) (p : PortId) (lanes : Fin 9) (f : FnId) (v : Word) (n : Nat) (o : SpdmOffer) (e : BitVec 16)
      (offset length nonce : Nat)
      (versions : List Nat) (cert : List Byte),
    let x := s.ports.get p
    let port := fun y : Port => { s with ports := s.ports.set p y }
    let idle := ∀ r ∈ s.cores, r.2.crus = []
    -- ports
    (x.up = false → exec (.flitReceive p true) s = .next s ∧ exec (.flitReceive p false) s = .next s) ∧
    (x.up = true →
      exec (.flitReceive p true) s = .next (port { x with failed := 0 }) ∧
      (x.failed < 3 →
        exec (.flitReceive p false) s = .next (port { x with failed := x.failed + 1, replays := x.replays + 1 })) ∧
      (3 ≤ x.failed → idle → s.outstanding = [] →
        exec (.flitReceive p false) s = .next ((port { x with failed := x.failed + 1, up := false }).report 0
          { severity := 2, kind := 5, unit := BitVec.ofNat 16 p.val, code := 5, address := 0, asid := none, info := 0 } 0))) ∧
    (∃ l, exec (.flitCounterLimit p) s = .next (port { x with flits := 2 ^ 48, stopped := l }) ∧
      ∀ y, y ∈ l ↔ y ∈ x.stopped ∨ ∃ j, s.jobs.get y.1 = some j ∧ y.2 = j.epoch) ∧
    (0 < lanes.val → exec (.portLaneChange p lanes) s =
      .next (port { x with lanes := lanes.val, up := if 4 ≤ x.failed ∨ x.removed = true then x.up else true })) ∧
    (idle → s.outstanding = [] → exec (.portLaneChange p 0) s = .next (port { x with lanes := 0, up := false })) ∧
    (∀ w, idle → s.parked = [] → s.outstanding = [w] → s.cur.run = .waitIo w.id →
      (port { x with lanes := 0, up := false }).lostPeer w = true → s.cur.killed = false →
      exec (.portLaneChange p 0) s = .next
        ({ port { x with lanes := 0, up := false } with cur := { s.cur with run := .ready }, outstanding := [] }.takeTrap
          { cause := 8, subcode := 0, tval := w.addr, epc := s.cur.pc - 4 })) ∧
    (∃ t, exec .pcieLinkStateChange s = .next t ∧ t = { s with dies := t.dies } ∧ 4 ∈ (t.die 0).ints) ∧
    -- jobs
    (let a := v.toNat / 64 % 2 ^ 46 * 64
    let sets := fun (j : Option Job) (t : State) =>
      t.jobs.get f = j ∧ t.jobPtrs.get f = BitVec.ofNat 64 a ∧ (∀ g : FnId, g ≠ f → t.jobs.get g = s.jobs.get g) ∧ t.mem = s.mem
    idle →
    (a = 0 → ∃ t, exec (.jobPointerWrite f v) s = .next t ∧ sets none t ∧
      t = { s with jobs := t.jobs, jobPtrs := t.jobPtrs, ports := t.ports }) ∧
    (a ≠ 0 →
      (∀ r, s.jobAt f a = .error r → ∃ t, exec (.jobPointerWrite f v) s = .next t ∧ sets none t) ∧
      ∀ j, s.jobAt f a = .ok j →
        j.epoch.toNat = s.memN (a + 24) 2 ∧ j.rank = s.memN (a + 26) 2 ∧ j.ranks = s.memN (a + 28) 2 ∧
        j.groupCount = s.memN (a + 30) 2 ∧ j.peerMap = s.mem64 (a + 40) ∧
        (∀ p < 224, j.peers.getD p 0 = BitVec.ofNat 16 (s.memN (j.peerMap + 2 * p) 2)) ∧ j.groups = s.mem64 (a + 48) ∧
        j.hallmark = s.mem64 (a + 56) ∧ j.rank < j.ranks ∧ j.ranks ≤ 3584 ∧
        ∃ t, exec (.jobPointerWrite f v) s = .next t ∧ sets (some j) t ∧
          t = { s with jobs := t.jobs, jobPtrs := t.jobPtrs, ports := t.ports, spdm := t.spdm, sent := t.sent } ∧
          (∀ q : PortId, (∀ y, y ∈ (t.ports.get q).stopped ↔ y ∈ (s.ports.get q).stopped ∧ (y.1 = f → y.2 = j.epoch)) ∧
            ((t.ports.get q).stopped = [] → (t.ports.get q).flits = 0)) ∧
          (j.rank = 0 → ∀ q, 0 < q → q < j.ranks → (s.party q).phase = .none →
            (t.party q).phase = .asked ∧ .spdm q "GET_VERSION" [] ∈ t.sent))) ∧
    -- SPDM as responder
    (let ph := (s.party n).phase
    let error := Host.Outcome.next (s.send (.spdm n "ERROR" []))
    let moves := fun (i : Instr) (P : SpdmPeer → Prop) (message : String) (bytes : List Byte) =>
      ∃ t, exec i s = .next t ∧ t.sent = s.sent ++ [.spdm n message bytes] ∧ P (t.party n) ∧
        (∀ m, m ≠ n → t.party m = s.party m) ∧ t = { s with spdm := t.spdm, sent := t.sent, ports := t.ports }
    let at_ := fun (y : SpdmPhase) (z : SpdmPeer) => z = { s.party n with phase := y }
    let request := fun (i : Instr) (lo : Nat) (next : SpdmPhase) (message : String) (bytes : List Byte) =>
      (ph.rank < lo → exec i s = error) ∧
      (lo ≤ ph.rank → moves i (at_ (if ph.rank < next.rank then next else ph)) message bytes)
    let blocks := Config.measurements.flatMap fun b => b
    let key := fun (i : Instr) (k : BitVec 16) =>
      ∃ t, exec i s = .next t ∧ t.sent = s.sent ++ [.spdm n "KEY_UPDATE" (leBytes 2 k.toNat)] ∧
        (f, k) ∈ (t.party n).released ∧ (∀ m, m ≠ n → t.party m = s.party m) ∧ t = { s with spdm := t.spdm, sent := t.sent }
    let ended := fun z : SpdmPeer => z = { s.party n with phase := .none, received := [], released := [] }
    (isSwitch n = false →
      moves (.getVersion n) (at_ .version) "VERSION" [0x13] ∧
      request (.getCapabilities n) 1 .capabilities "CAPABILITIES" [] ∧
      (offersAll o = true → request (.negotiateAlgorithms n o) 2 .negotiated "ALGORITHMS" []) ∧
      (offersAll o = false → 2 ≤ ph.rank → moves (.negotiateAlgorithms n o) (at_ .refused) "ERROR" []) ∧
      request (.getDigests n) 3 .negotiated "DIGESTS" (leBytes 32 (Config.digest Config.certificate).toNat) ∧
      request (.getCertificate n offset length) 3 .certified "CERTIFICATE" ((Config.certificate.drop offset).take length) ∧
      request (.challenge n nonce) 3 .challenged "CHALLENGE_AUTH" (Config.sign Config.certificate nonce) ∧
      request (.getMeasurements n nonce) 3 .measured "MEASUREMENTS" (blocks ++ Config.sign blocks nonce) ∧
      request (.keyExchange n nonce) 3 .keyed "KEY_EXCHANGE_RSP" (Config.exchangePart nonce) ∧
      (ph = .keyed → moves (.finish n true) (at_ .session) "FINISH_RSP" [] ∧ moves (.finish n false) (at_ .refused) "ERROR" []) ∧
      (ph ≠ .keyed → exec (.finish n true) s = error ∧ exec (.finish n false) s = error) ∧
      (ph ≠ .session → s.admitting n = [] → exec (.endSession n) s = error ∧ exec (.keyUpdate n e) s = error) ∧
      (ph ≠ .session → s.admitting n ≠ [] → exec (.endSession n) s = .next s ∧ exec (.keyUpdate n e) s = .next s) ∧
      (ph = .session →
        (s.admitting n = [] →
          moves (.keyUpdate n e)
            (fun z => z = if n = 0 then { s.party n with received := (s.party n).received.insert e } else s.party n)
            "KEY_UPDATE_ACK" []) ∧
        (idle → moves (.endSession n) ended (if s.admitting n = [] then "END_SESSION_ACK" else "END_SESSION") []))) ∧
    (ph = .session → (isSwitch n = true ∨ s.admitting n ≠ []) → f ∈ s.admitting n → ∀ k d,
      (s.party n).released = [(f, k)] → (s.party n).digest = some d →
        (s.inPolicy f d = true → key (.keyUpdate n e) e) ∧ (s.inPolicy f d = false → exec (.keyUpdate n e) s = .next s)) ∧
    -- SPDM with a switch
    (isSwitch n = true →
      moves (.getVersion n) (at_ .asked) "GET_VERSION" [] ∧
      (ph = .session → moves (.getMeasurements n nonce) (fun z => z = s.party n) "GET_MEASUREMENTS" [] ∧
        (idle → moves (.endSession n) ended "END_SESSION" [])) ∧
      (ph ≠ .session → idle → exec (.endSession n) s = .next s) ∧
      exec (.getCapabilities n) s = .next s ∧ exec (.getDigests n) s = .next s ∧ exec (.finish n true) s = .next s) ∧
    -- SPDM as requester
    (let hears := fun (y : SpdmAnswer) (from_ to_ : SpdmPhase) (message : String) =>
      (ph = from_ → exec (.spdmResponse n y) s = .next ((s.setPhase n to_).say n message [])) ∧
      (ph ≠ from_ → exec (.spdmResponse n y) s = .next s)
    let refuses := fun (y : SpdmAnswer) (from_ : SpdmPhase) =>
      ph = from_ → exec (.spdmResponse n y) s = .next (s.setPhase n .refused)
    (0x13 ∈ versions → hears (.version versions) .asked .version "GET_CAPABILITIES") ∧
    (0x13 ∉ versions → refuses (.version versions) .asked) ∧
    hears .capabilities .version .capabilities "NEGOTIATE_ALGORITHMS" ∧
    (offersAll o = true → hears (.algorithms o) .capabilities .negotiated "GET_DIGESTS") ∧
    (offersAll o = false → refuses (.algorithms o) .capabilities) ∧
    (ph = .negotiated → exec (.spdmResponse n .digests) s = .next (s.say n "GET_CERTIFICATE" [])) ∧
    hears (.certificate cert) .negotiated .certified "CHALLENGE" ∧
    hears (.challengeAuth true) .certified .challenged "GET_MEASUREMENTS" ∧ refuses (.challengeAuth false) .certified ∧
    hears (.keyExchangeRsp true) .measured .keyed "FINISH" ∧ refuses (.keyExchangeRsp false) .measured ∧
    refuses (.finishRsp false) .keyed ∧
    (ph = .keyed →
      (s.admitting n = [] → exec (.spdmResponse n (.finishRsp true)) s = .next (s.setPhase n .session)) ∧
      ∀ j d, s.admitting n = [f] → s.jobs.get f = some j → (s.party n).digest = some d →
        (s.inPolicy f d = false → exec (.spdmResponse n (.finishRsp true)) s = .next (s.setPhase n .session)) ∧
        (s.inPolicy f d = true → (f, j.epoch) ∉ (s.party n).released → key (.spdmResponse n (.finishRsp true)) j.epoch)) ∧
    ∀ l ok,
      let d := Config.digest (l.flatMap fun b => b)
      let good := ok && s.measuredOk n d
      (ph = .challenged →
        (good = true → exec (.spdmResponse n (.measurements l ok)) s =
          .next ((s.setParty { s.party n with phase := .measured, digest := some d }).say n "KEY_EXCHANGE" [])) ∧
        (good = false → exec (.spdmResponse n (.measurements l ok)) s =
          .next (s.setParty { s.party n with phase := .refused, digest := none }))) ∧
      (ph = .session → good = false → idle →
        ∃ t, exec (.spdmResponse n (.measurements l ok)) s = .next t ∧ (t.party n).phase = .none ∧
          (t.party n).released = [] ∧ t = { s with spdm := t.spdm, ports := t.ports })))

/-- R53, R165, R305, R394 to R401. What a kill does to calls, records, chains and launches is not stated here.
That an Assay write which names no unit is ignored, a second hash of one copy, and the removal of a cluster at ten steps with its
record are assumption log 28; the mismatch held for the next product of an Anvil is assumption log 36. -/
def Obligations.Reliability : Prop :=
  ∀ (s : State) (d : DieId) (r : ErrorReport) (v hash : Word) (cl : ClusterId) (count : BitVec 16) (x : Pair)
      (copy : PairCopy) (a : Asid) (id : BitVec 32) (at_ : Nat) (sc : ScopeRec),
    let y := s.die d
    let by_ := s.attributed r
    let fresh := s.mergeSlot d r = none
    let tested := s.testing r.kind.toNat r.unit.toNat
    let fn := s.fnOf d (by_.getD 0)
    let contained := r.severity = 1 ∧ r.code = 2 ∧ (r.kind = 3 ∨ r.address ≠ 0)
    let out := fun P : State → Prop => ∃ t, exec (.assayEnd d false) s = .next t ∧ P t ∧ (t.die d).assay.busy = false
    -- errors
    (¬ contained → isMismatch r = false →
      (fresh → y.errProduced - y.errConsumed < 256 →
        ∃ t, exec (.errorDetected d r) s = .next t ∧ t = { s with dies := t.dies, funcs := t.funcs } ∧
          (t.die d).errProduced = y.errProduced + 1 ∧ 2 ∈ (t.die d).ints ∧
          mapGet? (t.die d).errSlots (y.errProduced % 256) = some
            { seq := y.errProduced, report := { r with asid := by_ }, time := s.time, merged := 0, ovf := false
              assay := if r.severity = 4 ∨ r.severity = 5 then 4 else 0, removed := false, cls := 0 } ∧
          (t.fn fn).err0 = (if r.severity = 0 then satInc (s.fn fn).err0 else (s.fn fn).err0) ∧
          (t.fn fn).err13 = (if 1 ≤ r.severity ∧ r.severity ≤ 3 then satInc (s.fn fn).err13 else (s.fn fn).err13)) ∧
      (fresh → 256 ≤ y.errProduced - y.errConsumed →
        ∃ t, exec (.errorDetected d r) s = .next t ∧ t = { s with dies := t.dies, funcs := t.funcs } ∧
          (t.die d).errDropped = min (y.errDropped + 1) (2 ^ 64 - 1) ∧ (t.die d).errSlots = y.errSlots) ∧
      (∀ k e, s.mergeSlot d r = some (k, e) →
        ∃ t, exec (.errorDetected d r) s = .next t ∧ t = { s with dies := t.dies, funcs := t.funcs } ∧
          mapGet? (t.die d).errSlots k = some
            { e with merged := if e.merged = 255 then 255 else e.merged + 1, ovf := true })) ∧
    (∀ k e, s.mergeSlot d r = some (k, e) → (k, e) ∈ y.errSlots ∧ r.kind ≠ 8 ∧ e.report.kind = r.kind ∧ e.report.unit = r.unit ∧
      (tested = true ∨ e.cls = 0 ∨ e.assay = 1)) ∧
    (fresh → r.kind ≠ 8 → ∀ z ∈ y.errSlots, z.2.report.kind = r.kind → z.2.report.unit = r.unit →
      tested = false ∧ z.2.cls ≠ 0 ∧ z.2.assay ≠ 1) ∧
    (4 ≤ r.kind.toNat → by_ = none) ∧
    (∀ b, by_ = some b → r.asid = some b ∧
      (r.kind = 0 → ∃ t ∈ s.residents, t.core = coreOfNat r.unit.toNat ∧ t.asid = b) ∧
      (r.kind = 1 → ∃ k l, (s.core (clusterCore (clusterOfNat r.unit.toNat) k)).lease = some l ∧ l.asid = b)) ∧
    (contained → regionOf r.address.toNat = .hbm →
      ∃ t, exec (.errorDetected d r) s = .next t ∧ r.address.toNat / 64 ∈ t.poison ∧ t.mem = s.mem) ∧
    (isMismatch r = true → exec (.errorDetected d r) s =
      .next (s.modCluster (clusterOfNat r.unit.toNat) fun z => { z with mismatch := some r })) ∧
    -- tests
    (let kind := v.toNat / 2 ^ 40 % 16
    let unit := v.toNat / 2 ^ 24 % 2 ^ 16
    let u := s.modDie d fun z =>
      { z with assay := { busy := true, pass := false, kind := BitVec.ofNat 4 kind, unit := BitVec.ofNat 16 unit } }
    let ask := fun z : Strand =>
      if z.core = coreOfNat unit ∧ z.run ≠ .absent ∧ isFirmware z.handle = false then { z with stopWanted := true } else z
    (y.assay.busy = true ∨ assayUnits kind ≤ unit → exec (.assayStart d v) s = .next s) ∧
    (y.assay.busy = false → unit < assayUnits kind →
      (kind ≠ 0 → exec (.assayStart d v) s = .next u) ∧
      (kind = 0 → exec (.assayStart d v) s = .next { u with cur := ask s.cur, parked := s.parked.map ask }))) ∧
    (y.assay.busy = false → exec (.assayEnd d true) s = .next s ∧ exec (.assayEnd d false) s = .next s) ∧
    (y.assay.busy = true →
      let unit := y.assay.unit.toNat
      let u := fun ok : Bool => s.modDie d fun z => { z with assay := { z.assay with busy := false, pass := ok } }
      (2 ≤ y.assay.kind.toNat → exec (.assayEnd d true) s = .next (u true)) ∧
      (y.assay.kind.toNat < 2 → ∃ t, exec (.assayEnd d true) s = .next t ∧ t = { u true with agenda := t.agenda } ∧
        ∀ i ∈ s.agenda, i ∈ t.agenda) ∧
      (y.assay.kind = 1 → ∃ t, exec (.assayEnd d false) s = .next t ∧ t = { u false with clusters := t.clusters } ∧
        t.cluster (clusterOfNat unit) = { s.cluster (clusterOfNat unit) with anvilOut := true }) ∧
      (y.assay.kind = 2 → out fun t => unit % 64 ∈ (t.die (dieOfNat (unit / 64))).slicesOut) ∧
      (y.assay.kind = 3 → out fun t => unit % 4 ∈ (t.die (dieOfNat (unit / 4))).stacksOut) ∧
      (y.assay.kind = 5 → ∀ p : PortId, p.val = unit % 12 →
        out fun t => (t.ports.get p).removed = true ∧ (t.ports.get p).up = false) ∧
      (y.assay.kind = 6 → out fun t => unit ∈ (t.die (dieOfNat (unit / 16))).benchOut) ∧
      (y.assay.kind = 0 → (s.core (coreOfNat unit)).handles = [] → (∀ j, (s.core (coreOfNat unit)).spills.get j = []) →
        out fun t => (t.core (coreOfNat unit)).outOfService = true ∧ t.mem = s.mem)) ∧
    -- Patina
    (let c := s.cluster cl
    let n := c.steps.toNat
    let drifts := ((c.birth.toNat : Int) - count.toNat) * 100 > (3 + 2 * n) * (c.birth.toNat : Int)
    let posted := fun u : State => u.report (clusterDie cl)
      { severity := 4, kind := 7, unit := BitVec.ofNat 16 cl.val, code := 7, address := 0, asid := none
        info := BitVec.ofNat 64 (min (n + 1) 10) } 4
    (¬ drifts → exec (.patinaSample cl count) s = .next (s.modCluster cl fun z => { z with now := count })) ∧
    (drifts → n < 10 → ∃ t, exec (.patinaSample cl count) s = .next t ∧
      t = { posted s with clusters := t.clusters } ∧
      t.cluster cl = { c with now := count, steps := BitVec.ofNat 4 (n + 1) }) ∧
    (drifts → 10 ≤ n → ∃ t, exec (.patinaSample cl count) s = .next t ∧ (t.cluster cl).outOfService = true ∧
        ∀ k < 4, (t.core (clusterCore cl k)).outOfService = true)) ∧
    -- Touchstone
    (let i := Instr.touchstoneHash x.id copy hash
    let put := fun z : Pair => ({ s with pairs := s.pairs.map fun p => if p.id = x.id then z else p } : State)
    let t := s.cur
    let lost := fun j : Instr =>
      t.handle.addr = x.strand → t.run ≠ .absent → (s.core t.core).lease = none → t.teamId = 0 →
      (∀ l ∈ s.launches, l.id ≠ t.launchId) → s.scopeOf t.handle.asid t.birth = some (at_, sc) → s.fencedAt at_ = false →
        ∃ u z, exec j s = .next u ∧ u.cur.run = .absent ∧ u.cached at_ = some z ∧ z.deaths = sc.deaths + 1 ∧ z.fl = true ∧
          z.lost = min (sc.lost + 1) (2 ^ 40 - 1)
    ((∀ p ∈ s.pairs, p.id ≠ x.id) → exec i s = .next s ∧ exec (.touchstoneTimeout x.id) s = .next s) ∧
    (s.pairs.find? (fun p => decide (p.id = x.id)) = some x →
      (x.held = none → ∃ t, exec i s = .next t ∧ t = { put { x with held := some (copy, hash) } with agenda := t.agenda } ∧
        .touchstoneTimeout x.id ∈ t.agenda ∧ ∀ j ∈ s.agenda, j ∈ t.agenda) ∧
      (∀ c h, x.held = some (c, h) →
        (c = copy → exec i s = .next { s with stays := true }) ∧
        (c ≠ copy → h = hash → exec i s = .next
          { put { x with
              held := none, forwarded := x.forwarded + 1, asked := none
              matched := if x.asked = none then x.matched else x.asked } with
            agenda := s.agenda.filter fun j => !decide (j = .touchstoneTimeout x.id) }) ∧
        (c ≠ copy → h ≠ hash → lost i) ∧ lost (.touchstoneTimeout x.id)))) ∧
    -- kills
    (s.scopeOf a id = some (at_, sc) →
      (sc.state = .free ∨ sc.state = .closed ∨ s.fencedAt at_ = true → exec (.scopeKill a id) s = .next (s.checkState at_ a)) ∧
      (sc.state ≠ .free → sc.state ≠ .closed → s.fencedAt at_ = false → s.rings = [] → s.chains = [] → s.launches = [] →
        (∀ e : DieId, (s.die e).openFaults = [] ∧ ∀ f, (s.die e).benchQ.get f = []) →
        let u := (s.checkState at_ a).pinScope at_ sc
        ∃ t, exec (.scopeKill a id) s = .next t ∧
          t = { u with dies := t.dies, due := s.due ++ s.liveDies.map fun k => .cancelBroadcast k a id } ∧
          (∀ e : DieId, t.die e = { u.die e with scopes := (t.die e).scopes }) ∧
          ∀ (e : DieId) (k : Nat), mapGet? (t.die e).scopes k = (mapGet? (u.die e).scopes k).map fun z =>
            if u.killable a id z then { z.cancel with kl := true } else z))

/-- R3, R4, R24 and R402 to R409. What a reset keeps beside what these rules say is the model's (assumption log 3).
The claim of the reset, the load begun again at sequence 0, images ignored once one is verified and a device without power are
assumption log 29, the status of an illegal image is log 8, and what lies on a fenced die or in a poisoned sector log 35. -/
def Obligations.Boot : Prop :=
  ∀ (s : State) (d : DieId) (c : CoreId) (cl : ClusterId) (bs chunk : List Byte) (epoch serial seq k : Nat),
    let b := s.boot
    let adopts := fun (i : Instr) (n : Nat) =>
      exec i s = .next { s with
        boot := { b with epoch := n, yielded := false, leader := none, leads := false, chunks := [], nextSeq := 0 }
        sent := s.sent ++ [.claim n Config.serial] }
    let sends := fun (u : State) (from_ : Nat) =>
      { u with sent := u.sent ++ (((List.range (chunkCount b.held)).filter fun n => decide (from_ ≤ n)).map fun n =>
          Sent.load Config.serial b.epoch n ((b.held.drop (4096 * n)).take 4096)) }
    -- reset
    ((s.cores.map Prod.fst).Pairwise (· < ·) →
      ∃ t, exec .deviceReset s = .next t ∧ t.mem = [] ∧ t.tags = [] ∧ t.poison = [] ∧ t.tlb = [] ∧ t.copies = [] ∧
        t.due = [] ∧ t.astb = 0 ∧ t.bootMap = true ∧ t.powered = true ∧ t.boot.epoch = 1 ∧ t.sent = s.sent ++ [.claim 1 Config.serial] ∧
        (∀ i, i ∈ t.agenda ↔ i ∈ s.agenda ∧ isOutside i = true) ∧
        (t.cur :: t.parked = ([0, 1, 2, 3] : List DieId).map fun e =>
          Strand.firmware (coreOfNat (e.val * 448 + (t.die e).fw))) ∧
        (t.core c).outOfService = (s.core c).outOfService ∧ (t.cluster cl).outOfService = (s.cluster cl).outOfService ∧
        (t.cluster cl).steps = (s.cluster cl).steps ∧ (t.die d).slicesOut = (s.die d).slicesOut ∧
        (t.die d).stacksOut = (s.die d).stacksOut ∧ (t.die d).benchOut = (s.die d).benchOut ∧
        (∀ p : PortId, (t.ports.get p).removed = (s.ports.get p).removed) ∧
        (let serves := fun n : Nat =>
          (s.core (coreOfNat (d.val * 448 + n))).outOfService = false ∧
            (s.cluster (coreCluster (coreOfNat (d.val * 448 + n)))).outOfService = false
        k < 448 → serves k → (∀ n < k, ¬ serves n) → (t.die d).fw = k)) ∧
    -- images
    (∀ src, b.image.isSome = true → exec (.imageVerify src) s = .next s) ∧
    (∀ src, b.image = none → (src = .host bs ∨ (src = .received ∧ b.chunks = bs)) →
      let h := imageHeader bs
      let legal := 64 + h.length + 384 ≤ bs.length ∧ h.magic = 0x47465731 ∧ h.reserved = 0 ∧ h.length % 64 = 0
      let known := h.key = Config.keyDigests.1.toNat ∨ h.key = Config.keyDigests.2.toNat
      let signed := Config.signatureValid (bs.take (64 + h.length)) ((bs.drop (64 + h.length)).take 384) = true
      let recent := max Config.fusedMinVersion b.minVersion ≤ h.version
      let placed := h.load % 0x10000 = 0 ∧ h.load + h.length ≤ hbmSpan ∧ h.entry % 4 = 0 ∧ h.entry < h.length
      let refused := fun n : BitVec 8 =>
        ∃ t, exec (.imageVerify src) s = .next t ∧ t.boot.status = n ∧ t.boot.image = none ∧ t.mem = s.mem ∧ t.cur = s.cur
      (¬ legal → ∃ n, n ≠ 0 ∧ refused n) ∧ (legal → ¬ known → refused 1) ∧ (legal → known → ¬ signed → refused 2) ∧
      (legal → known → signed → ¬ recent → refused 3) ∧ (legal → known → signed → recent → ¬ placed → refused 4) ∧
      (legal → known → signed → recent → placed → s.mem.wf = true → (s.die d).fenced = false →
        s.partlyPoisoned (h.load + d.val * hbmSpan) h.length = false →
        ∃ t, exec (.imageVerify src) s = .next t ∧ t.boot.status = 0 ∧ t.boot.image = some (h.load, h.entry) ∧
          b.minVersion ≤ t.boot.minVersion ∧ t.boot.held = bs ∧ (b.leads = false → t.sent = s.sent) ∧
          t.bytes (h.load + d.val * hbmSpan) h.length = (bs.drop 64).take h.length ∧
          (s.cur.run = .bootRom → t.cur.run = .ready ∧
            t.cur.pc = BitVec.ofNat 64 (h.load + (coreDie s.cur.core).val * hbmSpan + h.entry)) ∧
          (s.cur.run ≠ .bootRom → t.cur = s.cur))) ∧
    -- the election
    (epoch < b.epoch → exec (.claim epoch serial) s = .next s) ∧
    (b.epoch < epoch → adopts (.claim epoch serial) epoch) ∧
    (epoch = b.epoch → Config.serial ≤ serial → exec (.claim epoch serial) s =
      .next (if b.leads then s.send (.claim b.epoch Config.serial) else s)) ∧
    (epoch = b.epoch → serial < Config.serial → exec (.claim epoch serial) s = .next { s with
      boot := { b with
        yielded := true, leads := false, leader := some serial, chunks := if b.leader = some serial then b.chunks else []
        nextSeq := if b.leader = some serial then b.nextSeq else 0 } }) ∧
    (b.yielded = true → exec .leaderElectionExpiry s = .next s) ∧
    (b.yielded = false → b.leads = true → exec .leaderElectionExpiry s = .next (s.send (.claim b.epoch Config.serial))) ∧
    (b.yielded = false → b.leads = false →
      let u : State := { s with boot := { b with leads := true, leader := some Config.serial } }
      exec .leaderElectionExpiry s = .next (if b.image.isSome then sends u 0 else u)) ∧
    -- the load of followers
    (let takes := b.image = none ∧ epoch = b.epoch ∧ b.leads = false ∧ b.leader = some serial
    (takes → seq = b.nextSeq → exec (.loadMessage serial epoch seq chunk) s =
      .next { s with boot := { b with chunks := b.chunks ++ chunk, nextSeq := seq + 1 } }) ∧
    (takes → b.nextSeq < seq → exec (.loadMessage serial epoch seq chunk) s = .next (s.send (.resend epoch b.nextSeq))) ∧
    (¬ takes ∨ seq < b.nextSeq → exec (.loadMessage serial epoch seq chunk) s = .next s)) ∧
    (b.leads = true → b.image.isSome = true → epoch = b.epoch →
      exec (.resendRequest serial epoch seq) s = .next (sends s seq)) ∧
    (b.leads = false ∨ b.image = none ∨ epoch ≠ b.epoch → exec (.resendRequest serial epoch seq) s = .next s) ∧
    (b.image.isSome = true ∨ b.leads = true → exec .loadTimeout s = .next s) ∧
    (b.image = none → b.leads = false → adopts .loadTimeout (b.epoch + 1)) ∧
    -- power
    exec .packagePowerLoss s = .next { s with powered := false } ∧
    (s.powered = false → .deviceReset ∉ s.agenda → step s = .fault .unpowered)

/-- R74, R80, R81, R94, R150, R153, R155, R156, R158, R159, R164 and R165. That a completion add at `sys` waits for the posted
writes of all strands, how it clears them, and the state 0 of a freed record are assumption log 20 (DEDUCED); the place that a
region's discard takes in the order of an LPN is log 31, and what lies on a fenced die or in a poisoned sector is log 35. -/
def Obligations.ScopeDeaths : Prop :=
  ∀ (s s1 : State) (a : Asid) (id : BitVec 32) (at_ pa : Nat) (r pr : ScopeRec) (q : Place) (d : DieId),
    let more := fun x : ScopeRec => { x with deaths := x.deaths + 1 }
    let c := s.checkState at_ a
    let closes := fun x : ScopeRec => x.state = .sealed ∧ x.deaths + 1 = x.births
    let mark := fun x : Strand =>
      if coreDie x.core = d ∧ x.handle.asid = a ∧ x.run ≠ .absent then
        { x with
          cancelled := x.cancelled || s.reached a id x.birth
          killed := x.killed || s.killOf a x.birth }
      else x
    let base := at_ - r.id.toNat * 64
    let closing := exec (.scopeClosing a id) s
    let again : Instr := .scopeClosing a id
    let v := s.pinScope at_ r
    let ends := fun (u : State) (x : ScopeRec) => (u.leaveQueues r.agent).freeScope at_ x
    -- a death (R153, R155 step 2)
    (s.scopeOf a id = none → exec (.scopeDeath a id) s = .next s) ∧
    (s.scopeOf a id = some (at_, r) →
      (s.fencedAt at_ = true → exec (.scopeDeath a id) s = .next s) ∧
      (s.fencedAt at_ = false → closes r → exec (.scopeDeath a id) s =
        .next ((c.pinScope at_ { more r with state := .closing }).addDue (.scopeClosing a id))) ∧
      (s.fencedAt at_ = false → ¬ closes r → exec (.scopeDeath a id) s = .next (c.pinScope at_ (more r)))) ∧
    -- the record freed (R149, R150, R155 step 4)
    (s.mem.wf = true → apart [(at_, 64), (base, 4)] → s.fencedAt at_ = false → s.fencedAt base = false →
      s.partlyPoisoned at_ 64 = false → s.partlyPoisoned base 4 = false →
      let t := s.freeScope at_ r
      t.memN base 4 = r.id.toNat ∧ t.memN at_ 4 = s.memN base 4 ∧ t.memN (at_ + 4) 1 = 0 ∧ t.cached at_ = none ∧
        t.due = s.due ∧ ∀ b, ¬ (at_ ≤ b ∧ b < at_ + 64) → ¬ (base ≤ b ∧ b < base + 4) → t.mem.read b = s.mem.read b) ∧
    -- the closing steps (R155 steps 3 to 5)
    (s.pinned a id = none → closing = .next s) ∧
    (s.pinned a id = some (at_, r) → (r.state ≠ .closing ∨ s.fencedAt at_ = true) → closing = .next s) ∧
    (s.pinned a id = some (at_, r) → r.state = .closing → s.fencedAt at_ = false →
      (r.lb = true → r.pages = 1 → r.swept = 0 → r.caddr = 0 → r.depth = 0 → r.closeWait = false →
        let page := s.regionPage (homeDie at_) r.asid r.leafBase.toNat
        let r1 := { r with swept := 1 }
        (page = .untouched → closing = .next (ends ((s.leaveQueues r.agent).pinScope at_ r1) r1)) ∧
        (page = .held → closing = .next (v.addAgenda again)) ∧
        (∀ k n, page = .leaf k n →
          (s.pageBusy k n r.agent = true → closing = .next (((s.waitAt k n r.agent).pinScope at_ r).addAgenda again)) ∧
          (s.pageBusy k n r.agent = false →
            closing = .next (ends (((s.leaveQueues r.agent).discardPage k n).pinScope at_ r1) r1)))) ∧
      (r.lb = false →
        (r.caddr = 0 → r.closeWait = false →
          (r.depth = 0 → closing = .next (ends v r)) ∧
          (r.depth ≠ 0 → v.scopeOf r.asid r.parent = some (pa, pr) → v.fencedAt pa = false →
            (closes pr → closing = .next (ends (((v.checkState pa r.asid).pinScope pa { more pr with state := .closing }).addDue
              (.scopeClosing r.asid r.parent)) r)) ∧
            (¬ closes pr → closing = .next (ends ((v.checkState pa r.asid).pinScope pa (more pr)) r)))) ∧
        (r.caddr ≠ 0 → r.depth = 0 → r.closeWait = false →
          let posted := fun o : Outstanding => o.posted = true ∧ s.lostPeer o = false
          let place := v.counterPlace (r.party (homeDie at_)) r.caddr .ctrWrite
          (place.2 = .error .wait → closing = .next (v.addAgenda again)) ∧
          (r.cscope ≠ 4 ∨ (∀ o ∈ s.outstanding, ¬ posted o) →
            (place = (s1, .ok q) → (∀ w ∈ s1.waitersAt q.loc, w.pa ≠ q.loc) → s1.markOf q.loc = none →
              s1.mem64 q.loc + r.cvalue.toNat < 2 ^ 64 →
              closing = .next (ends (s1.put64 q.loc (s1.mem64 q.loc + r.cvalue.toNat)) r)) ∧
            (∀ x, place = (s1, .error x) → x ≠ .wait → closing = .next (ends (s1.postEvent
              { time := s1.time, info := 0, epc := 0, tval := r.caddr, record := 0, scope := r.id, die := homeDie at_
                asid := r.asid, kind := 5, subcode := BitVec.ofNat 8 x.code.2
                cause := BitVec.ofNat 8 x.code.1 }) r))) ∧
          (r.cscope = 4 → (∃ o ∈ s.outstanding, posted o) → place.2 ≠ .error .wait →
            ∃ t, closing = .next t ∧ again ∈ t.agenda ∧ t.mem = s.mem ∧ t.dies = v.dies ∧
              ((∃ o ∈ s.outstanding, posted o ∧ o.peer = none) →
                (∀ o ∈ s.outstanding, posted o → o.peer = none → o.size ≠ 0) →
                t.sent = s.sent ++ [.hostRead s.nextId 0 0]))) ∧
        (r.caddr = 0 → r.depth = 0 → r.closeWait = true → r.opener ≠ 0 →
          (∀ x e, s.closer r.opener = some (x, e) →
            let u := (ends v r).choose x
            closing = .next
              ({ u with cur := { u.cur with run := .ready } }.setWaited e r.resultWord)) ∧
          (s.closer r.opener = none → s.teamOfRecord r.opener = none → s.mem.wf = true →
            apart [(at_, 64), (base, 4), (r.opener, 64)] → s.fencedAt (r.opener + 48) = false →
            s.partlyPoisoned (r.opener + 48) 8 = false →
            (s.die (coreDie (coreOfNat (s.recCore r.opener)))).fenced = false →
            ∃ t, closing = .next t ∧ t.mem64 (r.opener + 48) = r.resultWord.toNat ∧
              t.pushed { asid := r.asid, addr := r.opener } ∧ t.cached at_ = none)))) ∧
    -- a cancel on a die (R94, R158, R159, R164, R165)
    ((∀ c, (s.core c).lease = none) → (∀ e ∈ (s.die d).scopes, e.2.closeWait = false) →
      (∀ e ∈ s.clusters, e.2.waiters = []) → s.overflowList d a = [] → (∀ x ∈ s.teams, x.placed = true) →
      (∀ c, ∀ y ∈ (s.core c).crus, s.killOf a y.scope = false) →
      ((∀ w ∈ (s.die d).waiters, w.handle.asid ≠ a) →
        ∃ t, exec (.cancelBroadcast d a id) s = .next t ∧
          t = { s with cur := mark s.cur, parked := s.parked.map mark, cores := t.cores, clusters := t.clusters,
                       dies := t.dies } ∧
          (∀ k, t.die k = s.die k) ∧ (∀ k, t.cluster k = s.cluster k) ∧
          ∀ c, t.core c = if coreDie c = d then
              { s.core c with
                lads := (s.core c).lads.map fun y =>
                  if y.asid = a then
                    { y with
                      cancel := y.cancel || s.reached a id y.scope || s.killOf a y.scope
                      kill := y.kill || s.killOf a y.scope }
                  else y }
            else s.core c) ∧
      (∀ w, (s.die d).waiters = [w] → w.handle.asid = a → s.teamOfRecord w.handle.addr = none →
        (s.die (coreDie (coreOfNat (s.recCore w.handle.addr)))).fenced = false →
        ∃ t, exec (.cancelBroadcast d a id) s = .next t ∧ (t.die d).waiters = [] ∧ t.pushed w.handle))

/-- R3, R24, R402, R404 and R405. That the first claim is sent with the reset is assumption log 29. The clauses on memory, on registers other than c1 to c63, STATUS and ASTB, and on the
device's tables are the model's own choices (assumption logs 3, 4 and 5). -/
def Obligations.ResetState : Prop :=
  let s := State.reset
  s.powered = true ∧ s.mem.wf = true ∧ (∀ b, s.mem.read b = unlisted) ∧ s.tags = [] ∧ s.poison = [] ∧ s.tlb = [] ∧
    s.due = [] ∧ s.agenda = [] ∧ s.adds = [] ∧ s.copies = [] ∧ s.order.early = [] ∧ s.astb = 0 ∧ s.bootMap = true ∧
    s.boot.epoch = 1 ∧ s.sent = [.claim 1 Config.serial] ∧ s.launches = [] ∧ s.teams = [] ∧
    (s.cur :: s.parked).map Strand.core = [0, 448, 896, 1344].map coreOfNat ∧
    (∀ x ∈ s.cur :: s.parked, x.run = .bootRom ∧ x.status = 1 ∧ x.asid = 0 ∧ x.sctb = 0 ∧ x.tvec = 0 ∧ x.pc = 0 ∧
      (x.creg 6).tag = true ∧ (x.creg 6).lo = 0 ∧ (x.creg 6).bits.extractLsb' 112 8 = BitVec.allOnes 8 ∧
      capBaseOf (x.creg 6).bits = 0 ∧ capTopOf (x.creg 6).bits = 2 ^ 48 ∧ capMalformed (x.creg 6).bits = false ∧
      (∀ i, i ≠ 6 → x.creg i = CapReg.zero) ∧ (∀ v, x.vreg v = 0) ∧ x.mreg 0 = BitVec.allOnes 128) ∧
    (∀ c, (s.core c).lease = none ∧ (s.core c).queue = [] ∧ (s.core c).lads = [] ∧ (s.core c).crus = [] ∧
      (s.core c).invCount = 0 ∧ ∀ p, (s.core c).deques.get p = []) ∧
    ∀ d, (s.die d).scopes = [] ∧ (s.die d).waiters = [] ∧ (s.die d).fw = 0 ∧ (s.die d).fenced = false ∧
      (s.die d).teamQ = []

/-- R97, R103, R106, R173, R174, R199, R217, R339 and R400. Which agent moves is the model's own field (assumption log 1); what is
fetched ahead is log 36, the order of requests log 27, the pair whose registers are those of one copy log 28. -/
def Obligations.StepRunsDecoded : Prop :=
  ∀ (s s1 : State) (x : Strand) (n : Nat) (p : Place) (h : HeldWord),
    let k := s.turn - s.agenda.length - s.adds.length
    let u := (s.choose x).noteSlot
    let m := s.firstOf s.turn
    let issues := fun (i : Instr) (v : State) =>
      (v.pair = none → step s = afterStep (exec i v)) ∧
      (∀ y, v.pair = some y →
        (pairOp i = false → step s = afterStep (exec i (v.setPair { y with matched := none }))) ∧
        (pairOp i = true → y.matched = some v.cur.pc → step s = afterStep (exec i v)) ∧
        (pairOp i = true → y.matched ≠ some v.cur.pc →
          step s = afterStep (.next (if y.asked = some v.cur.pc then v else v.askHashes y i))))
    let runs := fun (bs : List Byte) (v : State) =>
      (∀ i rest, decodeBytes bs = .ok (i, rest) → issues i v) ∧
      ∀ e, decodeBytes bs = .error e → issues (.illegalInstruction (BitVec.ofNat 32 (leNat bs))) v
    -- an instruction
    (s.powered = true → s.due = [] → s.hasLost = false → s.agenda.length + s.adds.length ≤ s.turn → s.stealTurn k = none →
      pickAt k s.candidates = some (x, n) → u.killNow = false → u.stopNow = false → u.interruptNow = false →
      u.cur.run = .ready → u.cur.resuming = none → u.cur.wait = none → u.cur.pc.toNat % 4 = 0 →
      (u.heldWord = none → translate u u.me u.cur.pc .fetch = (s1, .ok p) → s1.gate s1.me p u.cur.pc 4 = none →
        s1.poisoned p.loc 4 = false → runs (s1.seen s1.me p 4) (s1.noteRead s1.me p.loc 4).fetchAhead) ∧
      (u.heldWord = some h → runs (leBytes 4 h.word.toNat) u.dropHeld)) ∧
    (s1.copies = [] → s1.order.early = [] → s1.seen s1.me p 4 = s1.bytes p.loc 4) ∧
    s1.fetchAhead = { s1 with cur := { s1.cur with held := s1.fetchAhead.cur.held }
                              order := { s1.order with carries := s1.fetchAhead.order.carries } } ∧
    (s.choose x).noteSlot = { s.choose x with cores := u.cores } ∧
    -- an event
    (∀ i r, s.powered = true → s.due = i :: r → step s = afterStep (afterEvent i 0 (exec i { s with due := r }))) ∧
    (s.powered = true → s.due = [] → s.hasLost = true → step s = afterStep (.next s.failWaiters)) ∧
    (∀ i, s.powered = true → s.due = [] → s.hasLost = false → s.agenda[m]? = some i →
      step s = afterStep (afterEvent i (s.ahead m) (exec i { s with agenda := s.agenda.eraseIdx m }))) ∧
    (∀ i, s.agenda[s.turn]? = some i → requestOf i = none → m = s.turn) ∧
    (s.powered = true → s.due = [] → s.hasLost = false → s.agenda.length ≤ s.turn → s.turn < s.agenda.length + s.adds.length →
      step s = afterStep (.next (s.retryAdd (s.turn - s.agenda.length)))) ∧
    -- the passing of time
    (∀ t, afterStep (.next t) = .next t.pass ∧ (t.order.early = [] → t.drain = t) ∧
      t.pass = { t.drain with cores := t.pass.cores, time := t.pass.time, turn := t.pass.turn, tick := t.drain.tick + 1 } ∧
      ∀ c, t.pass.core c = { t.drain.core c with cycle := (t.pass.core c).cycle } ∧
        (c ≠ t.drain.cur.core → t.pass.core c = t.drain.core c))

/-- R199, R204, R205, R216 and R217 on words written out from the encodings. -/
def Obligations.DecodeWords : Prop :=
  decodeTableWord 32 0b00_000001_001000_001001_001010_000000 = some (.add 0 8 9 10) ∧
  decodeTableWord 32 0b00_000010_001000_001001_111111111100 = some (.addi 0 8 9 0xFFC) ∧
  decodeTableWord 32 0b00_001000_001000_010010001101000101 = some (.lui 0 8 0x12345) ∧
  decodeTableWord 32 0b00_001001_001000_001001_001010_000000 = some (.capSet 0 8 9 10) ∧
  decodeTableWord 32 0b00_100000_001000_001001_110_000000011 = some (.ldD 0 8 9 3) ∧
  decodeTableWord 32 0b00_101001_00100_00101_00110_000_0000_10 = some (.vadd 0 4 5 6 0 2) ∧
  decodeTableWord 32 0b00_110001_001000_000000_000000_001001 = none ∧
  decodeTableWord 32 0b00_110100_000000_000000_000000_001000 = some (.mxFree 0) ∧
  decodeTableWord 32 0b00_111100_000000_000000_000000_000011 = some (.yield 0) ∧
  decodeTableWord 32 0b00_111110_000000_000000_000000_000000 = none ∧
  decodeTableWord 32 0b00_000001_001000_001001_000001_010110 = none ∧
  decodeTableWord 32 0b00_100011_000000_000000_000000_000_101 = none

/-- R199, R204, R205 and R216: no bit of an encoding is dropped. Events of the device have no word. -/
def Obligations.EncodeDecodes : Prop :=
  ∀ (i : Instr) (w : BitVec 32), i.wf = true → encode i = some w →
    decode w = .ok i ∧ ∀ rest, decodeBytes (bytesOfNat 4 w.toNat ++ rest) = .ok (i, rest)

/-- An invariant of the model's own representation of memory (assumption log 5). -/
def Obligations.MemoryCanonicalStep : Prop :=
  ∀ s t : State, s.mem.wf = true → step s = .next t → t.mem.wf = true

end
end

