-- ==== Sys2Proof/Laws/Memory.lean ====
section
/-!
SUPPORT. Memory: every operation keeps the canonical form, and a read after a write.
-/
namespace Sys2Proof.Machine

set_option Elab.async false

/-! ### The canonical form -/

@[simp] theorem Mem.wfFrom_nil (lo : Nat) : Mem.wfFrom lo [] = true := rfl

@[simp] theorem Mem.wfFrom_cons (lo k : Nat) (b : Byte) (r : Mem) :
    Mem.wfFrom lo ((k, b) :: r) = true ↔ lo ≤ k ∧ b ≠ unlisted ∧ Mem.wfFrom (k + 1) r = true := by
  simp [Mem.wfFrom, and_assoc]

/-- A form that starts no lower than an address also starts no lower than a smaller one. -/
theorem Mem.wfFrom_le {lo hi : Nat} {m : Mem} (h : Mem.wfFrom hi m = true) (le : lo ≤ hi) : Mem.wfFrom lo m = true := by
  cases m with
  | nil => rfl
  | cons c r =>
    obtain ⟨k, b⟩ := c
    simp only [Mem.wfFrom_cons] at h ⊢
    exact ⟨by omega, h.2⟩

/-- A write keeps the canonical form from an address on, if it writes there or above. -/
theorem Mem.wfFrom_write {m : Mem} {lo a : Nat} (v : Byte) (h : Mem.wfFrom lo m = true) (le : lo ≤ a) :
    Mem.wfFrom lo (m.write a v) = true := by
  induction m generalizing lo with
  | nil => simp only [Mem.write]; split <;> simp_all
  | cons c r ih =>
    obtain ⟨k, b⟩ := c
    simp only [Mem.wfFrom_cons] at h
    simp only [Mem.write]
    split
    · split
      · simpa using h
      · simp only [Mem.wfFrom_cons]
        exact ⟨le, by assumption, by omega, h.2⟩
    · split
      · split
        · exact Mem.wfFrom_le h.2.2 (by omega)
        · simp only [Mem.wfFrom_cons]
          exact ⟨h.1, by assumption, h.2.2⟩
      · simp only [Mem.wfFrom_cons]
        exact ⟨h.1, h.2.1, ih h.2.2 (by omega)⟩

/-- A write keeps the canonical form. -/
theorem Mem.wf_write {m : Mem} (a : Nat) (v : Byte) (h : m.wf = true) : (m.write a v).wf = true :=
  Mem.wfFrom_write v h (Nat.zero_le a)

/-- A write of several bytes keeps the canonical form. -/
theorem Mem.wf_writeBytes {m : Mem} (a : Nat) (bs : List Byte) (h : m.wf = true) : (m.writeBytes a bs).wf = true := by
  induction bs generalizing m a with
  | nil => exact h
  | cons b bs ih => exact ih (a + 1) (Mem.wf_write a b h)

/-- What a test keeps of a canonical memory is canonical. -/
theorem Mem.wfFrom_filter {m : Mem} {lo : Nat} (p : Host.Cell → Bool) (h : Mem.wfFrom lo m = true) :
    Mem.wfFrom lo (m.filter p) = true := by
  induction m generalizing lo with
  | nil => rfl
  | cons c r ih =>
    obtain ⟨k, b⟩ := c
    simp only [Mem.wfFrom_cons] at h
    simp only [List.filter]
    split
    · simp only [Mem.wfFrom_cons]
      exact ⟨h.1, h.2.1, ih h.2.2⟩
    · exact Mem.wfFrom_le (ih h.2.2) (by omega)

/-- Clearing a range keeps the canonical form. -/
theorem Mem.wf_clear {m : Mem} (a n : Nat) (h : m.wf = true) : (m.clear a n).wf = true := Mem.wfFrom_filter _ h

/-- Copying a range keeps the canonical form. -/
theorem Mem.wf_copy {m : Mem} (src dst n : Nat) (h : m.wf = true) : (m.copy src dst n).wf = true := by
  simp only [Mem.copy]
  generalize m.slice src n = l
  have hc := Mem.wf_clear dst n h
  generalize m.clear dst n = acc at hc
  induction l generalizing acc with
  | nil => exact hc
  | cons c l ih => exact ih _ (Mem.wf_write _ _ hc)

/-! ### Reads after writes -/

/-- Below its first entry a canonical memory reads as an unlisted address. -/
theorem Mem.read_below {m : Mem} {lo a : Nat} (h : Mem.wfFrom lo m = true) (lt : a < lo) : m.read a = unlisted := by
  cases m with
  | nil => rfl
  | cons c r =>
    obtain ⟨k, b⟩ := c
    simp only [Mem.wfFrom_cons] at h
    simp only [Mem.read]
    rw [if_neg (by omega), if_pos (by omega)]

/-- A byte written reads as written. -/
theorem Mem.read_write_same_from {m : Mem} {lo a : Nat} (v : Byte) (h : Mem.wfFrom lo m = true) :
    (m.write a v).read a = v := by
  induction m generalizing lo with
  | nil =>
    simp only [Mem.write]
    split
    · simp_all [Mem.read]
    · simp [Mem.read]
  | cons c r ih =>
    obtain ⟨k, b⟩ := c
    simp only [Mem.wfFrom_cons] at h
    simp only [Mem.write]
    split
    · split
      · simp only [Mem.read]
        rw [if_neg (by omega), if_pos (by assumption)]
        simp_all
      · simp [Mem.read]
    · split
      · split
        · rw [Mem.read_below h.2.2 (by omega)]
          simp_all
        · simp_all [Mem.read]
      · simp only [Mem.read]
        rw [if_neg (by omega), if_neg (by omega)]
        exact ih h.2.2

/-- Another byte reads as before a write. -/
theorem Mem.read_write_other_from {m : Mem} {lo a c : Nat} (v : Byte) (h : Mem.wfFrom lo m = true) (ne : c ≠ a) :
    (m.write a v).read c = m.read c := by
  induction m generalizing lo with
  | nil =>
    simp only [Mem.write]
    split
    · rfl
    · simp only [Mem.read]
      rw [if_neg ne]
      split <;> rfl
  | cons e r ih =>
    obtain ⟨k, b⟩ := e
    simp only [Mem.wfFrom_cons] at h
    simp only [Mem.write]
    split
    · split
      · rfl
      · simp only [Mem.read]
        rw [if_neg ne]
        split
        · rw [if_neg (by omega), if_pos (by omega)]
        · rfl
    · split
      · rename_i hk
        split
        · simp only [Mem.read]
          rw [if_neg (by omega)]
          split
          · exact Mem.read_below h.2.2 (by omega)
          · rfl
        · simp only [Mem.read]
          rw [if_neg (by omega), if_neg (by omega : ¬ c = k)]
      · simp only [Mem.read]
        split
        · rfl
        · split
          · rfl
          · exact ih h.2.2

/-- A read after a write of one byte. -/
theorem Mem.read_write {m : Mem} (a c : Nat) (v : Byte) (h : m.wf = true) :
    (m.write a v).read c = if c = a then v else m.read c := by
  split
  · subst_vars
    exact Mem.read_write_same_from v h
  · exact Mem.read_write_other_from v h (by assumption)

/-- A read after a write of several bytes. -/
theorem Mem.read_writeBytes {m : Mem} (a c : Nat) (bs : List Byte) (h : m.wf = true) :
    (m.writeBytes a bs).read c = if a ≤ c then bs[c - a]?.getD (m.read c) else m.read c := by
  induction bs generalizing m a with
  | nil => simp [Mem.writeBytes]
  | cons b bs ih =>
    simp only [Mem.writeBytes]
    rw [ih (a + 1) (Mem.wf_write a b h), Mem.read_write a c b h]
    by_cases h1 : c = a
    · subst h1
      rw [if_neg (by omega)]
      simp
    · by_cases h2 : a ≤ c
      · have : c - a = c - (a + 1) + 1 := by omega
        rw [if_pos (by omega), if_pos h2, this]
        simp [h1]
      · rw [if_neg (by omega), if_neg h2, if_neg h1]

/-- Bytes outside those written read as before. -/
theorem Mem.read_writeBytes_outside {m : Mem} (a c : Nat) (bs : List Byte) (h : m.wf = true)
    (out : ¬ (a ≤ c ∧ c < a + bs.length)) : (m.writeBytes a bs).read c = m.read c := by
  rw [Mem.read_writeBytes a c bs h]
  split
  · rw [List.getElem?_eq_none (by omega)]; rfl
  · rfl

/-- A filtered canonical memory reads an address it keeps as before, and one it drops as unlisted. -/
theorem Mem.read_filter {m : Mem} {lo : Nat} (p : Nat → Bool) (c : Nat) (h : Mem.wfFrom lo m = true) :
    Mem.read (m.filter fun e => p e.1) c = if p c then m.read c else unlisted := by
  induction m generalizing lo with
  | nil => simp [Mem.read]
  | cons e r ih =>
    obtain ⟨k, b⟩ := e
    simp only [Mem.wfFrom_cons] at h
    have low : c < k + 1 → Mem.read (r.filter fun e => p e.1) c = unlisted := fun lt =>
      Mem.read_below (Mem.wfFrom_filter (fun e => p e.1) h.2.2) lt
    by_cases hk : p k = true
    · simp only [List.filter, hk, Mem.read, ih h.2.2]
      by_cases hc : c = k
      · subst hc; simp [hk]
      · simp only [if_neg hc]
        split <;> simp_all
    · simp only [List.filter, hk, Mem.read]
      by_cases hc : c = k
      · subst hc
        simp [hk, low (by omega)]
      · simp only [if_neg hc]
        by_cases hlt : c < k
        · rw [low (by omega), if_pos hlt]; simp
        · rw [ih h.2.2, if_neg hlt]

/-- A read after a range is cleared. -/
theorem Mem.read_clear {m : Mem} (a n c : Nat) (h : m.wf = true) :
    (m.clear a n).read c = if a ≤ c ∧ c < a + n then unlisted else m.read c := by
  have := Mem.read_filter (fun k => !(decide (a ≤ k) && decide (k < a + n))) c h
  simp only [Mem.clear]
  rw [this]
  by_cases h1 : a ≤ c ∧ c < a + n
  · rw [if_pos h1, if_neg (by simp [h1])]
  · rw [if_neg h1, if_pos (by simp; omega)]

/-! ### Runs of bytes -/

@[simp] theorem Mem.readBytes_length (m : Mem) (a n : Nat) : (m.readBytes a n).length = n := by
  induction n generalizing a with
  | zero => rfl
  | succ n ih => simp [Mem.readBytes, ih]

/-- A byte of a run that is read. -/
theorem Mem.readBytes_getElem? (m : Mem) (a n i : Nat) (lt : i < n) : (m.readBytes a n)[i]? = some (m.read (a + i)) := by
  induction n generalizing a i with
  | zero => omega
  | succ n ih =>
    cases i with
    | zero => simp [Mem.readBytes]
    | succ i =>
      simp only [Mem.readBytes, List.getElem?_cons_succ]
      rw [ih (a + 1) i (by omega)]
      congr 2; omega

/-- Memories that agree on a run read the same run. -/
theorem Mem.readBytes_congr {m m' : Mem} {a n : Nat} (h : ∀ c, a ≤ c → c < a + n → m.read c = m'.read c) :
    m.readBytes a n = m'.readBytes a n := by
  induction n generalizing a with
  | zero => rfl
  | succ n ih =>
    simp only [Mem.readBytes]
    rw [h a (by omega) (by omega), ih fun c h1 h2 => h c (by omega) (by omega)]

/-- A run written reads as written. -/
theorem Mem.readBytes_writeBytes {m : Mem} (a : Nat) (bs : List Byte) (h : m.wf = true) :
    (m.writeBytes a bs).readBytes a bs.length = bs := by
  apply List.ext_getElem?
  intro i
  by_cases lt : i < bs.length
  · rw [Mem.readBytes_getElem? _ _ _ _ lt, Mem.read_writeBytes a (a + i) bs h]
    simp [lt]
  · rw [List.getElem?_eq_none (by simp; omega), List.getElem?_eq_none (by omega)]

@[simp] theorem leBytes_length (n v : Nat) : (leBytes n v).length = n := by
  induction n generalizing v with
  | zero => rfl
  | succ n ih => simp [leBytes, ih]

/-- The value of the bytes of a value (R5). -/
theorem leNat_leBytes (n v : Nat) : leNat (leBytes n v) = v % 256 ^ n := by
  induction n generalizing v with
  | zero => simp [leBytes, leNat, Nat.mod_one]
  | succ n ih =>
    simp only [leBytes, leNat, ih, BitVec.toNat_ofNat, Nat.reducePow, Nat.pow_succ']
    exact (Nat.mod_mul ..).symm

end Sys2Proof.Machine
end

