-- ==== Sys2Proof/Laws/Canonical.lean ====
section
/-!
SUPPORT. Every operation of the machine keeps memory in its canonical form: one lemma for each.
-/
namespace Sys2Proof.Machine

set_option Elab.async false

/-! ### Results that hold states -/

/-- An outcome with a next state has one of canonical memory. -/
def goesOn (o : Host.Outcome State Fault Refusal) : Prop := ∀ t, o = .next t → t.mem.wf = true

theorem goesOn_next {s : State} (h : s.mem.wf = true) : goesOn (.next s) := by
  intro t e
  cases e
  exact h

theorem goesOn_fault (f : Fault) : goesOn (.fault f) := by
  intro t e
  cases e

theorem goesOn_refused (r : Refusal) : goesOn (.refused r) := by
  intro t e
  cases e

/-- The state in a value that may be absent has canonical memory. -/
def canonicalIn {α : Type} (o : Option α) (f : α → State) : Prop := ∀ x, o = some x → (f x).mem.wf = true

theorem canonicalIn_none {α : Type} (f : α → State) : canonicalIn none f := by
  intro x e
  cases e

theorem canonicalIn_some {α : Type} {f : α → State} {x : α} (h : (f x).mem.wf = true) : canonicalIn (some x) f := by
  intro y e
  cases e
  exact h

/-- Both results of a fetch have canonical memory. -/
def fetches (o : Except State (State × List Byte)) : Prop :=
  (∀ t, o = .error t → t.mem.wf = true) ∧ ∀ t bs, o = .ok (t, bs) → t.mem.wf = true

theorem fetches_error {s : State} (h : s.mem.wf = true) : fetches (.error s) := by
  constructor
  · intro t e
    cases e
    exact h
  · intro t bs e
    cases e

theorem fetches_ok {s : State} {bs : List Byte} (h : s.mem.wf = true) : fetches (.ok (s, bs)) := by
  constructor
  · intro t e
    cases e
  · intro t bs e
    cases e
    exact h

/-- What an instruction has decided leaves canonical memory. -/
def resCanonical : Res → Prop
  | .done s => s.mem.wf = true
  | .jump s _ => s.mem.wf = true
  | .fault s _ _ _ => s.mem.wf = true
  | .trap s _ => s.mem.wf = true
  | .stop s _ => s.mem.wf = true
  | .stall s => s.mem.wf = true
  | .away s => s.mem.wf = true

theorem resCanonical_done {s : State} (h : s.mem.wf = true) : resCanonical (.done s) := h
theorem resCanonical_jump {s : State} {pc : Word} (h : s.mem.wf = true) : resCanonical (.jump s pc) := h
theorem resCanonical_fault {s : State} {c sub : Nat} {v : Word} (h : s.mem.wf = true) : resCanonical (.fault s c sub v) := h
theorem resCanonical_trap {s : State} {t : Trap} (h : s.mem.wf = true) : resCanonical (.trap s t) := h
theorem resCanonical_stop {s : State} {x : Stop} (h : s.mem.wf = true) : resCanonical (.stop s x) := h
theorem resCanonical_stall {s : State} (h : s.mem.wf = true) : resCanonical (.stall s) := h
theorem resCanonical_away {s : State} (h : s.mem.wf = true) : resCanonical (.away s) := h

/-- A decision that may be absent leaves canonical memory. -/
def resIn (o : Option Res) : Prop := ∀ r, o = some r → resCanonical r

theorem resIn_none : resIn none := by
  intro x e
  cases e

theorem resIn_some {r : Res} (h : resCanonical r) : resIn (some r) := by
  intro y e
  cases e
  exact h

/-- A fold of steps that keep the form keeps it. -/
theorem foldl_canonical {α : Type} {f : State → α → State} {s : State} {l : List α}
    (hf : ∀ u a, u.mem.wf = true → (f u a).mem.wf = true) (h : s.mem.wf = true) : (l.foldl f s).mem.wf = true := by
  induction l generalizing s with
  | nil => exact h
  | cons a l ih => exact ih (hf s a h)

/-- A fold from the end of steps that keep the form keeps it. -/
theorem foldr_canonical {α : Type} {f : α → State → State} {s : State} {l : List α}
    (hf : ∀ a u, u.mem.wf = true → (f a u).mem.wf = true) (h : s.mem.wf = true) : (l.foldr f s).mem.wf = true := by
  induction l with
  | nil => exact h
  | cons a l ih => exact hf a _ ih

/-- The state at which a request from outside ends has canonical memory. -/
def inboundCanonical : Inbound → Prop
  | .done s _ => s.mem.wf = true
  | .rejected s => s.mem.wf = true
  | .waits s => s.mem.wf = true

theorem inboundCanonical_done {s : State} {bs : List Byte} (h : s.mem.wf = true) : inboundCanonical (.done s bs) := h
theorem inboundCanonical_rejected {s : State} (h : s.mem.wf = true) : inboundCanonical (.rejected s) := h
theorem inboundCanonical_waits {s : State} (h : s.mem.wf = true) : inboundCanonical (.waits s) := h

theorem inboundCanonical_of_done {s : State} {bs : List Byte} (h : inboundCanonical (.done s bs)) : s.mem.wf = true := h
theorem inboundCanonical_of_rejected {s : State} (h : inboundCanonical (.rejected s)) : s.mem.wf = true := h
theorem inboundCanonical_of_waits {s : State} (h : inboundCanonical (.waits s)) : s.mem.wf = true := h

theorem inboundCanonical_done_eq {i : Inbound} {s : State} {bs : List Byte} (e : i = .done s bs)
    (h : inboundCanonical i) : s.mem.wf = true := by
  subst e
  exact h

theorem inboundCanonical_rejected_eq {i : Inbound} {s : State} (e : i = .rejected s) (h : inboundCanonical i) :
    s.mem.wf = true := by
  subst e
  exact h

theorem inboundCanonical_waits_eq {i : Inbound} {s : State} (e : i = .waits s) (h : inboundCanonical i) :
    s.mem.wf = true := by
  subst e
  exact h

/-- The state at which an engine's access stops has canonical memory. -/
def stopCanonical : EngineStop → Prop
  | .waits s => s.mem.wf = true
  | .ends s _ _ _ => s.mem.wf = true

theorem stopCanonical_waits {s : State} (h : s.mem.wf = true) : stopCanonical (.waits s) := h
theorem stopCanonical_ends {s : State} {c sub : Nat} {v : Word} (h : s.mem.wf = true) : stopCanonical (.ends s c sub v) := h

theorem stopCanonical_waits_eq {i : EngineStop} {s : State} (e : i = .waits s) (h : stopCanonical i) :
    s.mem.wf = true := by
  subst e
  exact h

theorem stopCanonical_ends_eq {i : EngineStop} {s : State} {c sub : Nat} {v : Word} (e : i = .ends s c sub v)
    (h : stopCanonical i) : s.mem.wf = true := by
  subst e
  exact h

/-- The first component of a pair that is equal to another. -/
theorem fst_of {α : Type} {p : State × α} {s : State} {a : α} (e : p = (s, a)) (h : p.1.mem.wf = true) :
    s.mem.wf = true := by
  subst e
  exact h

/-- The second component of a pair that is equal to another. -/
theorem snd_of {α : Type} {p : α × State} {s : State} {a : α} (e : p = (a, s)) (h : p.2.mem.wf = true) :
    s.mem.wf = true := by
  subst e
  exact h

/-- A fold over a state and a result beside it, of steps that keep the form, keeps it. -/
theorem foldl_canonical_fst {α β : Type} {f : State × β → α → State × β} {p : State × β} {l : List α}
    (hf : ∀ u a, u.1.mem.wf = true → (f u a).1.mem.wf = true) (h : p.1.mem.wf = true) : (l.foldl f p).1.mem.wf = true := by
  induction l generalizing p with
  | nil => exact h
  | cons a l ih => exact ih (hf p a h)

/-- The first decision that a list gives leaves canonical memory. -/
theorem resIn_findSome {α : Type} {f : α → Option Res} {l : List α} (hf : ∀ a, resIn (f a)) : resIn (l.findSome? f) := by
  intro r e
  obtain ⟨a, _, e⟩ := List.exists_of_findSome?_eq_some e
  exact hf a r e

/-! ### Operations -/

theorem State.addAgenda_canonical (s : State) (x1) (h : s.mem.wf = true) : (State.addAgenda s x1).mem.wf = true := by
  unfold State.addAgenda
  repeat first | with_reducible assumption | (with_reducible intro _) | dsimp only

theorem State.addDue_canonical (s : State) (x1) (h : s.mem.wf = true) : (State.addDue s x1).mem.wf = true := by
  unfold State.addDue
  repeat first | with_reducible assumption | (with_reducible intro _) | dsimp only

theorem State.cacheDesc_canonical (s : State) (x1) (x2) (h : s.mem.wf = true) :
    (State.cacheDesc s x1 x2).mem.wf = true := by
  unfold State.cacheDesc
  repeat first | with_reducible assumption | (with_reducible intro _) | dsimp only | split

theorem State.copyRange_canonical (s : State) (x1) (x2) (x3) (h : s.mem.wf = true) :
    (State.copyRange s x1 x2 x3).mem.wf = true := by
  unfold State.copyRange
  repeat first | with_reducible assumption | (with_reducible intro _) | (with_reducible apply foldl_canonical)
               | (with_reducible apply Mem.wf_copy) | dsimp only

theorem State.modFn_canonical (s : State) (x1) (x2) (h : s.mem.wf = true) : (State.modFn s x1 x2).mem.wf = true := by
  unfold State.modFn
  repeat first | with_reducible assumption | (with_reducible intro _) | dsimp only

theorem State.countError_canonical (s : State) (x1) (x2) (h : s.mem.wf = true) :
    (State.countError s x1 x2).mem.wf = true := by
  unfold State.countError
  repeat first | with_reducible assumption | (with_reducible intro _) | (with_reducible apply State.modFn_canonical)
               | dsimp only | split

theorem State.dropCopies_canonical (s : State) (x1) (x2) (h : s.mem.wf = true) :
    (State.dropCopies s x1 x2).mem.wf = true := by
  unfold State.dropCopies
  repeat first | with_reducible assumption | (with_reducible intro _) | dsimp only

theorem State.free_canonical (s : State) (h : s.mem.wf = true) : (State.free s).2.mem.wf = true := by
  unfold State.free
  repeat first | with_reducible assumption | (with_reducible intro _) | dsimp only

theorem State.freePair_canonical (s : State) (h : s.mem.wf = true) : (State.freePair s).2.mem.wf = true := by
  unfold State.freePair
  repeat first | with_reducible assumption | (with_reducible intro _) | (with_reducible apply State.free_canonical)
               | dsimp only | (refine snd_of (by assumption) ?_)

theorem State.setCluster_canonical (s : State) (x1) (x2) (h : s.mem.wf = true) :
    (State.setCluster s x1 x2).mem.wf = true := by
  unfold State.setCluster
  repeat first | with_reducible assumption | (with_reducible intro _) | dsimp only

theorem State.modCluster_canonical (s : State) (x1) (x2) (h : s.mem.wf = true) :
    (State.modCluster s x1 x2).mem.wf = true := by
  unfold State.modCluster
  repeat first | with_reducible assumption | (with_reducible intro _)
               | (with_reducible apply State.setCluster_canonical) | dsimp only

theorem State.setCore_canonical (s : State) (x1) (x2) (h : s.mem.wf = true) :
    (State.setCore s x1 x2).mem.wf = true := by
  unfold State.setCore
  repeat first | with_reducible assumption | (with_reducible intro _) | dsimp only

theorem State.modCore_canonical (s : State) (x1) (x2) (h : s.mem.wf = true) :
    (State.modCore s x1 x2).mem.wf = true := by
  unfold State.modCore
  repeat first | with_reducible assumption | (with_reducible intro _) | (with_reducible apply State.setCore_canonical)
               | dsimp only

theorem State.modCur_canonical (s : State) (x1) (h : s.mem.wf = true) : (State.modCur s x1).mem.wf = true := by
  unfold State.modCur
  repeat first | with_reducible assumption | (with_reducible intro _) | dsimp only

theorem State.modDie_canonical (s : State) (x1) (x2) (h : s.mem.wf = true) : (State.modDie s x1 x2).mem.wf = true := by
  unfold State.modDie
  repeat first | with_reducible assumption | (with_reducible intro _) | dsimp only

theorem State.offer_canonical (s : State) (x1) (h : s.mem.wf = true) : (State.offer s x1).mem.wf = true := by
  unfold State.offer
  repeat first | with_reducible assumption | (with_reducible intro _) | (with_reducible apply State.addAgenda_canonical)
               | dsimp only | split

theorem State.openData_canonical (s : State) (x1) (h : s.mem.wf = true) : (State.openData s x1).2.mem.wf = true := by
  unfold State.openData
  repeat first | with_reducible assumption | (with_reducible intro _) | dsimp only

theorem State.putBytes_canonical (s : State) (x1) (x2) (h : s.mem.wf = true) :
    (State.putBytes s x1 x2).mem.wf = true := by
  unfold State.putBytes
  repeat first | with_reducible assumption | (with_reducible intro _) | (with_reducible apply Mem.wf_writeBytes)
               | dsimp only | split

theorem State.putBlock_canonical (s : State) (x1) (x2) (h : s.mem.wf = true) :
    (State.putBlock s x1 x2).mem.wf = true := by
  unfold State.putBlock
  repeat first | with_reducible assumption | (with_reducible intro _)
               | (with_reducible apply State.dropCopies_canonical) | (with_reducible apply State.putBytes_canonical)
               | (with_reducible apply foldl_canonical) | dsimp only | split

theorem State.putN_canonical (s : State) (x1) (x2) (x3) (h : s.mem.wf = true) :
    (State.putN s x1 x2 x3).mem.wf = true := by
  unfold State.putN
  repeat first | with_reducible assumption | (with_reducible intro _) | (with_reducible apply State.putBlock_canonical)
               | dsimp only

theorem State.put64_canonical (s : State) (x1) (x2) (h : s.mem.wf = true) : (State.put64 s x1 x2).mem.wf = true := by
  unfold State.put64
  repeat first | with_reducible assumption | (with_reducible intro _) | (with_reducible apply State.putN_canonical)
               | dsimp only

theorem State.putGranule_canonical (s : State) (x1) (x2) (h : s.mem.wf = true) :
    (State.putGranule s x1 x2).mem.wf = true := by
  unfold State.putGranule
  repeat first | with_reducible assumption | (with_reducible intro _) | (with_reducible apply State.putBytes_canonical)
               | dsimp only | split

theorem State.putC_canonical (s : State) (x1) (x2) (h : s.mem.wf = true) : (State.putC s x1 x2).mem.wf = true := by
  unfold State.putC
  repeat first | with_reducible assumption | (with_reducible intro _)
               | (with_reducible apply State.dropCopies_canonical) | (with_reducible apply State.putGranule_canonical)
               | dsimp only | split

theorem State.raiseInt_canonical (s : State) (x1) (x2) (h : s.mem.wf = true) :
    (State.raiseInt s x1 x2).mem.wf = true := by
  unfold State.raiseInt
  repeat first | with_reducible assumption | (with_reducible intro _) | (with_reducible apply State.modDie_canonical)
               | dsimp only

theorem State.report_canonical (s : State) (x1) (x2) (x3) (h : s.mem.wf = true) :
    (State.report s x1 x2 x3).mem.wf = true := by
  unfold State.report
  repeat first | with_reducible assumption | (with_reducible intro _)
               | (with_reducible apply State.countError_canonical) | (with_reducible apply State.modDie_canonical)
               | (with_reducible apply State.raiseInt_canonical) | dsimp only | split

theorem State.refuse_canonical (s : State) (x1) (x2) (h : s.mem.wf = true) : (State.refuse s x1 x2).mem.wf = true := by
  unfold State.refuse
  repeat first | with_reducible assumption | (with_reducible intro _) | (with_reducible apply State.report_canonical)
               | dsimp only

theorem State.resourceEvent_canonical (s : State) (x1) (x2) (x3) (h : s.mem.wf = true) :
    (State.resourceEvent s x1 x2 x3).mem.wf = true := by
  unfold State.resourceEvent
  repeat first | with_reducible assumption | (with_reducible intro _) | (with_reducible apply State.report_canonical)
               | dsimp only

theorem State.send_canonical (s : State) (x1) (h : s.mem.wf = true) : (State.send s x1).mem.wf = true := by
  unfold State.send
  repeat first | with_reducible assumption | (with_reducible intro _) | dsimp only

theorem State.setC_canonical (s : State) (x1) (x2) (h : s.mem.wf = true) : (State.setC s x1 x2).mem.wf = true := by
  unfold State.setC
  repeat first | with_reducible assumption | (with_reducible intro _) | (with_reducible apply State.modCur_canonical)
               | dsimp only

theorem State.setM_canonical (s : State) (x1) (x2) (h : s.mem.wf = true) : (State.setM s x1 x2).mem.wf = true := by
  unfold State.setM
  repeat first | with_reducible assumption | (with_reducible intro _) | (with_reducible apply State.modCur_canonical)
               | dsimp only

theorem State.setV_canonical (s : State) (x1) (x2) (h : s.mem.wf = true) : (State.setV s x1 x2).mem.wf = true := by
  unfold State.setV
  repeat first | with_reducible assumption | (with_reducible intro _) | (with_reducible apply State.modCur_canonical)
               | dsimp only

theorem State.setX_canonical (s : State) (x1) (x2) (h : s.mem.wf = true) : (State.setX s x1 x2).mem.wf = true := by
  unfold State.setX
  repeat first | with_reducible assumption | (with_reducible intro _) | (with_reducible apply State.modCur_canonical)
               | dsimp only

theorem State.zeroRange_canonical (s : State) (x1) (x2) (h : s.mem.wf = true) :
    (State.zeroRange s x1 x2).mem.wf = true := by
  unfold State.zeroRange
  repeat first | with_reducible assumption | (with_reducible intro _) | (with_reducible apply Mem.wf_clear) | dsimp only

theorem State.setCarry_canonical (s : State) (x1) (h : s.mem.wf = true) : (State.setCarry s x1).mem.wf = true := by
  unfold State.setCarry
  repeat first | with_reducible assumption | (with_reducible intro _) | dsimp only | split

theorem State.takeSyncs_canonical (s : State) (x1) (x2) (x3) (x4) (h : s.mem.wf = true) :
    (State.takeSyncs s x1 x2 x3 x4).mem.wf = true := by
  unfold State.takeSyncs
  repeat first | with_reducible assumption | (with_reducible intro _) | (with_reducible apply State.setCarry_canonical)
               | dsimp only

theorem State.joinWoken_canonical (s : State) (x1) (x2) (x3) (h : s.mem.wf = true) :
    (State.joinWoken s x1 x2 x3).mem.wf = true := by
  unfold State.joinWoken
  repeat first | with_reducible assumption | (with_reducible intro _) | (with_reducible apply State.takeSyncs_canonical)
               | dsimp only | split

theorem State.leaveCarry_canonical (s : State) (x1) (h : s.mem.wf = true) : (State.leaveCarry s x1).mem.wf = true := by
  unfold State.leaveCarry
  repeat first | with_reducible assumption | (with_reducible intro _) | (with_reducible apply State.setCarry_canonical)
               | dsimp only

theorem State.modPending_canonical (s : State) (x1) (x2) (h : s.mem.wf = true) :
    (State.modPending s x1 x2).mem.wf = true := by
  unfold State.modPending
  repeat first | with_reducible assumption | (with_reducible intro _) | (with_reducible apply State.modCore_canonical)
               | dsimp only | split

theorem State.putSync_canonical (s : State) (x1) (x2) (x3) (x4) (x5) (h : s.mem.wf = true) :
    (State.putSync s x1 x2 x3 x4 x5).mem.wf = true := by
  unfold State.putSync
  repeat first | with_reducible assumption | (with_reducible intro _) | dsimp only | split

theorem State.holdFor_canonical (s : State) (x1) (x2) (x3) (h : s.mem.wf = true) :
    (State.holdFor s x1 x2 x3).mem.wf = true := by
  unfold State.holdFor
  repeat first | with_reducible assumption | (with_reducible intro _) | dsimp only | split

theorem State.markPage_canonical (s : State) (x1) (x2) (x3) (h : s.mem.wf = true) :
    (State.markPage s x1 x2 x3).mem.wf = true := by
  unfold State.markPage
  repeat first | with_reducible assumption | (with_reducible intro _) | (with_reducible apply State.put64_canonical)
               | (with_reducible apply foldl_canonical) | dsimp only | split

theorem State.modLpn_canonical (s : State) (x1) (x2) (x3) (h : s.mem.wf = true) :
    (State.modLpn s x1 x2 x3).mem.wf = true := by
  unfold State.modLpn
  repeat first | with_reducible assumption | (with_reducible intro _) | (with_reducible apply State.modDie_canonical)
               | dsimp only

theorem State.tlbFill_canonical (s : State) (x1) (x2) (h : s.mem.wf = true) :
    (State.tlbFill s x1 x2).mem.wf = true := by
  unfold State.tlbFill
  repeat first | with_reducible assumption | (with_reducible intro _) | dsimp only | split

theorem State.tlbPut_canonical (s : State) (x1) (x2) (x3) (x4) (x5) (h : s.mem.wf = true) :
    (State.tlbPut s x1 x2 x3 x4 x5).mem.wf = true := by
  unfold State.tlbPut
  repeat first | with_reducible assumption | (with_reducible intro _) | dsimp only | split

theorem State.walkPut_canonical (s : State) (x1) (x2) (x3) (x4) (x5) (h : s.mem.wf = true) :
    (State.walkPut s x1 x2 x3 x4 x5).mem.wf = true := by
  unfold State.walkPut
  repeat first | with_reducible assumption | (with_reducible intro _) | (with_reducible apply foldl_canonical)
               | dsimp only

theorem missAccess_canonical (s : State) (x1) (x2) (x3) (h : s.mem.wf = true) :
    (missAccess s x1 x2 x3).1.mem.wf = true := by
  unfold missAccess
  repeat first | with_reducible assumption | (with_reducible intro _) | (with_reducible apply State.cacheDesc_canonical)
               | (with_reducible apply State.tlbPut_canonical) | (with_reducible apply State.walkPut_canonical)
               | (with_reducible apply State.markPage_canonical) | dsimp only | split

theorem translate_canonical (s : State) (x1) (x2) (x3) (h : s.mem.wf = true) :
    (translate s x1 x2 x3).1.mem.wf = true := by
  unfold translate
  repeat first | with_reducible assumption | (with_reducible intro _) | (with_reducible apply State.holdFor_canonical)
               | (with_reducible apply missAccess_canonical) | (with_reducible apply State.tlbFill_canonical)
               | dsimp only | split | (refine fst_of (by assumption) ?_)

theorem State.depart_canonical (s : State) (x1) (x2) (h : s.mem.wf = true) : (State.depart s x1 x2).mem.wf = true := by
  unfold State.depart
  repeat first | with_reducible assumption | (with_reducible intro _) | dsimp only

theorem State.allPosted_canonical (s : State) (x1) (h : s.mem.wf = true) : (State.allPosted s x1).1.mem.wf = true := by
  unfold State.allPosted
  repeat first | with_reducible assumption | (with_reducible intro _) | (with_reducible apply State.depart_canonical)
               | dsimp only | split

theorem State.sysReady_canonical (s : State) (x1) (h : s.mem.wf = true) : (State.sysReady s x1).1.mem.wf = true := by
  unfold State.sysReady
  repeat first | with_reducible assumption | (with_reducible intro _) | (with_reducible apply State.depart_canonical)
               | dsimp only | split

theorem State.clearMark_canonical (s : State) (x1) (h : s.mem.wf = true) : (State.clearMark s x1).mem.wf = true := by
  unfold State.clearMark
  repeat first | with_reducible assumption | (with_reducible intro _) | (with_reducible apply State.modDie_canonical)
               | dsimp only

theorem State.setReady_canonical (s : State) (x1) (x2) (h : s.mem.wf = true) :
    (State.setReady s x1 x2).mem.wf = true := by
  unfold State.setReady
  repeat first | with_reducible assumption | (with_reducible intro _) | (with_reducible apply State.put64_canonical)
               | dsimp only | split

theorem State.readyOr_canonical (s : State) (x1) (x2) (h2 : ∀ u, u.mem.wf = true → (x2 u).mem.wf = true) (h : s.mem.wf = true) :
    (State.readyOr s x1 x2).mem.wf = true := by
  unfold State.readyOr
  repeat first | with_reducible assumption | (with_reducible intro _) | (with_reducible apply State.setReady_canonical)
               | (with_reducible apply h2) | dsimp only | split

theorem State.kick_canonical (s : State) (x1) (h : s.mem.wf = true) : (State.kick s x1).mem.wf = true := by
  unfold State.kick
  repeat first | with_reducible assumption | (with_reducible intro _) | (with_reducible apply State.addAgenda_canonical)
               | dsimp only | split

theorem State.popPool_canonical (s : State) (x1) (x2) (h : s.mem.wf = true) :
    canonicalIn (State.popPool s x1 x2) Prod.snd := by
  unfold State.popPool
  repeat first | with_reducible assumption | (with_reducible intro _) | (with_reducible apply State.modDie_canonical)
               | (with_reducible apply State.resourceEvent_canonical) | (with_reducible exact canonicalIn_none _)
               | (with_reducible apply canonicalIn_some) | dsimp only | split
theorem State.popPool_canonical_eq {s s' : State} {x1} {x2} {r} (e : State.popPool s x1 x2 = some (r, s')) (h : s.mem.wf = true) :
    s'.mem.wf = true := State.popPool_canonical s x1 x2 h _ e

theorem State.spillDeque_canonical (s : State) (x1) (x2) (h : s.mem.wf = true) :
    (State.spillDeque s x1 x2).mem.wf = true := by
  unfold State.spillDeque
  repeat first | with_reducible assumption | (with_reducible intro _) | (with_reducible apply State.popPool_canonical)
               | (with_reducible apply State.modCore_canonical) | dsimp only | split
               | (refine State.popPool_canonical_eq (by assumption) ?_)

theorem State.pushNow_canonical (s : State) (x1) (x2) (x3) (h : s.mem.wf = true) :
    (State.pushNow s x1 x2 x3).mem.wf = true := by
  unfold State.pushNow
  repeat first | with_reducible assumption | (with_reducible intro _) | (with_reducible apply State.kick_canonical)
               | (with_reducible apply State.modCore_canonical) | (with_reducible apply State.spillDeque_canonical)
               | dsimp only

theorem State.pushBottom_canonical (s : State) (x1) (x2) (x3) (h : s.mem.wf = true) :
    (State.pushBottom s x1 x2 x3).mem.wf = true := by
  unfold State.pushBottom
  repeat first | with_reducible assumption | (with_reducible intro _) | (with_reducible apply State.pushNow_canonical)
               | (with_reducible apply State.modCore_canonical) | dsimp only | split

theorem State.pushHome_canonical (s : State) (x1) (h : s.mem.wf = true) : (State.pushHome s x1).mem.wf = true := by
  unfold State.pushHome
  repeat first | with_reducible assumption | (with_reducible intro _)
               | (with_reducible apply State.pushBottom_canonical) | dsimp only | split

theorem State.deliver_canonical (s : State) (x1) (h : s.mem.wf = true) : (State.deliver s x1).mem.wf = true := by
  unfold State.deliver
  repeat first | with_reducible assumption | (with_reducible intro _) | (with_reducible apply State.readyOr_canonical)
               | (with_reducible apply State.pushHome_canonical) | dsimp only

theorem State.kickPushes_canonical (s : State) (x1) (h : s.mem.wf = true) : (State.kickPushes s x1).mem.wf = true := by
  unfold State.kickPushes
  repeat first | with_reducible assumption | (with_reducible intro _) | (with_reducible apply State.kick_canonical)
               | (with_reducible apply foldl_canonical) | dsimp only

theorem State.linkList_canonical (s : State) (l : List Nat) (h : s.mem.wf = true) : (s.linkList l).mem.wf = true := by
  induction l generalizing s with
  | nil => exact h
  | cons r l ih =>
    cases l with
    | nil => exact State.put64_canonical _ _ _ h
    | cons q l => exact ih _ (State.put64_canonical _ _ _ h)

theorem State.makePushes_canonical (s : State) (x1) (h : s.mem.wf = true) : (State.makePushes s x1).mem.wf = true := by
  unfold State.makePushes
  repeat first | with_reducible assumption | (with_reducible intro _)
               | (with_reducible apply State.pushBottom_canonical) | (with_reducible apply State.modCore_canonical)
               | (with_reducible apply foldl_canonical) | dsimp only | split

theorem State.pushPool_canonical (s : State) (x1) (x2) (x3) (h : s.mem.wf = true) :
    (State.pushPool s x1 x2 x3).mem.wf = true := by
  unfold State.pushPool
  repeat first | with_reducible assumption | (with_reducible intro _) | (with_reducible apply State.modDie_canonical)
               | (with_reducible apply State.put64_canonical) | (with_reducible apply State.kickPushes_canonical)
               | (with_reducible apply State.offer_canonical) | dsimp only | split

theorem State.pushTop_canonical (s : State) (x1) (x2) (x3) (h : s.mem.wf = true) :
    (State.pushTop s x1 x2 x3).mem.wf = true := by
  unfold State.pushTop
  repeat first | with_reducible assumption | (with_reducible intro _)
               | (with_reducible apply State.pushBottom_canonical) | (with_reducible apply State.kick_canonical)
               | (with_reducible apply State.modCore_canonical) | dsimp only | split

theorem State.reloadFrom_canonical (s : State) (x1) (x2) (x3) (h : s.mem.wf = true) :
    (State.reloadFrom s x1 x2 x3).mem.wf = true := by
  induction x3 generalizing s with
  | zero =>
    unfold State.reloadFrom
    repeat first | with_reducible assumption | (with_reducible intro _)
                 | (with_reducible apply State.pushPool_canonical) | (with_reducible apply State.makePushes_canonical)
                 | (with_reducible apply State.modCore_canonical) | dsimp only | split
                 | (refine fst_of (by assumption) ?_)
  | succ n ih =>
    unfold State.reloadFrom
    repeat first | with_reducible assumption | (with_reducible intro _) | (with_reducible apply ih)
                 | (with_reducible apply State.pushPool_canonical) | (with_reducible apply State.makePushes_canonical)
                 | (with_reducible apply State.modCore_canonical) | dsimp only | split
                 | (refine fst_of (by assumption) ?_)

theorem State.reload_canonical (s : State) (x1) (x2) (h : s.mem.wf = true) : (State.reload s x1 x2).mem.wf = true := by
  unfold State.reload
  repeat first | with_reducible assumption | (with_reducible intro _)
               | (with_reducible apply State.reloadFrom_canonical) | dsimp only

theorem State.refill_canonical (s : State) (x1) (h : s.mem.wf = true) : (State.refill s x1).mem.wf = true := by
  unfold State.refill
  repeat first | with_reducible assumption | (with_reducible intro _) | (with_reducible apply State.reload_canonical)
               | (with_reducible apply State.makePushes_canonical) | (with_reducible apply foldl_canonical) | dsimp only

theorem State.setWaiters_canonical (s : State) (x1) (x2) (h : s.mem.wf = true) :
    (State.setWaiters s x1 x2).mem.wf = true := by
  unfold State.setWaiters
  repeat first | with_reducible assumption | (with_reducible intro _)
               | (with_reducible apply State.modCluster_canonical) | (with_reducible apply State.modDie_canonical)
               | dsimp only | split

theorem State.setOverflow_canonical (s : State) (x1) (x2) (x3) (h : s.mem.wf = true) :
    (State.setOverflow s x1 x2 x3).mem.wf = true := by
  unfold State.setOverflow
  repeat first | with_reducible assumption | (with_reducible intro _) | (with_reducible apply State.linkList_canonical)
               | (with_reducible apply State.put64_canonical) | dsimp only

theorem State.registerWaiter_canonical (s : State) (x1) (x2) (x3) (x4) (h : s.mem.wf = true) :
    (State.registerWaiter s x1 x2 x3 x4).mem.wf = true := by
  unfold State.registerWaiter
  repeat first | with_reducible assumption | (with_reducible intro _)
               | (with_reducible apply State.setWaiters_canonical) | (with_reducible apply State.setOverflow_canonical)
               | (with_reducible apply State.put64_canonical) | (with_reducible apply State.modDie_canonical)
               | (with_reducible apply State.clearMark_canonical) | dsimp only | split

theorem State.wake_canonical (s : State) (x1) (x2) (x3) (h : s.mem.wf = true) :
    (State.wake s x1 x2 x3).mem.wf = true := by
  unfold State.wake
  repeat first | with_reducible assumption | (with_reducible intro _) | (with_reducible apply State.joinWoken_canonical)
               | (with_reducible apply State.deliver_canonical) | (with_reducible apply State.put64_canonical)
               | dsimp only

theorem State.wakeSaved_canonical (s : State) (x1) (x2) (h : s.mem.wf = true) :
    (State.wakeSaved s x1 x2).mem.wf = true := by
  unfold State.wakeSaved
  repeat first | with_reducible assumption | (with_reducible intro _) | (with_reducible apply State.putBlock_canonical)
               | (with_reducible apply State.put64_canonical) | (with_reducible apply State.deliver_canonical)
               | (with_reducible apply foldl_canonical) | dsimp only | split

theorem State.wakeDie_canonical (s : State) (x1) (x2) (h : s.mem.wf = true) :
    (State.wakeDie s x1 x2).mem.wf = true := by
  unfold State.wakeDie
  repeat first | with_reducible assumption | (with_reducible intro _) | (with_reducible apply State.modDie_canonical)
               | (with_reducible apply State.deliver_canonical) | (with_reducible apply State.modCluster_canonical)
               | (with_reducible apply State.wakeSaved_canonical) | (with_reducible apply foldl_canonical) | dsimp only

theorem State.wakeListed_canonical (s : State) (x1) (x2) (x3) (h : s.mem.wf = true) :
    (State.wakeListed s x1 x2 x3).mem.wf = true := by
  unfold State.wakeListed
  repeat first | with_reducible assumption | (with_reducible intro _) | (with_reducible apply State.wake_canonical)
               | (with_reducible apply State.setOverflow_canonical) | (with_reducible apply foldl_canonical)
               | dsimp only | split

theorem State.wakeMet_canonical (s : State) (x1) (x2) (h : s.mem.wf = true) :
    (State.wakeMet s x1 x2).mem.wf = true := by
  unfold State.wakeMet
  repeat first | with_reducible assumption | (with_reducible intro _) | (with_reducible apply State.wake_canonical)
               | (with_reducible apply State.setWaiters_canonical) | (with_reducible apply State.wakeListed_canonical)
               | (with_reducible apply State.clearMark_canonical) | (with_reducible apply foldl_canonical) | dsimp only
               | split

theorem State.wakeOverflow_canonical (s : State) (x1) (x2) (h : s.mem.wf = true) :
    (State.wakeOverflow s x1 x2).mem.wf = true := by
  unfold State.wakeOverflow
  repeat first | with_reducible assumption | (with_reducible intro _) | (with_reducible apply State.deliver_canonical)
               | (with_reducible apply State.put64_canonical) | (with_reducible apply State.setOverflow_canonical)
               | (with_reducible apply foldl_canonical) | dsimp only | split

theorem State.writeRecord_canonical (s : State) (x1) (x2) (h : s.mem.wf = true) :
    (State.writeRecord s x1 x2).mem.wf = true := by
  unfold State.writeRecord
  repeat first | with_reducible assumption | (with_reducible intro _) | (with_reducible apply State.putC_canonical)
               | (with_reducible apply State.putBlock_canonical) | dsimp only

theorem State.pinScope_canonical (s : State) (x1) (x2) (h : s.mem.wf = true) :
    (State.pinScope s x1 x2).mem.wf = true := by
  unfold State.pinScope
  repeat first | with_reducible assumption | (with_reducible intro _) | (with_reducible apply State.modDie_canonical)
               | dsimp only

theorem State.addBirths_canonical (s : State) (x1) (x2) (x3) (h : s.mem.wf = true) :
    (State.addBirths s x1 x2 x3).mem.wf = true := by
  unfold State.addBirths
  repeat first | with_reducible assumption | (with_reducible intro _) | (with_reducible apply State.pinScope_canonical)
               | dsimp only

theorem State.broadcast_canonical (s : State) (x1) (x2) (h : s.mem.wf = true) :
    (State.broadcast s x1 x2).mem.wf = true := by
  unfold State.broadcast
  repeat first | with_reducible assumption | (with_reducible intro _) | (with_reducible apply State.addDue_canonical)
               | (with_reducible apply foldl_canonical) | dsimp only

theorem State.cancelScope_canonical (s : State) (x1) (x2) (h : s.mem.wf = true) :
    (State.cancelScope s x1 x2).mem.wf = true := by
  unfold State.cancelScope
  repeat first | with_reducible assumption | (with_reducible intro _) | (with_reducible apply State.broadcast_canonical)
               | (with_reducible apply State.pinScope_canonical) | dsimp only | split

theorem State.checkState_canonical (s : State) (x1) (x2) (h : s.mem.wf = true) :
    (State.checkState s x1 x2).mem.wf = true := by
  unfold State.checkState
  repeat first | with_reducible assumption | (with_reducible intro _) | (with_reducible apply State.refuse_canonical)
               | dsimp only | split

theorem State.checkAll_canonical (s : State) (x1) (x2) (h : s.mem.wf = true) :
    (State.checkAll s x1 x2).mem.wf = true := by
  unfold State.checkAll
  repeat first | with_reducible assumption | (with_reducible intro _)
               | (with_reducible apply State.checkState_canonical) | (with_reducible apply foldl_canonical) | dsimp only

theorem State.checkPath_canonical (s : State) (x1) (x2) (h : s.mem.wf = true) :
    (State.checkPath s x1 x2).mem.wf = true := by
  unfold State.checkPath
  repeat first | with_reducible assumption | (with_reducible intro _) | (with_reducible apply State.checkAll_canonical)
               | dsimp only

theorem State.sealScope_canonical (s : State) (x1) (x2) (x3) (h : s.mem.wf = true) :
    (State.sealScope s x1 x2 x3).mem.wf = true := by
  unfold State.sealScope
  repeat first | with_reducible assumption | (with_reducible intro _) | (with_reducible apply State.addDue_canonical)
               | (with_reducible apply State.pinScope_canonical) | dsimp only | split

theorem State.closeOpened_canonical (s : State) (x1) (h : s.mem.wf = true) :
    (State.closeOpened s x1).mem.wf = true := by
  unfold State.closeOpened
  repeat first | with_reducible assumption | (with_reducible intro _)
               | (with_reducible apply State.cancelScope_canonical) | (with_reducible apply State.sealScope_canonical)
               | (with_reducible apply foldl_canonical) | dsimp only | split

theorem State.countDeath_canonical (s : State) (x1) (x2) (x3) (h : s.mem.wf = true) :
    (State.countDeath s x1 x2 x3).mem.wf = true := by
  unfold State.countDeath
  repeat first | with_reducible assumption | (with_reducible intro _) | (with_reducible apply State.pinScope_canonical)
               | (with_reducible apply State.checkState_canonical) | (with_reducible apply State.addDue_canonical)
               | dsimp only | split

theorem State.memberBirth_canonical (s : State) (x1) (x2) (x3) (h : s.mem.wf = true) :
    (State.memberBirth s x1 x2 x3).1.mem.wf = true := by
  unfold State.memberBirth
  repeat first | with_reducible assumption | (with_reducible intro _) | (with_reducible apply State.addBirths_canonical)
               | (with_reducible apply State.checkState_canonical) | dsimp only | split

theorem State.storeScope_canonical (s : State) (x1) (x2) (h : s.mem.wf = true) :
    (State.storeScope s x1 x2).mem.wf = true := by
  unfold State.storeScope
  repeat first | with_reducible assumption | (with_reducible intro _) | (with_reducible apply State.putBlock_canonical)
               | dsimp only

theorem State.unpinScope_canonical (s : State) (x1) (h : s.mem.wf = true) : (State.unpinScope s x1).mem.wf = true := by
  unfold State.unpinScope
  repeat first | with_reducible assumption | (with_reducible intro _) | (with_reducible apply State.modDie_canonical)
               | dsimp only

theorem State.dirtyLlc_canonical (s : State) (x1) (x2) (h : s.mem.wf = true) :
    (State.dirtyLlc s x1 x2).mem.wf = true := by
  unfold State.dirtyLlc
  repeat first | with_reducible assumption | (with_reducible intro _) | dsimp only | split

theorem State.setL1_canonical (s : State) (x1) (h : s.mem.wf = true) : (State.setL1 s x1).mem.wf = true := by
  unfold State.setL1
  repeat first | with_reducible assumption | (with_reducible intro _) | dsimp only

theorem State.writeBack_canonical (s : State) (x1) (x2) (h : s.mem.wf = true) :
    (State.writeBack s x1 x2).mem.wf = true := by
  unfold State.writeBack
  repeat first | with_reducible assumption | (with_reducible intro _) | (with_reducible apply State.dirtyLlc_canonical)
               | (with_reducible apply State.setL1_canonical) | dsimp only | split

theorem State.modDir_canonical (s : State) (x1) (x2) (x3) (h : s.mem.wf = true) :
    (State.modDir s x1 x2 x3).mem.wf = true := by
  unfold State.modDir
  repeat first | with_reducible assumption | (with_reducible intro _) | dsimp only

theorem State.dropL1_canonical (s : State) (x1) (x2) (h : s.mem.wf = true) : (State.dropL1 s x1 x2).mem.wf = true := by
  unfold State.dropL1
  repeat first | with_reducible assumption | (with_reducible intro _) | (with_reducible apply State.writeBack_canonical)
               | (with_reducible apply State.setL1_canonical) | (with_reducible apply State.modDir_canonical)
               | dsimp only | split

theorem State.cleanL1_canonical (s : State) (x1) (x2) (x3) (h : s.mem.wf = true) :
    (State.cleanL1 s x1 x2 x3).mem.wf = true := by
  unfold State.cleanL1
  repeat first | with_reducible assumption | (with_reducible intro _) | (with_reducible apply State.dropL1_canonical)
               | (with_reducible apply State.writeBack_canonical) | dsimp only | split

theorem State.dropDir_canonical (s : State) (x1) (x2) (h : s.mem.wf = true) :
    (State.dropDir s x1 x2).mem.wf = true := by
  unfold State.dropDir
  repeat first | with_reducible assumption | (with_reducible intro _) | dsimp only

theorem State.recallL1_canonical (s : State) (x1) (x2) (h : s.mem.wf = true) :
    (State.recallL1 s x1 x2).mem.wf = true := by
  unfold State.recallL1
  repeat first | with_reducible assumption | (with_reducible intro _) | (with_reducible apply State.dropL1_canonical)
               | (with_reducible apply foldl_canonical) | dsimp only

theorem State.dropFar_canonical (s : State) (x1) (x2) (h : s.mem.wf = true) :
    (State.dropFar s x1 x2).mem.wf = true := by
  unfold State.dropFar
  repeat first | with_reducible assumption | (with_reducible intro _) | (with_reducible apply State.recallL1_canonical)
               | (with_reducible apply State.dropDir_canonical) | (with_reducible apply State.dirtyLlc_canonical)
               | (with_reducible apply State.modDir_canonical) | dsimp only | split

theorem State.dropHome_canonical (s : State) (x1) (h : s.mem.wf = true) : (State.dropHome s x1).mem.wf = true := by
  unfold State.dropHome
  repeat first | with_reducible assumption | (with_reducible intro _) | (with_reducible apply State.dropFar_canonical)
               | (with_reducible apply State.recallL1_canonical) | (with_reducible apply State.dropDir_canonical)
               | (with_reducible apply foldl_canonical) | dsimp only | split

theorem State.evict_canonical (s : State) (x1) (x2) (h : s.mem.wf = true) : (State.evict s x1 x2).mem.wf = true := by
  unfold State.evict
  repeat first | with_reducible assumption | (with_reducible intro _) | (with_reducible apply State.dropHome_canonical)
               | (with_reducible apply State.dropFar_canonical) | dsimp only | split

theorem State.touchL1_canonical (s : State) (x1) (x2) (x3) (h : s.mem.wf = true) :
    (State.touchL1 s x1 x2 x3).mem.wf = true := by
  unfold State.touchL1
  repeat first | with_reducible assumption | (with_reducible intro _) | dsimp only

theorem State.fillL1_canonical (s : State) (x1) (x2) (x3) (x4) (x5) (h : s.mem.wf = true) :
    (State.fillL1 s x1 x2 x3 x4 x5).mem.wf = true := by
  unfold State.fillL1
  repeat first | with_reducible assumption | (with_reducible intro _) | (with_reducible apply State.dropL1_canonical)
               | (with_reducible apply State.touchL1_canonical) | (with_reducible apply State.setL1_canonical)
               | dsimp only | split

theorem State.forgetDie_canonical (s : State) (x1) (h : s.mem.wf = true) : (State.forgetDie s x1).mem.wf = true := by
  unfold State.forgetDie
  repeat first | with_reducible assumption | (with_reducible intro _) | dsimp only

theorem State.forgetLines_canonical (s : State) (x1) (x2) (h : s.mem.wf = true) :
    (State.forgetLines s x1 x2).mem.wf = true := by
  unfold State.forgetLines
  repeat first | with_reducible assumption | (with_reducible intro _) | dsimp only

theorem State.l1Load_canonical (s : State) (x1) (x2) (x3) (x4) (h : s.mem.wf = true) :
    (State.l1Load s x1 x2 x3 x4).mem.wf = true := by
  unfold State.l1Load
  repeat first | with_reducible assumption | (with_reducible intro _) | (with_reducible apply State.touchL1_canonical)
               | (with_reducible apply State.setL1_canonical) | (with_reducible apply State.modDir_canonical)
               | (with_reducible apply State.fillL1_canonical) | dsimp only | split

theorem State.l1Store_canonical (s : State) (x1) (x2) (x3) (h : s.mem.wf = true) :
    (State.l1Store s x1 x2 x3).mem.wf = true := by
  unfold State.l1Store
  repeat first | with_reducible assumption | (with_reducible intro _) | (with_reducible apply State.dropL1_canonical)
               | (with_reducible apply State.touchL1_canonical) | (with_reducible apply State.setL1_canonical)
               | (with_reducible apply State.fillL1_canonical) | (with_reducible apply State.modDir_canonical)
               | (with_reducible apply foldl_canonical) | dsimp only | split

theorem State.makeWay_canonical (s : State) (x1) (x2) (x3) (h : s.mem.wf = true) :
    canonicalIn (State.makeWay s x1 x2 x3) Prod.snd := by
  unfold State.makeWay
  repeat first | with_reducible assumption | (with_reducible intro _) | (with_reducible apply State.evict_canonical)
               | (with_reducible exact canonicalIn_none _) | (with_reducible apply canonicalIn_some) | dsimp only
               | split
theorem State.makeWay_canonical_eq {s s' : State} {x1} {x2} {x3} {r} (e : State.makeWay s x1 x2 x3 = some (r, s')) (h : s.mem.wf = true) :
    s'.mem.wf = true := State.makeWay_canonical s x1 x2 x3 h _ e

theorem State.putLlc_canonical (s : State) (x1) (x2) (h : s.mem.wf = true) : (State.putLlc s x1 x2).mem.wf = true := by
  unfold State.putLlc
  repeat first | with_reducible assumption | (with_reducible intro _) | (with_reducible apply State.makeWay_canonical)
               | dsimp only | split | (refine State.makeWay_canonical_eq (by assumption) ?_)

theorem State.loadKept_canonical (s : State) (x1) (x2) (x3) (x4) (h : s.mem.wf = true) :
    (State.loadKept s x1 x2 x3 x4).mem.wf = true := by
  unfold State.loadKept
  repeat first | with_reducible assumption | (with_reducible intro _) | (with_reducible apply State.putLlc_canonical)
               | (with_reducible apply State.l1Load_canonical) | dsimp only | split

theorem State.recallFar_canonical (s : State) (x1) (h : s.mem.wf = true) : (State.recallFar s x1).mem.wf = true := by
  unfold State.recallFar
  repeat first | with_reducible assumption | (with_reducible intro _) | (with_reducible apply State.dropFar_canonical)
               | dsimp only | split

theorem State.acquire_canonical (s : State) (x1) (x2) (x3) (h : s.mem.wf = true) :
    (State.acquire s x1 x2 x3).mem.wf = true := by
  unfold State.acquire
  repeat first | with_reducible assumption | (with_reducible intro _) | (with_reducible apply State.takeSyncs_canonical)
               | dsimp only | split

theorem State.dropInvalidated_canonical (s : State) (x1) (x2) (h : s.mem.wf = true) :
    (State.dropInvalidated s x1 x2).mem.wf = true := by
  unfold State.dropInvalidated
  repeat first | with_reducible assumption | (with_reducible intro _) | (with_reducible apply State.dropFar_canonical)
               | dsimp only | split

theorem State.applyInvalidation_canonical (s : State) (x1) (x2) (x3) (h : s.mem.wf = true) :
    (State.applyInvalidation s x1 x2 x3).mem.wf = true := by
  unfold State.applyInvalidation
  repeat first | with_reducible assumption | (with_reducible intro _)
               | (with_reducible apply State.modPending_canonical)
               | (with_reducible apply State.dropInvalidated_canonical) | dsimp only

theorem State.applyAll_canonical (s : State) (x1) (h : s.mem.wf = true) : (State.applyAll s x1).mem.wf = true := by
  unfold State.applyAll
  repeat first | with_reducible assumption | (with_reducible intro _)
               | (with_reducible apply State.applyInvalidation_canonical) | (with_reducible apply foldl_canonical)
               | dsimp only | split

theorem State.sendInvalidation_canonical (s : State) (x1) (x2) (x3) (h : s.mem.wf = true) :
    (State.sendInvalidation s x1 x2 x3).mem.wf = true := by
  unfold State.sendInvalidation
  repeat first | with_reducible assumption | (with_reducible intro _)
               | (with_reducible apply State.modPending_canonical) | (with_reducible apply State.addAgenda_canonical)
               | dsimp only | split

theorem State.invalidate_canonical (s : State) (x1) (x2) (h : s.mem.wf = true) :
    (State.invalidate s x1 x2).mem.wf = true := by
  unfold State.invalidate
  repeat first | with_reducible assumption | (with_reducible intro _)
               | (with_reducible apply State.sendInvalidation_canonical) | (with_reducible apply State.modDir_canonical)
               | (with_reducible apply foldl_canonical) | dsimp only | split

theorem State.noteHome_canonical (s : State) (x1) (x2) (h : s.mem.wf = true) :
    (State.noteHome s x1 x2).mem.wf = true := by
  unfold State.noteHome
  repeat first | with_reducible assumption | (with_reducible intro _) | (with_reducible apply State.recallL1_canonical)
               | (with_reducible apply State.recallFar_canonical) | (with_reducible apply State.invalidate_canonical)
               | (with_reducible apply State.dropFar_canonical) | (with_reducible apply State.dirtyLlc_canonical)
               | (with_reducible apply State.putLlc_canonical) | dsimp only | split

theorem State.takeLine_canonical (s : State) (x1) (x2) (h : s.mem.wf = true) :
    (State.takeLine s x1 x2).mem.wf = true := by
  unfold State.takeLine
  repeat first | with_reducible assumption | (with_reducible intro _) | (with_reducible apply State.recallFar_canonical)
               | (with_reducible apply State.putLlc_canonical) | (with_reducible apply State.modDir_canonical)
               | (with_reducible apply State.recallL1_canonical) | dsimp only | split

theorem State.noteStore_canonical (s : State) (x1) (x2) (x3) (h : s.mem.wf = true) :
    (State.noteStore s x1 x2 x3).mem.wf = true := by
  unfold State.noteStore
  repeat first | with_reducible assumption | (with_reducible intro _) | (with_reducible apply State.noteHome_canonical)
               | (with_reducible apply State.invalidate_canonical) | (with_reducible apply State.takeLine_canonical)
               | (with_reducible apply State.l1Store_canonical) | (with_reducible apply State.putLlc_canonical)
               | dsimp only | split

theorem State.performAll_canonical (s : State) (x1) (h : s.mem.wf = true) : (State.performAll s x1).mem.wf = true := by
  unfold State.performAll
  repeat first | with_reducible assumption | (with_reducible intro _) | (with_reducible apply State.noteStore_canonical)
               | (with_reducible apply foldl_canonical) | dsimp only | split

theorem State.drain_canonical (s : State) (h : s.mem.wf = true) : (State.drain s).mem.wf = true := by
  unfold State.drain
  repeat first | with_reducible assumption | (with_reducible intro _)
               | (with_reducible apply State.performAll_canonical) | dsimp only | split

theorem State.fenceAcquire_canonical (s : State) (x1) (h : s.mem.wf = true) :
    (State.fenceAcquire s x1).mem.wf = true := by
  unfold State.fenceAcquire
  repeat first | with_reducible assumption | (with_reducible intro _) | (with_reducible apply State.takeSyncs_canonical)
               | dsimp only

theorem State.fenceRelease_canonical (s : State) (x1) (h : s.mem.wf = true) :
    (State.fenceRelease s x1).mem.wf = true := by
  unfold State.fenceRelease
  repeat first | with_reducible assumption | (with_reducible intro _) | (with_reducible apply State.setCarry_canonical)
               | dsimp only | split

theorem State.takeCopy_canonical (s : State) (x1) (x2) (h : s.mem.wf = true) :
    (State.takeCopy s x1 x2).mem.wf = true := by
  unfold State.takeCopy
  repeat first | with_reducible assumption | (with_reducible intro _) | (with_reducible apply State.putLlc_canonical)
               | (with_reducible apply State.recallFar_canonical) | (with_reducible apply State.modDir_canonical)
               | dsimp only | split

theorem State.noteLoad_canonical (s : State) (x1) (x2) (x3) (h : s.mem.wf = true) :
    (State.noteLoad s x1 x2 x3).mem.wf = true := by
  unfold State.noteLoad
  repeat first | with_reducible assumption | (with_reducible intro _) | (with_reducible apply State.recallFar_canonical)
               | (with_reducible apply State.writeBack_canonical) | (with_reducible apply State.loadKept_canonical)
               | (with_reducible apply State.takeCopy_canonical) | (with_reducible apply foldl_canonical) | dsimp only
               | split

theorem State.noteRead_canonical (s : State) (x1) (x2) (x3) (h : s.mem.wf = true) :
    (State.noteRead s x1 x2 x3).mem.wf = true := by
  unfold State.noteRead
  repeat first | with_reducible assumption | (with_reducible intro _) | (with_reducible apply State.setCarry_canonical)
               | dsimp only | split

theorem State.putFenced_canonical (s : State) (x1) (x2) (x3) (x4) (h : s.mem.wf = true) :
    (State.putFenced s x1 x2 x3 x4).mem.wf = true := by
  unfold State.putFenced
  repeat first | with_reducible assumption | (with_reducible intro _) | (with_reducible apply State.putSync_canonical)
               | (with_reducible apply foldl_canonical) | dsimp only

theorem State.noteWrite_canonical (s : State) (x1) (x2) (x3) (h : s.mem.wf = true) :
    (State.noteWrite s x1 x2 x3).mem.wf = true := by
  unfold State.noteWrite
  repeat first | with_reducible assumption | (with_reducible intro _) | (with_reducible apply State.putFenced_canonical)
               | dsimp only | split

theorem State.performAt_canonical (s : State) (x1) (x2) (h : s.mem.wf = true) :
    (State.performAt s x1 x2).mem.wf = true := by
  unfold State.performAt
  repeat first | with_reducible assumption | (with_reducible intro _)
               | (with_reducible apply State.performAll_canonical) | dsimp only

theorem State.performOf_canonical (s : State) (x1) (h : s.mem.wf = true) : (State.performOf s x1).mem.wf = true := by
  unfold State.performOf
  repeat first | with_reducible assumption | (with_reducible intro _)
               | (with_reducible apply State.performAll_canonical) | dsimp only

theorem State.quiet_canonical (s : State) (h : s.mem.wf = true) : (State.quiet s).mem.wf = true := by
  unfold State.quiet
  repeat first | with_reducible assumption | (with_reducible intro _)
               | (with_reducible apply State.performAll_canonical) | dsimp only

theorem State.releaseWord_canonical (s : State) (x1) (x2) (x3) (h : s.mem.wf = true) :
    (State.releaseWord s x1 x2 x3).mem.wf = true := by
  unfold State.releaseWord
  repeat first | with_reducible assumption | (with_reducible intro _) | (with_reducible apply State.putFenced_canonical)
               | (with_reducible apply State.putSync_canonical) | dsimp only

theorem State.toCore_canonical (s : State) (h : s.mem.wf = true) : (State.toCore s).mem.wf = true := by
  unfold State.toCore
  repeat first | with_reducible assumption | (with_reducible intro _) | dsimp only | split

theorem State.addEarly_canonical (s : State) (x1) (h : s.mem.wf = true) : (State.addEarly s x1).mem.wf = true := by
  unfold State.addEarly
  repeat first | with_reducible assumption | (with_reducible intro _) | dsimp only | split

theorem State.clearWay_canonical (s : State) (x1) (x2) (x3) (x4) (h : s.mem.wf = true) :
    (State.clearWay s x1 x2 x3 x4).mem.wf = true := by
  unfold State.clearWay
  repeat first | with_reducible assumption | (with_reducible intro _) | (with_reducible apply State.evict_canonical)
               | dsimp only | split

theorem State.allocLine_canonical (s : State) (x1) (x2) (x3) (x4) (h : s.mem.wf = true) :
    (State.allocLine s x1 x2 x3 x4).1.mem.wf = true := by
  unfold State.allocLine
  repeat first | with_reducible assumption | (with_reducible intro _) | (with_reducible apply State.modLpn_canonical)
               | (with_reducible apply State.clearWay_canonical) | (with_reducible apply State.modDie_canonical)
               | (with_reducible apply State.zeroRange_canonical) | dsimp only | split

theorem State.allocLines_canonical (s : State) (x1) (x2) (x3) (x4) (h : s.mem.wf = true) :
    (State.allocLines s x1 x2 x3 x4).1.mem.wf = true := by
  induction x4 generalizing s with
  | nil =>
    unfold State.allocLines
    repeat first | with_reducible assumption | (with_reducible intro _)
                 | (with_reducible apply State.allocLine_canonical) | dsimp only | split
                 | (refine fst_of (by assumption) ?_)
  | cons a l ih =>
    unfold State.allocLines
    repeat first | with_reducible assumption | (with_reducible intro _) | (with_reducible apply ih)
                 | (with_reducible apply State.allocLine_canonical) | dsimp only | split
                 | (refine fst_of (by assumption) ?_)

theorem State.arriveAt_canonical (s : State) (x1) (x2) (x3) (h : s.mem.wf = true) :
    (State.arriveAt s x1 x2 x3).mem.wf = true := by
  unfold State.arriveAt
  repeat first | with_reducible assumption | (with_reducible intro _) | (with_reducible apply State.modLpn_canonical)
               | dsimp only | split

theorem State.departAt_canonical (s : State) (x1) (x2) (x3) (h : s.mem.wf = true) :
    (State.departAt s x1 x2 x3).mem.wf = true := by
  unfold State.departAt
  repeat first | with_reducible assumption | (with_reducible intro _) | (with_reducible apply State.modLpn_canonical)
               | dsimp only | split

theorem State.arrive_canonical (s : State) (x1) (x2) (x3) (h : s.mem.wf = true) :
    (State.arrive s x1 x2 x3).mem.wf = true := by
  unfold State.arrive
  repeat first | with_reducible assumption | (with_reducible intro _) | (with_reducible apply State.arriveAt_canonical)
               | (with_reducible apply State.departAt_canonical) | dsimp only | split

theorem State.arriveAll_canonical (s : State) (x1) (x2) (x3) (h : s.mem.wf = true) :
    (State.arriveAll s x1 x2 x3).mem.wf = true := by
  unfold State.arriveAll
  repeat first | with_reducible assumption | (with_reducible intro _) | (with_reducible apply State.arrive_canonical)
               | (with_reducible apply foldl_canonical) | dsimp only | split

theorem State.readyFree_canonical (s : State) (x1) (x2) (x3) (x4) (h : s.mem.wf = true) :
    (State.readyFree s x1 x2 x3 x4).1.mem.wf = true := by
  unfold State.readyFree
  repeat first | with_reducible assumption | (with_reducible intro _)
               | (with_reducible apply State.allocLines_canonical) | (with_reducible apply State.performAt_canonical)
               | dsimp only | split | (refine fst_of (by assumption) ?_)

theorem State.readyWrite_canonical (s : State) (x1) (x2) (x3) (x4) (h : s.mem.wf = true) :
    (State.readyWrite s x1 x2 x3 x4).1.mem.wf = true := by
  unfold State.readyWrite
  repeat first | with_reducible assumption | (with_reducible intro _) | (with_reducible apply State.arrive_canonical)
               | (with_reducible apply State.readyFree_canonical) | dsimp only | split
               | (refine fst_of (by assumption) ?_)

theorem State.atHome_canonical (s : State) (x1) (x2) (x3) (x4) (h : s.mem.wf = true) :
    (State.atHome s x1 x2 x3 x4).1.mem.wf = true := by
  unfold State.atHome
  repeat first | with_reducible assumption | (with_reducible intro _) | (with_reducible apply State.arrive_canonical)
               | (with_reducible apply State.performAt_canonical) | (with_reducible apply State.noteHome_canonical)
               | (with_reducible apply State.readyWrite_canonical) | (with_reducible apply State.putBytes_canonical)
               | dsimp only | split | (refine fst_of (by assumption) ?_)

theorem State.leaveWhere_canonical (s : State) (x1) (h : s.mem.wf = true) : (State.leaveWhere s x1).mem.wf = true := by
  unfold State.leaveWhere
  repeat first | with_reducible assumption | (with_reducible intro _) | dsimp only | split

theorem State.leaveQueues_canonical (s : State) (x1) (h : s.mem.wf = true) :
    (State.leaveQueues s x1).mem.wf = true := by
  unfold State.leaveQueues
  repeat first | with_reducible assumption | (with_reducible intro _)
               | (with_reducible apply State.leaveWhere_canonical) | dsimp only

theorem State.noteReads_canonical (s : State) (x1) (x2) (x3) (h : s.mem.wf = true) :
    (State.noteReads s x1 x2 x3).mem.wf = true := by
  unfold State.noteReads
  repeat first | with_reducible assumption | (with_reducible intro _) | (with_reducible apply State.noteRead_canonical)
               | (with_reducible apply State.noteLoad_canonical) | (with_reducible apply foldl_canonical) | dsimp only
               | split

theorem State.noteStores_canonical (s : State) (x1) (x2) (x3) (h : s.mem.wf = true) :
    (State.noteStores s x1 x2 x3).mem.wf = true := by
  unfold State.noteStores
  repeat first | with_reducible assumption | (with_reducible intro _) | (with_reducible apply State.dropFar_canonical)
               | (with_reducible apply State.noteStore_canonical) | (with_reducible apply foldl_canonical) | dsimp only
               | split

theorem State.readPlace_canonical (s : State) (x1) (x2) (x3) (x4) (h : s.mem.wf = true) :
    (State.readPlace s x1 x2 x3 x4).1.mem.wf = true := by
  unfold State.readPlace
  repeat first | with_reducible assumption | (with_reducible intro _) | (with_reducible apply State.arrive_canonical)
               | (with_reducible apply State.noteReads_canonical) | dsimp only | split

theorem State.readPlaces_canonical (s : State) (x1) (x2) (h : s.mem.wf = true) :
    (State.readPlaces s x1 x2).1.mem.wf = true := by
  unfold State.readPlaces
  repeat first | with_reducible assumption | (with_reducible intro _) | (with_reducible apply State.arriveAll_canonical)
               | (with_reducible apply State.noteReads_canonical) | (with_reducible apply foldl_canonical) | dsimp only
               | split

theorem State.storeBytes_canonical (s : State) (x1) (x2) (x3) (h : s.mem.wf = true) :
    (State.storeBytes s x1 x2 x3).mem.wf = true := by
  unfold State.storeBytes
  repeat first | with_reducible assumption | (with_reducible intro _) | (with_reducible apply State.addEarly_canonical)
               | (with_reducible apply State.noteWrite_canonical) | (with_reducible apply State.putBytes_canonical)
               | (with_reducible apply State.noteStores_canonical) | dsimp only

theorem State.runsFree_canonical (s : State) (x1) (x2) (h : s.mem.wf = true) :
    (State.runsFree s x1 x2).1.mem.wf = true := by
  induction x2 generalizing s with
  | nil =>
    unfold State.runsFree
    repeat first | with_reducible assumption | (with_reducible intro _)
                 | (with_reducible apply State.storeBytes_canonical) | (with_reducible apply State.readyFree_canonical)
                 | dsimp only | split | (refine fst_of (by assumption) ?_)
  | cons a l ih =>
    unfold State.runsFree
    repeat first | with_reducible assumption | (with_reducible intro _) | (with_reducible apply ih)
                 | (with_reducible apply State.storeBytes_canonical) | (with_reducible apply State.readyFree_canonical)
                 | dsimp only | split | (refine fst_of (by assumption) ?_)

theorem State.waitAt_canonical (s : State) (x1) (x2) (x3) (h : s.mem.wf = true) :
    (State.waitAt s x1 x2 x3).mem.wf = true := by
  unfold State.waitAt
  repeat first | with_reducible assumption | (with_reducible intro _) | (with_reducible apply State.arriveAt_canonical)
               | (with_reducible apply State.leaveQueues_canonical) | dsimp only | split

theorem State.writeCap_canonical (s : State) (x1) (x2) (x3) (x4) (h : s.mem.wf = true) :
    (State.writeCap s x1 x2 x3 x4).1.mem.wf = true := by
  unfold State.writeCap
  repeat first | with_reducible assumption | (with_reducible intro _)
               | (with_reducible apply State.readyWrite_canonical) | (with_reducible apply State.addEarly_canonical)
               | (with_reducible apply State.noteWrite_canonical) | (with_reducible apply State.putGranule_canonical)
               | (with_reducible apply State.noteStores_canonical) | dsimp only | split
               | (refine fst_of (by assumption) ?_)

theorem State.writePlace_canonical (s : State) (x1) (x2) (x3) (x4) (h : s.mem.wf = true) :
    (State.writePlace s x1 x2 x3 x4).1.mem.wf = true := by
  unfold State.writePlace
  repeat first | with_reducible assumption | (with_reducible intro _)
               | (with_reducible apply State.readyWrite_canonical) | (with_reducible apply State.storeBytes_canonical)
               | dsimp only | split | (refine fst_of (by assumption) ?_)

theorem State.writeRuns_canonical (s : State) (x1) (x2) (h : s.mem.wf = true) :
    (State.writeRuns s x1 x2).1.mem.wf = true := by
  unfold State.writeRuns
  repeat first | with_reducible assumption | (with_reducible intro _) | (with_reducible apply State.arriveAll_canonical)
               | (with_reducible apply State.runsFree_canonical) | dsimp only | split
               | (refine fst_of (by assumption) ?_)

theorem State.askPosted_canonical (s : State) (x1) (h : s.mem.wf = true) : (State.askPosted s x1).mem.wf = true := by
  unfold State.askPosted
  repeat first | with_reducible assumption | (with_reducible intro _) | (with_reducible apply State.allPosted_canonical)
               | dsimp only | split | (refine fst_of (by assumption) ?_)

theorem State.benchPush_canonical (s : State) (x1) (x2) (x3) (h : s.mem.wf = true) :
    (State.benchPush s x1 x2 x3).mem.wf = true := by
  unfold State.benchPush
  repeat first | with_reducible assumption | (with_reducible intro _) | (with_reducible apply State.addAgenda_canonical)
               | (with_reducible apply State.modDie_canonical) | dsimp only

theorem State.cancelOnFault_canonical (s : State) (x1) (h : s.mem.wf = true) :
    (State.cancelOnFault s x1).mem.wf = true := by
  unfold State.cancelOnFault
  repeat first | with_reducible assumption | (with_reducible intro _)
               | (with_reducible apply State.cancelScope_canonical) | dsimp only | split

theorem State.checkQueue_canonical (s : State) (x1) (x2) (h : s.mem.wf = true) :
    (State.checkQueue s x1 x2).mem.wf = true := by
  unfold State.checkQueue
  repeat first | with_reducible assumption | (with_reducible intro _) | (with_reducible apply State.refuse_canonical)
               | dsimp only | split

theorem State.clearCauser_canonical (s : State) (x1) (h : s.mem.wf = true) :
    (State.clearCauser s x1).mem.wf = true := by
  unfold State.clearCauser
  repeat first | with_reducible assumption | (with_reducible intro _) | dsimp only | split

theorem State.counterPlace_canonical (s : State) (x1) (x2) (x3) (h : s.mem.wf = true) :
    (State.counterPlace s x1 x2 x3).1.mem.wf = true := by
  unfold State.counterPlace
  repeat first | with_reducible assumption | (with_reducible intro _) | (with_reducible apply translate_canonical)
               | dsimp only | split | (refine fst_of (by assumption) ?_)

theorem State.counterSet_canonical (s : State) (x1) (x2) (h : s.mem.wf = true) :
    (State.counterSet s x1 x2).mem.wf = true := by
  unfold State.counterSet
  repeat first | with_reducible assumption | (with_reducible intro _) | (with_reducible apply State.wakeMet_canonical)
               | (with_reducible apply State.put64_canonical) | dsimp only

theorem State.fqAdd_canonical (s : State) (x1) (h : s.mem.wf = true) : (State.fqAdd s x1).mem.wf = true := by
  unfold State.fqAdd
  repeat first | with_reducible assumption | (with_reducible intro _)
               | (with_reducible apply State.counterSet_canonical) | dsimp only | split

theorem State.writeFault_canonical (s : State) (x1) (x2) (h : s.mem.wf = true) :
    (State.writeFault s x1 x2).mem.wf = true := by
  unfold State.writeFault
  repeat first | with_reducible assumption | (with_reducible intro _) | (with_reducible apply State.fqAdd_canonical)
               | (with_reducible apply State.put64_canonical) | (with_reducible apply State.putBlock_canonical)
               | (with_reducible apply State.benchPush_canonical) | (with_reducible apply State.modDie_canonical)
               | dsimp only | split

theorem State.postFault_canonical (s : State) (x1) (h : s.mem.wf = true) : (State.postFault s x1).1.mem.wf = true := by
  unfold State.postFault
  repeat first | with_reducible assumption | (with_reducible intro _)
               | (with_reducible apply State.writeFault_canonical) | dsimp only | split

theorem State.postEvent_canonical (s : State) (x1) (h : s.mem.wf = true) : (State.postEvent s x1).mem.wf = true := by
  unfold State.postEvent
  repeat first | with_reducible assumption | (with_reducible intro _) | (with_reducible apply State.refuse_canonical)
               | (with_reducible apply State.postFault_canonical) | (with_reducible apply State.offer_canonical)
               | (with_reducible apply State.modDie_canonical) | (with_reducible apply State.resourceEvent_canonical)
               | (with_reducible apply State.put64_canonical) | dsimp only | split | (refine fst_of (by assumption) ?_)

theorem State.counterAdd_canonical (s : State) (x1) (x2) (x3) (x4) (h : s.mem.wf = true) :
    (State.counterAdd s x1 x2 x3 x4).2.mem.wf = true := by
  unfold State.counterAdd
  repeat first | with_reducible assumption | (with_reducible intro _)
               | (with_reducible apply State.counterSet_canonical) | (with_reducible apply State.postEvent_canonical)
               | dsimp only | split

theorem State.completionAdd_canonical (s : State) (x1) (x2) (x3) (x4) (x5) (x6) (h : s.mem.wf = true) :
    (State.completionAdd s x1 x2 x3 x4 x5 x6).mem.wf = true := by
  unfold State.completionAdd
  repeat first | with_reducible assumption | (with_reducible intro _)
               | (with_reducible apply State.counterPlace_canonical) | (with_reducible apply State.counterAdd_canonical)
               | (with_reducible apply State.postEvent_canonical) | dsimp only | split
               | (refine fst_of (by assumption) ?_) | (refine snd_of (by assumption) ?_)

theorem State.takeBlocks_canonical (s : State) (x1) (x2) (h : s.mem.wf = true) :
    canonicalIn (State.takeBlocks s x1 x2) fun x => x.2.2 := by
  unfold State.takeBlocks
  repeat first | with_reducible assumption | (with_reducible intro _) | (with_reducible apply State.popPool_canonical)
               | (with_reducible exact canonicalIn_none _) | (with_reducible apply canonicalIn_some) | dsimp only
               | split | (refine State.popPool_canonical_eq (by assumption) ?_)
theorem State.takeBlocks_canonical_eq {s s' : State} {x1} {x2} {r q} (e : State.takeBlocks s x1 x2 = some (r, q, s')) (h : s.mem.wf = true) :
    s'.mem.wf = true := State.takeBlocks_canonical s x1 x2 h _ e

theorem State.offerAnvil_canonical (s : State) (x1) (h : s.mem.wf = true) : (State.offerAnvil s x1).mem.wf = true := by
  unfold State.offerAnvil
  repeat first | with_reducible assumption | (with_reducible intro _) | (with_reducible apply State.offer_canonical)
               | dsimp only | split

theorem State.openRun_canonical (s : State) (x1) (x2) (h : s.mem.wf = true) :
    (State.openRun s x1 x2).mem.wf = true := by
  unfold State.openRun
  repeat first | with_reducible assumption | (with_reducible intro _)
               | (with_reducible apply State.offerAnvil_canonical) | (with_reducible apply State.offer_canonical)
               | (with_reducible apply State.modCluster_canonical) | dsimp only

theorem State.passGrant_canonical (s : State) (x1) (h : s.mem.wf = true) : (State.passGrant s x1).mem.wf = true := by
  unfold State.passGrant
  repeat first | with_reducible assumption | (with_reducible intro _) | (with_reducible apply State.openRun_canonical)
               | (with_reducible apply State.modCluster_canonical) | dsimp only | split

theorem State.yieldGrant_canonical (s : State) (x1) (h : s.mem.wf = true) : (State.yieldGrant s x1).mem.wf = true := by
  unfold State.yieldGrant
  repeat first | with_reducible assumption | (with_reducible intro _)
               | (with_reducible apply State.modCluster_canonical) | (with_reducible apply State.passGrant_canonical)
               | dsimp only | split

theorem State.dropRequest_canonical (s : State) (x1) (x2) (h : s.mem.wf = true) :
    (State.dropRequest s x1 x2).mem.wf = true := by
  unfold State.dropRequest
  repeat first | with_reducible assumption | (with_reducible intro _) | (with_reducible apply State.modCore_canonical)
               | (with_reducible apply State.yieldGrant_canonical) | dsimp only | split

theorem State.leave_canonical (s : State) (h : s.mem.wf = true) : (State.leave s).mem.wf = true := by
  unfold State.leave
  repeat first | with_reducible assumption | (with_reducible intro _)
               | (with_reducible apply State.leaveCarry_canonical) | (with_reducible apply State.kick_canonical)
               | (with_reducible apply State.leaveQueues_canonical) | (with_reducible apply State.dropRequest_canonical)
               | (with_reducible apply State.modCur_canonical) | (with_reducible apply State.offer_canonical)
               | (with_reducible apply foldl_canonical) | dsimp only | split

theorem State.finishLease_canonical (s : State) (x1) (x2) (h : s.mem.wf = true) :
    (State.finishLease s x1 x2).mem.wf = true := by
  unfold State.finishLease
  repeat first | with_reducible assumption | (with_reducible intro _) | (with_reducible apply State.addDue_canonical)
               | (with_reducible apply State.yieldGrant_canonical) | (with_reducible apply State.modCore_canonical)
               | dsimp only

theorem State.endLease_canonical (s : State) (x1) (x2) (h : s.mem.wf = true) :
    (State.endLease s x1 x2).mem.wf = true := by
  unfold State.endLease
  repeat first | with_reducible assumption | (with_reducible intro _)
               | (with_reducible apply State.finishLease_canonical) | (with_reducible apply State.modCore_canonical)
               | dsimp only | split

theorem State.stopCur_canonical (s : State) (x1) (h : s.mem.wf = true) :
    canonicalIn (State.stopCur s x1) fun x => x := by
  unfold State.stopCur
  repeat first | with_reducible assumption | (with_reducible intro _)
               | (with_reducible apply State.takeBlocks_canonical) | (with_reducible apply State.putBlock_canonical)
               | (with_reducible apply State.zeroRange_canonical) | (with_reducible apply State.writeRecord_canonical)
               | (with_reducible apply State.leave_canonical) | (with_reducible apply State.endLease_canonical)
               | (with_reducible exact canonicalIn_none _) | (with_reducible apply canonicalIn_some) | dsimp only
               | split | (refine State.takeBlocks_canonical_eq (by assumption) ?_)
theorem State.stopCur_canonical_eq {s s' : State} {x1} (e : State.stopCur s x1 = some s') (h : s.mem.wf = true) :
    s'.mem.wf = true := State.stopCur_canonical s x1 h _ e

theorem State.joinFault_canonical (s : State) (x1) (x2) (x3) (x4) (h : s.mem.wf = true) :
    (State.joinFault s x1 x2 x3 x4).mem.wf = true := by
  unfold State.joinFault
  repeat first | with_reducible assumption | (with_reducible intro _) | (with_reducible apply State.modDie_canonical)
               | (with_reducible apply State.put64_canonical) | dsimp only | split

theorem State.leaveSettle_canonical (s : State) (x1) (h : s.mem.wf = true) :
    (State.leaveSettle s x1).mem.wf = true := by
  unfold State.leaveSettle
  repeat first | with_reducible assumption | (with_reducible intro _) | dsimp only

theorem State.performAdd_canonical (s : State) (x1) (x2) (h : s.mem.wf = true) :
    (State.performAdd s x1 x2).mem.wf = true := by
  unfold State.performAdd
  repeat first | with_reducible assumption | (with_reducible intro _)
               | (with_reducible apply State.completionAdd_canonical) | dsimp only | split

theorem State.modLaunch_canonical (s : State) (x1) (x2) (h : s.mem.wf = true) :
    (State.modLaunch s x1 x2).mem.wf = true := by
  unfold State.modLaunch
  repeat first | with_reducible assumption | (with_reducible intro _) | dsimp only | split

theorem State.launchStep_canonical (s : State) (x1) (x2) (h : s.mem.wf = true) :
    (State.launchStep s x1 x2).mem.wf = true := by
  unfold State.launchStep
  repeat first | with_reducible assumption | (with_reducible intro _)
               | (with_reducible apply State.performAdd_canonical) | (with_reducible apply State.modLaunch_canonical)
               | dsimp only | split

theorem State.readyRecord_canonical (s : State) (x1) (x2) (x3) (x4) (x5) (h : s.mem.wf = true) :
    (State.readyRecord s x1 x2 x3 x4 x5).mem.wf = true := by
  unfold State.readyRecord
  repeat first | with_reducible assumption | (with_reducible intro _) | (with_reducible apply State.addDue_canonical)
               | (with_reducible apply State.modFn_canonical) | dsimp only

theorem State.readyIf_canonical (s : State) (x1) (h : s.mem.wf = true) : (State.readyIf s x1).mem.wf = true := by
  unfold State.readyIf
  repeat first | with_reducible assumption | (with_reducible intro _)
               | (with_reducible apply State.readyRecord_canonical) | dsimp only | split

theorem State.countTime_canonical (s : State) (x1) (h : s.mem.wf = true) : (State.countTime s x1).mem.wf = true := by
  unfold State.countTime
  repeat first | with_reducible assumption | (with_reducible intro _) | (with_reducible apply State.modDie_canonical)
               | dsimp only | split

theorem State.kickTeam_canonical (s : State) (x1) (h : s.mem.wf = true) : (State.kickTeam s x1).mem.wf = true := by
  unfold State.kickTeam
  repeat first | with_reducible assumption | (with_reducible intro _) | (with_reducible apply State.kick_canonical)
               | (with_reducible apply foldl_canonical) | dsimp only

theorem State.freeTeam_canonical (s : State) (x1) (h : s.mem.wf = true) : (State.freeTeam s x1).mem.wf = true := by
  unfold State.freeTeam
  repeat first | with_reducible assumption | (with_reducible intro _) | (with_reducible apply State.countTime_canonical)
               | (with_reducible apply State.pushPool_canonical) | (with_reducible apply State.modDie_canonical)
               | (with_reducible apply State.modCluster_canonical) | (with_reducible apply State.addAgenda_canonical)
               | (with_reducible apply State.kickTeam_canonical) | dsimp only | split

theorem State.teamStep_canonical (s : State) (x1) (h : s.mem.wf = true) : (State.teamStep s x1).mem.wf = true := by
  unfold State.teamStep
  repeat first | with_reducible assumption | (with_reducible intro _) | (with_reducible apply State.freeTeam_canonical)
               | (with_reducible apply State.put64_canonical) | dsimp only | split

theorem State.strandEnds_canonical (s : State) (x1) (x2) (h : s.mem.wf = true) :
    (State.strandEnds s x1 x2).mem.wf = true := by
  unfold State.strandEnds
  repeat first | with_reducible assumption | (with_reducible intro _) | (with_reducible apply State.setCarry_canonical)
               | (with_reducible apply State.clearCauser_canonical) | (with_reducible apply State.leaveQueues_canonical)
               | (with_reducible apply State.leaveSettle_canonical) | (with_reducible apply State.launchStep_canonical)
               | (with_reducible apply State.readyIf_canonical) | (with_reducible apply State.countDeath_canonical)
               | (with_reducible apply State.addDue_canonical) | (with_reducible apply State.teamStep_canonical)
               | dsimp only | split

theorem State.proxyCur_canonical (s : State) (x1) (h : s.mem.wf = true) : (State.proxyCur s x1).mem.wf = true := by
  unfold State.proxyCur
  repeat first | with_reducible assumption | (with_reducible intro _) | (with_reducible apply State.quiet_canonical)
               | (with_reducible apply State.refuse_canonical) | (with_reducible apply State.strandEnds_canonical)
               | (with_reducible apply State.leave_canonical) | (with_reducible apply State.endLease_canonical)
               | dsimp only

theorem State.userTrap_canonical (s : State) (x1) (h : s.mem.wf = true) : (State.userTrap s x1).mem.wf = true := by
  unfold State.userTrap
  repeat first | with_reducible assumption | (with_reducible intro _) | (with_reducible apply State.quiet_canonical)
               | (with_reducible apply State.stopCur_canonical) | (with_reducible apply State.modCur_canonical)
               | (with_reducible apply State.joinFault_canonical) | (with_reducible apply State.proxyCur_canonical)
               | (with_reducible apply State.checkQueue_canonical) | (with_reducible apply State.postFault_canonical)
               | dsimp only | split | (refine State.stopCur_canonical_eq (by assumption) ?_)
               | (refine fst_of (by assumption) ?_)

theorem State.takeTrap_canonical (s : State) (x1) (h : s.mem.wf = true) : (State.takeTrap s x1).mem.wf = true := by
  unfold State.takeTrap
  repeat first | with_reducible assumption | (with_reducible intro _) | (with_reducible apply State.modCur_canonical)
               | (with_reducible apply State.userTrap_canonical) | (with_reducible apply State.cancelOnFault_canonical)
               | dsimp only | split

theorem State.consumePoison_canonical (s : State) (x1) (x2) (h : s.mem.wf = true) :
    (State.consumePoison s x1 x2).mem.wf = true := by
  unfold State.consumePoison
  repeat first | with_reducible assumption | (with_reducible intro _) | (with_reducible apply State.report_canonical)
               | (with_reducible apply State.modCur_canonical) | (with_reducible apply State.takeTrap_canonical)
               | dsimp only | split

theorem State.endDropped_canonical (s : State) (h : s.mem.wf = true) : (State.endDropped s).mem.wf = true := by
  unfold State.endDropped
  repeat first | with_reducible assumption | (with_reducible intro _) | (with_reducible apply State.endLease_canonical)
               | dsimp only | split

theorem State.postHeld_canonical (s : State) (x1) (h : s.mem.wf = true) : (State.postHeld s x1).1.mem.wf = true := by
  induction x1 generalizing s with
  | nil =>
    unfold State.postHeld
    repeat first | with_reducible assumption | (with_reducible intro _)
                 | (with_reducible apply State.postFault_canonical) | dsimp only | split
                 | (refine fst_of (by assumption) ?_)
  | cons a l ih =>
    unfold State.postHeld
    repeat first | with_reducible assumption | (with_reducible intro _) | (with_reducible apply ih)
                 | (with_reducible apply State.postFault_canonical) | dsimp only | split
                 | (refine fst_of (by assumption) ?_)

theorem State.retireCur_canonical (s : State) (h : s.mem.wf = true) : (State.retireCur s).mem.wf = true := by
  unfold State.retireCur
  repeat first | with_reducible assumption | (with_reducible intro _)
               | (with_reducible apply State.strandEnds_canonical) | (with_reducible apply State.leave_canonical)
               | (with_reducible apply State.endLease_canonical) | (with_reducible apply State.closeOpened_canonical)
               | dsimp only

theorem State.suspendCur_canonical (s : State) (x1) (x2) (x3) (x4) (h : s.mem.wf = true) :
    (State.suspendCur s x1 x2 x3 x4).mem.wf = true := by
  unfold State.suspendCur
  repeat first | with_reducible assumption | (with_reducible intro _) | (with_reducible apply State.leave_canonical)
               | (with_reducible apply State.endLease_canonical) | (with_reducible apply State.writeRecord_canonical)
               | dsimp only

theorem Form.finish_canonical (x0) (x1) (s : State) (x3) (h : s.mem.wf = true) :
    (Form.finish x0 x1 s x3).mem.wf = true := by
  unfold Form.finish
  repeat first | with_reducible assumption | (with_reducible intro _) | (with_reducible apply State.modCur_canonical)
               | dsimp only | split

theorem State.undo_canonical (s before : State) (h : before.mem.wf = true) : (s.undo before).mem.wf = true := h

theorem State.askTransfer_canonical (s : State) (x1) (x2) (x3) (h : s.mem.wf = true) :
    (State.askTransfer s x1 x2 x3).mem.wf = true := by
  unfold State.askTransfer
  repeat first | with_reducible assumption | (with_reducible intro _) | (with_reducible apply State.benchPush_canonical)
               | dsimp only | split

theorem State.chainAdd_canonical (s : State) (x1) (x2) (h : s.mem.wf = true) :
    (State.chainAdd s x1 x2).mem.wf = true := by
  unfold State.chainAdd
  repeat first | with_reducible assumption | (with_reducible intro _) | dsimp only | split

theorem State.chainCur_canonical (s : State) (x1) (x2) (h : s.mem.wf = true) :
    (State.chainCur s x1 x2).mem.wf = true := by
  unfold State.chainCur
  repeat first | with_reducible assumption | (with_reducible intro _)
               | (with_reducible apply State.askTransfer_canonical) | (with_reducible apply State.quiet_canonical)
               | (with_reducible apply State.freePair_canonical) | (with_reducible apply State.free_canonical)
               | (with_reducible apply State.stopCur_canonical) | (with_reducible apply State.chainAdd_canonical)
               | dsimp only | split | (refine State.stopCur_canonical_eq (by assumption) ?_)
               | (refine snd_of (by assumption) ?_)

theorem State.beginConversion_canonical (s : State) (x1) (x2) (x3) (x4) (h : s.mem.wf = true) :
    (State.beginConversion s x1 x2 x3 x4).mem.wf = true := by
  unfold State.beginConversion
  repeat first | with_reducible assumption | (with_reducible intro _)
               | (with_reducible apply State.clearCauser_canonical) | (with_reducible apply State.benchPush_canonical)
               | (with_reducible apply State.modLpn_canonical) | dsimp only | split

theorem State.stopped_canonical (s : State) (x1) (h : s.mem.wf = true) : (State.stopped s x1).mem.wf = true := by
  unfold State.stopped
  repeat first | with_reducible assumption | (with_reducible intro _) | (with_reducible apply State.takeTrap_canonical)
               | (with_reducible apply State.clearCauser_canonical)
               | (with_reducible apply State.consumePoison_canonical) | (with_reducible apply State.proxyCur_canonical)
               | (with_reducible apply State.chainCur_canonical)
               | (with_reducible apply State.beginConversion_canonical) | dsimp only | split

theorem Form.conclude_canonical (f : Form) (b : State) (r : Res) (h : b.mem.wf = true) (hr : resCanonical r) :
    (f.conclude b r).mem.wf = true := by
  cases r with
  | done s => exact hr
  | jump s pc => exact hr
  | fault s c sub v => exact State.takeTrap_canonical _ _ h
  | trap s t => exact State.takeTrap_canonical _ _ hr
  | stop s x => exact State.stopped_canonical _ _ h
  | stall s => exact hr
  | away s => exact hr

theorem Form.issueFault_canonical (x0) (s : State) (h : s.mem.wf = true) :
    canonicalIn (Form.issueFault x0 s) fun x => x := by
  unfold Form.issueFault
  repeat first | with_reducible assumption | (with_reducible intro _) | (with_reducible apply State.takeTrap_canonical)
               | (with_reducible apply State.modCur_canonical) | (with_reducible exact canonicalIn_none _)
               | (with_reducible apply canonicalIn_some) | dsimp only | split
theorem Form.issueFault_canonical_eq {s s' : State} {x0} (e : Form.issueFault x0 s = some s') (h : s.mem.wf = true) :
    s'.mem.wf = true := Form.issueFault_canonical x0 s h _ e

theorem State.actOnCancel_canonical (s : State) (x1) (h : s.mem.wf = true) :
    (State.actOnCancel s x1).mem.wf = true := by
  unfold State.actOnCancel
  repeat first | with_reducible assumption | (with_reducible intro _) | (with_reducible apply State.quiet_canonical)
               | (with_reducible apply State.askPosted_canonical) | (with_reducible apply State.retireCur_canonical)
               | (with_reducible apply State.modCur_canonical) | (with_reducible apply State.dropRequest_canonical)
               | (with_reducible apply State.endLease_canonical) | dsimp only | split

theorem State.registerError_canonical (s : State) (h : s.mem.wf = true) : (State.registerError s).mem.wf = true := by
  unfold State.registerError
  repeat first | with_reducible assumption | (with_reducible intro _) | (with_reducible apply State.report_canonical)
               | dsimp only

theorem Form.issue_canonical (f : Form) (s : State) (entry : State → Res)
    (he : ∀ u, u.mem.wf = true → resCanonical (entry u)) (h : s.mem.wf = true) : (f.issue s entry).mem.wf = true := by
  unfold Form.issue
  split
  · exact Form.issueFault_canonical_eq (by assumption) h
  · split
    · exact State.actOnCancel_canonical _ _ h
    · have hu : (if f.point then s.endDropped else s).mem.wf = true := by
        split
        · exact State.endDropped_canonical _ h
        · exact h
      dsimp only
      split
      · exact State.takeTrap_canonical _ _ (State.registerError_canonical _ hu)
      · exact Form.conclude_canonical _ _ _ hu (he _ hu)

theorem Form.run_canonical (f : Form) (s : State) (entry : State → Res)
    (he : ∀ u, u.mem.wf = true → resCanonical (entry u)) (h : s.mem.wf = true) : goesOn (f.run s entry) :=
  goesOn_next (Form.issue_canonical f s entry he h)

theorem State.capAccess_canonical (s : State) (x1) (x2) (x3) (x4) (x5) (x6) (x7) (h : s.mem.wf = true) :
    (State.capAccess s x1 x2 x3 x4 x5 x6 x7).1.mem.wf = true := by
  unfold State.capAccess
  repeat first | with_reducible assumption | (with_reducible intro _) | (with_reducible apply translate_canonical)
               | dsimp only | split | (refine fst_of (by assumption) ?_)

theorem State.capRead_canonical (s : State) (x1) (x2) (x3) (x4) (x5) (h : s.mem.wf = true) :
    (State.capRead s x1 x2 x3 x4 x5).1.mem.wf = true := by
  unfold State.capRead
  repeat first | with_reducible assumption | (with_reducible intro _) | (with_reducible apply State.capAccess_canonical)
               | (with_reducible apply State.readPlace_canonical) | dsimp only | split
               | (refine fst_of (by assumption) ?_)

theorem State.piecePlaces_canonical (s : State) (x1) (x2) (h : s.mem.wf = true) :
    (State.piecePlaces s x1 x2).1.mem.wf = true := by
  induction x2 generalizing s x1 with
  | zero =>
    unfold State.piecePlaces
    repeat first | with_reducible assumption | (with_reducible intro _) | (with_reducible apply translate_canonical)
                 | (with_reducible apply load_canonical) | dsimp only | split | (refine fst_of (by assumption) ?_)
  | succ n ih =>
    unfold State.piecePlaces
    repeat first | with_reducible assumption | (with_reducible intro _) | (with_reducible apply ih)
                 | (with_reducible apply translate_canonical) | (with_reducible apply load_canonical) | dsimp only
                 | split | (refine fst_of (by assumption) ?_)

theorem State.readPieces_canonical (s : State) (x1) (x2) (h : s.mem.wf = true) :
    (State.readPieces s x1 x2).1.mem.wf = true := by
  unfold State.readPieces
  repeat first | with_reducible assumption | (with_reducible intro _)
               | (with_reducible apply State.piecePlaces_canonical) | (with_reducible apply State.readPlaces_canonical)
               | dsimp only | split | (refine fst_of (by assumption) ?_)

theorem State.choose_canonical (s : State) (x1) (h : s.mem.wf = true) : (State.choose s x1).mem.wf = true := by
  unfold State.choose
  repeat first | with_reducible assumption | (with_reducible intro _) | dsimp only | split

theorem State.dropHeld_canonical (s : State) (h : s.mem.wf = true) : (State.dropHeld s).mem.wf = true := by
  unfold State.dropHeld
  repeat first | with_reducible assumption | (with_reducible intro _) | (with_reducible apply State.modCur_canonical)
               | dsimp only

theorem State.fetchAhead_canonical (s : State) (h : s.mem.wf = true) : (State.fetchAhead s).mem.wf = true := h

theorem State.fetch_canonical (s : State) (h : s.mem.wf = true) : fetches (State.fetch s) := by
  unfold State.fetch
  repeat first | with_reducible assumption | (with_reducible intro _) | (with_reducible apply State.takeTrap_canonical)
               | (with_reducible apply State.dropHeld_canonical) | (with_reducible apply translate_canonical)
               | (with_reducible apply State.stopped_canonical) | (with_reducible apply State.undo_canonical)
               | (with_reducible apply State.fetchAhead_canonical) | (with_reducible apply State.noteRead_canonical)
               | (with_reducible apply fetches_ok) | (with_reducible apply fetches_error) | dsimp only | split
               | (refine fst_of (by assumption) ?_)
theorem State.fetch_canonical_eq {s s' : State}  (e : State.fetch s = .error s') (h : s.mem.wf = true) :
    s'.mem.wf = true := (State.fetch_canonical s h).1 _ e
theorem State.fetch_canonical_eq2 {s s' : State}  {bs} (e : State.fetch s = .ok (s', bs)) (h : s.mem.wf = true) :
    s'.mem.wf = true := (State.fetch_canonical s h).2 _ _ e

theorem State.killCur_canonical (s : State) (h : s.mem.wf = true) : (State.killCur s).mem.wf = true := by
  unfold State.killCur
  repeat first | with_reducible assumption | (with_reducible intro _) | (with_reducible apply State.quiet_canonical)
               | (with_reducible apply State.retireCur_canonical) | dsimp only | split

theorem State.noteSlot_canonical (s : State) (h : s.mem.wf = true) : (State.noteSlot s).mem.wf = true := by
  unfold State.noteSlot
  repeat first | with_reducible assumption | (with_reducible intro _) | (with_reducible apply State.modCore_canonical)
               | dsimp only

theorem State.pass_canonical (s : State) (h : s.mem.wf = true) : (State.pass s).mem.wf = true := by
  unfold State.pass
  repeat first | with_reducible assumption | (with_reducible intro _) | (with_reducible apply State.drain_canonical)
               | (with_reducible apply State.modCore_canonical) | dsimp only

theorem State.placeWord_canonical (s : State) (x1) (h : s.mem.wf = true) : (State.placeWord s x1).mem.wf = true := by
  unfold State.placeWord
  repeat first | with_reducible assumption | (with_reducible intro _) | (with_reducible apply Mem.wf_writeBytes)
               | dsimp only

theorem State.preEmpt_canonical (s : State) (h : s.mem.wf = true) : (State.preEmpt s).mem.wf = true := by
  unfold State.preEmpt
  repeat first | with_reducible assumption | (with_reducible intro _) | (with_reducible apply State.quiet_canonical)
               | (with_reducible apply State.stopCur_canonical) | (with_reducible apply State.readyOr_canonical)
               | (with_reducible apply State.pushBottom_canonical) | dsimp only | split
               | (refine State.stopCur_canonical_eq (by assumption) ?_)

theorem State.suspendWait_canonical (s : State) (x1) (x2) (x3) (h : s.mem.wf = true) :
    (State.suspendWait s x1 x2 x3).mem.wf = true := by
  unfold State.suspendWait
  repeat first | with_reducible assumption | (with_reducible intro _) | (with_reducible apply State.quiet_canonical)
               | (with_reducible apply State.registerWaiter_canonical)
               | (with_reducible apply State.suspendCur_canonical) | dsimp only | split

theorem State.presentWait_canonical (s : State) (x1) (h : s.mem.wf = true) :
    (State.presentWait s x1).mem.wf = true := by
  unfold State.presentWait
  repeat first | with_reducible assumption | (with_reducible intro _)
               | (with_reducible apply State.counterPlace_canonical) | (with_reducible apply State.stopped_canonical)
               | (with_reducible apply State.undo_canonical) | (with_reducible apply State.performAt_canonical)
               | (with_reducible apply State.modCur_canonical) | (with_reducible apply State.setX_canonical)
               | (with_reducible apply State.acquire_canonical) | (with_reducible apply State.suspendWait_canonical)
               | dsimp only | split | (refine fst_of (by assumption) ?_)

theorem State.takeAgenda_canonical (s : State) (x1) (h : s.mem.wf = true) : (State.takeAgenda s x1).mem.wf = true := by
  unfold State.takeAgenda
  repeat first | with_reducible assumption | (with_reducible intro _) | dsimp only

end Sys2Proof.Machine
end

