-- ==== Sys2Proof/Laws/CanonicalInstr.lean ====
section
/-!
SUPPORT. Every instruction keeps memory in its canonical form: one lemma for each operation and meaning.
-/
namespace Sys2Proof.Machine

set_option Elab.async false

theorem State.ioOwned_canonical (s : State) (x1) (x2) (x3) (h3 : resCanonical x3) (h : s.mem.wf = true) :
    resCanonical (State.ioOwned s x1 x2 x3) := by
  unfold State.ioOwned
  repeat first | with_reducible assumption | (with_reducible intro _) | (with_reducible apply resCanonical_stop)
               | dsimp only | split

theorem State.awaitIo_canonical (s : State) (x1) (x2) (h : s.mem.wf = true) :
    (State.awaitIo s x1 x2).mem.wf = true := by
  unfold State.awaitIo
  repeat first | with_reducible assumption | (with_reducible intro _) | (with_reducible apply State.modCur_canonical)
               | (with_reducible apply State.depart_canonical) | dsimp only

theorem ownResult_canonical (x0) (x1) (h0 : inboundCanonical x0) (h1 : ∀ u a1, u.mem.wf = true → resCanonical (x1 u a1)) :
    resCanonical (ownResult x0 x1) := by
  unfold ownResult
  repeat first | with_reducible assumption | (with_reducible intro _) | (with_reducible apply h1)
               | (with_reducible apply resCanonical_done) | (with_reducible apply resCanonical_stall) | dsimp only
               | split | (exact inboundCanonical_of_done (by assumption))
               | (exact inboundCanonical_of_rejected (by assumption))
               | (exact inboundCanonical_of_waits (by assumption))

theorem inboundPlaces_canonical (s : State) (x1) (x2) (x3) (h : s.mem.wf = true) :
    (inboundPlaces s x1 x2 x3).1.mem.wf = true := by
  induction x3 generalizing s with
  | nil =>
    unfold inboundPlaces
    repeat first | with_reducible assumption | (with_reducible intro _) | (with_reducible apply translate_canonical)
                 | dsimp only | split | (refine fst_of (by assumption) ?_)
  | cons a l ih =>
    unfold inboundPlaces
    repeat first | with_reducible assumption | (with_reducible intro _) | (with_reducible apply ih)
                 | (with_reducible apply translate_canonical) | dsimp only | split | (refine fst_of (by assumption) ?_)

theorem State.inboundStop_canonical (s : State) (x1) (x2) (x3) (h : s.mem.wf = true) :
    inboundCanonical (State.inboundStop s x1 x2 x3) := by
  unfold State.inboundStop
  repeat first | with_reducible assumption | (with_reducible intro _)
               | (with_reducible apply State.askTransfer_canonical)
               | (with_reducible apply State.beginConversion_canonical)
               | (with_reducible apply State.clearCauser_canonical) | (with_reducible apply inboundCanonical_done)
               | (with_reducible apply inboundCanonical_rejected) | (with_reducible apply inboundCanonical_waits)
               | dsimp only | split

theorem State.readAll_canonical (s : State) (x1) (x2) (h : s.mem.wf = true) :
    (State.readAll s x1 x2).1.mem.wf = true := by
  unfold State.readAll
  repeat first | with_reducible assumption | (with_reducible intro _)
               | (with_reducible apply State.readPlaces_canonical) | dsimp only | split
               | (refine fst_of (by assumption) ?_)

theorem State.inboundRead_canonical (s : State) (x1) (x2) (x3) (x4) (h : s.mem.wf = true) :
    inboundCanonical (State.inboundRead s x1 x2 x3 x4) := by
  unfold State.inboundRead
  repeat first | with_reducible assumption | (with_reducible intro _) | (with_reducible apply inboundPlaces_canonical)
               | (with_reducible apply State.inboundStop_canonical) | (with_reducible apply State.readAll_canonical)
               | (with_reducible apply inboundCanonical_done) | (with_reducible apply inboundCanonical_rejected)
               | (with_reducible apply inboundCanonical_waits) | dsimp only | split
               | (refine inboundCanonical_done_eq (by assumption) ?_)
               | (refine inboundCanonical_rejected_eq (by assumption) ?_)
               | (refine inboundCanonical_waits_eq (by assumption) ?_) | (refine fst_of (by assumption) ?_)

theorem State.inboundCounter_canonical (s : State) (x1) (x2) (x3) (x4) (h : s.mem.wf = true) :
    inboundCanonical (State.inboundCounter s x1 x2 x3 x4) := by
  unfold State.inboundCounter
  repeat first | with_reducible assumption | (with_reducible intro _)
               | (with_reducible apply State.counterPlace_canonical)
               | (with_reducible apply State.inboundStop_canonical) | (with_reducible apply inboundCanonical_done)
               | (with_reducible apply inboundCanonical_rejected) | (with_reducible apply inboundCanonical_waits)
               | dsimp only | split | (refine inboundCanonical_done_eq (by assumption) ?_)
               | (refine inboundCanonical_rejected_eq (by assumption) ?_)
               | (refine inboundCanonical_waits_eq (by assumption) ?_) | (refine fst_of (by assumption) ?_)

theorem State.refuseInbound_canonical (s : State) (x1) (h : s.mem.wf = true) :
    (State.refuseInbound s x1).mem.wf = true := by
  unfold State.refuseInbound
  repeat first | with_reducible assumption | (with_reducible intro _) | (with_reducible apply State.refuse_canonical)
               | dsimp only

theorem State.fromPeerRead_canonical (s : State) (x1) (x2) (x3) (x4) (h : s.mem.wf = true) :
    inboundCanonical (State.fromPeerRead s x1 x2 x3 x4) := by
  unfold State.fromPeerRead
  repeat first | with_reducible assumption | (with_reducible intro _) | (with_reducible apply State.refuse_canonical)
               | (with_reducible apply State.inboundRead_canonical)
               | (with_reducible apply State.inboundCounter_canonical)
               | (with_reducible apply State.refuseInbound_canonical) | (with_reducible apply inboundCanonical_done)
               | (with_reducible apply inboundCanonical_rejected) | (with_reducible apply inboundCanonical_waits)
               | dsimp only | split | (refine inboundCanonical_done_eq (by assumption) ?_)
               | (refine inboundCanonical_rejected_eq (by assumption) ?_)
               | (refine inboundCanonical_waits_eq (by assumption) ?_)

theorem State.ioLoad_canonical (s : State) (x1) (x2) (x3) (x4) (x5) (h : s.mem.wf = true) :
    resCanonical (State.ioLoad s x1 x2 x3 x4 x5) := by
  unfold State.ioLoad
  repeat first | with_reducible assumption | (with_reducible intro _) | (with_reducible apply State.setC_canonical)
               | (with_reducible apply State.awaitIo_canonical) | (with_reducible apply ownResult_canonical)
               | (with_reducible apply State.fromPeerRead_canonical) | (with_reducible apply resCanonical_done)
               | (with_reducible apply resCanonical_fault) | (with_reducible apply resCanonical_stall) | dsimp only
               | split | (refine inboundCanonical_done_eq (by assumption) ?_)
               | (refine inboundCanonical_rejected_eq (by assumption) ?_)
               | (refine inboundCanonical_waits_eq (by assumption) ?_)

theorem State.memLoad_canonical (s : State) (x1) (x2) (x3) (x4) (x5) (x6) (h : s.mem.wf = true) :
    resCanonical (State.memLoad s x1 x2 x3 x4 x5 x6) := by
  unfold State.memLoad
  repeat first | with_reducible assumption | (with_reducible intro _) | (with_reducible apply State.capAccess_canonical)
               | (with_reducible apply State.ioOwned_canonical) | (with_reducible apply State.ioLoad_canonical)
               | (with_reducible apply State.readPlace_canonical) | (with_reducible apply State.setC_canonical)
               | (with_reducible apply State.acquire_canonical) | (with_reducible apply resCanonical_done)
               | (with_reducible apply resCanonical_stop) | (with_reducible apply resCanonical_stall) | dsimp only
               | split | (refine fst_of (by assumption) ?_)

theorem load_canonical (x0) (x1) (x2) (x3) (x4) (x5) (x6) (s : State) (h : s.mem.wf = true) :
    goesOn (load x0 x1 x2 x3 x4 x5 x6 s) := by
  unfold load
  repeat first | with_reducible assumption | (with_reducible intro _) | (with_reducible apply Form.run_canonical)
               | (with_reducible apply State.memLoad_canonical) | dsimp only

theorem binary_canonical (x0) (x1) (x2) (x3) (x4) (x5) (x6) (s : State) (h : s.mem.wf = true) :
    goesOn (binary x0 x1 x2 x3 x4 x5 x6 s) := by
  unfold binary
  repeat first | with_reducible assumption | (with_reducible intro _) | (with_reducible apply Form.run_canonical)
               | (with_reducible apply State.setX_canonical) | (with_reducible apply resCanonical_done) | dsimp only

theorem execAdd_canonical (x0) (x1) (x2) (x3) (s : State) (h : s.mem.wf = true) : goesOn (execAdd x0 x1 x2 x3 s) := by
  unfold execAdd
  repeat first | with_reducible assumption | (with_reducible intro _) | (with_reducible apply binary_canonical)
               | dsimp only

theorem unary_canonical (x0) (x1) (x2) (x3) (x4) (s : State) (h : s.mem.wf = true) :
    goesOn (unary x0 x1 x2 x3 x4 s) := by
  unfold unary
  repeat first | with_reducible assumption | (with_reducible intro _) | (with_reducible apply Form.run_canonical)
               | (with_reducible apply State.setX_canonical) | (with_reducible apply resCanonical_done) | dsimp only

theorem execAddi_canonical (x0) (x1) (x2) (x3) (s : State) (h : s.mem.wf = true) : goesOn (execAddi x0 x1 x2 x3 s) := by
  unfold execAddi
  repeat first | with_reducible assumption | (with_reducible intro _) | (with_reducible apply unary_canonical)
               | dsimp only

theorem execAnd_canonical (x0) (x1) (x2) (x3) (s : State) (h : s.mem.wf = true) : goesOn (execAnd x0 x1 x2 x3 s) := by
  unfold execAnd
  repeat first | with_reducible assumption | (with_reducible intro _) | (with_reducible apply binary_canonical)
               | dsimp only

theorem execAndi_canonical (x0) (x1) (x2) (x3) (s : State) (h : s.mem.wf = true) : goesOn (execAndi x0 x1 x2 x3 s) := by
  unfold execAndi
  repeat first | with_reducible assumption | (with_reducible intro _) | (with_reducible apply unary_canonical)
               | dsimp only

theorem execClz_canonical (x0) (x1) (x2) (s : State) (h : s.mem.wf = true) : goesOn (execClz x0 x1 x2 s) := by
  unfold execClz
  repeat first | with_reducible assumption | (with_reducible intro _) | (with_reducible apply unary_canonical)
               | dsimp only

theorem execCtz_canonical (x0) (x1) (x2) (s : State) (h : s.mem.wf = true) : goesOn (execCtz x0 x1 x2 s) := by
  unfold execCtz
  repeat first | with_reducible assumption | (with_reducible intro _) | (with_reducible apply unary_canonical)
               | dsimp only

theorem execDiv_canonical (x0) (x1) (x2) (x3) (s : State) (h : s.mem.wf = true) : goesOn (execDiv x0 x1 x2 x3 s) := by
  unfold execDiv
  repeat first | with_reducible assumption | (with_reducible intro _) | (with_reducible apply binary_canonical)
               | dsimp only

theorem execDivu_canonical (x0) (x1) (x2) (x3) (s : State) (h : s.mem.wf = true) : goesOn (execDivu x0 x1 x2 x3 s) := by
  unfold execDivu
  repeat first | with_reducible assumption | (with_reducible intro _) | (with_reducible apply binary_canonical)
               | dsimp only

theorem execLui_canonical (x0) (x1) (x2) (s : State) (h : s.mem.wf = true) : goesOn (execLui x0 x1 x2 s) := by
  unfold execLui
  repeat first | with_reducible assumption | (with_reducible intro _) | (with_reducible apply Form.run_canonical)
               | (with_reducible apply State.setX_canonical) | (with_reducible apply resCanonical_done) | dsimp only

theorem execMax_canonical (x0) (x1) (x2) (x3) (s : State) (h : s.mem.wf = true) : goesOn (execMax x0 x1 x2 x3 s) := by
  unfold execMax
  repeat first | with_reducible assumption | (with_reducible intro _) | (with_reducible apply binary_canonical)
               | dsimp only

theorem execMaxu_canonical (x0) (x1) (x2) (x3) (s : State) (h : s.mem.wf = true) : goesOn (execMaxu x0 x1 x2 x3 s) := by
  unfold execMaxu
  repeat first | with_reducible assumption | (with_reducible intro _) | (with_reducible apply binary_canonical)
               | dsimp only

theorem execMin_canonical (x0) (x1) (x2) (x3) (s : State) (h : s.mem.wf = true) : goesOn (execMin x0 x1 x2 x3 s) := by
  unfold execMin
  repeat first | with_reducible assumption | (with_reducible intro _) | (with_reducible apply binary_canonical)
               | dsimp only

theorem execMinu_canonical (x0) (x1) (x2) (x3) (s : State) (h : s.mem.wf = true) : goesOn (execMinu x0 x1 x2 x3 s) := by
  unfold execMinu
  repeat first | with_reducible assumption | (with_reducible intro _) | (with_reducible apply binary_canonical)
               | dsimp only

theorem execMul_canonical (x0) (x1) (x2) (x3) (s : State) (h : s.mem.wf = true) : goesOn (execMul x0 x1 x2 x3 s) := by
  unfold execMul
  repeat first | with_reducible assumption | (with_reducible intro _) | (with_reducible apply binary_canonical)
               | dsimp only

theorem execMulh_canonical (x0) (x1) (x2) (x3) (s : State) (h : s.mem.wf = true) : goesOn (execMulh x0 x1 x2 x3 s) := by
  unfold execMulh
  repeat first | with_reducible assumption | (with_reducible intro _) | (with_reducible apply binary_canonical)
               | dsimp only

theorem execMulhu_canonical (x0) (x1) (x2) (x3) (s : State) (h : s.mem.wf = true) :
    goesOn (execMulhu x0 x1 x2 x3 s) := by
  unfold execMulhu
  repeat first | with_reducible assumption | (with_reducible intro _) | (with_reducible apply binary_canonical)
               | dsimp only

theorem execOr_canonical (x0) (x1) (x2) (x3) (s : State) (h : s.mem.wf = true) : goesOn (execOr x0 x1 x2 x3 s) := by
  unfold execOr
  repeat first | with_reducible assumption | (with_reducible intro _) | (with_reducible apply binary_canonical)
               | dsimp only | split

theorem execOri_canonical (x0) (x1) (x2) (x3) (s : State) (h : s.mem.wf = true) : goesOn (execOri x0 x1 x2 x3 s) := by
  unfold execOri
  repeat first | with_reducible assumption | (with_reducible intro _) | (with_reducible apply unary_canonical)
               | dsimp only | split

theorem execPopc_canonical (x0) (x1) (x2) (s : State) (h : s.mem.wf = true) : goesOn (execPopc x0 x1 x2 s) := by
  unfold execPopc
  repeat first | with_reducible assumption | (with_reducible intro _) | (with_reducible apply unary_canonical)
               | dsimp only

theorem execRem_canonical (x0) (x1) (x2) (x3) (s : State) (h : s.mem.wf = true) : goesOn (execRem x0 x1 x2 x3 s) := by
  unfold execRem
  repeat first | with_reducible assumption | (with_reducible intro _) | (with_reducible apply binary_canonical)
               | dsimp only

theorem execRemu_canonical (x0) (x1) (x2) (x3) (s : State) (h : s.mem.wf = true) : goesOn (execRemu x0 x1 x2 x3 s) := by
  unfold execRemu
  repeat first | with_reducible assumption | (with_reducible intro _) | (with_reducible apply binary_canonical)
               | dsimp only

theorem execSel_canonical (x0) (x1) (x2) (x3) (s : State) (h : s.mem.wf = true) : goesOn (execSel x0 x1 x2 x3 s) := by
  unfold execSel
  repeat first | with_reducible assumption | (with_reducible intro _) | (with_reducible apply Form.run_canonical)
               | (with_reducible apply State.setX_canonical) | (with_reducible apply resCanonical_done) | dsimp only
               | split

theorem execSll_canonical (x0) (x1) (x2) (x3) (s : State) (h : s.mem.wf = true) : goesOn (execSll x0 x1 x2 x3 s) := by
  unfold execSll
  repeat first | with_reducible assumption | (with_reducible intro _) | (with_reducible apply binary_canonical)
               | dsimp only

theorem execSlli_canonical (x0) (x1) (x2) (x3) (s : State) (h : s.mem.wf = true) : goesOn (execSlli x0 x1 x2 x3 s) := by
  unfold execSlli
  repeat first | with_reducible assumption | (with_reducible intro _) | (with_reducible apply unary_canonical)
               | dsimp only

theorem execSlt_canonical (x0) (x1) (x2) (x3) (s : State) (h : s.mem.wf = true) : goesOn (execSlt x0 x1 x2 x3 s) := by
  unfold execSlt
  repeat first | with_reducible assumption | (with_reducible intro _) | (with_reducible apply binary_canonical)
               | dsimp only

theorem execSlti_canonical (x0) (x1) (x2) (x3) (s : State) (h : s.mem.wf = true) : goesOn (execSlti x0 x1 x2 x3 s) := by
  unfold execSlti
  repeat first | with_reducible assumption | (with_reducible intro _) | (with_reducible apply unary_canonical)
               | dsimp only

theorem execSltiu_canonical (x0) (x1) (x2) (x3) (s : State) (h : s.mem.wf = true) :
    goesOn (execSltiu x0 x1 x2 x3 s) := by
  unfold execSltiu
  repeat first | with_reducible assumption | (with_reducible intro _) | (with_reducible apply unary_canonical)
               | dsimp only

theorem execSltu_canonical (x0) (x1) (x2) (x3) (s : State) (h : s.mem.wf = true) : goesOn (execSltu x0 x1 x2 x3 s) := by
  unfold execSltu
  repeat first | with_reducible assumption | (with_reducible intro _) | (with_reducible apply binary_canonical)
               | dsimp only

theorem execSra_canonical (x0) (x1) (x2) (x3) (s : State) (h : s.mem.wf = true) : goesOn (execSra x0 x1 x2 x3 s) := by
  unfold execSra
  repeat first | with_reducible assumption | (with_reducible intro _) | (with_reducible apply binary_canonical)
               | dsimp only

theorem execSrai_canonical (x0) (x1) (x2) (x3) (s : State) (h : s.mem.wf = true) : goesOn (execSrai x0 x1 x2 x3 s) := by
  unfold execSrai
  repeat first | with_reducible assumption | (with_reducible intro _) | (with_reducible apply unary_canonical)
               | dsimp only

theorem execSrl_canonical (x0) (x1) (x2) (x3) (s : State) (h : s.mem.wf = true) : goesOn (execSrl x0 x1 x2 x3 s) := by
  unfold execSrl
  repeat first | with_reducible assumption | (with_reducible intro _) | (with_reducible apply binary_canonical)
               | dsimp only

theorem execSrli_canonical (x0) (x1) (x2) (x3) (s : State) (h : s.mem.wf = true) : goesOn (execSrli x0 x1 x2 x3 s) := by
  unfold execSrli
  repeat first | with_reducible assumption | (with_reducible intro _) | (with_reducible apply unary_canonical)
               | dsimp only

theorem execSub_canonical (x0) (x1) (x2) (x3) (s : State) (h : s.mem.wf = true) : goesOn (execSub x0 x1 x2 x3 s) := by
  unfold execSub
  repeat first | with_reducible assumption | (with_reducible intro _) | (with_reducible apply binary_canonical)
               | dsimp only

theorem execXor_canonical (x0) (x1) (x2) (x3) (s : State) (h : s.mem.wf = true) : goesOn (execXor x0 x1 x2 x3 s) := by
  unfold execXor
  repeat first | with_reducible assumption | (with_reducible intro _) | (with_reducible apply binary_canonical)
               | dsimp only

theorem execXori_canonical (x0) (x1) (x2) (x3) (s : State) (h : s.mem.wf = true) : goesOn (execXori x0 x1 x2 x3 s) := by
  unfold execXori
  repeat first | with_reducible assumption | (with_reducible intro _) | (with_reducible apply unary_canonical)
               | dsimp only

theorem derive_canonical (x0) (x1) (x2) (x3) (x4) (x5) (s : State) (h : s.mem.wf = true) :
    goesOn (derive x0 x1 x2 x3 x4 x5 s) := by
  unfold derive
  repeat first | with_reducible assumption | (with_reducible intro _) | (with_reducible apply Form.run_canonical)
               | (with_reducible apply State.setC_canonical) | (with_reducible apply resCanonical_done) | dsimp only

theorem execCapAddr_canonical (x0) (x1) (x2) (x3) (s : State) (h : s.mem.wf = true) :
    goesOn (execCapAddr x0 x1 x2 x3 s) := by
  unfold execCapAddr
  repeat first | with_reducible assumption | (with_reducible intro _) | (with_reducible apply derive_canonical)
               | dsimp only

theorem execCapAnd_canonical (x0) (x1) (x2) (x3) (s : State) (h : s.mem.wf = true) :
    goesOn (execCapAnd x0 x1 x2 x3 s) := by
  unfold execCapAnd
  repeat first | with_reducible assumption | (with_reducible intro _) | (with_reducible apply derive_canonical)
               | dsimp only

theorem query_canonical (x0) (x1) (x2) (x3) (x4) (s : State) (h : s.mem.wf = true) :
    goesOn (query x0 x1 x2 x3 x4 s) := by
  unfold query
  repeat first | with_reducible assumption | (with_reducible intro _) | (with_reducible apply Form.run_canonical)
               | (with_reducible apply State.setX_canonical) | (with_reducible apply resCanonical_done) | dsimp only

theorem execCapBase_canonical (x0) (x1) (x2) (s : State) (h : s.mem.wf = true) : goesOn (execCapBase x0 x1 x2 s) := by
  unfold execCapBase
  repeat first | with_reducible assumption | (with_reducible intro _) | (with_reducible apply query_canonical)
               | dsimp only

theorem rederive_canonical (x0) (x1) (x2) (x3) (x4) (s : State) (h : s.mem.wf = true) :
    goesOn (rederive x0 x1 x2 x3 x4 s) := by
  unfold rederive
  repeat first | with_reducible assumption | (with_reducible intro _) | (with_reducible apply Form.run_canonical)
               | (with_reducible apply State.setC_canonical) | (with_reducible apply resCanonical_done) | dsimp only

theorem execCapClr_canonical (x0) (x1) (x2) (s : State) (h : s.mem.wf = true) : goesOn (execCapClr x0 x1 x2 s) := by
  unfold execCapClr
  repeat first | with_reducible assumption | (with_reducible intro _) | (with_reducible apply rederive_canonical)
               | dsimp only

theorem execCapInc_canonical (x0) (x1) (x2) (x3) (s : State) (h : s.mem.wf = true) :
    goesOn (execCapInc x0 x1 x2 x3 s) := by
  unfold execCapInc
  repeat first | with_reducible assumption | (with_reducible intro _) | (with_reducible apply rederive_canonical)
               | dsimp only

theorem execCapLen_canonical (x0) (x1) (x2) (s : State) (h : s.mem.wf = true) : goesOn (execCapLen x0 x1 x2 s) := by
  unfold execCapLen
  repeat first | with_reducible assumption | (with_reducible intro _) | (with_reducible apply query_canonical)
               | dsimp only

theorem execCapPerm_canonical (x0) (x1) (x2) (s : State) (h : s.mem.wf = true) : goesOn (execCapPerm x0 x1 x2 s) := by
  unfold execCapPerm
  repeat first | with_reducible assumption | (with_reducible intro _) | (with_reducible apply query_canonical)
               | dsimp only

theorem execCapSet_canonical (x0) (x1) (x2) (x3) (s : State) (h : s.mem.wf = true) :
    goesOn (execCapSet x0 x1 x2 x3 s) := by
  unfold execCapSet
  repeat first | with_reducible assumption | (with_reducible intro _) | (with_reducible apply derive_canonical)
               | dsimp only

theorem execCapSub_canonical (x0) (x1) (x2) (x3) (s : State) (h : s.mem.wf = true) :
    goesOn (execCapSub x0 x1 x2 x3 s) := by
  unfold execCapSub
  repeat first | with_reducible assumption | (with_reducible intro _) | (with_reducible apply Form.run_canonical)
               | (with_reducible apply State.setX_canonical) | (with_reducible apply resCanonical_done) | dsimp only

theorem execCapTag_canonical (x0) (x1) (x2) (s : State) (h : s.mem.wf = true) : goesOn (execCapTag x0 x1 x2 s) := by
  unfold execCapTag
  repeat first | with_reducible assumption | (with_reducible intro _) | (with_reducible apply query_canonical)
               | dsimp only | split

theorem branch_canonical (x0) (x1) (x2) (x3) (x4) (x5) (s : State) (h : s.mem.wf = true) :
    goesOn (branch x0 x1 x2 x3 x4 x5 s) := by
  unfold branch
  repeat first | with_reducible assumption | (with_reducible intro _) | (with_reducible apply Form.run_canonical)
               | (with_reducible apply resCanonical_done) | (with_reducible apply resCanonical_jump) | dsimp only
               | split

theorem execBeq_canonical (x0) (x1) (x2) (x3) (s : State) (h : s.mem.wf = true) : goesOn (execBeq x0 x1 x2 x3 s) := by
  unfold execBeq
  repeat first | with_reducible assumption | (with_reducible intro _) | (with_reducible apply branch_canonical)
               | dsimp only

theorem execBge_canonical (x0) (x1) (x2) (x3) (s : State) (h : s.mem.wf = true) : goesOn (execBge x0 x1 x2 x3 s) := by
  unfold execBge
  repeat first | with_reducible assumption | (with_reducible intro _) | (with_reducible apply branch_canonical)
               | dsimp only

theorem execBgeu_canonical (x0) (x1) (x2) (x3) (s : State) (h : s.mem.wf = true) : goesOn (execBgeu x0 x1 x2 x3 s) := by
  unfold execBgeu
  repeat first | with_reducible assumption | (with_reducible intro _) | (with_reducible apply branch_canonical)
               | dsimp only

theorem execBlt_canonical (x0) (x1) (x2) (x3) (s : State) (h : s.mem.wf = true) : goesOn (execBlt x0 x1 x2 x3 s) := by
  unfold execBlt
  repeat first | with_reducible assumption | (with_reducible intro _) | (with_reducible apply branch_canonical)
               | dsimp only

theorem execBltu_canonical (x0) (x1) (x2) (x3) (s : State) (h : s.mem.wf = true) : goesOn (execBltu x0 x1 x2 x3 s) := by
  unfold execBltu
  repeat first | with_reducible assumption | (with_reducible intro _) | (with_reducible apply branch_canonical)
               | dsimp only

theorem execBne_canonical (x0) (x1) (x2) (x3) (s : State) (h : s.mem.wf = true) : goesOn (execBne x0 x1 x2 x3 s) := by
  unfold execBne
  repeat first | with_reducible assumption | (with_reducible intro _) | (with_reducible apply branch_canonical)
               | dsimp only

theorem execIdem_canonical (x0) (x1) (s : State) (h : s.mem.wf = true) : goesOn (execIdem x0 x1 s) := by
  unfold execIdem
  repeat first | with_reducible assumption | (with_reducible intro _) | (with_reducible apply Form.run_canonical)
               | (with_reducible apply State.modCur_canonical) | (with_reducible apply resCanonical_done) | dsimp only
               | split

theorem execJal_canonical (x0) (x1) (x2) (s : State) (h : s.mem.wf = true) : goesOn (execJal x0 x1 x2 s) := by
  unfold execJal
  repeat first | with_reducible assumption | (with_reducible intro _) | (with_reducible apply Form.run_canonical)
               | (with_reducible apply State.setX_canonical) | (with_reducible apply resCanonical_jump) | dsimp only

theorem execJalr_canonical (x0) (x1) (x2) (x3) (s : State) (h : s.mem.wf = true) : goesOn (execJalr x0 x1 x2 x3 s) := by
  unfold execJalr
  repeat first | with_reducible assumption | (with_reducible intro _) | (with_reducible apply Form.run_canonical)
               | (with_reducible apply State.setX_canonical) | (with_reducible exact goesOn_fault _)
               | (with_reducible apply resCanonical_jump) | (with_reducible apply resCanonical_fault) | dsimp only
               | split

theorem State.inboundAtomic_canonical (s : State) (x1) (x2) (x3) (x4) (x5) (x6) (h : s.mem.wf = true) :
    inboundCanonical (State.inboundAtomic s x1 x2 x3 x4 x5 x6) := by
  unfold State.inboundAtomic
  repeat first | with_reducible assumption | (with_reducible intro _) | (with_reducible apply inboundPlaces_canonical)
               | (with_reducible apply State.atHome_canonical) | (with_reducible apply State.inboundStop_canonical)
               | (with_reducible apply inboundCanonical_done) | (with_reducible apply inboundCanonical_rejected)
               | (with_reducible apply inboundCanonical_waits) | dsimp only | split
               | (refine inboundCanonical_done_eq (by assumption) ?_)
               | (refine inboundCanonical_rejected_eq (by assumption) ?_)
               | (refine inboundCanonical_waits_eq (by assumption) ?_) | (refine fst_of (by assumption) ?_)

theorem State.fromPeerAtomic_canonical (s : State) (x1) (x2) (x3) (x4) (x5) (x6) (h : s.mem.wf = true) :
    inboundCanonical (State.fromPeerAtomic s x1 x2 x3 x4 x5 x6) := by
  unfold State.fromPeerAtomic
  repeat first | with_reducible assumption | (with_reducible intro _) | (with_reducible apply State.refuse_canonical)
               | (with_reducible apply State.inboundAtomic_canonical)
               | (with_reducible apply State.refuseInbound_canonical) | (with_reducible apply inboundCanonical_done)
               | (with_reducible apply inboundCanonical_rejected) | (with_reducible apply inboundCanonical_waits)
               | dsimp only | split | (refine inboundCanonical_done_eq (by assumption) ?_)
               | (refine inboundCanonical_rejected_eq (by assumption) ?_)
               | (refine inboundCanonical_waits_eq (by assumption) ?_)

theorem State.inboundWrite_canonical (s : State) (x1) (x2) (x3) (x4) (h : s.mem.wf = true) :
    inboundCanonical (State.inboundWrite s x1 x2 x3 x4) := by
  unfold State.inboundWrite
  repeat first | with_reducible assumption | (with_reducible intro _) | (with_reducible apply inboundPlaces_canonical)
               | (with_reducible apply State.inboundStop_canonical) | (with_reducible apply State.writeRuns_canonical)
               | (with_reducible apply inboundCanonical_done) | (with_reducible apply inboundCanonical_rejected)
               | (with_reducible apply inboundCanonical_waits) | dsimp only | split
               | (refine inboundCanonical_done_eq (by assumption) ?_)
               | (refine inboundCanonical_rejected_eq (by assumption) ?_)
               | (refine inboundCanonical_waits_eq (by assumption) ?_) | (refine fst_of (by assumption) ?_)

theorem State.inboundAdd_canonical (s : State) (x1) (x2) (x3) (x4) (x5) (h : s.mem.wf = true) :
    inboundCanonical (State.inboundAdd s x1 x2 x3 x4 x5) := by
  unfold State.inboundAdd
  repeat first | with_reducible assumption | (with_reducible intro _)
               | (with_reducible apply State.counterPlace_canonical)
               | (with_reducible apply State.inboundStop_canonical) | (with_reducible apply State.counterAdd_canonical)
               | (with_reducible apply inboundCanonical_done) | (with_reducible apply inboundCanonical_rejected)
               | (with_reducible apply inboundCanonical_waits) | dsimp only | split
               | (refine inboundCanonical_done_eq (by assumption) ?_)
               | (refine inboundCanonical_rejected_eq (by assumption) ?_)
               | (refine inboundCanonical_waits_eq (by assumption) ?_) | (refine fst_of (by assumption) ?_)
               | (refine snd_of (by assumption) ?_)

theorem State.fromPeerWrite_canonical (s : State) (x1) (x2) (x3) (x4) (h : s.mem.wf = true) :
    inboundCanonical (State.fromPeerWrite s x1 x2 x3 x4) := by
  unfold State.fromPeerWrite
  repeat first | with_reducible assumption | (with_reducible intro _) | (with_reducible apply State.refuse_canonical)
               | (with_reducible apply State.inboundWrite_canonical) | (with_reducible apply State.inboundAdd_canonical)
               | (with_reducible apply State.refuseInbound_canonical) | (with_reducible apply inboundCanonical_done)
               | (with_reducible apply inboundCanonical_rejected) | (with_reducible apply inboundCanonical_waits)
               | dsimp only | split | (refine inboundCanonical_done_eq (by assumption) ?_)
               | (refine inboundCanonical_rejected_eq (by assumption) ?_)
               | (refine inboundCanonical_waits_eq (by assumption) ?_)

theorem State.ioAtomic_canonical (s : State) (x1) (x2) (x3) (x4) (x5) (x6) (h : s.mem.wf = true) :
    resCanonical (State.ioAtomic s x1 x2 x3 x4 x5 x6) := by
  unfold State.ioAtomic
  repeat first | with_reducible assumption | (with_reducible intro _) | (with_reducible apply State.awaitIo_canonical)
               | (with_reducible apply ownResult_canonical) | (with_reducible apply State.fromPeerAtomic_canonical)
               | (with_reducible apply State.setX_canonical) | (with_reducible apply resCanonical_done)
               | (with_reducible apply resCanonical_fault) | (with_reducible apply resCanonical_stall) | dsimp only
               | split | (refine inboundCanonical_done_eq (by assumption) ?_)
               | (refine inboundCanonical_rejected_eq (by assumption) ?_)
               | (refine inboundCanonical_waits_eq (by assumption) ?_)

theorem State.releaseAt_canonical (s : State) (x1) (h : s.mem.wf = true) : (State.releaseAt s x1).1.mem.wf = true := by
  unfold State.releaseAt
  repeat first | with_reducible assumption | (with_reducible intro _) | (with_reducible apply State.toCore_canonical)
               | (with_reducible apply State.quiet_canonical) | (with_reducible apply State.sysReady_canonical)
               | dsimp only | split | (refine fst_of (by assumption) ?_)

theorem State.released_canonical (s : State) (s1 : State) (x2) (x3) (h1 : s1.mem.wf = true) (h3 : ∀ u, u.mem.wf = true → resCanonical (x3 u)) (h : s.mem.wf = true) :
    resCanonical (State.released s s1 x2 x3) := by
  unfold State.released
  repeat first | with_reducible assumption | (with_reducible intro _) | (with_reducible apply State.releaseAt_canonical)
               | (with_reducible apply h3) | (with_reducible apply resCanonical_stop)
               | (with_reducible apply resCanonical_stall) | dsimp only | split | (refine fst_of (by assumption) ?_)

theorem State.ioStore_canonical (s : State) (x1) (x2) (x3) (h : s.mem.wf = true) :
    resCanonical (State.ioStore s x1 x2 x3) := by
  unfold State.ioStore
  repeat first | with_reducible assumption | (with_reducible intro _) | (with_reducible apply State.addDue_canonical)
               | (with_reducible apply State.released_canonical) | (with_reducible apply State.depart_canonical)
               | (with_reducible apply ownResult_canonical) | (with_reducible apply State.fromPeerWrite_canonical)
               | (with_reducible apply resCanonical_done) | (with_reducible apply resCanonical_fault)
               | (with_reducible apply resCanonical_stall) | dsimp only | split
               | (refine inboundCanonical_done_eq (by assumption) ?_)
               | (refine inboundCanonical_rejected_eq (by assumption) ?_)
               | (refine inboundCanonical_waits_eq (by assumption) ?_)

theorem Res.releasing_canonical (r : Res) (scope loc n) (h : resCanonical r) :
    resCanonical (r.releasing scope loc n) := by
  cases r with
  | done s => exact State.releaseWord_canonical _ _ _ _ h
  | jump s pc => exact h
  | fault s c sub v => exact h
  | trap s t => exact h
  | stop s x => exact h
  | stall s => exact h
  | away s => exact h

theorem State.setQueueCap_canonical (s : State) (x1) (x2) (x3) (h : s.mem.wf = true) :
    (State.setQueueCap s x1 x2 x3).mem.wf = true := by
  unfold State.setQueueCap
  repeat first | with_reducible assumption | (with_reducible intro _) | (with_reducible apply State.modFn_canonical)
               | dsimp only

theorem State.storeAt_canonical (s : State) (x1) (x2) (x3) (x4) (h : s.mem.wf = true) :
    resCanonical (State.storeAt s x1 x2 x3 x4) := by
  unfold State.storeAt
  repeat first | with_reducible assumption | (with_reducible intro _) | (with_reducible apply State.ioOwned_canonical)
               | (with_reducible apply State.setQueueCap_canonical) | (with_reducible apply State.ioStore_canonical)
               | (with_reducible apply State.writeCap_canonical) | (with_reducible apply State.writePlace_canonical)
               | (with_reducible apply resCanonical_done) | (with_reducible apply resCanonical_fault)
               | (with_reducible apply resCanonical_stop) | dsimp only | split | (refine fst_of (by assumption) ?_)

theorem State.storeWhenReady_canonical (s : State) (s1 : State) (x2) (x3) (x4) (x5) (x6) (h1 : s1.mem.wf = true) (h : s.mem.wf = true) :
    resCanonical (State.storeWhenReady s s1 x2 x3 x4 x5 x6) := by
  unfold State.storeWhenReady
  repeat first | with_reducible assumption | (with_reducible intro _) | (with_reducible apply State.storeAt_canonical)
               | (with_reducible apply State.released_canonical) | (with_reducible apply Res.releasing_canonical)
               | dsimp only | split

theorem State.memStore_canonical (s : State) (x1) (x2) (x3) (x4) (x5) (h : s.mem.wf = true) :
    resCanonical (State.memStore s x1 x2 x3 x4 x5) := by
  unfold State.memStore
  repeat first | with_reducible assumption | (with_reducible intro _) | (with_reducible apply State.capAccess_canonical)
               | (with_reducible apply State.storeWhenReady_canonical) | (with_reducible apply resCanonical_fault)
               | (with_reducible apply resCanonical_stop) | (with_reducible apply resCanonical_stall) | dsimp only
               | split | (refine fst_of (by assumption) ?_)

theorem execLdB_canonical (x0) (x1) (x2) (x3) (s : State) (h : s.mem.wf = true) : goesOn (execLdB x0 x1 x2 x3 s) := by
  unfold execLdB
  repeat first | with_reducible assumption | (with_reducible intro _) | (with_reducible apply load_canonical)
               | dsimp only

theorem loadAcq_canonical (x0) (x1) (x2) (x3) (x4) (x5) (x6) (s : State) (h : s.mem.wf = true) :
    goesOn (loadAcq x0 x1 x2 x3 x4 x5 x6 s) := by
  unfold loadAcq
  repeat first | with_reducible assumption | (with_reducible intro _) | (with_reducible apply Form.run_canonical)
               | (with_reducible apply State.memLoad_canonical) | dsimp only

theorem execLdBAcq_canonical (x0) (x1) (x2) (x3) (s : State) (h : s.mem.wf = true) :
    goesOn (execLdBAcq x0 x1 x2 x3 s) := by
  unfold execLdBAcq
  repeat first | with_reducible assumption | (with_reducible intro _) | (with_reducible apply loadAcq_canonical)
               | dsimp only

theorem execLdBu_canonical (x0) (x1) (x2) (x3) (s : State) (h : s.mem.wf = true) : goesOn (execLdBu x0 x1 x2 x3 s) := by
  unfold execLdBu
  repeat first | with_reducible assumption | (with_reducible intro _) | (with_reducible apply load_canonical)
               | dsimp only

theorem execLdBuAcq_canonical (x0) (x1) (x2) (x3) (s : State) (h : s.mem.wf = true) :
    goesOn (execLdBuAcq x0 x1 x2 x3 s) := by
  unfold execLdBuAcq
  repeat first | with_reducible assumption | (with_reducible intro _) | (with_reducible apply loadAcq_canonical)
               | dsimp only

theorem execLdC_canonical (x0) (x1) (x2) (x3) (s : State) (h : s.mem.wf = true) : goesOn (execLdC x0 x1 x2 x3 s) := by
  unfold execLdC
  repeat first | with_reducible assumption | (with_reducible intro _) | (with_reducible apply load_canonical)
               | dsimp only

theorem execLdCAcq_canonical (x0) (x1) (x2) (x3) (s : State) (h : s.mem.wf = true) :
    goesOn (execLdCAcq x0 x1 x2 x3 s) := by
  unfold execLdCAcq
  repeat first | with_reducible assumption | (with_reducible intro _) | (with_reducible apply loadAcq_canonical)
               | dsimp only

theorem execLdD_canonical (x0) (x1) (x2) (x3) (s : State) (h : s.mem.wf = true) : goesOn (execLdD x0 x1 x2 x3 s) := by
  unfold execLdD
  repeat first | with_reducible assumption | (with_reducible intro _) | (with_reducible apply load_canonical)
               | dsimp only

theorem execLdDAcq_canonical (x0) (x1) (x2) (x3) (s : State) (h : s.mem.wf = true) :
    goesOn (execLdDAcq x0 x1 x2 x3 s) := by
  unfold execLdDAcq
  repeat first | with_reducible assumption | (with_reducible intro _) | (with_reducible apply loadAcq_canonical)
               | dsimp only

theorem execLdH_canonical (x0) (x1) (x2) (x3) (s : State) (h : s.mem.wf = true) : goesOn (execLdH x0 x1 x2 x3 s) := by
  unfold execLdH
  repeat first | with_reducible assumption | (with_reducible intro _) | (with_reducible apply load_canonical)
               | dsimp only

theorem execLdHAcq_canonical (x0) (x1) (x2) (x3) (s : State) (h : s.mem.wf = true) :
    goesOn (execLdHAcq x0 x1 x2 x3 s) := by
  unfold execLdHAcq
  repeat first | with_reducible assumption | (with_reducible intro _) | (with_reducible apply loadAcq_canonical)
               | dsimp only

theorem execLdHu_canonical (x0) (x1) (x2) (x3) (s : State) (h : s.mem.wf = true) : goesOn (execLdHu x0 x1 x2 x3 s) := by
  unfold execLdHu
  repeat first | with_reducible assumption | (with_reducible intro _) | (with_reducible apply load_canonical)
               | dsimp only

theorem execLdHuAcq_canonical (x0) (x1) (x2) (x3) (s : State) (h : s.mem.wf = true) :
    goesOn (execLdHuAcq x0 x1 x2 x3 s) := by
  unfold execLdHuAcq
  repeat first | with_reducible assumption | (with_reducible intro _) | (with_reducible apply loadAcq_canonical)
               | dsimp only

theorem execLdW_canonical (x0) (x1) (x2) (x3) (s : State) (h : s.mem.wf = true) : goesOn (execLdW x0 x1 x2 x3 s) := by
  unfold execLdW
  repeat first | with_reducible assumption | (with_reducible intro _) | (with_reducible apply load_canonical)
               | dsimp only

theorem execLdWAcq_canonical (x0) (x1) (x2) (x3) (s : State) (h : s.mem.wf = true) :
    goesOn (execLdWAcq x0 x1 x2 x3 s) := by
  unfold execLdWAcq
  repeat first | with_reducible assumption | (with_reducible intro _) | (with_reducible apply loadAcq_canonical)
               | dsimp only

theorem execLdWu_canonical (x0) (x1) (x2) (x3) (s : State) (h : s.mem.wf = true) : goesOn (execLdWu x0 x1 x2 x3 s) := by
  unfold execLdWu
  repeat first | with_reducible assumption | (with_reducible intro _) | (with_reducible apply load_canonical)
               | dsimp only

theorem execLdWuAcq_canonical (x0) (x1) (x2) (x3) (s : State) (h : s.mem.wf = true) :
    goesOn (execLdWuAcq x0 x1 x2 x3 s) := by
  unfold execLdWuAcq
  repeat first | with_reducible assumption | (with_reducible intro _) | (with_reducible apply loadAcq_canonical)
               | dsimp only

theorem store_canonical (x0) (x1) (x2) (x3) (x4) (x5) (s : State) (h : s.mem.wf = true) :
    goesOn (store x0 x1 x2 x3 x4 x5 s) := by
  unfold store
  repeat first | with_reducible assumption | (with_reducible intro _) | (with_reducible apply Form.run_canonical)
               | (with_reducible apply State.memStore_canonical) | dsimp only

theorem execStB_canonical (x0) (x1) (x2) (x3) (s : State) (h : s.mem.wf = true) : goesOn (execStB x0 x1 x2 x3 s) := by
  unfold execStB
  repeat first | with_reducible assumption | (with_reducible intro _) | (with_reducible apply store_canonical)
               | dsimp only

theorem storeRel_canonical (x0) (x1) (x2) (x3) (x4) (x5) (s : State) (h : s.mem.wf = true) :
    goesOn (storeRel x0 x1 x2 x3 x4 x5 s) := by
  unfold storeRel
  repeat first | with_reducible assumption | (with_reducible intro _) | (with_reducible apply Form.run_canonical)
               | (with_reducible apply State.memStore_canonical) | dsimp only

theorem execStBRel_canonical (x0) (x1) (x2) (x3) (s : State) (h : s.mem.wf = true) :
    goesOn (execStBRel x0 x1 x2 x3 s) := by
  unfold execStBRel
  repeat first | with_reducible assumption | (with_reducible intro _) | (with_reducible apply storeRel_canonical)
               | dsimp only

theorem execStC_canonical (x0) (x1) (x2) (x3) (s : State) (h : s.mem.wf = true) : goesOn (execStC x0 x1 x2 x3 s) := by
  unfold execStC
  repeat first | with_reducible assumption | (with_reducible intro _) | (with_reducible apply store_canonical)
               | dsimp only

theorem execStCRel_canonical (x0) (x1) (x2) (x3) (s : State) (h : s.mem.wf = true) :
    goesOn (execStCRel x0 x1 x2 x3 s) := by
  unfold execStCRel
  repeat first | with_reducible assumption | (with_reducible intro _) | (with_reducible apply storeRel_canonical)
               | dsimp only

theorem execStD_canonical (x0) (x1) (x2) (x3) (s : State) (h : s.mem.wf = true) : goesOn (execStD x0 x1 x2 x3 s) := by
  unfold execStD
  repeat first | with_reducible assumption | (with_reducible intro _) | (with_reducible apply store_canonical)
               | dsimp only

theorem execStDRel_canonical (x0) (x1) (x2) (x3) (s : State) (h : s.mem.wf = true) :
    goesOn (execStDRel x0 x1 x2 x3 s) := by
  unfold execStDRel
  repeat first | with_reducible assumption | (with_reducible intro _) | (with_reducible apply storeRel_canonical)
               | dsimp only

theorem execStH_canonical (x0) (x1) (x2) (x3) (s : State) (h : s.mem.wf = true) : goesOn (execStH x0 x1 x2 x3 s) := by
  unfold execStH
  repeat first | with_reducible assumption | (with_reducible intro _) | (with_reducible apply store_canonical)
               | dsimp only

theorem execStHRel_canonical (x0) (x1) (x2) (x3) (s : State) (h : s.mem.wf = true) :
    goesOn (execStHRel x0 x1 x2 x3 s) := by
  unfold execStHRel
  repeat first | with_reducible assumption | (with_reducible intro _) | (with_reducible apply storeRel_canonical)
               | dsimp only

theorem execStW_canonical (x0) (x1) (x2) (x3) (s : State) (h : s.mem.wf = true) : goesOn (execStW x0 x1 x2 x3 s) := by
  unfold execStW
  repeat first | with_reducible assumption | (with_reducible intro _) | (with_reducible apply store_canonical)
               | dsimp only

theorem execStWRel_canonical (x0) (x1) (x2) (x3) (s : State) (h : s.mem.wf = true) :
    goesOn (execStWRel x0 x1 x2 x3 s) := by
  unfold execStWRel
  repeat first | with_reducible assumption | (with_reducible intro _) | (with_reducible apply storeRel_canonical)
               | dsimp only

theorem State.askSettle_canonical (s : State) (h : s.mem.wf = true) : (State.askSettle s).mem.wf = true := by
  unfold State.askSettle
  repeat first | with_reducible assumption | (with_reducible intro _) | (with_reducible apply State.addAgenda_canonical)
               | dsimp only | split

theorem State.atomicAt_canonical (s : State) (x1) (x2) (x3) (x4) (x5) (x6) (x7) (h : s.mem.wf = true) :
    resCanonical (State.atomicAt s x1 x2 x3 x4 x5 x6 x7) := by
  unfold State.atomicAt
  repeat first | with_reducible assumption | (with_reducible intro _) | (with_reducible apply State.ioOwned_canonical)
               | (with_reducible apply State.ioAtomic_canonical) | (with_reducible apply State.atHome_canonical)
               | (with_reducible apply State.setX_canonical) | (with_reducible apply State.releaseWord_canonical)
               | (with_reducible apply State.acquire_canonical) | (with_reducible apply resCanonical_done)
               | (with_reducible apply resCanonical_stop) | dsimp only | split | (refine fst_of (by assumption) ?_)

theorem State.fenced_canonical (s : State) (x1) (h : s.mem.wf = true) : (State.fenced s x1).mem.wf = true := by
  unfold State.fenced
  repeat first | with_reducible assumption | (with_reducible intro _) | (with_reducible apply State.modCur_canonical)
               | (with_reducible apply State.fenceRelease_canonical) | dsimp only

theorem State.memAtomic_canonical (s : State) (x1) (x2) (x3) (x4) (x5) (x6) (h : s.mem.wf = true) :
    resCanonical (State.memAtomic s x1 x2 x3 x4 x5 x6) := by
  unfold State.memAtomic
  repeat first | with_reducible assumption | (with_reducible intro _) | (with_reducible apply State.capAccess_canonical)
               | (with_reducible apply State.released_canonical) | (with_reducible apply State.atomicAt_canonical)
               | (with_reducible apply resCanonical_fault) | (with_reducible apply resCanonical_stop)
               | (with_reducible apply resCanonical_stall) | dsimp only | split | (refine fst_of (by assumption) ?_)

theorem State.prefetch_canonical (s : State) (x1) (h : s.mem.wf = true) : (State.prefetch s x1).mem.wf = true := by
  unfold State.prefetch
  repeat first | with_reducible assumption | (with_reducible intro _) | (with_reducible apply State.capAccess_canonical)
               | (with_reducible apply State.noteLoad_canonical) | dsimp only | split
               | (refine fst_of (by assumption) ?_)

theorem amo_canonical (x0) (x1) (x2) (x3) (x4) (x5) (x6) (s : State) (h : s.mem.wf = true) :
    goesOn (amo x0 x1 x2 x3 x4 x5 x6 s) := by
  unfold amo
  repeat first | with_reducible assumption | (with_reducible intro _) | (with_reducible apply Form.run_canonical)
               | (with_reducible apply State.memAtomic_canonical) | dsimp only | split

theorem cacheOp_canonical (x0) (x1) (x2) (x3) (s : State) (h : s.mem.wf = true) : goesOn (cacheOp x0 x1 x2 x3 s) := by
  unfold cacheOp
  repeat first | with_reducible assumption | (with_reducible intro _) | (with_reducible apply Form.run_canonical)
               | (with_reducible apply State.capAccess_canonical) | (with_reducible apply State.arrive_canonical)
               | (with_reducible apply State.cleanL1_canonical) | (with_reducible apply State.performAt_canonical)
               | (with_reducible apply resCanonical_done) | (with_reducible apply resCanonical_stop) | dsimp only
               | split | (refine fst_of (by assumption) ?_)

theorem execAmoAdd_canonical (x0) (x1) (x2) (x3) (x4) (s : State) (h : s.mem.wf = true) :
    goesOn (execAmoAdd x0 x1 x2 x3 x4 s) := by
  unfold execAmoAdd
  repeat first | with_reducible assumption | (with_reducible intro _) | (with_reducible apply amo_canonical)
               | dsimp only

theorem execAmoAnd_canonical (x0) (x1) (x2) (x3) (x4) (s : State) (h : s.mem.wf = true) :
    goesOn (execAmoAnd x0 x1 x2 x3 x4 s) := by
  unfold execAmoAnd
  repeat first | with_reducible assumption | (with_reducible intro _) | (with_reducible apply amo_canonical)
               | dsimp only

theorem execAmoCas_canonical (x0) (x1) (x2) (x3) (x4) (s : State) (h : s.mem.wf = true) :
    goesOn (execAmoCas x0 x1 x2 x3 x4 s) := by
  unfold execAmoCas
  repeat first | with_reducible assumption | (with_reducible intro _) | (with_reducible apply amo_canonical)
               | dsimp only

theorem execAmoMax_canonical (x0) (x1) (x2) (x3) (x4) (s : State) (h : s.mem.wf = true) :
    goesOn (execAmoMax x0 x1 x2 x3 x4 s) := by
  unfold execAmoMax
  repeat first | with_reducible assumption | (with_reducible intro _) | (with_reducible apply amo_canonical)
               | dsimp only

theorem execAmoMin_canonical (x0) (x1) (x2) (x3) (x4) (s : State) (h : s.mem.wf = true) :
    goesOn (execAmoMin x0 x1 x2 x3 x4 s) := by
  unfold execAmoMin
  repeat first | with_reducible assumption | (with_reducible intro _) | (with_reducible apply amo_canonical)
               | dsimp only

theorem execAmoOr_canonical (x0) (x1) (x2) (x3) (x4) (s : State) (h : s.mem.wf = true) :
    goesOn (execAmoOr x0 x1 x2 x3 x4 s) := by
  unfold execAmoOr
  repeat first | with_reducible assumption | (with_reducible intro _) | (with_reducible apply amo_canonical)
               | dsimp only

theorem execAmoSwp_canonical (x0) (x1) (x2) (x3) (x4) (s : State) (h : s.mem.wf = true) :
    goesOn (execAmoSwp x0 x1 x2 x3 x4 s) := by
  unfold execAmoSwp
  repeat first | with_reducible assumption | (with_reducible intro _) | (with_reducible apply amo_canonical)
               | dsimp only

theorem execAmoXor_canonical (x0) (x1) (x2) (x3) (x4) (s : State) (h : s.mem.wf = true) :
    goesOn (execAmoXor x0 x1 x2 x3 x4 s) := by
  unfold execAmoXor
  repeat first | with_reducible assumption | (with_reducible intro _) | (with_reducible apply amo_canonical)
               | dsimp only

theorem execDcFlush_canonical (x0) (x1) (s : State) (h : s.mem.wf = true) : goesOn (execDcFlush x0 x1 s) := by
  unfold execDcFlush
  repeat first | with_reducible assumption | (with_reducible intro _) | (with_reducible apply cacheOp_canonical)
               | dsimp only

theorem execDcInv_canonical (x0) (x1) (s : State) (h : s.mem.wf = true) : goesOn (execDcInv x0 x1 s) := by
  unfold execDcInv
  repeat first | with_reducible assumption | (with_reducible intro _) | (with_reducible apply cacheOp_canonical)
               | dsimp only

theorem execDcPf_canonical (x0) (x1) (s : State) (h : s.mem.wf = true) : goesOn (execDcPf x0 x1 s) := by
  unfold execDcPf
  repeat first | with_reducible assumption | (with_reducible intro _) | (with_reducible apply Form.run_canonical)
               | (with_reducible apply State.prefetch_canonical) | (with_reducible apply resCanonical_done) | dsimp only

theorem execDcWb_canonical (x0) (x1) (s : State) (h : s.mem.wf = true) : goesOn (execDcWb x0 x1 s) := by
  unfold execDcWb
  repeat first | with_reducible assumption | (with_reducible intro _) | (with_reducible apply cacheOp_canonical)
               | dsimp only

theorem execFence_canonical (x0) (x1) (s : State) (h : s.mem.wf = true) : goesOn (execFence x0 x1 s) := by
  unfold execFence
  repeat first | with_reducible assumption | (with_reducible intro _) | (with_reducible apply Form.run_canonical)
               | (with_reducible apply State.fenceAcquire_canonical) | (with_reducible apply State.released_canonical)
               | (with_reducible apply State.fenced_canonical) | (with_reducible apply resCanonical_done) | dsimp only

theorem execFenceSc_canonical (x0) (s : State) (h : s.mem.wf = true) : goesOn (execFenceSc x0 s) := by
  unfold execFenceSc
  repeat first | with_reducible assumption | (with_reducible intro _) | (with_reducible apply Form.run_canonical)
               | (with_reducible apply State.fenceAcquire_canonical) | (with_reducible apply State.released_canonical)
               | (with_reducible apply State.fenced_canonical) | (with_reducible apply State.leaveSettle_canonical)
               | (with_reducible apply State.askSettle_canonical) | (with_reducible apply resCanonical_done)
               | (with_reducible apply resCanonical_stall) | dsimp only | split

theorem State.vecAlloc_canonical (s : State) (x1) (h : s.mem.wf = true) : (State.vecAlloc s x1).1.mem.wf = true := by
  induction x1 generalizing s with
  | nil =>
    unfold State.vecAlloc
    repeat first | with_reducible assumption | (with_reducible intro _)
                 | (with_reducible apply State.allocLine_canonical) | dsimp only | split
                 | (refine fst_of (by assumption) ?_)
  | cons a l ih =>
    unfold State.vecAlloc
    repeat first | with_reducible assumption | (with_reducible intro _) | (with_reducible apply ih)
                 | (with_reducible apply State.allocLine_canonical) | dsimp only | split
                 | (refine fst_of (by assumption) ?_)

theorem State.vecPlaces_canonical (s : State) (x1) (x2) (x3) (x4) (x5) (h : s.mem.wf = true) :
    (State.vecPlaces s x1 x2 x3 x4 x5).1.mem.wf = true := by
  induction x5 generalizing s x4 with
  | nil =>
    unfold State.vecPlaces
    repeat first | with_reducible assumption | (with_reducible intro _) | (with_reducible apply translate_canonical)
                 | dsimp only | split | (refine fst_of (by assumption) ?_)
  | cons a l ih =>
    unfold State.vecPlaces
    repeat first | with_reducible assumption | (with_reducible intro _) | (with_reducible apply ih)
                 | (with_reducible apply translate_canonical) | dsimp only | split | (refine fst_of (by assumption) ?_)

theorem State.vecCheck_canonical (s : State) (x1) (x2) (x3) (x4) (x5) (x6) (h : s.mem.wf = true) :
    (State.vecCheck s x1 x2 x3 x4 x5 x6).1.mem.wf = true := by
  unfold State.vecCheck
  repeat first | with_reducible assumption | (with_reducible intro _)
               | (with_reducible apply State.registerError_canonical) | (with_reducible apply State.vecPlaces_canonical)
               | dsimp only | split | (refine fst_of (by assumption) ?_)

theorem State.vecRead_canonical (s : State) (x1) (x2) (h : s.mem.wf = true) :
    (State.vecRead s x1 x2).1.mem.wf = true := by
  unfold State.vecRead
  repeat first | with_reducible assumption | (with_reducible intro _)
               | (with_reducible apply State.readPlaces_canonical) | dsimp only | split
               | (refine fst_of (by assumption) ?_)

theorem State.vecLoad_canonical (s : State) (x1) (x2) (x3) (x4) (x5) (h : s.mem.wf = true) :
    resCanonical (State.vecLoad s x1 x2 x3 x4 x5) := by
  unfold State.vecLoad
  repeat first | with_reducible assumption | (with_reducible intro _) | (with_reducible apply State.vecCheck_canonical)
               | (with_reducible apply State.vecRead_canonical) | (with_reducible apply State.setV_canonical)
               | (with_reducible apply resCanonical_done) | (with_reducible apply resCanonical_stop)
               | (with_reducible apply resCanonical_stall) | dsimp only | split | (refine fst_of (by assumption) ?_)

theorem State.vecPut_canonical (s : State) (x1) (x2) (x3) (h : s.mem.wf = true) :
    (State.vecPut s x1 x2 x3).mem.wf = true := by
  unfold State.vecPut
  repeat first | with_reducible assumption | (with_reducible intro _) | (with_reducible apply State.putBytes_canonical)
               | (with_reducible apply foldl_canonical) | dsimp only

theorem State.vecWrite_canonical (s : State) (x1) (x2) (x3) (h : s.mem.wf = true) :
    (State.vecWrite s x1 x2 x3).mem.wf = true := by
  unfold State.vecWrite
  repeat first | with_reducible assumption | (with_reducible intro _) | (with_reducible apply State.performAt_canonical)
               | (with_reducible apply State.dropFar_canonical) | (with_reducible apply State.noteStore_canonical)
               | (with_reducible apply State.addEarly_canonical) | (with_reducible apply State.noteWrite_canonical)
               | (with_reducible apply State.vecPut_canonical) | (with_reducible apply foldl_canonical) | dsimp only
               | split

theorem State.vecStore_canonical (s : State) (x1) (x2) (x3) (x4) (x5) (h : s.mem.wf = true) :
    resCanonical (State.vecStore s x1 x2 x3 x4 x5) := by
  unfold State.vecStore
  repeat first | with_reducible assumption | (with_reducible intro _) | (with_reducible apply State.vecCheck_canonical)
               | (with_reducible apply State.arriveAll_canonical) | (with_reducible apply State.vecAlloc_canonical)
               | (with_reducible apply State.vecWrite_canonical) | (with_reducible apply resCanonical_done)
               | (with_reducible apply resCanonical_stop) | (with_reducible apply resCanonical_stall) | dsimp only
               | split | (refine fst_of (by assumption) ?_)

theorem State.withIndex_canonical (s : State) (x1) (x2) (x3) (h3 : resCanonical x3) (h : s.mem.wf = true) :
    resCanonical (State.withIndex s x1 x2 x3) := by
  unfold State.withIndex
  repeat first | with_reducible assumption | (with_reducible intro _)
               | (with_reducible apply State.registerError_canonical) | (with_reducible apply resCanonical_fault)
               | dsimp only | split

theorem execVgat_canonical (x0) (x1) (x2) (x3) (x4) (s : State) (h : s.mem.wf = true) :
    goesOn (execVgat x0 x1 x2 x3 x4 s) := by
  unfold execVgat
  repeat first | with_reducible assumption | (with_reducible intro _) | (with_reducible apply Form.run_canonical)
               | (with_reducible apply State.vecLoad_canonical) | dsimp only

theorem execVld_canonical (x0) (x1) (x2) (x3) (x4) (s : State) (h : s.mem.wf = true) :
    goesOn (execVld x0 x1 x2 x3 x4 s) := by
  unfold execVld
  repeat first | with_reducible assumption | (with_reducible intro _) | (with_reducible apply Form.run_canonical)
               | (with_reducible apply State.withIndex_canonical) | (with_reducible apply State.vecLoad_canonical)
               | dsimp only

theorem execVldb_canonical (x0) (x1) (x2) (x3) (x4) (s : State) (h : s.mem.wf = true) :
    goesOn (execVldb x0 x1 x2 x3 x4 s) := by
  unfold execVldb
  repeat first | with_reducible assumption | (with_reducible intro _) | (with_reducible apply Form.run_canonical)
               | (with_reducible apply State.withIndex_canonical) | (with_reducible apply State.vecLoad_canonical)
               | dsimp only

theorem execVlds_canonical (x0) (x1) (x2) (x3) (x4) (s : State) (h : s.mem.wf = true) :
    goesOn (execVlds x0 x1 x2 x3 x4 s) := by
  unfold execVlds
  repeat first | with_reducible assumption | (with_reducible intro _) | (with_reducible apply Form.run_canonical)
               | (with_reducible apply State.withIndex_canonical) | (with_reducible apply State.vecLoad_canonical)
               | dsimp only

theorem execVsct_canonical (x0) (x1) (x2) (x3) (x4) (s : State) (h : s.mem.wf = true) :
    goesOn (execVsct x0 x1 x2 x3 x4 s) := by
  unfold execVsct
  repeat first | with_reducible assumption | (with_reducible intro _) | (with_reducible apply Form.run_canonical)
               | (with_reducible apply State.vecStore_canonical) | dsimp only

theorem execVst_canonical (x0) (x1) (x2) (x3) (x4) (s : State) (h : s.mem.wf = true) :
    goesOn (execVst x0 x1 x2 x3 x4 s) := by
  unfold execVst
  repeat first | with_reducible assumption | (with_reducible intro _) | (with_reducible apply Form.run_canonical)
               | (with_reducible apply State.withIndex_canonical) | (with_reducible apply State.vecStore_canonical)
               | dsimp only

theorem execVsts_canonical (x0) (x1) (x2) (x3) (x4) (s : State) (h : s.mem.wf = true) :
    goesOn (execVsts x0 x1 x2 x3 x4 s) := by
  unfold execVsts
  repeat first | with_reducible assumption | (with_reducible intro _) | (with_reducible apply Form.run_canonical)
               | (with_reducible apply State.withIndex_canonical) | (with_reducible apply State.vecStore_canonical)
               | dsimp only

theorem maskOp_canonical (x0) (x1) (x2) (x3) (x4) (x5) (x6) (s : State) (h : s.mem.wf = true) :
    goesOn (maskOp x0 x1 x2 x3 x4 x5 x6 s) := by
  unfold maskOp
  repeat first | with_reducible assumption | (with_reducible intro _) | (with_reducible apply Form.run_canonical)
               | (with_reducible apply State.setM_canonical) | (with_reducible apply resCanonical_done) | dsimp only
               | split

theorem execMand_canonical (x0) (x1) (x2) (x3) (x4) (s : State) (h : s.mem.wf = true) :
    goesOn (execMand x0 x1 x2 x3 x4 s) := by
  unfold execMand
  repeat first | with_reducible assumption | (with_reducible intro _) | (with_reducible apply maskOp_canonical)
               | dsimp only

theorem execMor_canonical (x0) (x1) (x2) (x3) (x4) (s : State) (h : s.mem.wf = true) :
    goesOn (execMor x0 x1 x2 x3 x4 s) := by
  unfold execMor
  repeat first | with_reducible assumption | (with_reducible intro _) | (with_reducible apply maskOp_canonical)
               | dsimp only | split

theorem execMpop_canonical (x0) (x1) (x2) (x3) (x4) (s : State) (h : s.mem.wf = true) :
    goesOn (execMpop x0 x1 x2 x3 x4 s) := by
  unfold execMpop
  repeat first | with_reducible assumption | (with_reducible intro _) | (with_reducible apply Form.run_canonical)
               | (with_reducible apply State.setX_canonical) | (with_reducible apply resCanonical_done) | dsimp only

theorem execMxor_canonical (x0) (x1) (x2) (x3) (x4) (s : State) (h : s.mem.wf = true) :
    goesOn (execMxor x0 x1 x2 x3 x4 s) := by
  unfold execMxor
  repeat first | with_reducible assumption | (with_reducible intro _) | (with_reducible apply maskOp_canonical)
               | dsimp only

theorem vbinary_canonical (x0) (x1) (x2) (x3) (x4) (x5) (x6) (x7) (s : State) (h : s.mem.wf = true) :
    goesOn (vbinary x0 x1 x2 x3 x4 x5 x6 x7 s) := by
  unfold vbinary
  repeat first | with_reducible assumption | (with_reducible intro _) | (with_reducible apply Form.run_canonical)
               | (with_reducible apply State.setV_canonical) | (with_reducible apply resCanonical_done) | dsimp only

theorem execVadd_canonical (x0) (x1) (x2) (x3) (x4) (x5) (s : State) (h : s.mem.wf = true) :
    goesOn (execVadd x0 x1 x2 x3 x4 x5 s) := by
  unfold execVadd
  repeat first | with_reducible assumption | (with_reducible intro _) | (with_reducible apply vbinary_canonical)
               | dsimp only

theorem execVand_canonical (x0) (x1) (x2) (x3) (x4) (x5) (s : State) (h : s.mem.wf = true) :
    goesOn (execVand x0 x1 x2 x3 x4 x5 s) := by
  unfold execVand
  repeat first | with_reducible assumption | (with_reducible intro _) | (with_reducible apply vbinary_canonical)
               | dsimp only

theorem execVbc_canonical (x0) (x1) (x2) (x3) (x4) (s : State) (h : s.mem.wf = true) :
    goesOn (execVbc x0 x1 x2 x3 x4 s) := by
  unfold execVbc
  repeat first | with_reducible assumption | (with_reducible intro _) | (with_reducible apply Form.run_canonical)
               | (with_reducible apply State.setV_canonical) | (with_reducible apply resCanonical_done) | dsimp only

theorem execVcmp_canonical (x0) (x1) (x2) (x3) (x4) (x5) (x6) (s : State) (h : s.mem.wf = true) :
    goesOn (execVcmp x0 x1 x2 x3 x4 x5 x6 s) := by
  unfold execVcmp
  repeat first | with_reducible assumption | (with_reducible intro _) | (with_reducible apply Form.run_canonical)
               | (with_reducible apply State.setM_canonical) | (with_reducible apply resCanonical_done) | dsimp only

theorem execVext_canonical (x0) (x1) (x2) (x3) (x4) (s : State) (h : s.mem.wf = true) :
    goesOn (execVext x0 x1 x2 x3 x4 s) := by
  unfold execVext
  repeat first | with_reducible assumption | (with_reducible intro _) | (with_reducible apply Form.run_canonical)
               | (with_reducible apply State.setX_canonical) | (with_reducible apply resCanonical_done) | dsimp only

theorem execVins_canonical (x0) (x1) (x2) (x3) (x4) (s : State) (h : s.mem.wf = true) :
    goesOn (execVins x0 x1 x2 x3 x4 s) := by
  unfold execVins
  repeat first | with_reducible assumption | (with_reducible intro _) | (with_reducible apply Form.run_canonical)
               | (with_reducible apply State.setV_canonical) | (with_reducible apply resCanonical_done) | dsimp only

theorem execVmax_canonical (x0) (x1) (x2) (x3) (x4) (x5) (s : State) (h : s.mem.wf = true) :
    goesOn (execVmax x0 x1 x2 x3 x4 x5 s) := by
  unfold execVmax
  repeat first | with_reducible assumption | (with_reducible intro _) | (with_reducible apply vbinary_canonical)
               | dsimp only | split

theorem execVmin_canonical (x0) (x1) (x2) (x3) (x4) (x5) (s : State) (h : s.mem.wf = true) :
    goesOn (execVmin x0 x1 x2 x3 x4 x5 s) := by
  unfold execVmin
  repeat first | with_reducible assumption | (with_reducible intro _) | (with_reducible apply vbinary_canonical)
               | dsimp only | split

theorem execVmul_canonical (x0) (x1) (x2) (x3) (x4) (x5) (s : State) (h : s.mem.wf = true) :
    goesOn (execVmul x0 x1 x2 x3 x4 x5 s) := by
  unfold execVmul
  repeat first | with_reducible assumption | (with_reducible intro _) | (with_reducible apply vbinary_canonical)
               | dsimp only

theorem execVmulh_canonical (x0) (x1) (x2) (x3) (x4) (x5) (s : State) (h : s.mem.wf = true) :
    goesOn (execVmulh x0 x1 x2 x3 x4 x5 s) := by
  unfold execVmulh
  repeat first | with_reducible assumption | (with_reducible intro _) | (with_reducible apply vbinary_canonical)
               | dsimp only

theorem execVor_canonical (x0) (x1) (x2) (x3) (x4) (x5) (s : State) (h : s.mem.wf = true) :
    goesOn (execVor x0 x1 x2 x3 x4 x5 s) := by
  unfold execVor
  repeat first | with_reducible assumption | (with_reducible intro _) | (with_reducible apply vbinary_canonical)
               | dsimp only | split

theorem execVperm_canonical (x0) (x1) (x2) (x3) (x4) (x5) (s : State) (h : s.mem.wf = true) :
    goesOn (execVperm x0 x1 x2 x3 x4 x5 s) := by
  unfold execVperm
  repeat first | with_reducible assumption | (with_reducible intro _) | (with_reducible apply Form.run_canonical)
               | (with_reducible apply State.setV_canonical) | (with_reducible apply resCanonical_done) | dsimp only

theorem vreduce_canonical (x0) (x1) (x2) (x3) (x4) (x5) (x6) (s : State) (h : s.mem.wf = true) :
    goesOn (vreduce x0 x1 x2 x3 x4 x5 x6 s) := by
  unfold vreduce
  repeat first | with_reducible assumption | (with_reducible intro _) | (with_reducible apply Form.run_canonical)
               | (with_reducible apply State.setV_canonical) | (with_reducible apply resCanonical_done) | dsimp only

theorem execVredadd_canonical (x0) (x1) (x2) (x3) (x4) (s : State) (h : s.mem.wf = true) :
    goesOn (execVredadd x0 x1 x2 x3 x4 s) := by
  unfold execVredadd
  repeat first | with_reducible assumption | (with_reducible intro _) | (with_reducible apply vreduce_canonical)
               | (with_reducible apply foldl_canonical) | dsimp only

theorem execVredmax_canonical (x0) (x1) (x2) (x3) (x4) (s : State) (h : s.mem.wf = true) :
    goesOn (execVredmax x0 x1 x2 x3 x4 s) := by
  unfold execVredmax
  repeat first | with_reducible assumption | (with_reducible intro _) | (with_reducible apply vreduce_canonical)
               | (with_reducible apply foldl_canonical) | dsimp only | split

theorem execVredmin_canonical (x0) (x1) (x2) (x3) (x4) (s : State) (h : s.mem.wf = true) :
    goesOn (execVredmin x0 x1 x2 x3 x4 s) := by
  unfold execVredmin
  repeat first | with_reducible assumption | (with_reducible intro _) | (with_reducible apply vreduce_canonical)
               | (with_reducible apply foldl_canonical) | dsimp only | split

theorem execVsel_canonical (x0) (x1) (x2) (x3) (x4) (s : State) (h : s.mem.wf = true) :
    goesOn (execVsel x0 x1 x2 x3 x4 s) := by
  unfold execVsel
  repeat first | with_reducible assumption | (with_reducible intro _) | (with_reducible apply Form.run_canonical)
               | (with_reducible apply State.setV_canonical) | (with_reducible apply resCanonical_done) | dsimp only

theorem execVshf_canonical (x0) (x1) (x2) (x3) (x4) (x5) (s : State) (h : s.mem.wf = true) :
    goesOn (execVshf x0 x1 x2 x3 x4 x5 s) := by
  unfold execVshf
  repeat first | with_reducible assumption | (with_reducible intro _) | (with_reducible apply Form.run_canonical)
               | (with_reducible apply State.setV_canonical) | (with_reducible apply resCanonical_done) | dsimp only

theorem execVsld_canonical (x0) (x1) (x2) (x3) (x4) (s : State) (h : s.mem.wf = true) :
    goesOn (execVsld x0 x1 x2 x3 x4 s) := by
  unfold execVsld
  repeat first | with_reducible assumption | (with_reducible intro _) | (with_reducible apply Form.run_canonical)
               | (with_reducible apply State.setV_canonical) | (with_reducible apply resCanonical_done) | dsimp only

theorem execVsll_canonical (x0) (x1) (x2) (x3) (x4) (x5) (s : State) (h : s.mem.wf = true) :
    goesOn (execVsll x0 x1 x2 x3 x4 x5 s) := by
  unfold execVsll
  repeat first | with_reducible assumption | (with_reducible intro _) | (with_reducible apply vbinary_canonical)
               | dsimp only

theorem execVsra_canonical (x0) (x1) (x2) (x3) (x4) (x5) (s : State) (h : s.mem.wf = true) :
    goesOn (execVsra x0 x1 x2 x3 x4 x5 s) := by
  unfold execVsra
  repeat first | with_reducible assumption | (with_reducible intro _) | (with_reducible apply vbinary_canonical)
               | dsimp only

theorem execVsrl_canonical (x0) (x1) (x2) (x3) (x4) (x5) (s : State) (h : s.mem.wf = true) :
    goesOn (execVsrl x0 x1 x2 x3 x4 x5 s) := by
  unfold execVsrl
  repeat first | with_reducible assumption | (with_reducible intro _) | (with_reducible apply vbinary_canonical)
               | dsimp only

theorem execVsub_canonical (x0) (x1) (x2) (x3) (x4) (x5) (s : State) (h : s.mem.wf = true) :
    goesOn (execVsub x0 x1 x2 x3 x4 x5 s) := by
  unfold execVsub
  repeat first | with_reducible assumption | (with_reducible intro _) | (with_reducible apply vbinary_canonical)
               | dsimp only

theorem execVuzp_canonical (x0) (x1) (x2) (x3) (x4) (x5) (s : State) (h : s.mem.wf = true) :
    goesOn (execVuzp x0 x1 x2 x3 x4 x5 s) := by
  unfold execVuzp
  repeat first | with_reducible assumption | (with_reducible intro _) | (with_reducible apply Form.run_canonical)
               | (with_reducible apply State.setV_canonical) | (with_reducible apply resCanonical_done) | dsimp only

theorem execVxor_canonical (x0) (x1) (x2) (x3) (x4) (x5) (s : State) (h : s.mem.wf = true) :
    goesOn (execVxor x0 x1 x2 x3 x4 x5 s) := by
  unfold execVxor
  repeat first | with_reducible assumption | (with_reducible intro _) | (with_reducible apply vbinary_canonical)
               | dsimp only

theorem execVzip_canonical (x0) (x1) (x2) (x3) (x4) (x5) (s : State) (h : s.mem.wf = true) :
    goesOn (execVzip x0 x1 x2 x3 x4 x5 s) := by
  unfold execVzip
  repeat first | with_reducible assumption | (with_reducible intro _) | (with_reducible apply Form.run_canonical)
               | (with_reducible apply State.setV_canonical) | (with_reducible apply resCanonical_done) | dsimp only
               | split

theorem vfloat_canonical (x0) (x1) (x2) (x3) (x4) (x5) (x6) (x7) (x8) (s : State) (h : s.mem.wf = true) :
    goesOn (vfloat x0 x1 x2 x3 x4 x5 x6 x7 x8 s) := by
  unfold vfloat
  repeat first | with_reducible assumption | (with_reducible intro _) | (with_reducible apply Form.run_canonical)
               | (with_reducible apply State.setV_canonical) | (with_reducible apply resCanonical_done) | dsimp only

theorem execVfabs_canonical (x0) (x1) (x2) (x3) (x4) (s : State) (h : s.mem.wf = true) :
    goesOn (execVfabs x0 x1 x2 x3 x4 s) := by
  unfold execVfabs
  repeat first | with_reducible assumption | (with_reducible intro _) | (with_reducible apply vfloat_canonical)
               | dsimp only

theorem execVfadd_canonical (x0) (x1) (x2) (x3) (x4) (x5) (s : State) (h : s.mem.wf = true) :
    goesOn (execVfadd x0 x1 x2 x3 x4 x5 s) := by
  unfold execVfadd
  repeat first | with_reducible assumption | (with_reducible intro _) | (with_reducible apply vfloat_canonical)
               | dsimp only

theorem vfreduce_canonical (x0) (x1) (x2) (x3) (x4) (x5) (x6) (s : State) (h : s.mem.wf = true) :
    goesOn (vfreduce x0 x1 x2 x3 x4 x5 x6 s) := by
  unfold vfreduce
  repeat first | with_reducible assumption | (with_reducible intro _) | (with_reducible apply Form.run_canonical)
               | (with_reducible apply State.setV_canonical) | (with_reducible apply resCanonical_done) | dsimp only

theorem execVfamax_canonical (x0) (x1) (x2) (x3) (x4) (s : State) (h : s.mem.wf = true) :
    goesOn (execVfamax x0 x1 x2 x3 x4 s) := by
  unfold execVfamax
  repeat first | with_reducible assumption | (with_reducible intro _) | (with_reducible apply vfreduce_canonical)
               | dsimp only

theorem execVfcmp_canonical (x0) (x1) (x2) (x3) (x4) (x5) (x6) (s : State) (h : s.mem.wf = true) :
    goesOn (execVfcmp x0 x1 x2 x3 x4 x5 x6 s) := by
  unfold execVfcmp
  repeat first | with_reducible assumption | (with_reducible intro _) | (with_reducible apply Form.run_canonical)
               | (with_reducible apply State.setM_canonical) | (with_reducible apply resCanonical_done) | dsimp only

theorem execVfex2_canonical (x0) (x1) (x2) (x3) (x4) (s : State) (h : s.mem.wf = true) :
    goesOn (execVfex2 x0 x1 x2 x3 x4 s) := by
  unfold execVfex2
  repeat first | with_reducible assumption | (with_reducible intro _) | (with_reducible apply vfloat_canonical)
               | dsimp only

theorem execVflg2_canonical (x0) (x1) (x2) (x3) (x4) (s : State) (h : s.mem.wf = true) :
    goesOn (execVflg2 x0 x1 x2 x3 x4 s) := by
  unfold execVflg2
  repeat first | with_reducible assumption | (with_reducible intro _) | (with_reducible apply vfloat_canonical)
               | dsimp only

theorem execVfma_canonical (x0) (x1) (x2) (x3) (x4) (x5) (s : State) (h : s.mem.wf = true) :
    goesOn (execVfma x0 x1 x2 x3 x4 x5 s) := by
  unfold execVfma
  repeat first | with_reducible assumption | (with_reducible intro _) | (with_reducible apply vfloat_canonical)
               | dsimp only

theorem execVfmax_canonical (x0) (x1) (x2) (x3) (x4) (x5) (s : State) (h : s.mem.wf = true) :
    goesOn (execVfmax x0 x1 x2 x3 x4 x5 s) := by
  unfold execVfmax
  repeat first | with_reducible assumption | (with_reducible intro _) | (with_reducible apply vfloat_canonical)
               | dsimp only

theorem execVfmin_canonical (x0) (x1) (x2) (x3) (x4) (x5) (s : State) (h : s.mem.wf = true) :
    goesOn (execVfmin x0 x1 x2 x3 x4 x5 s) := by
  unfold execVfmin
  repeat first | with_reducible assumption | (with_reducible intro _) | (with_reducible apply vfloat_canonical)
               | dsimp only

theorem execVfms_canonical (x0) (x1) (x2) (x3) (x4) (x5) (s : State) (h : s.mem.wf = true) :
    goesOn (execVfms x0 x1 x2 x3 x4 x5 s) := by
  unfold execVfms
  repeat first | with_reducible assumption | (with_reducible intro _) | (with_reducible apply vfloat_canonical)
               | dsimp only

theorem execVfmul_canonical (x0) (x1) (x2) (x3) (x4) (x5) (s : State) (h : s.mem.wf = true) :
    goesOn (execVfmul x0 x1 x2 x3 x4 x5 s) := by
  unfold execVfmul
  repeat first | with_reducible assumption | (with_reducible intro _) | (with_reducible apply vfloat_canonical)
               | dsimp only

theorem execVfnma_canonical (x0) (x1) (x2) (x3) (x4) (x5) (s : State) (h : s.mem.wf = true) :
    goesOn (execVfnma x0 x1 x2 x3 x4 x5 s) := by
  unfold execVfnma
  repeat first | with_reducible assumption | (with_reducible intro _) | (with_reducible apply vfloat_canonical)
               | dsimp only

theorem execVfrcp_canonical (x0) (x1) (x2) (x3) (x4) (s : State) (h : s.mem.wf = true) :
    goesOn (execVfrcp x0 x1 x2 x3 x4 s) := by
  unfold execVfrcp
  repeat first | with_reducible assumption | (with_reducible intro _) | (with_reducible apply vfloat_canonical)
               | dsimp only

theorem execVfredadd_canonical (x0) (x1) (x2) (x3) (x4) (s : State) (h : s.mem.wf = true) :
    goesOn (execVfredadd x0 x1 x2 x3 x4 s) := by
  unfold execVfredadd
  repeat first | with_reducible assumption | (with_reducible intro _) | (with_reducible apply vfreduce_canonical)
               | dsimp only

theorem execVfrsq_canonical (x0) (x1) (x2) (x3) (x4) (s : State) (h : s.mem.wf = true) :
    goesOn (execVfrsq x0 x1 x2 x3 x4 s) := by
  unfold execVfrsq
  repeat first | with_reducible assumption | (with_reducible intro _) | (with_reducible apply vfloat_canonical)
               | dsimp only

theorem execVfsub_canonical (x0) (x1) (x2) (x3) (x4) (x5) (s : State) (h : s.mem.wf = true) :
    goesOn (execVfsub x0 x1 x2 x3 x4 x5 s) := by
  unfold execVfsub
  repeat first | with_reducible assumption | (with_reducible intro _) | (with_reducible apply vfloat_canonical)
               | dsimp only

theorem execFmt_canonical (x0) (x1) (x2) (x3) (x4) (x5) (s : State) (h : s.mem.wf = true) :
    goesOn (execFmt x0 x1 x2 x3 x4 x5 s) := by
  unfold execFmt
  repeat first | with_reducible assumption | (with_reducible intro _) | (with_reducible apply Form.run_canonical)
               | (with_reducible apply State.modCur_canonical) | (with_reducible apply resCanonical_done) | dsimp only

theorem execVcvt_canonical (x0) (x1) (x2) (x3) (x4) (x5) (s : State) (h : s.mem.wf = true) :
    goesOn (execVcvt x0 x1 x2 x3 x4 x5 s) := by
  unfold execVcvt
  repeat first | with_reducible assumption | (with_reducible intro _) | (with_reducible apply Form.run_canonical)
               | (with_reducible apply State.setV_canonical) | (with_reducible apply resCanonical_done) | dsimp only
               | split

theorem execVdqnt_canonical (x0) (x1) (x2) (x3) (x4) (x5) (s : State) (h : s.mem.wf = true) :
    goesOn (execVdqnt x0 x1 x2 x3 x4 x5 s) := by
  unfold execVdqnt
  repeat first | with_reducible assumption | (with_reducible intro _) | (with_reducible apply Form.run_canonical)
               | (with_reducible apply State.setV_canonical) | (with_reducible apply resCanonical_done) | dsimp only
               | split

theorem execVimm_canonical (x0) (x1) (x2) (x3) (s : State) (h : s.mem.wf = true) : goesOn (execVimm x0 x1 x2 x3 s) := by
  unfold execVimm
  repeat first | with_reducible assumption | (with_reducible intro _) | (with_reducible apply Form.run_canonical)
               | (with_reducible apply State.setV_canonical) | (with_reducible apply resCanonical_done) | dsimp only

theorem execVqnt_canonical (x0) (x1) (x2) (x3) (x4) (x5) (s : State) (h : s.mem.wf = true) :
    goesOn (execVqnt x0 x1 x2 x3 x4 x5 s) := by
  unfold execVqnt
  repeat first | with_reducible assumption | (with_reducible intro _) | (with_reducible apply Form.run_canonical)
               | (with_reducible apply State.setV_canonical) | (with_reducible apply State.modCur_canonical)
               | (with_reducible apply resCanonical_done) | (with_reducible apply foldl_canonical) | dsimp only | split

theorem execVscl_canonical (x0) (x1) (x2) (x3) (x4) (x5) (s : State) (h : s.mem.wf = true) :
    goesOn (execVscl x0 x1 x2 x3 x4 x5 s) := by
  unfold execVscl
  repeat first | with_reducible assumption | (with_reducible intro _) | (with_reducible apply Form.run_canonical)
               | (with_reducible apply State.setV_canonical) | (with_reducible apply resCanonical_done) | dsimp only
               | split

theorem execVunpk_canonical (x0) (x1) (x2) (x3) (x4) (x5) (s : State) (h : s.mem.wf = true) :
    goesOn (execVunpk x0 x1 x2 x3 x4 x5 s) := by
  unfold execVunpk
  repeat first | with_reducible assumption | (with_reducible intro _) | (with_reducible apply Form.run_canonical)
               | (with_reducible apply State.setV_canonical) | (with_reducible apply resCanonical_done) | dsimp only
               | split

theorem State.ctrPlace_canonical (s : State) (x1) (x2) (x3) (h : s.mem.wf = true) :
    (State.ctrPlace s x1 x2 x3).1.mem.wf = true := by
  unfold State.ctrPlace
  repeat first | with_reducible assumption | (with_reducible intro _) | (with_reducible apply State.capAccess_canonical)
               | (with_reducible apply State.performAt_canonical) | dsimp only | split
               | (refine fst_of (by assumption) ?_)

theorem State.ctrReads_canonical (s : State) (x1) (x2) (h2 : ∀ u a1, u.mem.wf = true → resCanonical (x2 u a1)) (h : s.mem.wf = true) :
    resCanonical (State.ctrReads s x1 x2) := by
  unfold State.ctrReads
  repeat first | with_reducible assumption | (with_reducible intro _) | (with_reducible apply State.ctrPlace_canonical)
               | (with_reducible apply h2) | (with_reducible apply resCanonical_stop)
               | (with_reducible apply resCanonical_stall) | dsimp only | split | (refine fst_of (by assumption) ?_)

theorem State.ctrWrites_canonical (s : State) (x1) (x2) (x3) (x4) (h4 : ∀ u a1, u.mem.wf = true → resCanonical (x4 u a1)) (h : s.mem.wf = true) :
    resCanonical (State.ctrWrites s x1 x2 x3 x4) := by
  unfold State.ctrWrites
  repeat first | with_reducible assumption | (with_reducible intro _) | (with_reducible apply State.ctrPlace_canonical)
               | (with_reducible apply State.released_canonical) | (with_reducible apply State.releaseWord_canonical)
               | (with_reducible apply h4) | (with_reducible apply resCanonical_fault)
               | (with_reducible apply resCanonical_stop) | (with_reducible apply resCanonical_stall) | dsimp only
               | split | (refine fst_of (by assumption) ?_)

theorem State.setWaited_canonical (s : State) (x1) (x2) (h : s.mem.wf = true) :
    (State.setWaited s x1 x2).mem.wf = true := by
  unfold State.setWaited
  repeat first | with_reducible assumption | (with_reducible intro _) | (with_reducible apply State.setX_canonical)
               | dsimp only

theorem execCtrAdd_canonical (x0) (x1) (x2) (x3) (x4) (s : State) (h : s.mem.wf = true) :
    goesOn (execCtrAdd x0 x1 x2 x3 x4 s) := by
  unfold execCtrAdd
  repeat first | with_reducible assumption | (with_reducible intro _) | (with_reducible apply Form.run_canonical)
               | (with_reducible apply State.ctrWrites_canonical) | (with_reducible apply State.setX_canonical)
               | (with_reducible apply State.counterAdd_canonical) | (with_reducible apply resCanonical_done)
               | dsimp only | (refine snd_of (by assumption) ?_)

theorem execCtrInit_canonical (x0) (x1) (x2) (x3) (x4) (s : State) (h : s.mem.wf = true) :
    goesOn (execCtrInit x0 x1 x2 x3 x4 s) := by
  unfold execCtrInit
  repeat first | with_reducible assumption | (with_reducible intro _) | (with_reducible apply Form.run_canonical)
               | (with_reducible apply State.ctrWrites_canonical) | (with_reducible apply State.setX_canonical)
               | (with_reducible apply State.put64_canonical) | (with_reducible exact goesOn_fault _)
               | (with_reducible apply resCanonical_done) | (with_reducible apply resCanonical_fault) | dsimp only
               | split

theorem execCtrMax_canonical (x0) (x1) (x2) (x3) (x4) (s : State) (h : s.mem.wf = true) :
    goesOn (execCtrMax x0 x1 x2 x3 x4 s) := by
  unfold execCtrMax
  repeat first | with_reducible assumption | (with_reducible intro _) | (with_reducible apply Form.run_canonical)
               | (with_reducible apply State.ctrWrites_canonical) | (with_reducible apply State.setX_canonical)
               | (with_reducible apply State.counterSet_canonical) | (with_reducible apply resCanonical_done)
               | dsimp only

theorem execCtrRead_canonical (x0) (x1) (x2) (s : State) (h : s.mem.wf = true) : goesOn (execCtrRead x0 x1 x2 s) := by
  unfold execCtrRead
  repeat first | with_reducible assumption | (with_reducible intro _) | (with_reducible apply Form.run_canonical)
               | (with_reducible apply State.ctrReads_canonical) | (with_reducible apply State.setX_canonical)
               | (with_reducible apply State.noteRead_canonical) | (with_reducible apply resCanonical_done) | dsimp only

theorem execCtrTest_canonical (x0) (x1) (x2) (x3) (x4) (s : State) (h : s.mem.wf = true) :
    goesOn (execCtrTest x0 x1 x2 x3 x4 s) := by
  unfold execCtrTest
  repeat first | with_reducible assumption | (with_reducible intro _) | (with_reducible apply Form.run_canonical)
               | (with_reducible apply State.ctrReads_canonical) | (with_reducible apply State.setX_canonical)
               | (with_reducible apply State.acquire_canonical) | (with_reducible apply State.noteRead_canonical)
               | (with_reducible apply resCanonical_done) | dsimp only | split

theorem execCtrWait_canonical (x0) (x1) (x2) (x3) (x4) (s : State) (h : s.mem.wf = true) :
    goesOn (execCtrWait x0 x1 x2 x3 x4 s) := by
  unfold execCtrWait
  repeat first | with_reducible assumption | (with_reducible intro _) | (with_reducible apply Form.run_canonical)
               | (with_reducible apply State.ctrReads_canonical) | (with_reducible apply State.setWaited_canonical)
               | (with_reducible apply State.acquire_canonical) | (with_reducible apply State.suspendWait_canonical)
               | (with_reducible apply resCanonical_done) | (with_reducible apply resCanonical_away) | dsimp only
               | split

theorem State.askAdd_canonical (s : State) (x1) (x2) (h : s.mem.wf = true) : (State.askAdd s x1 x2).mem.wf = true := by
  unfold State.askAdd
  repeat first | with_reducible assumption | (with_reducible intro _) | (with_reducible apply State.allPosted_canonical)
               | dsimp only | split | (refine fst_of (by assumption) ?_)

theorem State.beginLaunch_canonical (s : State) (x1) (x2) (x3) (x4) (x5) (h : s.mem.wf = true) :
    (State.beginLaunch s x1 x2 x3 x4 x5).mem.wf = true := by
  unfold State.beginLaunch
  repeat first | with_reducible assumption | (with_reducible intro _) | (with_reducible apply State.readyIf_canonical)
               | (with_reducible apply State.performAdd_canonical) | (with_reducible apply State.addBirths_canonical)
               | (with_reducible apply State.addAgenda_canonical) | (with_reducible apply State.modDie_canonical)
               | dsimp only | split

theorem misuse_canonical (s : State) (x1) (x2) (h : s.mem.wf = true) : resCanonical (misuse s x1 x2) := by
  unfold misuse
  repeat first | with_reducible assumption | (with_reducible intro _) | (with_reducible apply resCanonical_fault)
               | dsimp only

theorem State.openScope_canonical (s : State) (x1) (x2) (x3) (h : s.mem.wf = true) :
    (State.openScope s x1 x2 x3).mem.wf = true := by
  unfold State.openScope
  repeat first | with_reducible assumption | (with_reducible intro _) | (with_reducible apply State.setX_canonical)
               | (with_reducible apply State.addBirths_canonical) | (with_reducible apply State.checkState_canonical)
               | (with_reducible apply State.pinScope_canonical) | (with_reducible apply State.putN_canonical)
               | dsimp only | split

theorem State.openUnder_canonical (s : State) (x1) (x2) (x3) (x4) (h : s.mem.wf = true) :
    resCanonical (State.openUnder s x1 x2 x3 x4) := by
  unfold State.openUnder
  repeat first | with_reducible assumption | (with_reducible intro _)
               | (with_reducible apply State.readPieces_canonical) | (with_reducible apply misuse_canonical)
               | (with_reducible apply State.openScope_canonical) | (with_reducible apply resCanonical_done)
               | (with_reducible apply resCanonical_fault) | (with_reducible apply resCanonical_stop)
               | (with_reducible apply resCanonical_stall) | dsimp only | split | (refine fst_of (by assumption) ?_)

theorem State.openRoot_canonical (s : State) (x1) (x2) (x3) (h : s.mem.wf = true) :
    resCanonical (State.openRoot s x1 x2 x3) := by
  unfold State.openRoot
  repeat first | with_reducible assumption | (with_reducible intro _) | (with_reducible apply misuse_canonical)
               | (with_reducible apply State.openUnder_canonical) | (with_reducible apply resCanonical_fault)
               | dsimp only | split

theorem State.readHeader_canonical (s : State) (x1) (h : s.mem.wf = true) :
    canonicalIn (State.readHeader s x1) Prod.fst := by
  unfold State.readHeader
  repeat first | with_reducible assumption | (with_reducible intro _)
               | (with_reducible apply State.readPieces_canonical) | (with_reducible apply translate_canonical)
               | (with_reducible exact canonicalIn_none _) | (with_reducible apply canonicalIn_some) | dsimp only
               | split | (refine fst_of (by assumption) ?_)
theorem State.readHeader_canonical_eq {s s' : State} {x1} {r} (e : State.readHeader s x1 = some (s', r)) (h : s.mem.wf = true) :
    s'.mem.wf = true := State.readHeader_canonical s x1 h _ e

theorem State.recordPlace_canonical (s : State) (x1) (h : s.mem.wf = true) :
    (State.recordPlace s x1).1.mem.wf = true := by
  unfold State.recordPlace
  repeat first | with_reducible assumption | (with_reducible intro _) | (with_reducible apply State.capAccess_canonical)
               | (with_reducible apply translate_canonical) | (with_reducible apply State.performAt_canonical)
               | dsimp only | split | (refine fst_of (by assumption) ?_)

theorem State.spawn_canonical (s : State) (x1) (x2) (x3) (x4) (h : s.mem.wf = true) :
    (State.spawn s x1 x2 x3 x4).mem.wf = true := by
  unfold State.spawn
  repeat first | with_reducible assumption | (with_reducible intro _) | (with_reducible apply State.addBirths_canonical)
               | (with_reducible apply State.put64_canonical) | (with_reducible apply State.putN_canonical)
               | (with_reducible apply State.setX_canonical) | (with_reducible apply State.pushBottom_canonical)
               | dsimp only

theorem State.withScope_canonical (s : State) (x1) (x2) (h2 : ∀ u a1 a2, u.mem.wf = true → resCanonical (x2 u a1 a2)) (h : s.mem.wf = true) :
    resCanonical (State.withScope s x1 x2) := by
  unfold State.withScope
  repeat first | with_reducible assumption | (with_reducible intro _) | (with_reducible apply misuse_canonical)
               | (with_reducible apply State.checkState_canonical) | (with_reducible apply h2)
               | (with_reducible apply resCanonical_fault) | dsimp only | split

theorem State.withSubtree_canonical (s : State) (x1) (x2) (h2 : ∀ u a1 a2, u.mem.wf = true → resCanonical (x2 u a1 a2)) (h : s.mem.wf = true) :
    resCanonical (State.withSubtree s x1 x2) := by
  unfold State.withSubtree
  repeat first | with_reducible assumption | (with_reducible intro _) | (with_reducible apply State.withScope_canonical)
               | (with_reducible apply State.checkAll_canonical) | (with_reducible apply misuse_canonical)
               | (with_reducible apply h2) | dsimp only | split

theorem State.withTable_canonical (s : State) (x1) (h1 : ∀ u, u.mem.wf = true → resCanonical (x1 u)) (h : s.mem.wf = true) :
    resCanonical (State.withTable s x1) := by
  unfold State.withTable
  repeat first | with_reducible assumption | (with_reducible intro _) | (with_reducible apply misuse_canonical)
               | (with_reducible apply h1) | dsimp only | split

theorem execScoCancel_canonical (x0) (x1) (s : State) (h : s.mem.wf = true) : goesOn (execScoCancel x0 x1 s) := by
  unfold execScoCancel
  repeat first | with_reducible assumption | (with_reducible intro _) | (with_reducible apply Form.run_canonical)
               | (with_reducible apply State.withSubtree_canonical) | (with_reducible apply State.released_canonical)
               | (with_reducible apply State.broadcast_canonical) | (with_reducible apply State.pinScope_canonical)
               | (with_reducible apply resCanonical_done) | dsimp only

theorem execScoId_canonical (x0) (x1) (s : State) (h : s.mem.wf = true) : goesOn (execScoId x0 x1 s) := by
  unfold execScoId
  repeat first | with_reducible assumption | (with_reducible intro _) | (with_reducible apply Form.run_canonical)
               | (with_reducible apply State.withTable_canonical) | (with_reducible apply State.setX_canonical)
               | (with_reducible apply resCanonical_done) | dsimp only

theorem execScoLaunch_canonical (x0) (x1) (x2) (x3) (s : State) (h : s.mem.wf = true) :
    goesOn (execScoLaunch x0 x1 x2 x3 s) := by
  unfold execScoLaunch
  repeat first | with_reducible assumption | (with_reducible intro _) | (with_reducible apply Form.run_canonical)
               | (with_reducible apply State.withSubtree_canonical) | (with_reducible apply State.readHeader_canonical)
               | (with_reducible apply State.setX_canonical) | (with_reducible apply State.askAdd_canonical)
               | (with_reducible apply State.released_canonical) | (with_reducible apply State.beginLaunch_canonical)
               | (with_reducible apply resCanonical_done) | (with_reducible apply resCanonical_stop)
               | (with_reducible apply resCanonical_stall) | dsimp only | split
               | (refine State.readHeader_canonical_eq (by assumption) ?_)

theorem execScoOpen_canonical (x0) (x1) (x2) (x3) (s : State) (h : s.mem.wf = true) :
    goesOn (execScoOpen x0 x1 x2 x3 s) := by
  unfold execScoOpen
  repeat first | with_reducible assumption | (with_reducible intro _) | (with_reducible apply Form.run_canonical)
               | (with_reducible apply State.openRoot_canonical) | (with_reducible apply State.withSubtree_canonical)
               | (with_reducible apply State.openUnder_canonical) | dsimp only | split

theorem execScoPoll_canonical (x0) (x1) (s : State) (h : s.mem.wf = true) : goesOn (execScoPoll x0 x1 s) := by
  unfold execScoPoll
  repeat first | with_reducible assumption | (with_reducible intro _) | (with_reducible apply Form.run_canonical)
               | (with_reducible apply State.withTable_canonical) | (with_reducible apply State.setX_canonical)
               | (with_reducible apply resCanonical_done) | dsimp only | split

theorem execScoShield_canonical (x0) (s : State) (h : s.mem.wf = true) : goesOn (execScoShield x0 s) := by
  unfold execScoShield
  repeat first | with_reducible assumption | (with_reducible intro _) | (with_reducible apply Form.run_canonical)
               | (with_reducible apply State.withTable_canonical) | (with_reducible apply misuse_canonical)
               | (with_reducible apply State.modCur_canonical) | (with_reducible apply resCanonical_done) | dsimp only
               | split

theorem execScoSpawn_canonical (x0) (x1) (x2) (x3) (s : State) (h : s.mem.wf = true) :
    goesOn (execScoSpawn x0 x1 x2 x3 s) := by
  unfold execScoSpawn
  repeat first | with_reducible assumption | (with_reducible intro _) | (with_reducible apply Form.run_canonical)
               | (with_reducible apply State.withSubtree_canonical) | (with_reducible apply State.recordPlace_canonical)
               | (with_reducible apply State.setX_canonical) | (with_reducible apply State.released_canonical)
               | (with_reducible apply State.spawn_canonical) | (with_reducible apply resCanonical_done)
               | (with_reducible apply resCanonical_stop) | (with_reducible apply resCanonical_stall) | dsimp only
               | split | (refine fst_of (by assumption) ?_)

theorem execScoSucceed_canonical (x0) (x1) (x2) (s : State) (h : s.mem.wf = true) :
    goesOn (execScoSucceed x0 x1 x2 s) := by
  unfold execScoSucceed
  repeat first | with_reducible assumption | (with_reducible intro _) | (with_reducible apply Form.run_canonical)
               | (with_reducible apply State.withScope_canonical) | (with_reducible apply State.released_canonical)
               | (with_reducible apply State.setX_canonical) | (with_reducible apply misuse_canonical)
               | (with_reducible apply State.modCur_canonical) | (with_reducible apply State.broadcast_canonical)
               | (with_reducible apply State.pinScope_canonical) | (with_reducible apply resCanonical_done) | dsimp only
               | split

theorem execScoUnshield_canonical (x0) (s : State) (h : s.mem.wf = true) : goesOn (execScoUnshield x0 s) := by
  unfold execScoUnshield
  repeat first | with_reducible assumption | (with_reducible intro _) | (with_reducible apply Form.run_canonical)
               | (with_reducible apply State.withTable_canonical) | (with_reducible apply misuse_canonical)
               | (with_reducible apply State.modCur_canonical) | (with_reducible apply State.quiet_canonical)
               | (with_reducible apply State.actOnCancel_canonical) | (with_reducible apply Form.finish_canonical)
               | (with_reducible apply State.endDropped_canonical) | (with_reducible apply resCanonical_done)
               | (with_reducible apply resCanonical_stall) | (with_reducible apply resCanonical_away) | dsimp only
               | split

theorem Res.spared_canonical (x0) (s : State) (h0 : resCanonical x0) (h : s.mem.wf = true) :
    resCanonical (Res.spared x0 s) := by
  unfold Res.spared
  repeat first | with_reducible assumption | (with_reducible intro _)
               | (with_reducible apply State.leaveQueues_canonical) | (with_reducible apply resCanonical_fault)
               | (with_reducible apply resCanonical_trap) | (with_reducible apply resCanonical_stop)
               | (with_reducible apply resCanonical_stall) | dsimp only | split

theorem State.addResident_canonical (s : State) (x1) (x2) (x3) (h : s.mem.wf = true) :
    (State.addResident s x1 x2 x3).mem.wf = true := by
  unfold State.addResident
  repeat first | with_reducible assumption | (with_reducible intro _) | (with_reducible apply State.modDie_canonical)
               | dsimp only

theorem State.rewriteGroup_canonical (s : State) (x1) (x2) (h : s.mem.wf = true) :
    (State.rewriteGroup s x1 x2).mem.wf = true := by
  unfold State.rewriteGroup
  repeat first | with_reducible assumption | (with_reducible intro _) | (with_reducible apply State.put64_canonical)
               | (with_reducible apply foldl_canonical) | dsimp only

theorem State.dropPage_canonical (s : State) (x1) (x2) (x3) (h : s.mem.wf = true) :
    (State.dropPage s x1 x2 x3).mem.wf = true := by
  unfold State.dropPage
  repeat first | with_reducible assumption | (with_reducible intro _)
               | (with_reducible apply State.forgetLines_canonical) | (with_reducible apply State.zeroRange_canonical)
               | (with_reducible apply State.modLpn_canonical) | (with_reducible apply State.modDie_canonical)
               | dsimp only

theorem State.dropLeafTlb_canonical (s : State) (x1) (x2) (h : s.mem.wf = true) :
    (State.dropLeafTlb s x1 x2).mem.wf = true := by
  unfold State.dropLeafTlb
  repeat first | with_reducible assumption | (with_reducible intro _) | dsimp only

theorem State.backPage_canonical (s : State) (x1) (x2) (x3) (x4) (h : s.mem.wf = true) :
    (State.backPage s x1 x2 x3 x4).mem.wf = true := by
  unfold State.backPage
  repeat first | with_reducible assumption | (with_reducible intro _)
               | (with_reducible apply State.forgetLines_canonical) | (with_reducible apply State.copyRange_canonical)
               | (with_reducible apply State.rewriteGroup_canonical) | (with_reducible apply State.modLpn_canonical)
               | (with_reducible apply State.dropPage_canonical) | (with_reducible apply State.dropLeafTlb_canonical)
               | (with_reducible apply foldl_canonical) | dsimp only

theorem State.clearPage_canonical (s : State) (x1) (x2) (h : s.mem.wf = true) :
    (State.clearPage s x1 x2).mem.wf = true := by
  unfold State.clearPage
  repeat first | with_reducible assumption | (with_reducible intro _) | dsimp only

theorem State.losePage_canonical (s : State) (x1) (x2) (h : s.mem.wf = true) :
    (State.losePage s x1 x2).mem.wf = true := by
  unfold State.losePage
  repeat first | with_reducible assumption | (with_reducible intro _) | (with_reducible apply State.dropPage_canonical)
               | dsimp only

theorem State.lateFrameRecord_canonical (s : State) (x1) (x2) (x3) (h : s.mem.wf = true) :
    (State.lateFrameRecord s x1 x2 x3).mem.wf = true := by
  unfold State.lateFrameRecord
  repeat first | with_reducible assumption | (with_reducible intro _) | (with_reducible apply State.postEvent_canonical)
               | dsimp only

theorem State.convertOrLose_canonical (s : State) (x1) (x2) (x3) (h : s.mem.wf = true) :
    (State.convertOrLose s x1 x2 x3).mem.wf = true := by
  unfold State.convertOrLose
  repeat first | with_reducible assumption | (with_reducible intro _) | (with_reducible apply State.losePage_canonical)
               | (with_reducible apply State.modFn_canonical) | (with_reducible apply State.lateFrameRecord_canonical)
               | (with_reducible apply State.backPage_canonical) | (with_reducible apply State.clearPage_canonical)
               | dsimp only | split

theorem State.deliverLines_canonical (s : State) (x1) (x2) (x3) (h : s.mem.wf = true) :
    canonicalIn (State.deliverLines s x1 x2 x3) fun x => x := by
  induction x3 generalizing s with
  | nil =>
    unfold State.deliverLines
    repeat first | with_reducible assumption | (with_reducible intro _) | (with_reducible apply State.modLpn_canonical)
                 | (with_reducible apply State.clearWay_canonical) | (with_reducible exact canonicalIn_none _)
                 | (with_reducible apply canonicalIn_some) | dsimp only | split | (refine fst_of (by assumption) ?_)
  | cons a l ih =>
    unfold State.deliverLines
    repeat first | with_reducible assumption | (with_reducible intro _) | (with_reducible apply ih)
                 | (with_reducible apply State.modLpn_canonical) | (with_reducible apply State.clearWay_canonical)
                 | (with_reducible exact canonicalIn_none _) | (with_reducible apply canonicalIn_some) | dsimp only
                 | split | (refine fst_of (by assumption) ?_)
theorem State.deliverLines_canonical_eq {s s' : State} {x1} {x2} {x3} (e : State.deliverLines s x1 x2 x3 = some s') (h : s.mem.wf = true) :
    s'.mem.wf = true := State.deliverLines_canonical s x1 x2 x3 h _ e

theorem State.discardPage_canonical (s : State) (x1) (x2) (h : s.mem.wf = true) :
    (State.discardPage s x1 x2).mem.wf = true := by
  unfold State.discardPage
  repeat first | with_reducible assumption | (with_reducible intro _) | (with_reducible apply State.dropPage_canonical)
               | dsimp only

theorem State.setShrunk_canonical (s : State) (x1) (x2) (x3) (h : s.mem.wf = true) :
    (State.setShrunk s x1 x2 x3).mem.wf = true := by
  unfold State.setShrunk
  repeat first | with_reducible assumption | (with_reducible intro _) | (with_reducible apply State.modDie_canonical)
               | dsimp only | split

theorem State.endShrink_canonical (s : State) (x1) (x2) (h : s.mem.wf = true) :
    (State.endShrink s x1 x2).mem.wf = true := by
  unfold State.endShrink
  repeat first | with_reducible assumption | (with_reducible intro _)
               | (with_reducible apply State.leaveQueues_canonical) | (with_reducible apply State.setShrunk_canonical)
               | dsimp only

theorem State.leafOutcome_canonical (s : State) (x1) (x2) (x3) (h : s.mem.wf = true) :
    (State.leafOutcome s x1 x2 x3).mem.wf = true := by
  unfold State.leafOutcome
  repeat first | with_reducible assumption | (with_reducible intro _) | (with_reducible apply State.modDie_canonical)
               | dsimp only

theorem State.failMove_canonical (s : State) (x1) (x2) (x3) (h : s.mem.wf = true) :
    (State.failMove s x1 x2 x3).mem.wf = true := by
  unfold State.failMove
  repeat first | with_reducible assumption | (with_reducible intro _)
               | (with_reducible apply State.addResident_canonical) | (with_reducible apply State.modLpn_canonical)
               | (with_reducible apply State.leafOutcome_canonical) | dsimp only | split

theorem State.finishMove_canonical (s : State) (x1) (x2) (x3) (h : s.mem.wf = true) :
    (State.finishMove s x1 x2 x3).mem.wf = true := by
  unfold State.finishMove
  repeat first | with_reducible assumption | (with_reducible intro _) | (with_reducible apply State.copyRange_canonical)
               | (with_reducible apply State.rewriteGroup_canonical) | (with_reducible apply State.dropPage_canonical)
               | (with_reducible apply State.dropLeafTlb_canonical) | (with_reducible apply State.addResident_canonical)
               | (with_reducible apply State.modLpn_canonical) | (with_reducible apply State.leafOutcome_canonical)
               | (with_reducible apply foldl_canonical) | dsimp only | split

theorem State.leavePage_canonical (s : State) (x1) (x2) (h : s.mem.wf = true) :
    (State.leavePage s x1 x2).mem.wf = true := by
  unfold State.leavePage
  repeat first | with_reducible assumption | (with_reducible intro _)
               | (with_reducible apply State.convertOrLose_canonical) | (with_reducible apply State.losePage_canonical)
               | dsimp only | split

theorem State.releaseChain_canonical (s : State) (x1) (h : s.mem.wf = true) :
    (State.releaseChain s x1).mem.wf = true := by
  unfold State.releaseChain
  repeat first | with_reducible assumption | (with_reducible intro _) | (with_reducible apply State.deliver_canonical)
               | (with_reducible apply foldl_canonical) | dsimp only | split

theorem State.stoppedFault_canonical (s : State) (x1) (x2) (x3) (x4) (x5) (h : s.mem.wf = true) :
    (State.stoppedFault s x1 x2 x3 x4 x5).mem.wf = true := by
  unfold State.stoppedFault
  repeat first | with_reducible assumption | (with_reducible intro _) | (with_reducible apply State.put64_canonical)
               | (with_reducible apply State.postFault_canonical) | dsimp only | (refine fst_of (by assumption) ?_)

theorem State.loseConverting_canonical (s : State) (x1) (x2) (x3) (x4) (h : s.mem.wf = true) :
    (State.loseConverting s x1 x2 x3 x4).mem.wf = true := by
  unfold State.loseConverting
  repeat first | with_reducible assumption | (with_reducible intro _)
               | (with_reducible apply State.releaseChain_canonical) | (with_reducible apply State.losePage_canonical)
               | (with_reducible apply State.clearCauser_canonical) | (with_reducible apply State.checkQueue_canonical)
               | (with_reducible apply State.stoppedFault_canonical) | (with_reducible apply State.addAgenda_canonical)
               | dsimp only | split

theorem State.shrinkPass_canonical (s : State) (x1) (x2) (x3) (x4) (h : s.mem.wf = true) :
    (State.shrinkPass s x1 x2 x3 x4).1.mem.wf = true := by
  induction x4 generalizing s with
  | nil =>
    unfold State.shrinkPass
    repeat first | with_reducible assumption | (with_reducible intro _)
                 | (with_reducible apply State.departAt_canonical) | (with_reducible apply State.shrink_canonical)
                 | (with_reducible apply State.waitAt_canonical) | (with_reducible apply State.leavePage_canonical)
                 | dsimp only | split | (refine fst_of (by assumption) ?_)
  | cons a l ih =>
    unfold State.shrinkPass
    repeat first | with_reducible assumption | (with_reducible intro _) | (with_reducible apply ih)
                 | (with_reducible apply State.departAt_canonical) | (with_reducible apply State.shrink_canonical)
                 | (with_reducible apply State.waitAt_canonical) | (with_reducible apply State.leavePage_canonical)
                 | dsimp only | split | (refine fst_of (by assumption) ?_)

theorem State.shrinkLate_canonical (s : State) (x1) (x2) (h : s.mem.wf = true) :
    (State.shrinkLate s x1 x2).mem.wf = true := by
  unfold State.shrinkLate
  repeat first | with_reducible assumption | (with_reducible intro _)
               | (with_reducible apply State.shrinkPass_canonical) | (with_reducible apply State.offer_canonical)
               | (with_reducible apply State.setShrunk_canonical) | (with_reducible apply State.endShrink_canonical)
               | dsimp only | split | (refine fst_of (by assumption) ?_)

theorem State.shrink_canonical (s : State) (x1) (x2) (h : s.mem.wf = true) : (State.shrink s x1 x2).mem.wf = true := by
  unfold State.shrink
  repeat first | with_reducible assumption | (with_reducible intro _)
               | (with_reducible apply State.shrinkLate_canonical) | (with_reducible apply State.shrinkPass_canonical)
               | (with_reducible apply State.offer_canonical) | (with_reducible apply State.endShrink_canonical)
               | dsimp only | split | (refine fst_of (by assumption) ?_)

theorem State.startMove_canonical (s : State) (x1) (x2) (x3) (x4) (x5) (h : s.mem.wf = true) :
    (State.startMove s x1 x2 x3 x4 x5).mem.wf = true := by
  unfold State.startMove
  repeat first | with_reducible assumption | (with_reducible intro _)
               | (with_reducible apply State.addResident_canonical) | (with_reducible apply State.modLpn_canonical)
               | (with_reducible apply State.addAgenda_canonical) | (with_reducible apply State.modDie_canonical)
               | dsimp only | split

theorem State.takeLeafResult_canonical (s : State) (x1) (x2) (h : s.mem.wf = true) :
    (State.takeLeafResult s x1 x2).mem.wf = true := by
  unfold State.takeLeafResult
  repeat first | with_reducible assumption | (with_reducible intro _) | (with_reducible apply State.modDie_canonical)
               | dsimp only

theorem State.withLeafPage_canonical (s : State) (x1) (x2) (h2 : ∀ u a1 a2, u.mem.wf = true → resCanonical (x2 u a1 a2)) (h : s.mem.wf = true) :
    resCanonical (State.withLeafPage s x1 x2) := by
  unfold State.withLeafPage
  repeat first | with_reducible assumption | (with_reducible intro _) | (with_reducible apply translate_canonical)
               | (with_reducible apply State.arriveAt_canonical) | (with_reducible apply State.departAt_canonical)
               | (with_reducible apply h2) | (with_reducible apply resCanonical_fault)
               | (with_reducible apply resCanonical_stop) | (with_reducible apply resCanonical_stall) | dsimp only
               | split | (refine fst_of (by assumption) ?_)

theorem execLeafConversion_canonical (x0) (x1) (x2) (x3) (s : State) (h : s.mem.wf = true) :
    goesOn (execLeafConversion x0 x1 x2 x3 s) := by
  unfold execLeafConversion
  repeat first | with_reducible assumption | (with_reducible intro _)
               | (with_reducible apply State.releaseChain_canonical)
               | (with_reducible apply State.convertOrLose_canonical) | (with_reducible apply State.losePage_canonical)
               | (with_reducible apply State.loseConverting_canonical) | (with_reducible apply goesOn_next) | dsimp only
               | split

theorem execLeafMoveDone_canonical (x0) (x1) (s : State) (h : s.mem.wf = true) : goesOn (execLeafMoveDone x0 x1 s) := by
  unfold execLeafMoveDone
  repeat first | with_reducible assumption | (with_reducible intro _) | (with_reducible apply State.modDie_canonical)
               | (with_reducible apply State.deliverLines_canonical) | (with_reducible apply State.failMove_canonical)
               | (with_reducible apply State.finishMove_canonical) | (with_reducible apply goesOn_next) | dsimp only
               | split | (refine State.deliverLines_canonical_eq (by assumption) ?_)

theorem execLeafShrink_canonical (x0) (x1) (s : State) (h : s.mem.wf = true) : goesOn (execLeafShrink x0 x1 s) := by
  unfold execLeafShrink
  repeat first | with_reducible assumption | (with_reducible intro _) | (with_reducible apply State.shrink_canonical)
               | (with_reducible apply goesOn_next) | dsimp only | split

theorem execLfDiscard_canonical (x0) (x1) (s : State) (h : s.mem.wf = true) : goesOn (execLfDiscard x0 x1 s) := by
  unfold execLfDiscard
  repeat first | with_reducible assumption | (with_reducible intro _) | (with_reducible apply Form.run_canonical)
               | (with_reducible apply Res.spared_canonical) | (with_reducible apply State.withLeafPage_canonical)
               | (with_reducible apply State.discardPage_canonical) | (with_reducible apply resCanonical_done)
               | (with_reducible apply resCanonical_stall) | dsimp only | split

theorem execLfMove_canonical (x0) (x1) (x2) (s : State) (h : s.mem.wf = true) : goesOn (execLfMove x0 x1 x2 s) := by
  unfold execLfMove
  repeat first | with_reducible assumption | (with_reducible intro _) | (with_reducible apply Form.run_canonical)
               | (with_reducible apply State.takeLeafResult_canonical) | (with_reducible apply Res.spared_canonical)
               | (with_reducible apply State.withLeafPage_canonical) | (with_reducible apply State.startMove_canonical)
               | (with_reducible exact goesOn_fault _) | (with_reducible apply resCanonical_done)
               | (with_reducible apply resCanonical_fault) | (with_reducible apply resCanonical_stall) | dsimp only
               | split

theorem execLfStat_canonical (x0) (x1) (x2) (s : State) (h : s.mem.wf = true) : goesOn (execLfStat x0 x1 x2 s) := by
  unfold execLfStat
  repeat first | with_reducible assumption | (with_reducible intro _) | (with_reducible apply Form.run_canonical)
               | (with_reducible apply State.setX_canonical) | (with_reducible apply translate_canonical)
               | (with_reducible exact goesOn_fault _) | (with_reducible apply resCanonical_done)
               | (with_reducible apply resCanonical_fault) | (with_reducible apply resCanonical_stop) | dsimp only
               | split | (refine fst_of (by assumption) ?_)

theorem State.askLease_canonical (s : State) (h : s.mem.wf = true) : (State.askLease s).mem.wf = true := by
  unfold State.askLease
  repeat first | with_reducible assumption | (with_reducible intro _) | (with_reducible apply State.modCore_canonical)
               | dsimp only | split

theorem State.checkRun_canonical (s : State) (x1) (h : s.mem.wf = true) : (State.checkRun s x1).mem.wf = true := by
  unfold State.checkRun
  repeat first | with_reducible assumption | (with_reducible intro _) | (with_reducible apply State.addDue_canonical)
               | (with_reducible apply State.offerAnvil_canonical) | dsimp only | split

theorem State.setAcc_canonical (s : State) (x1) (x2) (x3) (h : s.mem.wf = true) :
    (State.setAcc s x1 x2 x3).mem.wf = true := by
  unfold State.setAcc
  repeat first | with_reducible assumption | (with_reducible intro _) | (with_reducible apply State.modCore_canonical)
               | dsimp only

theorem State.runMma_canonical (s : State) (x1) (x2) (h : s.mem.wf = true) : (State.runMma s x1 x2).mem.wf = true := by
  unfold State.runMma
  repeat first | with_reducible assumption | (with_reducible intro _) | (with_reducible apply State.setAcc_canonical)
               | dsimp only | split

theorem State.checkedMma_canonical (s : State) (x1) (x2) (x3) (h : s.mem.wf = true) :
    (State.checkedMma s x1 x2 x3).mem.wf = true := by
  unfold State.checkedMma
  repeat first | with_reducible assumption | (with_reducible intro _) | (with_reducible apply State.runMma_canonical)
               | (with_reducible apply State.modCore_canonical) | (with_reducible apply State.modCluster_canonical)
               | (with_reducible apply State.report_canonical) | (with_reducible apply State.setAcc_canonical)
               | dsimp only | split

theorem State.closeLease_canonical (s : State) (x1) (h : s.mem.wf = true) : (State.closeLease s x1).mem.wf = true := by
  unfold State.closeLease
  repeat first | with_reducible assumption | (with_reducible intro _)
               | (with_reducible apply State.finishLease_canonical) | dsimp only | split

theorem State.countCmd_canonical (s : State) (x1) (x2) (h : s.mem.wf = true) :
    (State.countCmd s x1 x2).mem.wf = true := by
  unfold State.countCmd
  repeat first | with_reducible assumption | (with_reducible intro _) | (with_reducible apply State.modCore_canonical)
               | (with_reducible apply State.modCluster_canonical) | dsimp only | split

theorem State.noteCommand_canonical (s : State) (x1) (x2) (h : s.mem.wf = true) :
    (State.noteCommand s x1 x2).mem.wf = true := by
  unfold State.noteCommand
  repeat first | with_reducible assumption | (with_reducible intro _) | (with_reducible apply State.modCore_canonical)
               | dsimp only | split

theorem State.enqueue_canonical (s : State) (x1) (h : s.mem.wf = true) : (State.enqueue s x1).mem.wf = true := by
  unfold State.enqueue
  repeat first | with_reducible assumption | (with_reducible intro _)
               | (with_reducible apply State.offerAnvil_canonical) | (with_reducible apply State.modCore_canonical)
               | (with_reducible apply State.noteCommand_canonical) | dsimp only

theorem State.performFirst_canonical (s : State) (x1) (h : s.mem.wf = true) :
    (State.performFirst s x1).mem.wf = true := by
  unfold State.performFirst
  repeat first | with_reducible assumption | (with_reducible intro _)
               | (with_reducible apply State.performAll_canonical) | dsimp only | split

theorem State.queueCmd_canonical (s : State) (x1) (h : s.mem.wf = true) : resCanonical (State.queueCmd s x1) := by
  unfold State.queueCmd
  repeat first | with_reducible assumption | (with_reducible intro _) | (with_reducible apply State.enqueue_canonical)
               | (with_reducible apply resCanonical_done) | (with_reducible apply resCanonical_stall) | dsimp only
               | split

theorem State.runOpb_canonical (s : State) (x1) (x2) (h : s.mem.wf = true) : (State.runOpb s x1 x2).mem.wf = true := by
  unfold State.runOpb
  repeat first | with_reducible assumption | (with_reducible intro _) | (with_reducible apply State.modCore_canonical)
               | dsimp only

theorem State.runLd_canonical (s : State) (x1) (x2) (h : s.mem.wf = true) : (State.runLd s x1 x2).mem.wf = true := by
  unfold State.runLd
  repeat first | with_reducible assumption | (with_reducible intro _) | (with_reducible apply State.setAcc_canonical)
               | dsimp only | split

theorem State.runSt_canonical (s : State) (x1) (x2) (h : s.mem.wf = true) : (State.runSt s x1 x2).mem.wf = true := by
  unfold State.runSt
  repeat first | with_reducible assumption | (with_reducible intro _) | (with_reducible apply State.addEarly_canonical)
               | (with_reducible apply State.noteWrite_canonical) | (with_reducible apply State.putBlock_canonical)
               | (with_reducible apply foldl_canonical) | dsimp only | split

theorem State.runCmd_canonical (s : State) (x1) (x2) (x3) (h : s.mem.wf = true) :
    (State.runCmd s x1 x2 x3).mem.wf = true := by
  unfold State.runCmd
  repeat first | with_reducible assumption | (with_reducible intro _) | (with_reducible apply State.runOpb_canonical)
               | (with_reducible apply State.checkedMma_canonical) | (with_reducible apply State.runLd_canonical)
               | (with_reducible apply State.runSt_canonical) | (with_reducible apply State.setAcc_canonical)
               | dsimp only | split

theorem descFault_canonical (s : State) (x1) (x2) (h : s.mem.wf = true) : resCanonical (descFault s x1 x2) := by
  unfold descFault
  repeat first | with_reducible assumption | (with_reducible intro _) | (with_reducible apply resCanonical_fault)
               | dsimp only

theorem State.windowFault_canonical (s : State) (x1) (x2) (x3) (x4) (x5) (h : s.mem.wf = true) :
    resIn (State.windowFault s x1 x2 x3 x4 x5) := by
  unfold State.windowFault
  repeat first | with_reducible assumption | (with_reducible intro _) | (with_reducible apply descFault_canonical)
               | (with_reducible apply resCanonical_fault) | (with_reducible exact resIn_none)
               | (with_reducible apply resIn_some) | dsimp only | split
theorem State.windowFault_canonical_eq {s : State} {x1} {x2} {x3} {x4} {x5} {r} (e : State.windowFault s x1 x2 x3 x4 x5 = some r) (h : s.mem.wf = true) :
    resCanonical r := State.windowFault_canonical s x1 x2 x3 x4 x5 h _ e

theorem State.scaleOperand_canonical_eq {s : State} {d : CIdx} {n : Nat} {r : Res} (e : s.scaleOperand d n = .error r)
    (h : s.mem.wf = true) : resCanonical r := by
  unfold State.scaleOperand at e
  split at e
  · cases e
  · dsimp only at e
    split at e
    · cases e
      exact State.windowFault_canonical_eq (by assumption) h
    · cases e

theorem State.stepCmd_canonical (s : State) (x1) (x2) (x3) (x4) (h : s.mem.wf = true) :
    (State.stepCmd s x1 x2 x3 x4).mem.wf = true := by
  unfold State.stepCmd
  repeat first | with_reducible assumption | (with_reducible intro _)
               | (with_reducible apply State.performFirst_canonical) | (with_reducible apply State.modCore_canonical)
               | dsimp only | split

theorem birthFault_canonical (s : State) (x1) (x2) (x3) (h : s.mem.wf = true) :
    resCanonical (birthFault s x1 x2 x3) := by
  unfold birthFault
  repeat first | with_reducible assumption | (with_reducible intro _) | (with_reducible apply resCanonical_fault)
               | dsimp only | split

theorem State.takeLease_canonical (s : State) (x1) (h : s.mem.wf = true) : resCanonical (State.takeLease s x1) := by
  unfold State.takeLease
  repeat first | with_reducible assumption | (with_reducible intro _) | (with_reducible apply State.modCore_canonical)
               | (with_reducible apply State.memberBirth_canonical) | (with_reducible apply birthFault_canonical)
               | (with_reducible apply State.yieldGrant_canonical) | (with_reducible apply State.setX_canonical)
               | (with_reducible apply resCanonical_done) | dsimp only | split | (refine fst_of (by assumption) ?_)

theorem State.teamAfter_canonical (s : State) (x1) (h : s.mem.wf = true) : (State.teamAfter s x1).mem.wf = true := by
  unfold State.teamAfter
  repeat first | with_reducible assumption | (with_reducible intro _) | (with_reducible apply State.freeTeam_canonical)
               | dsimp only | split

theorem State.underLease_canonical (s : State) (x1) (h1 : ∀ u, u.mem.wf = true → resCanonical (x1 u)) (h : s.mem.wf = true) :
    resCanonical (State.underLease s x1) := by
  unfold State.underLease
  repeat first | with_reducible assumption | (with_reducible intro _) | (with_reducible apply State.endLease_canonical)
               | (with_reducible apply h1) | (with_reducible apply resCanonical_done)
               | (with_reducible apply resCanonical_fault) | dsimp only | split

theorem State.withImage_canonical (s : State) (x1) (x2) (x3) (x4) (h4 : ∀ a0, resCanonical (x4 a0)) (h : s.mem.wf = true) :
    resCanonical (State.withImage s x1 x2 x3 x4) := by
  unfold State.withImage
  repeat first | with_reducible assumption | (with_reducible intro _) | (with_reducible apply descFault_canonical)
               | (with_reducible apply State.windowFault_canonical) | (with_reducible apply h4) | dsimp only | split
               | (refine State.windowFault_canonical_eq (by assumption) ?_)

theorem State.withOperand_canonical (s : State) (a b d fmt kOk z) (f : Nat → Option Nat → Res)
    (hf : ∀ x y, resCanonical (f x y)) (h : s.mem.wf = true) : resCanonical (s.withOperand a b d fmt kOk z f) := by
  unfold State.withOperand
  dsimp only
  split
  · exact descFault_canonical _ _ _ h
  · split
    · exact State.windowFault_canonical_eq (by assumption) h
    · split
      · exact State.scaleOperand_canonical_eq (by assumption) h
      · exact hf _ _

theorem execAnvilCommandRun_canonical (x0) (s : State) (h : s.mem.wf = true) : goesOn (execAnvilCommandRun x0 s) := by
  unfold execAnvilCommandRun
  repeat first | with_reducible assumption | (with_reducible intro _) | (with_reducible apply State.stepCmd_canonical)
               | (with_reducible apply State.countCmd_canonical) | (with_reducible apply State.runCmd_canonical)
               | (with_reducible apply State.modCore_canonical) | (with_reducible apply State.checkRun_canonical)
               | (with_reducible apply State.teamAfter_canonical) | (with_reducible apply State.closeLease_canonical)
               | (with_reducible apply goesOn_next) | dsimp only | split

theorem execAnvilRunEnd_canonical (x0) (s : State) (h : s.mem.wf = true) : goesOn (execAnvilRunEnd x0 s) := by
  unfold execAnvilRunEnd
  repeat first | with_reducible assumption | (with_reducible intro _) | (with_reducible apply State.passGrant_canonical)
               | (with_reducible apply State.modCluster_canonical) | (with_reducible apply State.yieldGrant_canonical)
               | (with_reducible apply goesOn_next) | dsimp only | split

theorem execMxChk_canonical (x0) (x1) (s : State) (h : s.mem.wf = true) : goesOn (execMxChk x0 x1 s) := by
  unfold execMxChk
  repeat first | with_reducible assumption | (with_reducible intro _) | (with_reducible apply Form.run_canonical)
               | (with_reducible apply State.endDropped_canonical) | (with_reducible apply State.setX_canonical)
               | (with_reducible apply resCanonical_done) | (with_reducible apply resCanonical_stall) | dsimp only
               | split

theorem execMxFree_canonical (x0) (s : State) (h : s.mem.wf = true) : goesOn (execMxFree x0 s) := by
  unfold execMxFree
  repeat first | with_reducible assumption | (with_reducible intro _) | (with_reducible apply Form.run_canonical)
               | (with_reducible apply State.endLease_canonical) | (with_reducible apply resCanonical_done) | dsimp only

theorem execMxLd_canonical (x0) (x1) (x2) (s : State) (h : s.mem.wf = true) : goesOn (execMxLd x0 x1 x2 s) := by
  unfold execMxLd
  repeat first | with_reducible assumption | (with_reducible intro _) | (with_reducible apply Form.run_canonical)
               | (with_reducible apply State.underLease_canonical) | (with_reducible apply State.withImage_canonical)
               | (with_reducible apply State.queueCmd_canonical) | dsimp only

theorem execMxLease_canonical (x0) (x1) (s : State) (h : s.mem.wf = true) : goesOn (execMxLease x0 x1 s) := by
  unfold execMxLease
  repeat first | with_reducible assumption | (with_reducible intro _) | (with_reducible apply Form.run_canonical)
               | (with_reducible apply State.setX_canonical) | (with_reducible apply State.dropRequest_canonical)
               | (with_reducible apply State.askLease_canonical) | (with_reducible apply State.takeLease_canonical)
               | (with_reducible apply State.openRun_canonical) | (with_reducible apply State.modCluster_canonical)
               | (with_reducible exact goesOn_fault _) | (with_reducible apply resCanonical_done)
               | (with_reducible apply resCanonical_fault) | (with_reducible apply resCanonical_stall) | dsimp only
               | split

theorem execMxMma_canonical (x0) (x1) (x2) (x3) (s : State) (h : s.mem.wf = true) :
    goesOn (execMxMma x0 x1 x2 x3 s) := by
  unfold execMxMma
  repeat first | with_reducible assumption | (with_reducible intro _) | (with_reducible apply Form.run_canonical)
               | (with_reducible apply State.underLease_canonical) | (with_reducible apply State.withOperand_canonical)
               | (with_reducible apply State.queueCmd_canonical) | dsimp only | split

theorem execMxOpb_canonical (g a b d) (s : State) (h : s.mem.wf = true) : goesOn (execMxOpb g a b d s) := by
  unfold execMxOpb
  refine Form.run_canonical _ _ _ (fun u hu => State.underLease_canonical _ _ (fun v hv => ?_) hu) h
  refine State.withOperand_canonical _ _ _ _ _ _ _ _ (fun x y => ?_) hv
  have hq := State.queueCmd_canonical v (v.cmdOf .opb x (v.x b) (fmtFrom (v.x b) (v.cur.pending.map payB)) y) hv
  split
  · rename_i e
    rw [e] at hq
    exact State.modCore_canonical _ _ _ hq
  · exact hq

theorem execMxSt_canonical (x0) (x1) (x2) (s : State) (h : s.mem.wf = true) : goesOn (execMxSt x0 x1 x2 s) := by
  unfold execMxSt
  repeat first | with_reducible assumption | (with_reducible intro _) | (with_reducible apply Form.run_canonical)
               | (with_reducible apply State.underLease_canonical) | (with_reducible apply State.withImage_canonical)
               | (with_reducible apply State.queueCmd_canonical) | (with_reducible exact goesOn_fault _)
               | (with_reducible apply resCanonical_fault) | (with_reducible apply resCanonical_stall) | dsimp only
               | split

theorem execMxZero_canonical (x0) (s : State) (h : s.mem.wf = true) : goesOn (execMxZero x0 s) := by
  unfold execMxZero
  repeat first | with_reducible assumption | (with_reducible intro _) | (with_reducible apply Form.run_canonical)
               | (with_reducible apply State.underLease_canonical) | (with_reducible apply State.queueCmd_canonical)
               | dsimp only

theorem State.setXfer_canonical (s : State) (x1) (x2) (h : s.mem.wf = true) :
    (State.setXfer s x1 x2).mem.wf = true := by
  unfold State.setXfer
  repeat first | with_reducible assumption | (with_reducible intro _) | (with_reducible apply State.modCore_canonical)
               | dsimp only | split

theorem State.endXfer_canonical (s : State) (x1) (x2) (x3) (h : s.mem.wf = true) :
    (State.endXfer s x1 x2 x3).mem.wf = true := by
  unfold State.endXfer
  repeat first | with_reducible assumption | (with_reducible intro _) | (with_reducible apply State.addDue_canonical)
               | (with_reducible apply State.setXfer_canonical) | dsimp only

theorem State.engineAdd_canonical (s : State) (x1) (x2) (x3) (x4) (x5) (x6) (x7) (x8) (h : s.mem.wf = true) :
    (State.engineAdd s x1 x2 x3 x4 x5 x6 x7 x8).mem.wf = true := by
  unfold State.engineAdd
  repeat first | with_reducible assumption | (with_reducible intro _)
               | (with_reducible apply State.counterPlace_canonical) | (with_reducible apply State.putSync_canonical)
               | (with_reducible apply State.completionAdd_canonical) | dsimp only | split
               | (refine fst_of (by assumption) ?_)

theorem State.engineDone_canonical (s : State) (x1) (x2) (h : s.mem.wf = true) :
    (State.engineDone s x1 x2).mem.wf = true := by
  unfold State.engineDone
  repeat first | with_reducible assumption | (with_reducible intro _) | (with_reducible apply State.addDue_canonical)
               | (with_reducible apply State.clearCauser_canonical) | (with_reducible apply State.leaveQueues_canonical)
               | (with_reducible apply State.freeTeam_canonical) | dsimp only | split

theorem State.engineFault_canonical (s : State) (x1) (x2) (x3) (x4) (x5) (x6) (h : s.mem.wf = true) :
    (State.engineFault s x1 x2 x3 x4 x5 x6).mem.wf = true := by
  unfold State.engineFault
  repeat first | with_reducible assumption | (with_reducible intro _)
               | (with_reducible apply State.cancelScope_canonical) | (with_reducible apply State.postEvent_canonical)
               | dsimp only | split

theorem State.engineRead_canonical (s : State) (x1) (x2) (x3) (h : s.mem.wf = true) :
    (State.engineRead s x1 x2 x3).1.mem.wf = true := by
  unfold State.engineRead
  repeat first | with_reducible assumption | (with_reducible intro _) | (with_reducible apply translate_canonical)
               | (with_reducible apply State.readPlace_canonical) | (with_reducible apply State.openData_canonical)
               | (with_reducible apply State.send_canonical) | (with_reducible apply State.fromPeerRead_canonical)
               | dsimp only | split | (refine inboundCanonical_done_eq (by assumption) ?_)
               | (refine inboundCanonical_rejected_eq (by assumption) ?_)
               | (refine inboundCanonical_waits_eq (by assumption) ?_) | (refine fst_of (by assumption) ?_)
               | (refine snd_of (by assumption) ?_)

theorem State.letStand_canonical (s : State) (s1 : State) (x2) (x3) (h1 : s1.mem.wf = true) (h : s.mem.wf = true) :
    (State.letStand s s1 x2 x3).mem.wf = true := by
  unfold State.letStand
  repeat first | with_reducible assumption | (with_reducible intro _) | (with_reducible apply State.putBytes_canonical)
               | (with_reducible apply foldl_canonical) | dsimp only

theorem State.engineRuns_canonical (s : State) (x1) (x2) (h : s.mem.wf = true) :
    (State.engineRuns s x1 x2).1.mem.wf = true := by
  unfold State.engineRuns
  repeat first | with_reducible assumption | (with_reducible intro _) | (with_reducible apply State.writeRuns_canonical)
               | (with_reducible apply State.letStand_canonical) | dsimp only | split
               | (refine fst_of (by assumption) ?_)

theorem State.engineSettled_canonical (s : State) (x1) (x2) (x3) (x4) (h : s.mem.wf = true) :
    (State.engineSettled s x1 x2 x3 x4).1.mem.wf = true := by
  unfold State.engineSettled
  repeat first | with_reducible assumption | (with_reducible intro _) | (with_reducible apply State.performOf_canonical)
               | (with_reducible apply State.sysReady_canonical) | dsimp only | split
               | (refine fst_of (by assumption) ?_)

theorem State.engineStop_canonical (s : State) (x1) (x2) (h : s.mem.wf = true) :
    stopCanonical (State.engineStop s x1 x2) := by
  unfold State.engineStop
  repeat first | with_reducible assumption | (with_reducible intro _)
               | (with_reducible apply State.askTransfer_canonical)
               | (with_reducible apply State.beginConversion_canonical)
               | (with_reducible apply State.clearCauser_canonical) | (with_reducible apply stopCanonical_waits)
               | (with_reducible apply stopCanonical_ends) | dsimp only | split

theorem State.engineWrite_canonical (s : State) (w key p va ps) (h : s.mem.wf = true) :
    (s.engineWrite w key p va ps).1.mem.wf = true := by
  unfold State.engineWrite
  extract_lets v at_ f
  split
  · exact h
  · split
    · split
      · exact State.engineRuns_canonical _ _ _ h
      · split
        · exact h
        · exact foldl_canonical (fun u a hu => State.depart_canonical _ _ _ hu) h
    · split
      · exact h
      · exact h
      · exact h
      · apply foldl_canonical_fst _ h
        intro u a hu
        split
        · exact hu
        · split
          · exact inboundCanonical_done_eq (by assumption) (State.fromPeerWrite_canonical _ _ _ _ _ hu)
          · exact inboundCanonical_rejected_eq (by assumption) (State.fromPeerWrite_canonical _ _ _ _ _ hu)
          · exact inboundCanonical_waits_eq (by assumption) (State.fromPeerWrite_canonical _ _ _ _ _ hu)
      · exact foldl_canonical (fun u a hu => State.depart_canonical _ _ _ hu) h
    · exact State.engineRuns_canonical _ _ _ h

theorem State.fetchSector_canonical (s : State) (x1) (x2) (x3) (h : s.mem.wf = true) :
    (State.fetchSector s x1 x2 x3).1.mem.wf = true := by
  unfold State.fetchSector
  repeat first | with_reducible assumption | (with_reducible intro _) | (with_reducible apply translate_canonical)
               | (with_reducible apply State.engineRead_canonical) | dsimp only | split
               | (refine fst_of (by assumption) ?_)

theorem regFault_canonical (s : State) (x1) (x2) (h : s.mem.wf = true) : resCanonical (regFault s x1 x2) := by
  unfold regFault
  repeat first | with_reducible assumption | (with_reducible intro _) | (with_reducible apply resCanonical_fault)
               | dsimp only

theorem State.ladFault_canonical (s : State) (x1) (h : s.mem.wf = true) : resIn (State.ladFault s x1) := by
  unfold State.ladFault
  repeat first | with_reducible assumption | (with_reducible intro _) | (with_reducible apply regFault_canonical)
               | (with_reducible apply resCanonical_fault) | (with_reducible exact resIn_none)
               | (with_reducible apply resIn_some) | dsimp only | split
theorem State.ladFault_canonical_eq {s : State} {x1} {r} (e : State.ladFault s x1 = some r) (h : s.mem.wf = true) :
    resCanonical r := State.ladFault_canonical s x1 h _ e

theorem State.landXfer_canonical (s : State) (x1) (x2) (h : s.mem.wf = true) :
    (State.landXfer s x1 x2).1.mem.wf = true := by
  unfold State.landXfer
  repeat first | with_reducible assumption | (with_reducible intro _) | (with_reducible apply State.performOf_canonical)
               | dsimp only | split

theorem State.launchXfer_canonical (s : State) (x1) (h : s.mem.wf = true) : (State.launchXfer s x1).mem.wf = true := by
  unfold State.launchXfer
  repeat first | with_reducible assumption | (with_reducible intro _) | (with_reducible apply State.addAgenda_canonical)
               | (with_reducible apply State.modCore_canonical) | dsimp only

theorem State.nextSegment_canonical (s : State) (x1) (x2) (h : s.mem.wf = true) :
    (State.nextSegment s x1 x2).mem.wf = true := by
  unfold State.nextSegment
  repeat first | with_reducible assumption | (with_reducible intro _) | (with_reducible apply State.addAgenda_canonical)
               | (with_reducible apply State.setXfer_canonical) | dsimp only

theorem State.xferStop_canonical (s : State) (x1) (x2) (x3) (h : s.mem.wf = true) :
    (State.xferStop s x1 x2 x3).mem.wf = true := by
  unfold State.xferStop
  repeat first | with_reducible assumption | (with_reducible intro _)
               | (with_reducible apply State.engineStop_canonical) | (with_reducible apply State.nextSegment_canonical)
               | (with_reducible apply State.endXfer_canonical) | (with_reducible apply State.engineFault_canonical)
               | dsimp only | split | (refine stopCanonical_waits_eq (by assumption) ?_)
               | (refine stopCanonical_ends_eq (by assumption) ?_)

theorem enginePlace_canonical (s : State) (x1) (x2) (h : s.mem.wf = true) : (enginePlace s x1 x2).1.mem.wf = true := by
  unfold enginePlace
  repeat first | with_reducible assumption | (with_reducible intro _) | (with_reducible apply translate_canonical)
               | dsimp only | split | (refine fst_of (by assumption) ?_)

theorem State.setTags_canonical (s : State) (x1) (h : s.mem.wf = true) : (State.setTags s x1).mem.wf = true := by
  unfold State.setTags
  repeat first | with_reducible assumption | (with_reducible intro _) | (with_reducible apply foldl_canonical)
               | dsimp only

theorem State.segment_canonical (s : State) (x1) (x2) (x3) (x4) (h : s.mem.wf = true) :
    (State.segment s x1 x2 x3 x4).1.mem.wf = true := by
  unfold State.segment
  repeat first | with_reducible assumption | (with_reducible intro _) | (with_reducible apply enginePlace_canonical)
               | (with_reducible apply State.performOf_canonical) | (with_reducible apply State.engineWrite_canonical)
               | (with_reducible apply State.setTags_canonical) | dsimp only | split
               | (refine fst_of (by assumption) ?_)

theorem State.xferStep_canonical (s : State) (x1) (x2) (x3) (h : s.mem.wf = true) :
    (State.xferStep s x1 x2 x3).mem.wf = true := by
  unfold State.xferStep
  repeat first | with_reducible assumption | (with_reducible intro _)
               | (with_reducible apply State.fetchSector_canonical) | (with_reducible apply State.nextSegment_canonical)
               | (with_reducible apply State.xferStop_canonical) | (with_reducible apply State.undo_canonical)
               | (with_reducible apply State.segment_canonical) | dsimp only | split
               | (refine fst_of (by assumption) ?_)

theorem State.runXfer_canonical (s : State) (x1) (x2) (h : s.mem.wf = true) :
    (State.runXfer s x1 x2).mem.wf = true := by
  unfold State.runXfer
  repeat first | with_reducible assumption | (with_reducible intro _) | (with_reducible apply State.endXfer_canonical)
               | (with_reducible apply State.nextSegment_canonical) | (with_reducible apply State.xferStep_canonical)
               | dsimp only | split

theorem State.tryAdd_canonical (s : State) (x1) (x2) (x3) (x4) (x5) (x6) (x7) (x8) (x9) (x10) (h : s.mem.wf = true) :
    (State.tryAdd s x1 x2 x3 x4 x5 x6 x7 x8 x9 x10).1.mem.wf = true := by
  unfold State.tryAdd
  repeat first | with_reducible assumption | (with_reducible intro _)
               | (with_reducible apply State.engineSettled_canonical)
               | (with_reducible apply State.counterPlace_canonical) | (with_reducible apply State.engineAdd_canonical)
               | dsimp only | split | (refine fst_of (by assumption) ?_)

theorem execLadGet_canonical (x0) (x1) (x2) (s : State) (h : s.mem.wf = true) : goesOn (execLadGet x0 x1 x2 s) := by
  unfold execLadGet
  repeat first | with_reducible assumption | (with_reducible intro _) | (with_reducible apply Form.run_canonical)
               | (with_reducible apply State.setC_canonical) | (with_reducible exact goesOn_fault _)
               | (with_reducible apply resCanonical_done) | (with_reducible apply resCanonical_fault) | dsimp only
               | split

theorem execLadGo_canonical (x0) (x1) (s : State) (h : s.mem.wf = true) : goesOn (execLadGo x0 x1 s) := by
  unfold execLadGo
  repeat first | with_reducible assumption | (with_reducible intro _) | (with_reducible apply Form.run_canonical)
               | (with_reducible apply State.ladFault_canonical) | (with_reducible apply State.released_canonical)
               | (with_reducible apply State.memberBirth_canonical) | (with_reducible apply birthFault_canonical)
               | (with_reducible apply State.setX_canonical) | (with_reducible apply State.launchXfer_canonical)
               | (with_reducible apply resCanonical_done) | (with_reducible apply resCanonical_stall) | dsimp only
               | split | (refine State.ladFault_canonical_eq (by assumption) ?_) | (refine fst_of (by assumption) ?_)

theorem execLadSet_canonical (x0) (x1) (x2) (s : State) (h : s.mem.wf = true) : goesOn (execLadSet x0 x1 x2 s) := by
  unfold execLadSet
  repeat first | with_reducible assumption | (with_reducible intro _) | (with_reducible apply Form.run_canonical)
               | (with_reducible apply State.modCur_canonical) | (with_reducible exact goesOn_fault _)
               | (with_reducible apply resCanonical_done) | (with_reducible apply resCanonical_fault) | dsimp only
               | split

theorem execLadStat_canonical (x0) (x1) (x2) (s : State) (h : s.mem.wf = true) : goesOn (execLadStat x0 x1 x2 s) := by
  unfold execLadStat
  repeat first | with_reducible assumption | (with_reducible intro _) | (with_reducible apply Form.run_canonical)
               | (with_reducible apply State.setX_canonical) | (with_reducible apply resCanonical_done) | dsimp only

theorem execLadleSegment_canonical (x0) (x1) (s : State) (h : s.mem.wf = true) : goesOn (execLadleSegment x0 x1 s) := by
  unfold execLadleSegment
  repeat first | with_reducible assumption | (with_reducible intro _) | (with_reducible apply State.landXfer_canonical)
               | (with_reducible apply State.runXfer_canonical) | (with_reducible apply goesOn_next) | dsimp only
               | split | (refine fst_of (by assumption) ?_)

theorem execLadleTransferEnd_canonical (x0) (x1) (s : State) (h : s.mem.wf = true) :
    goesOn (execLadleTransferEnd x0 x1 s) := by
  unfold execLadleTransferEnd
  repeat first | with_reducible assumption | (with_reducible intro _) | (with_reducible apply State.tryAdd_canonical)
               | (with_reducible apply State.addAgenda_canonical) | (with_reducible apply State.performOf_canonical)
               | (with_reducible apply State.setXfer_canonical) | (with_reducible apply State.engineDone_canonical)
               | (with_reducible apply State.modCore_canonical) | (with_reducible apply goesOn_next) | dsimp only
               | split | (refine fst_of (by assumption) ?_)

theorem State.landCru_canonical (s : State) (x1) (x2) (h : s.mem.wf = true) :
    (State.landCru s x1 x2).1.mem.wf = true := by
  unfold State.landCru
  repeat first | with_reducible assumption | (with_reducible intro _) | (with_reducible apply State.performOf_canonical)
               | dsimp only | split

theorem enginePlaces_canonical (s : State) (x1) (x2) (h : s.mem.wf = true) :
    (enginePlaces s x1 x2).1.mem.wf = true := by
  induction x2 generalizing s with
  | nil =>
    unfold enginePlaces
    repeat first | with_reducible assumption | (with_reducible intro _) | (with_reducible apply enginePlace_canonical)
                 | dsimp only | split | (refine fst_of (by assumption) ?_)
  | cons a l ih =>
    unfold enginePlaces
    repeat first | with_reducible assumption | (with_reducible intro _) | (with_reducible apply ih)
                 | (with_reducible apply enginePlace_canonical) | dsimp only | split
                 | (refine fst_of (by assumption) ?_)

theorem State.writeOut_canonical (s : State) (x1) (x2) (x3) (h : s.mem.wf = true) :
    (State.writeOut s x1 x2 x3).1.mem.wf = true := by
  induction x3 generalizing s with
  | nil =>
    unfold State.writeOut
    repeat first | with_reducible assumption | (with_reducible intro _)
                 | (with_reducible apply State.engineWrite_canonical) | dsimp only | split
                 | (refine fst_of (by assumption) ?_)
  | cons a l ih =>
    unfold State.writeOut
    repeat first | with_reducible assumption | (with_reducible intro _) | (with_reducible apply ih)
                 | (with_reducible apply State.engineWrite_canonical) | dsimp only | split
                 | (refine fst_of (by assumption) ?_)

theorem State.writeAll_canonical (s : State) (x1) (x2) (x3) (h : s.mem.wf = true) :
    (State.writeAll s x1 x2 x3).1.mem.wf = true := by
  unfold State.writeAll
  repeat first | with_reducible assumption | (with_reducible intro _) | (with_reducible apply enginePlaces_canonical)
               | (with_reducible apply State.engineRuns_canonical) | (with_reducible apply State.writeOut_canonical)
               | dsimp only | split | (refine fst_of (by assumption) ?_)

theorem State.setCru_canonical (s : State) (x1) (x2) (h : s.mem.wf = true) : (State.setCru s x1 x2).mem.wf = true := by
  unfold State.setCru
  repeat first | with_reducible assumption | (with_reducible intro _) | (with_reducible apply State.modCore_canonical)
               | dsimp only | split

theorem State.pendCru_canonical (s : State) (x1) (x2) (h : s.mem.wf = true) :
    (State.pendCru s x1 x2).mem.wf = true := by
  unfold State.pendCru
  repeat first | with_reducible assumption | (with_reducible intro _) | (with_reducible apply State.offer_canonical)
               | (with_reducible apply State.setCru_canonical) | dsimp only

theorem State.tellCru_canonical (s : State) (x1) (x2) (h : s.mem.wf = true) :
    (State.tellCru s x1 x2).1.mem.wf = true := by
  unfold State.tellCru
  repeat first | with_reducible assumption | (with_reducible intro _) | (with_reducible apply State.send_canonical)
               | dsimp only | split

theorem State.endCru_canonical (s : State) (x1) (x2) (x3) (x4) (x5) (h : s.mem.wf = true) :
    (State.endCru s x1 x2 x3 x4 x5).mem.wf = true := by
  unfold State.endCru
  repeat first | with_reducible assumption | (with_reducible intro _) | (with_reducible apply State.landCru_canonical)
               | (with_reducible apply State.tellCru_canonical) | (with_reducible apply State.addDue_canonical)
               | (with_reducible apply State.setCru_canonical) | dsimp only | split | (refine fst_of (by assumption) ?_)

theorem State.cruStop_canonical (s : State) (x1) (x2) (x3) (h : s.mem.wf = true) :
    (State.cruStop s x1 x2 x3).mem.wf = true := by
  unfold State.cruStop
  repeat first | with_reducible assumption | (with_reducible intro _)
               | (with_reducible apply State.engineStop_canonical) | (with_reducible apply State.pendCru_canonical)
               | (with_reducible apply State.endCru_canonical) | (with_reducible apply State.engineFault_canonical)
               | dsimp only | split | (refine stopCanonical_waits_eq (by assumption) ?_)
               | (refine stopCanonical_ends_eq (by assumption) ?_)

theorem State.doneCru_canonical (s : State) (x1) (x2) (h : s.mem.wf = true) :
    (State.doneCru s x1 x2).mem.wf = true := by
  unfold State.doneCru
  repeat first | with_reducible assumption | (with_reducible intro _) | (with_reducible apply State.writeAll_canonical)
               | (with_reducible apply State.cruStop_canonical) | (with_reducible apply State.endCru_canonical)
               | dsimp only | split | (refine fst_of (by assumption) ?_)

theorem State.enginePieces_canonical (s : State) (x1) (x2) (h : s.mem.wf = true) :
    (State.enginePieces s x1 x2).1.mem.wf = true := by
  induction x2 generalizing s with
  | nil =>
    unfold State.enginePieces
    repeat first | with_reducible assumption | (with_reducible intro _)
                 | (with_reducible apply State.engineRead_canonical) | dsimp only | split
                 | (refine fst_of (by assumption) ?_)
  | cons a l ih =>
    unfold State.enginePieces
    repeat first | with_reducible assumption | (with_reducible intro _) | (with_reducible apply ih)
                 | (with_reducible apply State.engineRead_canonical) | dsimp only | split
                 | (refine fst_of (by assumption) ?_)

theorem State.readBytes_canonical (s : State) (x1) (x2) (x3) (h : s.mem.wf = true) :
    (State.readBytes s x1 x2 x3).1.mem.wf = true := by
  unfold State.readBytes
  repeat first | with_reducible assumption | (with_reducible intro _)
               | (with_reducible apply State.enginePieces_canonical) | dsimp only | (refine fst_of (by assumption) ?_)

theorem State.finishCru_canonical (s : State) (x1) (x2) (x3) (h : s.mem.wf = true) :
    (State.finishCru s x1 x2 x3).mem.wf = true := by
  unfold State.finishCru
  repeat first | with_reducible assumption | (with_reducible intro _) | (with_reducible apply State.writeAll_canonical)
               | (with_reducible apply State.cruStop_canonical) | (with_reducible apply State.pendCru_canonical)
               | dsimp only | split | (refine fst_of (by assumption) ?_)

theorem State.commitCru_canonical (s : State) (x1) (x2) (h : s.mem.wf = true) :
    (State.commitCru s x1 x2).mem.wf = true := by
  unfold State.commitCru
  repeat first | with_reducible assumption | (with_reducible intro _) | (with_reducible apply State.readBytes_canonical)
               | (with_reducible apply State.cruStop_canonical) | (with_reducible apply State.undo_canonical)
               | (with_reducible apply State.finishCru_canonical) | dsimp only | split
               | (refine fst_of (by assumption) ?_)

theorem State.sendFlit_canonical (s : State) (x1) (x2) (x3) (x4) (x5) (h : s.mem.wf = true) :
    (State.sendFlit s x1 x2 x3 x4 x5).mem.wf = true := by
  unfold State.sendFlit
  repeat first | with_reducible assumption | (with_reducible intro _) | (with_reducible apply State.send_canonical)
               | dsimp only

theorem State.sendAll_canonical (s : State) (x1) (x2) (x3) (x4) (h : s.mem.wf = true) :
    (State.sendAll s x1 x2 x3 x4).mem.wf = true := by
  unfold State.sendAll
  repeat first | with_reducible assumption | (with_reducible intro _) | (with_reducible apply State.sendFlit_canonical)
               | (with_reducible apply foldl_canonical) | dsimp only

theorem State.beginCru_canonical (s : State) (x1) (x2) (h : s.mem.wf = true) :
    (State.beginCru s x1 x2).mem.wf = true := by
  unfold State.beginCru
  repeat first | with_reducible assumption | (with_reducible intro _) | (with_reducible apply State.pendCru_canonical)
               | (with_reducible apply State.sendFlit_canonical) | (with_reducible apply State.sendAll_canonical)
               | (with_reducible apply foldl_canonical) | dsimp only | split

theorem State.readCru_canonical (s : State) (x1) (x2) (h : s.mem.wf = true) :
    (State.readCru s x1 x2).mem.wf = true := by
  unfold State.readCru
  repeat first | with_reducible assumption | (with_reducible intro _) | (with_reducible apply State.beginCru_canonical)
               | (with_reducible apply State.fetchSector_canonical) | (with_reducible apply State.pendCru_canonical)
               | (with_reducible apply State.cruStop_canonical) | (with_reducible apply State.undo_canonical)
               | dsimp only | split | (refine fst_of (by assumption) ?_)

theorem State.startCru_canonical (s : State) (x1) (x2) (h : s.mem.wf = true) :
    (State.startCru s x1 x2).mem.wf = true := by
  unfold State.startCru
  repeat first | with_reducible assumption | (with_reducible intro _) | (with_reducible apply State.endCru_canonical)
               | (with_reducible apply State.readCru_canonical) | dsimp only | split

theorem State.reduceCru_canonical (s : State) (x1) (x2) (h : s.mem.wf = true) :
    (State.reduceCru s x1 x2).1.mem.wf = true := by
  unfold State.reduceCru
  repeat first | with_reducible assumption | (with_reducible intro _) | (with_reducible apply State.sendAll_canonical)
               | dsimp only | split

theorem State.writeElems_canonical (s : State) (x1) (x2) (x3) (x4) (x5) (x6) (h : s.mem.wf = true) :
    (State.writeElems s x1 x2 x3 x4 x5 x6).1.mem.wf = true := by
  unfold State.writeElems
  repeat first | with_reducible assumption | (with_reducible intro _) | (with_reducible apply State.writeAll_canonical)
               | (with_reducible apply State.readBytes_canonical) | dsimp only | split
               | (refine fst_of (by assumption) ?_)

theorem State.writeRunsOf_canonical (s : State) (x1) (x2) (x3) (h : s.mem.wf = true) :
    (State.writeRunsOf s x1 x2 x3).1.mem.wf = true := by
  induction x3 generalizing s x2 with
  | nil =>
    unfold State.writeRunsOf
    repeat first | with_reducible assumption | (with_reducible intro _)
                 | (with_reducible apply State.writeElems_canonical) | dsimp only | split
                 | (refine fst_of (by assumption) ?_)
  | cons a l ih =>
    unfold State.writeRunsOf
    repeat first | with_reducible assumption | (with_reducible intro _) | (with_reducible apply ih)
                 | (with_reducible apply State.writeElems_canonical) | dsimp only | split
                 | (refine fst_of (by assumption) ?_)

theorem State.writeResults_canonical (s : State) (x1) (x2) (h : s.mem.wf = true) :
    (State.writeResults s x1 x2).1.mem.wf = true := by
  unfold State.writeResults
  repeat first | with_reducible assumption | (with_reducible intro _)
               | (with_reducible apply State.writeRunsOf_canonical) | dsimp only | (refine fst_of (by assumption) ?_)

theorem State.leadCru_canonical (s : State) (x1) (x2) (h : s.mem.wf = true) :
    (State.leadCru s x1 x2).mem.wf = true := by
  unfold State.leadCru
  repeat first | with_reducible assumption | (with_reducible intro _) | (with_reducible apply State.pendCru_canonical)
               | (with_reducible apply State.commitCru_canonical) | (with_reducible apply State.send_canonical)
               | (with_reducible apply State.setCru_canonical) | dsimp only | split

theorem State.settleCru_canonical (s : State) (x1) (x2) (h : s.mem.wf = true) :
    (State.settleCru s x1 x2).mem.wf = true := by
  unfold State.settleCru
  repeat first | with_reducible assumption | (with_reducible intro _) | (with_reducible apply State.pendCru_canonical)
               | (with_reducible apply State.leadCru_canonical) | (with_reducible apply State.doneCru_canonical)
               | (with_reducible apply State.setCru_canonical) | (with_reducible apply State.send_canonical)
               | dsimp only | split

theorem State.advanceCru_canonical (s : State) (x1) (x2) (h : s.mem.wf = true) :
    (State.advanceCru s x1 x2).mem.wf = true := by
  unfold State.advanceCru
  repeat first | with_reducible assumption | (with_reducible intro _) | (with_reducible apply State.landCru_canonical)
               | (with_reducible apply State.doneCru_canonical) | (with_reducible apply State.commitCru_canonical)
               | (with_reducible apply State.endCru_canonical) | (with_reducible apply State.pendCru_canonical)
               | (with_reducible apply State.startCru_canonical) | (with_reducible apply State.readCru_canonical)
               | (with_reducible apply State.reduceCru_canonical) | (with_reducible apply State.writeResults_canonical)
               | (with_reducible apply State.cruStop_canonical) | (with_reducible apply State.settleCru_canonical)
               | dsimp only | split | (refine fst_of (by assumption) ?_)

theorem State.buryCru_canonical (s : State) (x1) (x2) (h : s.mem.wf = true) :
    (State.buryCru s x1 x2).mem.wf = true := by
  unfold State.buryCru
  repeat first | with_reducible assumption | (with_reducible intro _) | (with_reducible apply State.tryAdd_canonical)
               | (with_reducible apply State.pendCru_canonical) | (with_reducible apply State.performOf_canonical)
               | (with_reducible apply State.engineDone_canonical) | (with_reducible apply State.modCore_canonical)
               | dsimp only | split | (refine fst_of (by assumption) ?_)

theorem State.regCover_canonical (s : State) (x1) (x2) (x3) (h : s.mem.wf = true) :
    resIn (State.regCover s x1 x2 x3) := by
  unfold State.regCover
  repeat first | with_reducible assumption | (with_reducible intro _) | (with_reducible apply resCanonical_fault)
               | (with_reducible exact resIn_none) | (with_reducible apply resIn_some) | dsimp only | split
theorem State.regCover_canonical_eq {s : State} {x1} {x2} {x3} {r} (e : State.regCover s x1 x2 x3 = some r) (h : s.mem.wf = true) :
    resCanonical r := State.regCover_canonical s x1 x2 x3 h _ e

theorem State.stageFault_canonical (s : State) (c n) (h : s.mem.wf = true) : resIn (s.stageFault c n) := by
  unfold State.stageFault
  extract_lets c0 region
  apply resIn_findSome
  intro a
  split
  · exact resIn_some (resCanonical_fault h)
  · split
    · split
      · exact resIn_none
      · exact resIn_some (resCanonical_fault h)
    · exact resIn_some (resCanonical_stop h)

theorem State.stageFault_canonical_eq {s : State} {c n r} (e : s.stageFault c n = some r) (h : s.mem.wf = true) :
    resCanonical r := State.stageFault_canonical s c n h _ e

theorem State.sideFault_canonical (s : State) (l d g) (h : s.mem.wf = true) : resIn (s.sideFault l d g) := by
  unfold State.sideFault
  dsimp only
  split
  · rename_i e
    split at e
    · cases e
    · exact resIn_some (State.regCover_canonical_eq e h)
  · split
    · exact resIn_some (State.regCover_canonical_eq (by assumption) h)
    · split
      · exact resIn_none
      · split
        · exact resIn_some (State.regCover_canonical_eq (by assumption) h)
        · exact State.stageFault_canonical _ _ _ h

theorem State.sideFault_canonical_eq {s : State} {l d g r} (e : s.sideFault l d g = some r) (h : s.mem.wf = true) :
    resCanonical r := State.sideFault_canonical s l d g h _ e

theorem State.residualCap_canonical (s : State) (x1) (x2) (h : s.mem.wf = true) :
    (State.residualCap s x1 x2).1.mem.wf = true := by
  unfold State.residualCap
  repeat first | with_reducible assumption | (with_reducible intro _) | (with_reducible apply translate_canonical)
               | (with_reducible apply State.readPlace_canonical) | dsimp only | split
               | (refine fst_of (by assumption) ?_)

theorem State.cruChecks_canonical (s : State) (x1) (h1 : ∀ u a1 a2, u.mem.wf = true → resCanonical (x1 u a1 a2)) (h : s.mem.wf = true) :
    resCanonical (State.cruChecks s x1) := by
  unfold State.cruChecks
  repeat first | with_reducible assumption | (with_reducible intro _) | (with_reducible apply regFault_canonical)
               | (with_reducible apply State.sideFault_canonical) | (with_reducible apply State.residualCap_canonical)
               | (with_reducible apply State.regCover_canonical) | (with_reducible apply h1)
               | (with_reducible apply resCanonical_stop) | dsimp only | split
               | (refine State.sideFault_canonical_eq (by assumption) ?_)
               | (refine State.regCover_canonical_eq (by assumption) ?_) | (refine fst_of (by assumption) ?_)

theorem State.launchCru_canonical (s : State) (x1) (h : s.mem.wf = true) : (State.launchCru s x1).mem.wf = true := by
  unfold State.launchCru
  repeat first | with_reducible assumption | (with_reducible intro _) | (with_reducible apply State.addAgenda_canonical)
               | (with_reducible apply State.modCore_canonical) | dsimp only

theorem execCollectiveAbort_canonical (x0) (x1) (s : State) (h : s.mem.wf = true) :
    goesOn (execCollectiveAbort x0 x1 s) := by
  unfold execCollectiveAbort
  repeat first | with_reducible assumption | (with_reducible intro _) | (with_reducible apply State.endCru_canonical)
               | (with_reducible apply goesOn_next) | dsimp only | split

theorem execCollectiveCommit_canonical (x0) (x1) (s : State) (h : s.mem.wf = true) :
    goesOn (execCollectiveCommit x0 x1 s) := by
  unfold execCollectiveCommit
  repeat first | with_reducible assumption | (with_reducible intro _) | (with_reducible apply State.commitCru_canonical)
               | (with_reducible apply goesOn_next) | dsimp only | split

theorem execCollectiveEnd_canonical (x0) (x1) (s : State) (h : s.mem.wf = true) :
    goesOn (execCollectiveEnd x0 x1 s) := by
  unfold execCollectiveEnd
  repeat first | with_reducible assumption | (with_reducible intro _)
               | (with_reducible apply State.advanceCru_canonical) | (with_reducible apply State.tellCru_canonical)
               | (with_reducible apply State.buryCru_canonical) | (with_reducible apply goesOn_next) | dsimp only
               | split | (refine fst_of (by assumption) ?_)

theorem execCollectiveFlit_canonical (x0) (x1) (x2) (x3) (x4) (x5) (s : State) (h : s.mem.wf = true) :
    goesOn (execCollectiveFlit x0 x1 x2 x3 x4 x5 s) := by
  unfold execCollectiveFlit
  repeat first | with_reducible assumption | (with_reducible intro _) | (with_reducible apply State.endCru_canonical)
               | (with_reducible apply State.setCru_canonical) | (with_reducible apply State.advanceCru_canonical)
               | (with_reducible apply goesOn_next) | dsimp only | split

theorem execCollectiveReady_canonical (x0) (x1) (x2) (s : State) (h : s.mem.wf = true) :
    goesOn (execCollectiveReady x0 x1 x2 s) := by
  unfold execCollectiveReady
  repeat first | with_reducible assumption | (with_reducible intro _) | (with_reducible apply State.leadCru_canonical)
               | (with_reducible apply goesOn_next) | dsimp only | split

theorem execCollectiveTimeout_canonical (x0) (x1) (s : State) (h : s.mem.wf = true) :
    goesOn (execCollectiveTimeout x0 x1 s) := by
  unfold execCollectiveTimeout
  repeat first | with_reducible assumption | (with_reducible intro _) | (with_reducible apply State.endCru_canonical)
               | (with_reducible apply goesOn_next) | dsimp only | split

theorem execCruGet_canonical (x0) (x1) (x2) (s : State) (h : s.mem.wf = true) : goesOn (execCruGet x0 x1 x2 s) := by
  unfold execCruGet
  repeat first | with_reducible assumption | (with_reducible intro _) | (with_reducible apply Form.run_canonical)
               | (with_reducible apply State.setC_canonical) | (with_reducible exact goesOn_fault _)
               | (with_reducible apply resCanonical_done) | (with_reducible apply resCanonical_fault) | dsimp only
               | split

theorem execCruGo_canonical (x0) (x1) (s : State) (h : s.mem.wf = true) : goesOn (execCruGo x0 x1 s) := by
  unfold execCruGo
  repeat first | with_reducible assumption | (with_reducible intro _) | (with_reducible apply Form.run_canonical)
               | (with_reducible apply State.cruChecks_canonical) | (with_reducible apply State.released_canonical)
               | (with_reducible apply State.memberBirth_canonical) | (with_reducible apply birthFault_canonical)
               | (with_reducible apply State.setX_canonical) | (with_reducible apply State.launchCru_canonical)
               | (with_reducible apply resCanonical_done) | (with_reducible apply resCanonical_stall) | dsimp only
               | split | (refine fst_of (by assumption) ?_)

theorem execCruSet_canonical (x0) (x1) (x2) (s : State) (h : s.mem.wf = true) : goesOn (execCruSet x0 x1 x2 s) := by
  unfold execCruSet
  repeat first | with_reducible assumption | (with_reducible intro _) | (with_reducible apply Form.run_canonical)
               | (with_reducible apply State.modCur_canonical) | (with_reducible exact goesOn_fault _)
               | (with_reducible apply resCanonical_done) | (with_reducible apply resCanonical_fault) | dsimp only
               | split

theorem execCruStat_canonical (x0) (x1) (x2) (s : State) (h : s.mem.wf = true) : goesOn (execCruStat x0 x1 x2 s) := by
  unfold execCruStat
  repeat first | with_reducible assumption | (with_reducible intro _) | (with_reducible apply Form.run_canonical)
               | (with_reducible apply State.setX_canonical) | (with_reducible apply resCanonical_done) | dsimp only

theorem State.dropAsid_canonical (s : State) (x1) (h : s.mem.wf = true) : (State.dropAsid s x1).mem.wf = true := by
  unfold State.dropAsid
  repeat first | with_reducible assumption | (with_reducible intro _) | dsimp only

theorem State.dropTranslation_canonical (s : State) (x1) (x2) (h : s.mem.wf = true) :
    (State.dropTranslation s x1 x2).mem.wf = true := by
  unfold State.dropTranslation
  repeat first | with_reducible assumption | (with_reducible intro _) | dsimp only

theorem State.setCsr_canonical (s : State) (x1) (x2) (h : s.mem.wf = true) : (State.setCsr s x1 x2).mem.wf = true := by
  unfold State.setCsr
  repeat first | with_reducible assumption | (with_reducible intro _) | (with_reducible apply State.modCur_canonical)
               | (with_reducible apply State.modDie_canonical) | dsimp only | split

theorem csrOp_canonical (i g reads d n write new) (s : State) (h : s.mem.wf = true) :
    goesOn (csrOp i g reads d n write new s) := by
  unfold csrOp
  extract_lets form
  apply Form.run_canonical _ _ _ _ h
  intro u hu
  split
  · exact hu
  · exact hu
  · exact State.registerError_canonical _ hu
  · apply resCanonical_done
    apply State.setX_canonical
    split
    · exact State.setCsr_canonical _ _ _ hu
    · exact hu

theorem execBrk_canonical (x0) (s : State) (h : s.mem.wf = true) : goesOn (execBrk x0 s) := by
  unfold execBrk
  repeat first | with_reducible assumption | (with_reducible intro _) | (with_reducible apply Form.run_canonical)
               | (with_reducible apply resCanonical_trap) | dsimp only

theorem execCsrc_canonical (x0) (x1) (x2) (x3) (s : State) (h : s.mem.wf = true) : goesOn (execCsrc x0 x1 x2 x3 s) := by
  unfold execCsrc
  repeat first | with_reducible assumption | (with_reducible intro _) | (with_reducible apply csrOp_canonical)
               | dsimp only

theorem execCsrr_canonical (x0) (x1) (x2) (s : State) (h : s.mem.wf = true) : goesOn (execCsrr x0 x1 x2 s) := by
  unfold execCsrr
  repeat first | with_reducible assumption | (with_reducible intro _) | (with_reducible apply csrOp_canonical)
               | dsimp only

theorem execCsrs_canonical (x0) (x1) (x2) (x3) (s : State) (h : s.mem.wf = true) : goesOn (execCsrs x0 x1 x2 x3 s) := by
  unfold execCsrs
  repeat first | with_reducible assumption | (with_reducible intro _) | (with_reducible apply csrOp_canonical)
               | dsimp only | split

theorem execCsrw_canonical (x0) (x1) (x2) (x3) (s : State) (h : s.mem.wf = true) : goesOn (execCsrw x0 x1 x2 x3 s) := by
  unfold execCsrw
  repeat first | with_reducible assumption | (with_reducible intro _) | (with_reducible apply csrOp_canonical)
               | dsimp only

theorem privOnly_canonical (s : State) (x1) (h1 : ∀ u, u.mem.wf = true → resCanonical (x1 u)) (h : s.mem.wf = true) :
    resCanonical (privOnly s x1) := by
  unfold privOnly
  repeat first | with_reducible assumption | (with_reducible intro _) | (with_reducible apply h1)
               | (with_reducible apply resCanonical_fault) | dsimp only | split

theorem execEret_canonical (x0) (s : State) (h : s.mem.wf = true) : goesOn (execEret x0 s) := by
  unfold execEret
  repeat first | with_reducible assumption | (with_reducible intro _) | (with_reducible apply Form.run_canonical)
               | (with_reducible apply privOnly_canonical) | (with_reducible apply State.modCur_canonical)
               | (with_reducible apply resCanonical_away) | dsimp only

theorem execHalt_canonical (x0) (s : State) (h : s.mem.wf = true) : goesOn (execHalt x0 s) := by
  unfold execHalt
  repeat first | with_reducible assumption | (with_reducible intro _) | (with_reducible apply Form.run_canonical)
               | (with_reducible apply State.closeOpened_canonical) | (with_reducible apply State.released_canonical)
               | (with_reducible apply State.askPosted_canonical) | (with_reducible apply State.retireCur_canonical)
               | (with_reducible apply resCanonical_trap) | (with_reducible apply resCanonical_stall)
               | (with_reducible apply resCanonical_away) | dsimp only | split

theorem execIllegalInstruction_canonical (x0) (s : State) (h : s.mem.wf = true) :
    goesOn (execIllegalInstruction x0 s) := by
  unfold execIllegalInstruction
  repeat first | with_reducible assumption | (with_reducible intro _) | (with_reducible apply State.takeTrap_canonical)
               | (with_reducible apply State.modCur_canonical) | (with_reducible apply goesOn_next)
               | (with_reducible apply resCanonical_trap) | dsimp only

theorem execInterrupt_canonical (x0) (s : State) (h : s.mem.wf = true) : goesOn (execInterrupt x0 s) := by
  unfold execInterrupt
  repeat first | with_reducible assumption | (with_reducible intro _) | (with_reducible apply State.modCur_canonical)
               | (with_reducible apply State.modDie_canonical) | (with_reducible apply goesOn_next) | dsimp only | split

theorem execSysCall_canonical (x0) (x1) (s : State) (h : s.mem.wf = true) : goesOn (execSysCall x0 x1 s) := by
  unfold execSysCall
  repeat first | with_reducible assumption | (with_reducible intro _) | (with_reducible apply Form.run_canonical)
               | (with_reducible apply State.released_canonical) | (with_reducible apply State.memberBirth_canonical)
               | (with_reducible apply birthFault_canonical) | (with_reducible apply State.benchPush_canonical)
               | (with_reducible apply State.suspendCur_canonical) | (with_reducible apply resCanonical_away)
               | dsimp only | split | (refine fst_of (by assumption) ?_)

theorem execTlbAll_canonical (x0) (x1) (s : State) (h : s.mem.wf = true) : goesOn (execTlbAll x0 x1 s) := by
  unfold execTlbAll
  repeat first | with_reducible assumption | (with_reducible intro _) | (with_reducible apply Form.run_canonical)
               | (with_reducible apply privOnly_canonical) | (with_reducible apply State.fenceAcquire_canonical)
               | (with_reducible apply State.released_canonical) | (with_reducible apply State.fenced_canonical)
               | (with_reducible apply State.dropAsid_canonical) | (with_reducible apply resCanonical_done) | dsimp only

theorem execTlbInv_canonical (x0) (x1) (x2) (s : State) (h : s.mem.wf = true) : goesOn (execTlbInv x0 x1 x2 s) := by
  unfold execTlbInv
  repeat first | with_reducible assumption | (with_reducible intro _) | (with_reducible apply Form.run_canonical)
               | (with_reducible apply privOnly_canonical) | (with_reducible apply State.fenceAcquire_canonical)
               | (with_reducible apply State.released_canonical) | (with_reducible apply State.fenced_canonical)
               | (with_reducible apply State.dropTranslation_canonical) | (with_reducible apply resCanonical_done)
               | dsimp only

theorem execTrap_canonical (x0) (x1) (s : State) (h : s.mem.wf = true) : goesOn (execTrap x0 x1 s) := by
  unfold execTrap
  repeat first | with_reducible assumption | (with_reducible intro _) | (with_reducible apply Form.run_canonical)
               | (with_reducible apply resCanonical_trap) | dsimp only

theorem execYield_canonical (x0) (s : State) (h : s.mem.wf = true) : goesOn (execYield x0 s) := by
  unfold execYield
  repeat first | with_reducible assumption | (with_reducible intro _) | (with_reducible apply Form.run_canonical)
               | (with_reducible apply State.released_canonical) | (with_reducible apply State.readyOr_canonical)
               | (with_reducible apply State.suspendCur_canonical) | (with_reducible apply State.pushTop_canonical)
               | (with_reducible apply resCanonical_away) | dsimp only

end Sys2Proof.Machine
end

