-- ==== Sys2Proof/Laws/CanonicalEvents.lean ====
section
/-!
SUPPORT. Every event of the device keeps memory in its canonical form: one lemma for each operation and meaning.
-/
namespace Sys2Proof.Machine

set_option Elab.async false

theorem State.addPair_canonical (s : State) (x1) (x2) (h : s.mem.wf = true) :
    (State.addPair s x1 x2).mem.wf = true := by
  unfold State.addPair
  repeat first | with_reducible assumption | (with_reducible intro _) | dsimp only | split

theorem State.releaseBlocks_canonical (s : State) (x1) (x2) (h : s.mem.wf = true) :
    (State.releaseBlocks s x1 x2).mem.wf = true := by
  unfold State.releaseBlocks
  repeat first | with_reducible assumption | (with_reducible intro _) | (with_reducible apply State.pushPool_canonical)
               | (with_reducible apply State.put64_canonical) | dsimp only | split

theorem State.dropBlocks_canonical (s : State) (x1) (h : s.mem.wf = true) : (State.dropBlocks s x1).mem.wf = true := by
  unfold State.dropBlocks
  repeat first | with_reducible assumption | (with_reducible intro _)
               | (with_reducible apply State.releaseBlocks_canonical) | dsimp only | split

theorem State.enter_canonical (s : State) (x1) (h : s.mem.wf = true) : (State.enter s x1).mem.wf = true := by
  unfold State.enter
  repeat first | with_reducible assumption | (with_reducible intro _) | dsimp only | split

theorem State.migrate_canonical (s : State) (x1) (x2) (h : s.mem.wf = true) :
    (State.migrate s x1 x2).mem.wf = true := by
  unfold State.migrate
  repeat first | with_reducible assumption | (with_reducible intro _) | (with_reducible apply State.applyAll_canonical)
               | dsimp only | split

theorem State.noteRun_canonical (s : State) (x1) (h : s.mem.wf = true) : (State.noteRun s x1).mem.wf = true := by
  unfold State.noteRun
  repeat first | with_reducible assumption | (with_reducible intro _) | dsimp only | split

theorem State.offerNext_canonical (s : State) (x1) (h : s.mem.wf = true) : (State.offerNext s x1).mem.wf = true := by
  unfold State.offerNext
  repeat first | with_reducible assumption | (with_reducible intro _) | (with_reducible apply State.kick_canonical)
               | dsimp only | split

theorem State.pairUp_canonical_eq {s s' : State} {c : CoreId} {k : Handle} {t : Strand} (e : s.pairUp c k t = some s')
    (h : s.mem.wf = true) : s'.mem.wf = true := by
  unfold State.pairUp at e
  split at e
  · rw [Option.map_eq_some_iff] at e
    obtain ⟨x, _, e⟩ := e
    subst e
    exact State.addPair_canonical _ _ _ h
  · cases e
    exact h

theorem State.popDeque_canonical (s : State) (x1) (h : s.mem.wf = true) :
    canonicalIn (State.popDeque s x1) Prod.snd := by
  unfold State.popDeque
  repeat first | with_reducible assumption | (with_reducible intro _) | (with_reducible apply State.setCore_canonical)
               | (with_reducible exact canonicalIn_none _) | (with_reducible apply canonicalIn_some) | dsimp only
               | split
theorem State.popDeque_canonical_eq {s s' : State} {x1} {r} (e : State.popDeque s x1 = some (r, s')) (h : s.mem.wf = true) :
    s'.mem.wf = true := State.popDeque_canonical s x1 h _ e

theorem State.putBack_canonical (s : State) (x1) (x2) (h : s.mem.wf = true) :
    (State.putBack s x1 x2).mem.wf = true := by
  unfold State.putBack
  repeat first | with_reducible assumption | (with_reducible intro _) | (with_reducible apply State.kick_canonical)
               | (with_reducible apply State.modCore_canonical) | dsimp only

theorem State.resumePoint_canonical (s : State) (x1) (h : s.mem.wf = true) :
    (State.resumePoint s x1).mem.wf = true := by
  unfold State.resumePoint
  repeat first | with_reducible assumption | (with_reducible intro _)
               | (with_reducible apply State.actOnCancel_canonical) | (with_reducible apply State.modCur_canonical)
               | (with_reducible apply State.presentWait_canonical) | dsimp only | split

theorem State.resumeRecord_canonical (s : State) (c : CoreId) (k : Handle) (h : s.mem.wf = true) :
    (s.resumeRecord c k).mem.wf = true := by
  unfold State.resumeRecord
  extract_lets r u t
  have hu : u.mem.wf = true := State.checkPath_canonical _ _ _ (State.migrate_canonical _ _ _ h)
  split
  · exact State.putBack_canonical _ _ _ hu
  · rename_i v e
    have hv := State.pairUp_canonical_eq e hu
    clear e
    extract_lets stopped wait x y
    have hx : x.mem.wf = true := by
      simp only [x]
      split
      · exact hv
      · exact hv
    have hy : y.mem.wf = true := by
      simp only [y]
      split
      · exact State.releaseBlocks_canonical _ _ _ hx
      · exact hx
    exact State.resumePoint_canonical _ _ (State.enter_canonical _ _ (State.noteRun_canonical _ _ hy))

theorem State.retireSuspended_canonical (s : State) (x1) (h : s.mem.wf = true) :
    (State.retireSuspended s x1).mem.wf = true := by
  unfold State.retireSuspended
  repeat first | with_reducible assumption | (with_reducible intro _)
               | (with_reducible apply State.strandEnds_canonical) | (with_reducible apply State.closeOpened_canonical)
               | (with_reducible apply State.dropBlocks_canonical) | dsimp only

theorem State.setPair_canonical (s : State) (x1) (h : s.mem.wf = true) : (State.setPair s x1).mem.wf = true := by
  unfold State.setPair
  repeat first | with_reducible assumption | (with_reducible intro _) | dsimp only | split

theorem State.takeInvalid_canonical (s : State) (x1) (x2) (h : s.mem.wf = true) :
    (State.takeInvalid s x1 x2).mem.wf = true := by
  unfold State.takeInvalid
  repeat first | with_reducible assumption | (with_reducible intro _)
               | (with_reducible apply State.checkQueue_canonical) | (with_reducible apply State.postFault_canonical)
               | (with_reducible apply State.putBack_canonical) | dsimp only | split
               | (refine fst_of (by assumption) ?_)

theorem State.takeRecord_canonical (s : State) (x1) (x2) (h : s.mem.wf = true) :
    (State.takeRecord s x1 x2).mem.wf = true := by
  unfold State.takeRecord
  repeat first | with_reducible assumption | (with_reducible intro _)
               | (with_reducible apply State.retireSuspended_canonical)
               | (with_reducible apply State.chainAdd_canonical) | (with_reducible apply State.refuse_canonical)
               | (with_reducible apply State.takeInvalid_canonical)
               | (with_reducible apply State.resumeRecord_canonical) | (with_reducible apply State.putBack_canonical)
               | dsimp only | split

theorem State.takeFrom_canonical (s : State) (x1) (x2) (h : s.mem.wf = true) :
    (State.takeFrom s x1 x2).mem.wf = true := by
  unfold State.takeFrom
  repeat first | with_reducible assumption | (with_reducible intro _) | (with_reducible apply State.offerNext_canonical)
               | (with_reducible apply State.takeRecord_canonical) | (with_reducible apply State.refill_canonical)
               | (with_reducible apply State.modCore_canonical) | dsimp only | split

theorem State.visit_canonical (s : State) (x1) (x2) (h : s.mem.wf = true) : (State.visit s x1 x2).mem.wf = true := by
  unfold State.visit
  repeat first | with_reducible assumption | (with_reducible intro _) | (with_reducible apply State.modCore_canonical)
               | dsimp only | split

theorem State.stealBy_canonical (s : State) (x1) (x2) (h : s.mem.wf = true) :
    (State.stealBy s x1 x2).mem.wf = true := by
  unfold State.stealBy
  repeat first | with_reducible assumption | (with_reducible intro _) | (with_reducible apply State.takeFrom_canonical)
               | (with_reducible apply State.modCore_canonical) | (with_reducible apply State.visit_canonical)
               | dsimp only | split

theorem State.stealStep_canonical (s : State) (x1) (h : s.mem.wf = true) : (State.stealStep s x1).mem.wf = true := by
  unfold State.stealStep
  repeat first | with_reducible assumption | (with_reducible intro _) | (with_reducible apply State.modCore_canonical)
               | (with_reducible apply State.stealBy_canonical) | dsimp only | split

theorem execSteal_canonical (x0) (x1) (s : State) (h : s.mem.wf = true) : goesOn (execSteal x0 x1 s) := by
  unfold execSteal
  repeat first | with_reducible assumption | (with_reducible intro _) | (with_reducible apply State.stealBy_canonical)
               | (with_reducible apply goesOn_next) | dsimp only

theorem execStealWaitExpiry_canonical (x0) (s : State) (h : s.mem.wf = true) : goesOn (execStealWaitExpiry x0 s) := by
  unfold execStealWaitExpiry
  repeat first | with_reducible assumption | (with_reducible intro _) | (with_reducible apply State.modCore_canonical)
               | (with_reducible apply goesOn_next) | dsimp only

theorem execStrandResume_canonical (x0) (s : State) (h : s.mem.wf = true) : goesOn (execStrandResume x0 s) := by
  unfold execStrandResume
  repeat first | with_reducible assumption | (with_reducible intro _) | (with_reducible apply State.refill_canonical)
               | (with_reducible apply State.popDeque_canonical) | (with_reducible apply State.offerNext_canonical)
               | (with_reducible apply State.takeRecord_canonical) | (with_reducible apply goesOn_next) | dsimp only
               | split | (refine State.popDeque_canonical_eq (by assumption) ?_)

theorem State.againQuantum_canonical (s : State) (x1) (x2) (h : s.mem.wf = true) :
    (State.againQuantum s x1 x2).mem.wf = true := by
  unfold State.againQuantum
  repeat first | with_reducible assumption | (with_reducible intro _) | (with_reducible apply State.offer_canonical)
               | dsimp only | split

theorem State.birthRecord_canonical (s : State) (x1) (x2) (x3) (x4) (x5) (h : s.mem.wf = true) :
    (State.birthRecord s x1 x2 x3 x4 x5).mem.wf = true := by
  unfold State.birthRecord
  repeat first | with_reducible assumption | (with_reducible intro _) | (with_reducible apply State.put64_canonical)
               | (with_reducible apply State.putC_canonical) | dsimp only

theorem State.putSwap_canonical (s : State) (x1) (x2) (x3) (h : s.mem.wf = true) :
    (State.putSwap s x1 x2 x3).mem.wf = true := by
  unfold State.putSwap
  repeat first | with_reducible assumption | (with_reducible intro _) | (with_reducible apply State.put64_canonical)
               | dsimp only

theorem State.countQuantum_canonical (s : State) (x1) (h : s.mem.wf = true) :
    (State.countQuantum s x1).mem.wf = true := by
  unfold State.countQuantum
  repeat first | with_reducible assumption | (with_reducible intro _) | (with_reducible apply State.putSwap_canonical)
               | dsimp only

theorem State.countTimes_canonical (s : State) (x1) (h : s.mem.wf = true) : (State.countTimes s x1).mem.wf = true := by
  unfold State.countTimes
  repeat first | with_reducible assumption | (with_reducible intro _) | (with_reducible apply State.countTime_canonical)
               | (with_reducible apply foldl_canonical) | dsimp only

theorem State.drainDeques_canonical (s : State) (x1) (x2) (h : s.mem.wf = true) :
    (State.drainDeques s x1 x2).mem.wf = true := by
  unfold State.drainDeques
  repeat first | with_reducible assumption | (with_reducible intro _) | (with_reducible apply State.setCore_canonical)
               | (with_reducible apply State.refill_canonical) | (with_reducible apply State.setReady_canonical)
               | (with_reducible apply foldl_canonical) | dsimp only

theorem State.setEntry_canonical (s : State) (x1) (x2) (x3) (h : s.mem.wf = true) :
    (State.setEntry s x1 x2 x3).mem.wf = true := by
  unfold State.setEntry
  repeat first | with_reducible assumption | (with_reducible intro _) | (with_reducible apply State.modDie_canonical)
               | dsimp only | split

theorem State.forward_canonical (s : State) (x1) (x2) (x3) (h : s.mem.wf = true) :
    (State.forward s x1 x2 x3).mem.wf = true := by
  unfold State.forward
  repeat first | with_reducible assumption | (with_reducible intro _) | (with_reducible apply State.pushPool_canonical)
               | (with_reducible apply State.setEntry_canonical) | (with_reducible apply State.offer_canonical)
               | (with_reducible apply State.modDie_canonical) | (with_reducible apply foldl_canonical) | dsimp only
               | split

theorem State.modSlot_canonical (s : State) (x1) (x2) (x3) (h : s.mem.wf = true) :
    (State.modSlot s x1 x2 x3).mem.wf = true := by
  unfold State.modSlot
  repeat first | with_reducible assumption | (with_reducible intro _) | dsimp only | split

theorem State.pushStrands_canonical (s : State) (x1) (x2) (x3) (h : s.mem.wf = true) :
    (State.pushStrands s x1 x2 x3).mem.wf = true := by
  unfold State.pushStrands
  repeat first | with_reducible assumption | (with_reducible intro _) | (with_reducible apply State.deliver_canonical)
               | (with_reducible apply foldl_canonical) | dsimp only | split

theorem State.settleTeam_canonical (s : State) (x1) (h : s.mem.wf = true) : (State.settleTeam s x1).mem.wf = true := by
  unfold State.settleTeam
  repeat first | with_reducible assumption | (with_reducible intro _) | (with_reducible apply State.addAgenda_canonical)
               | (with_reducible apply State.modCluster_canonical) | dsimp only | split

theorem State.placeFresh_canonical (s : State) (x1) (x2) (x3) (x4) (x5) (h : s.mem.wf = true) :
    (State.placeFresh s x1 x2 x3 x4 x5).mem.wf = true := by
  unfold State.placeFresh
  repeat first | with_reducible assumption | (with_reducible intro _) | (with_reducible apply State.zeroRange_canonical)
               | (with_reducible apply State.birthRecord_canonical) | (with_reducible apply State.putN_canonical)
               | (with_reducible apply State.pushStrands_canonical) | (with_reducible apply State.settleTeam_canonical)
               | (with_reducible apply foldl_canonical) | dsimp only

theorem State.renameCores_canonical (s : State) (x1) (x2) (h : s.mem.wf = true) :
    (State.renameCores s x1 x2).mem.wf = true := by
  unfold State.renameCores
  repeat first | with_reducible assumption | (with_reducible intro _) | (with_reducible apply State.put64_canonical)
               | (with_reducible apply foldl_canonical) | dsimp only

theorem State.swapIn_canonical (s : State) (x1) (x2) (x3) (x4) (h : s.mem.wf = true) :
    (State.swapIn s x1 x2 x3 x4).mem.wf = true := by
  unfold State.swapIn
  repeat first | with_reducible assumption | (with_reducible intro _) | (with_reducible apply State.applyAll_canonical)
               | (with_reducible apply State.copyRange_canonical) | (with_reducible apply State.modCluster_canonical)
               | (with_reducible apply State.putSwap_canonical) | (with_reducible apply State.putN_canonical)
               | (with_reducible apply State.pushPool_canonical) | (with_reducible apply State.pushStrands_canonical)
               | (with_reducible apply State.settleTeam_canonical) | (with_reducible apply State.renameCores_canonical)
               | dsimp only | split

theorem State.placeAt_canonical (s : State) (x1) (x2) (x3) (x4) (h : s.mem.wf = true) :
    (State.placeAt s x1 x2 x3 x4).mem.wf = true := by
  unfold State.placeAt
  repeat first | with_reducible assumption | (with_reducible intro _)
               | (with_reducible apply State.placeFresh_canonical) | (with_reducible apply State.setEntry_canonical)
               | (with_reducible apply State.swapIn_canonical) | dsimp only | split

theorem State.preEmptSlot_canonical (s : State) (x1) (x2) (h : s.mem.wf = true) :
    (State.preEmptSlot s x1 x2).mem.wf = true := by
  unfold State.preEmptSlot
  repeat first | with_reducible assumption | (with_reducible intro _) | (with_reducible apply State.modSlot_canonical)
               | dsimp only | split

theorem State.stopTeam_canonical (s : State) (x1) (h : s.mem.wf = true) : (State.stopTeam s x1).mem.wf = true := by
  unfold State.stopTeam
  repeat first | with_reducible assumption | (with_reducible intro _) | dsimp only | split

theorem State.trySwap_canonical (s : State) (x1) (h : s.mem.wf = true) : (State.trySwap s x1).mem.wf = true := by
  unfold State.trySwap
  repeat first | with_reducible assumption | (with_reducible intro _) | (with_reducible apply State.popPool_canonical)
               | (with_reducible apply State.putSwap_canonical) | (with_reducible apply State.countTime_canonical)
               | (with_reducible apply State.offer_canonical) | (with_reducible apply State.drainDeques_canonical)
               | (with_reducible apply State.stopTeam_canonical) | (with_reducible apply foldl_canonical) | dsimp only
               | split | (refine State.popPool_canonical_eq (by assumption) ?_)

theorem State.preEmptTeam_canonical (s : State) (x1) (x2) (h : s.mem.wf = true) :
    (State.preEmptTeam s x1 x2).mem.wf = true := by
  unfold State.preEmptTeam
  repeat first | with_reducible assumption | (with_reducible intro _)
               | (with_reducible apply State.preEmptSlot_canonical) | (with_reducible apply State.trySwap_canonical)
               | dsimp only | split

theorem State.wakeListedIn_canonical (s : State) (x1) (x2) (h : s.mem.wf = true) :
    (State.wakeListedIn s x1 x2).mem.wf = true := by
  unfold State.wakeListedIn
  repeat first | with_reducible assumption | (with_reducible intro _) | (with_reducible apply State.setReady_canonical)
               | (with_reducible apply State.put64_canonical) | (with_reducible apply State.setOverflow_canonical)
               | (with_reducible apply foldl_canonical) | dsimp only | split

theorem State.saveTeam_canonical (s : State) (x1) (h : s.mem.wf = true) : (State.saveTeam s x1).mem.wf = true := by
  unfold State.saveTeam
  repeat first | with_reducible assumption | (with_reducible intro _) | (with_reducible apply State.performAt_canonical)
               | (with_reducible apply State.copyRange_canonical) | (with_reducible apply State.putBlock_canonical)
               | (with_reducible apply State.wakeListedIn_canonical) | (with_reducible apply State.modCluster_canonical)
               | (with_reducible apply State.putSwap_canonical) | dsimp only | split

theorem State.swapOut_canonical (s : State) (x1) (h : s.mem.wf = true) : (State.swapOut s x1).mem.wf = true := by
  unfold State.swapOut
  repeat first | with_reducible assumption | (with_reducible intro _) | (with_reducible apply State.saveTeam_canonical)
               | (with_reducible apply State.modCluster_canonical) | (with_reducible apply State.offer_canonical)
               | (with_reducible apply State.kickTeam_canonical) | (with_reducible apply State.modDie_canonical)
               | dsimp only | split

theorem State.takeBlock_canonical (s : State) (x1) (x2) (h : s.mem.wf = true) :
    (State.takeBlock s x1 x2).mem.wf = true := by
  unfold State.takeBlock
  repeat first | with_reducible assumption | (with_reducible intro _) | (with_reducible apply State.popPool_canonical)
               | (with_reducible apply State.setEntry_canonical) | dsimp only | split
               | (refine State.popPool_canonical_eq (by assumption) ?_)

theorem execPreEmptSlot_canonical (x0) (x1) (s : State) (h : s.mem.wf = true) : goesOn (execPreEmptSlot x0 x1 s) := by
  unfold execPreEmptSlot
  repeat first | with_reducible assumption | (with_reducible intro _)
               | (with_reducible apply State.preEmptSlot_canonical) | (with_reducible apply goesOn_next) | dsimp only

theorem execPreEmptTeam_canonical (x0) (x1) (s : State) (h : s.mem.wf = true) : goesOn (execPreEmptTeam x0 x1 s) := by
  unfold execPreEmptTeam
  repeat first | with_reducible assumption | (with_reducible intro _)
               | (with_reducible apply State.preEmptTeam_canonical) | (with_reducible apply goesOn_next) | dsimp only

theorem execQuantumEnd_canonical (x0) (x1) (s : State) (h : s.mem.wf = true) : goesOn (execQuantumEnd x0 x1 s) := by
  unfold execQuantumEnd
  repeat first | with_reducible assumption | (with_reducible intro _) | (with_reducible apply State.swapOut_canonical)
               | (with_reducible apply State.addAgenda_canonical) | (with_reducible apply State.countQuantum_canonical)
               | (with_reducible apply State.countTimes_canonical) | (with_reducible apply State.againQuantum_canonical)
               | (with_reducible apply State.trySwap_canonical) | (with_reducible apply goesOn_next) | dsimp only
               | split

theorem execTeamPlacement_canonical (x0) (s : State) (h : s.mem.wf = true) : goesOn (execTeamPlacement x0 s) := by
  unfold execTeamPlacement
  repeat first | with_reducible assumption | (with_reducible intro _) | (with_reducible apply State.offer_canonical)
               | (with_reducible apply State.forward_canonical) | (with_reducible apply State.countTimes_canonical)
               | (with_reducible apply State.takeBlock_canonical) | (with_reducible apply State.modDie_canonical)
               | (with_reducible apply State.placeAt_canonical) | (with_reducible apply goesOn_next) | dsimp only
               | split

theorem State.dropOpen_canonical (s : State) (x1) (x2) (x3) (h : s.mem.wf = true) :
    (State.dropOpen s x1 x2 x3).mem.wf = true := by
  unfold State.dropOpen
  repeat first | with_reducible assumption | (with_reducible intro _) | (with_reducible apply State.modDie_canonical)
               | dsimp only

theorem State.closeRecord_canonical (s : State) (x1) (x2) (x3) (x4) (h : s.mem.wf = true) :
    (State.closeRecord s x1 x2 x3 x4).mem.wf = true := by
  unfold State.closeRecord
  repeat first | with_reducible assumption | (with_reducible intro _) | (with_reducible apply State.dropOpen_canonical)
               | (with_reducible apply State.put64_canonical) | dsimp only | split

theorem State.killOpen_canonical (s : State) (x1) (x2) (h : s.mem.wf = true) :
    (State.killOpen s x1 x2).mem.wf = true := by
  unfold State.killOpen
  repeat first | with_reducible assumption | (with_reducible intro _)
               | (with_reducible apply State.closeRecord_canonical) | (with_reducible apply State.dropOpen_canonical)
               | (with_reducible apply State.deliver_canonical) | (with_reducible apply State.retireSuspended_canonical)
               | (with_reducible apply foldl_canonical) | dsimp only | split

theorem State.killRecords_canonical (s : State) (x1) (h : s.mem.wf = true) :
    (State.killRecords s x1).mem.wf = true := by
  unfold State.killRecords
  repeat first | with_reducible assumption | (with_reducible intro _) | (with_reducible apply State.killOpen_canonical)
               | (with_reducible apply foldl_canonical) | dsimp only

theorem State.passOver_canonical (s : State) (x1) (h : s.mem.wf = true) : (State.passOver s x1).mem.wf = true := by
  unfold State.passOver
  repeat first | with_reducible assumption | (with_reducible intro _) | (with_reducible apply State.put64_canonical)
               | dsimp only | split

theorem State.postHeldOf_canonical (s : State) (x1) (x2) (h : s.mem.wf = true) :
    (State.postHeldOf s x1 x2).mem.wf = true := by
  unfold State.postHeldOf
  repeat first | with_reducible assumption | (with_reducible intro _)
               | (with_reducible apply State.checkQueue_canonical) | (with_reducible apply State.postHeld_canonical)
               | (with_reducible apply State.modDie_canonical) | dsimp only | split | (refine fst_of (by assumption) ?_)

theorem State.resolveStrands_canonical (s : State) (x1) (x2) (x3) (x4) (h : s.mem.wf = true) :
    (State.resolveStrands s x1 x2 x3 x4).mem.wf = true := by
  unfold State.resolveStrands
  repeat first | with_reducible assumption | (with_reducible intro _)
               | (with_reducible apply State.retireSuspended_canonical)
               | (with_reducible apply State.passOver_canonical) | (with_reducible apply State.deliver_canonical)
               | (with_reducible apply foldl_canonical) | dsimp only | split

theorem State.resolve_canonical (s : State) (x1) (x2) (x3) (h : s.mem.wf = true) :
    (State.resolve s x1 x2 x3).mem.wf = true := by
  unfold State.resolve
  repeat first | with_reducible assumption | (with_reducible intro _) | (with_reducible apply State.refuse_canonical)
               | (with_reducible apply State.resolveStrands_canonical)
               | (with_reducible apply State.closeRecord_canonical) | dsimp only | split

theorem State.resolveWrite_canonical (s : State) (x1) (x2) (h : s.mem.wf = true) :
    (State.resolveWrite s x1 x2).mem.wf = true := by
  unfold State.resolveWrite
  repeat first | with_reducible assumption | (with_reducible intro _) | (with_reducible apply State.resolve_canonical)
               | (with_reducible apply State.refuse_canonical) | dsimp only | split

theorem execFaultQueueSlotFree_canonical (x0) (s : State) (h : s.mem.wf = true) :
    goesOn (execFaultQueueSlotFree x0 s) := by
  unfold execFaultQueueSlotFree
  repeat first | with_reducible assumption | (with_reducible intro _)
               | (with_reducible apply State.postHeldOf_canonical) | (with_reducible apply State.offer_canonical)
               | (with_reducible apply goesOn_next) | (with_reducible exact goesOn_fault _)
               | (with_reducible apply resCanonical_fault) | (with_reducible apply foldl_canonical) | dsimp only | split

theorem execResolveIgnored_canonical (x0) (x1) (s : State) (h : s.mem.wf = true) :
    goesOn (execResolveIgnored x0 x1 s) := by
  unfold execResolveIgnored
  repeat first | with_reducible assumption | (with_reducible intro _) | (with_reducible apply State.refuse_canonical)
               | (with_reducible apply goesOn_next) | dsimp only

theorem execResolveResume_canonical (x0) (x1) (s : State) (h : s.mem.wf = true) :
    goesOn (execResolveResume x0 x1 s) := by
  unfold execResolveResume
  repeat first | with_reducible assumption | (with_reducible intro _) | (with_reducible apply State.resolve_canonical)
               | (with_reducible apply goesOn_next) | dsimp only

theorem execResolveRetire_canonical (x0) (x1) (s : State) (h : s.mem.wf = true) :
    goesOn (execResolveRetire x0 x1 s) := by
  unfold execResolveRetire
  repeat first | with_reducible assumption | (with_reducible intro _) | (with_reducible apply State.resolve_canonical)
               | (with_reducible apply goesOn_next) | dsimp only

theorem execResolveRetry_canonical (x0) (x1) (s : State) (h : s.mem.wf = true) : goesOn (execResolveRetry x0 x1 s) := by
  unfold execResolveRetry
  repeat first | with_reducible assumption | (with_reducible intro _) | (with_reducible apply State.resolve_canonical)
               | (with_reducible apply goesOn_next) | dsimp only

theorem State.addHeld_canonical (s : State) (x1) (x2) (h : s.mem.wf = true) :
    (State.addHeld s x1 x2).1.mem.wf = true := by
  unfold State.addHeld
  repeat first | with_reducible assumption | (with_reducible intro _) | (with_reducible apply State.allPosted_canonical)
               | dsimp only | split | (refine fst_of (by assumption) ?_)

theorem State.answerCall_canonical (s : State) (x1) (x2) (x3) (x4) (h : s.mem.wf = true) :
    (State.answerCall s x1 x2 x3 x4).mem.wf = true := by
  unfold State.answerCall
  repeat first | with_reducible assumption | (with_reducible intro _) | (with_reducible apply State.addDue_canonical)
               | (with_reducible apply State.deliver_canonical) | (with_reducible apply State.put64_canonical)
               | dsimp only

theorem State.answerKilled_canonical (s : State) (x1) (h : s.mem.wf = true) :
    (State.answerKilled s x1).mem.wf = true := by
  unfold State.answerKilled
  repeat first | with_reducible assumption | (with_reducible intro _)
               | (with_reducible apply State.answerCall_canonical) | dsimp only | split

theorem State.freeScope_canonical (s : State) (x1) (x2) (h : s.mem.wf = true) :
    (State.freeScope s x1 x2).mem.wf = true := by
  unfold State.freeScope
  repeat first | with_reducible assumption | (with_reducible intro _) | (with_reducible apply State.putN_canonical)
               | (with_reducible apply State.unpinScope_canonical) | (with_reducible apply State.storeScope_canonical)
               | dsimp only

theorem State.closeScope_canonical (s : State) (x1) (x2) (h : s.mem.wf = true) :
    (State.closeScope s x1 x2).mem.wf = true := by
  unfold State.closeScope
  repeat first | with_reducible assumption | (with_reducible intro _)
               | (with_reducible apply State.completionAdd_canonical)
               | (with_reducible apply State.countDeath_canonical) | (with_reducible apply State.freeScope_canonical)
               | (with_reducible apply State.leaveQueues_canonical) | dsimp only | split

theorem State.regionWait_canonical (s : State) (x1) (x2) (x3) (h : s.mem.wf = true) :
    canonicalIn (State.regionWait s x1 x2 x3) fun x => x := by
  unfold State.regionWait
  repeat first | with_reducible assumption | (with_reducible intro _) | (with_reducible apply State.waitAt_canonical)
               | (with_reducible exact canonicalIn_none _) | (with_reducible apply canonicalIn_some) | dsimp only
               | split
theorem State.regionWait_canonical_eq {s s' : State} {x1} {x2} {x3} (e : State.regionWait s x1 x2 x3 = some s') (h : s.mem.wf = true) :
    s'.mem.wf = true := State.regionWait_canonical s x1 x2 x3 h _ e

theorem State.regionRecord_canonical (s : State) (x1) (x2) (x3) (x4) (x5) (x6) (h : s.mem.wf = true) :
    (State.regionRecord s x1 x2 x3 x4 x5 x6).mem.wf = true := by
  unfold State.regionRecord
  repeat first | with_reducible assumption | (with_reducible intro _) | (with_reducible apply State.postEvent_canonical)
               | dsimp only

theorem State.returnFrame_canonical (s : State) (x1) (x2) (x3) (h : s.mem.wf = true) :
    (State.returnFrame s x1 x2 x3).mem.wf = true := by
  unfold State.returnFrame
  repeat first | with_reducible assumption | (with_reducible intro _) | (with_reducible apply State.modFn_canonical)
               | (with_reducible apply State.rewriteGroup_canonical) | (with_reducible apply State.modLpn_canonical)
               | dsimp only

theorem State.discardRegionPage_canonical (s : State) (x1) (x2) (x3) (x4) (h : s.mem.wf = true) :
    (State.discardRegionPage s x1 x2 x3 x4).mem.wf = true := by
  unfold State.discardRegionPage
  repeat first | with_reducible assumption | (with_reducible intro _)
               | (with_reducible apply State.discardPage_canonical)
               | (with_reducible apply State.regionRecord_canonical)
               | (with_reducible apply State.returnFrame_canonical) | (with_reducible apply State.freePair_canonical)
               | dsimp only | split | (refine snd_of (by assumption) ?_)

theorem State.sweep_canonical (s : State) (x1) (x2) (x3) (h : s.mem.wf = true) :
    (State.sweep s x1 x2 x3).1.mem.wf = true := by
  induction x3 generalizing s x2 with
  | nil =>
    unfold State.sweep
    repeat first | with_reducible assumption | (with_reducible intro _)
                 | (with_reducible apply State.leaveQueues_canonical)
                 | (with_reducible apply State.regionWait_canonical)
                 | (with_reducible apply State.discardRegionPage_canonical) | dsimp only | split
                 | (refine State.regionWait_canonical_eq (by assumption) ?_) | (refine fst_of (by assumption) ?_)
  | cons a l ih =>
    unfold State.sweep
    repeat first | with_reducible assumption | (with_reducible intro _) | (with_reducible apply ih)
                 | (with_reducible apply State.leaveQueues_canonical)
                 | (with_reducible apply State.regionWait_canonical)
                 | (with_reducible apply State.discardRegionPage_canonical) | dsimp only | split
                 | (refine State.regionWait_canonical_eq (by assumption) ?_) | (refine fst_of (by assumption) ?_)

theorem State.closeSteps_canonical (s : State) (x1) (x2) (h : s.mem.wf = true) :
    (State.closeSteps s x1 x2).1.mem.wf = true := by
  unfold State.closeSteps
  repeat first | with_reducible assumption | (with_reducible intro _) | (with_reducible apply State.sweep_canonical)
               | (with_reducible apply State.pinScope_canonical) | (with_reducible apply State.addHeld_canonical)
               | (with_reducible apply State.closeScope_canonical) | dsimp only | split
               | (refine fst_of (by assumption) ?_)

theorem State.killCru_canonical (s : State) (x1) (x2) (h : s.mem.wf = true) :
    (State.killCru s x1 x2).mem.wf = true := by
  unfold State.killCru
  repeat first | with_reducible assumption | (with_reducible intro _) | (with_reducible apply State.endCru_canonical)
               | (with_reducible apply State.setCru_canonical) | dsimp only | split

theorem State.cutEngines_canonical (s : State) (x1) (x2) (x3) (h : s.mem.wf = true) :
    (State.cutEngines s x1 x2 x3).mem.wf = true := by
  unfold State.cutEngines
  repeat first | with_reducible assumption | (with_reducible intro _) | (with_reducible apply State.modCore_canonical)
               | (with_reducible apply State.killCru_canonical) | (with_reducible apply foldl_canonical) | dsimp only
               | split

theorem State.cutLease_canonical (s : State) (x1) (x2) (x3) (h : s.mem.wf = true) :
    (State.cutLease s x1 x2 x3).mem.wf = true := by
  unfold State.cutLease
  repeat first | with_reducible assumption | (with_reducible intro _) | (with_reducible apply State.modCore_canonical)
               | (with_reducible apply State.finishLease_canonical) | (with_reducible apply State.teamAfter_canonical)
               | (with_reducible apply foldl_canonical) | dsimp only | split

theorem State.deliverClose_canonical (s : State) (x1) (h : s.mem.wf = true) :
    (State.deliverClose s x1).mem.wf = true := by
  unfold State.deliverClose
  repeat first | with_reducible assumption | (with_reducible intro _) | (with_reducible apply State.setWaited_canonical)
               | (with_reducible apply State.modCur_canonical) | (with_reducible apply State.choose_canonical)
               | (with_reducible apply State.deliver_canonical) | (with_reducible apply State.put64_canonical)
               | dsimp only | split

theorem State.killCalls_canonical (s : State) (h : s.mem.wf = true) : (State.killCalls s).mem.wf = true := by
  unfold State.killCalls
  repeat first | with_reducible assumption | (with_reducible intro _)
               | (with_reducible apply State.answerKilled_canonical) | (with_reducible apply foldl_canonical)
               | dsimp only

theorem State.killChains_canonical (s : State) (h : s.mem.wf = true) : (State.killChains s).mem.wf = true := by
  unfold State.killChains
  repeat first | with_reducible assumption | (with_reducible intro _)
               | (with_reducible apply State.retireSuspended_canonical) | (with_reducible apply State.deliver_canonical)
               | (with_reducible apply foldl_canonical) | dsimp only | split

theorem State.launchDeaths_canonical (s : State) (x1) (x2) (x3) (h : s.mem.wf = true) :
    (State.launchDeaths s x1 x2 x3).mem.wf = true := by
  unfold State.launchDeaths
  repeat first | with_reducible assumption | (with_reducible intro _)
               | (with_reducible apply State.readyRecord_canonical) | (with_reducible apply State.modLaunch_canonical)
               | (with_reducible apply State.pinScope_canonical) | (with_reducible apply State.countDeath_canonical)
               | (with_reducible apply State.addDue_canonical) | dsimp only | split

theorem State.killUnplaced_canonical (s : State) (x1) (h : s.mem.wf = true) :
    (State.killUnplaced s x1).mem.wf = true := by
  unfold State.killUnplaced
  repeat first | with_reducible assumption | (with_reducible intro _) | (with_reducible apply State.modLaunch_canonical)
               | (with_reducible apply State.launchDeaths_canonical) | (with_reducible apply State.pushPool_canonical)
               | (with_reducible apply foldl_canonical) | dsimp only | split

theorem State.killLaunches_canonical (s : State) (x1) (h : s.mem.wf = true) :
    (State.killLaunches s x1).mem.wf = true := by
  unfold State.killLaunches
  repeat first | with_reducible assumption | (with_reducible intro _)
               | (with_reducible apply State.killUnplaced_canonical) | (with_reducible apply foldl_canonical)
               | dsimp only

theorem State.killTree_canonical (s : State) (x1) (x2) (h : s.mem.wf = true) :
    (State.killTree s x1 x2).mem.wf = true := by
  unfold State.killTree
  repeat first | with_reducible assumption | (with_reducible intro _) | dsimp only | split

theorem State.killScope_canonical (s : State) (x1) (x2) (h : s.mem.wf = true) :
    (State.killScope s x1 x2).mem.wf = true := by
  unfold State.killScope
  repeat first | with_reducible assumption | (with_reducible intro _)
               | (with_reducible apply State.checkState_canonical) | (with_reducible apply State.broadcast_canonical)
               | (with_reducible apply State.killTree_canonical) | (with_reducible apply State.pinScope_canonical)
               | (with_reducible apply State.killLaunches_canonical) | (with_reducible apply State.killChains_canonical)
               | (with_reducible apply State.killRecords_canonical) | (with_reducible apply State.killCalls_canonical)
               | dsimp only | split

theorem State.wakeOpener_canonical (s : State) (x1) (x2) (x3) (h : s.mem.wf = true) :
    (State.wakeOpener s x1 x2 x3).mem.wf = true := by
  unfold State.wakeOpener
  repeat first | with_reducible assumption | (with_reducible intro _) | (with_reducible apply State.deliver_canonical)
               | (with_reducible apply State.pinScope_canonical) | dsimp only | split

theorem execCancelBroadcast_canonical (x0) (x1) (x2) (s : State) (h : s.mem.wf = true) :
    goesOn (execCancelBroadcast x0 x1 x2 s) := by
  unfold execCancelBroadcast
  repeat first | with_reducible assumption | (with_reducible intro _) | (with_reducible apply State.cutLease_canonical)
               | (with_reducible apply State.cutEngines_canonical) | (with_reducible apply State.wakeOpener_canonical)
               | (with_reducible apply State.wakeOverflow_canonical) | (with_reducible apply State.wakeDie_canonical)
               | (with_reducible apply goesOn_next) | (with_reducible apply foldl_canonical) | dsimp only

theorem execScoClose_canonical (x0) (x1) (x2) (s : State) (h : s.mem.wf = true) : goesOn (execScoClose x0 x1 x2 s) := by
  unfold execScoClose
  repeat first | with_reducible assumption | (with_reducible intro _) | (with_reducible apply Form.run_canonical)
               | (with_reducible apply State.withScope_canonical) | (with_reducible apply misuse_canonical)
               | (with_reducible apply State.closeSteps_canonical) | (with_reducible apply State.pinScope_canonical)
               | (with_reducible apply State.setWaited_canonical) | (with_reducible apply State.modCur_canonical)
               | (with_reducible apply State.addAgenda_canonical) | (with_reducible apply State.quiet_canonical)
               | (with_reducible apply State.suspendCur_canonical) | (with_reducible apply State.sealScope_canonical)
               | (with_reducible apply resCanonical_done) | (with_reducible apply resCanonical_stall)
               | (with_reducible apply resCanonical_away) | dsimp only | split | (refine fst_of (by assumption) ?_)

theorem execScopeClosing_canonical (x0) (x1) (s : State) (h : s.mem.wf = true) : goesOn (execScopeClosing x0 x1 s) := by
  unfold execScopeClosing
  repeat first | with_reducible assumption | (with_reducible intro _)
               | (with_reducible apply State.closeSteps_canonical) | (with_reducible apply State.deliverClose_canonical)
               | (with_reducible apply State.addAgenda_canonical) | (with_reducible apply goesOn_next) | dsimp only
               | split | (refine fst_of (by assumption) ?_)

theorem execScopeDeath_canonical (x0) (x1) (s : State) (h : s.mem.wf = true) : goesOn (execScopeDeath x0 x1 s) := by
  unfold execScopeDeath
  repeat first | with_reducible assumption | (with_reducible intro _)
               | (with_reducible apply State.countDeath_canonical) | (with_reducible apply goesOn_next) | dsimp only

theorem execScopeKill_canonical (x0) (x1) (s : State) (h : s.mem.wf = true) : goesOn (execScopeKill x0 x1 s) := by
  unfold execScopeKill
  repeat first | with_reducible assumption | (with_reducible intro _) | (with_reducible apply State.killScope_canonical)
               | (with_reducible apply goesOn_next) | dsimp only

theorem State.checkMarkers_canonical (s : State) (x1) (h : s.mem.wf = true) :
    (State.checkMarkers s x1).mem.wf = true := by
  unfold State.checkMarkers
  repeat first | with_reducible assumption | (with_reducible intro _) | (with_reducible apply State.offer_canonical)
               | (with_reducible apply State.applyAll_canonical) | dsimp only | split

theorem State.emptyDie_canonical (s : State) (x1) (h : s.mem.wf = true) : (State.emptyDie s x1).mem.wf = true := by
  unfold State.emptyDie
  repeat first | with_reducible assumption | (with_reducible intro _) | (with_reducible apply State.modCore_canonical)
               | (with_reducible apply State.leaveWhere_canonical) | (with_reducible apply State.modDie_canonical)
               | (with_reducible apply foldl_canonical) | dsimp only | split

theorem State.failCloser_canonical (s : State) (x1) (x2) (h : s.mem.wf = true) :
    (State.failCloser s x1 x2).mem.wf = true := by
  unfold State.failCloser
  repeat first | with_reducible assumption | (with_reducible intro _) | (with_reducible apply State.modCur_canonical)
               | (with_reducible apply State.choose_canonical) | (with_reducible apply State.takeTrap_canonical)
               | dsimp only | split

theorem State.failWaiter_canonical (s : State) (x1) (x2) (h : s.mem.wf = true) :
    (State.failWaiter s x1 x2).mem.wf = true := by
  unfold State.failWaiter
  repeat first | with_reducible assumption | (with_reducible intro _) | (with_reducible apply State.modCur_canonical)
               | (with_reducible apply State.choose_canonical) | (with_reducible apply State.takeTrap_canonical)
               | dsimp only | split

theorem State.failWaiters_canonical (s : State) (h : s.mem.wf = true) : (State.failWaiters s).mem.wf = true := by
  unfold State.failWaiters
  repeat first | with_reducible assumption | (with_reducible intro _)
               | (with_reducible apply State.failWaiter_canonical) | (with_reducible apply State.failCloser_canonical)
               | (with_reducible apply foldl_canonical) | dsimp only | split

theorem State.forgetCopies_canonical (s : State) (x1) (h : s.mem.wf = true) :
    (State.forgetCopies s x1).mem.wf = true := by
  unfold State.forgetCopies
  repeat first | with_reducible assumption | (with_reducible intro _) | dsimp only | split

theorem State.poisonOwned_canonical (s : State) (x1) (h : s.mem.wf = true) :
    (State.poisonOwned s x1).mem.wf = true := by
  unfold State.poisonOwned
  repeat first | with_reducible assumption | (with_reducible intro _) | (with_reducible apply foldl_canonical)
               | dsimp only | split

theorem State.revertEarly_canonical (s : State) (x1) (h : s.mem.wf = true) :
    (State.revertEarly s x1).mem.wf = true := by
  unfold State.revertEarly
  repeat first | with_reducible assumption | (with_reducible intro _) | (with_reducible apply State.putBytes_canonical)
               | (with_reducible apply State.setTags_canonical) | (with_reducible apply foldl_canonical) | dsimp only
               | split

theorem State.scanDirectory_canonical (s : State) (x1) (h : s.mem.wf = true) :
    (State.scanDirectory s x1).mem.wf = true := by
  unfold State.scanDirectory
  repeat first | with_reducible assumption | (with_reducible intro _) | (with_reducible apply State.forgetDie_canonical)
               | (with_reducible apply State.forgetCopies_canonical)
               | (with_reducible apply State.poisonOwned_canonical) | (with_reducible apply State.revertEarly_canonical)
               | (with_reducible apply State.applyAll_canonical) | dsimp only

theorem State.forget_canonical (s : State) (x1) (h : s.mem.wf = true) : (State.forget s x1).mem.wf = true := by
  unfold State.forget
  repeat first | with_reducible assumption | (with_reducible intro _)
               | (with_reducible apply State.setOverflow_canonical) | (with_reducible apply foldl_canonical)
               | dsimp only | split

theorem State.releaseDie_canonical (s : State) (x1) (h : s.mem.wf = true) : (State.releaseDie s x1).mem.wf = true := by
  unfold State.releaseDie
  repeat first | with_reducible assumption | (with_reducible intro _)
               | (with_reducible apply State.releaseChain_canonical) | (with_reducible apply foldl_canonical)
               | dsimp only

theorem State.unlistDie_canonical (s : State) (x1) (h : s.mem.wf = true) : (State.unlistDie s x1).mem.wf = true := by
  unfold State.unlistDie
  repeat first | with_reducible assumption | (with_reducible intro _) | (with_reducible apply State.deliver_canonical)
               | (with_reducible apply State.put64_canonical) | (with_reducible apply State.setOverflow_canonical)
               | (with_reducible apply foldl_canonical) | dsimp only | split

theorem State.finishSettle_canonical (s : State) (h : s.mem.wf = true) : (State.finishSettle s).mem.wf = true := by
  unfold State.finishSettle
  repeat first | with_reducible assumption | (with_reducible intro _) | (with_reducible apply State.offer_canonical)
               | dsimp only | split

theorem State.fenceDie_canonical (s : State) (x1) (h : s.mem.wf = true) : (State.fenceDie s x1).mem.wf = true := by
  unfold State.fenceDie
  repeat first | with_reducible assumption | (with_reducible intro _)
               | (with_reducible apply State.scanDirectory_canonical) | (with_reducible apply State.modDie_canonical)
               | (with_reducible apply State.forget_canonical) | (with_reducible apply State.emptyDie_canonical)
               | (with_reducible apply State.strandEnds_canonical) | (with_reducible apply State.endLease_canonical)
               | (with_reducible apply State.countDeath_canonical) | (with_reducible apply State.launchDeaths_canonical)
               | (with_reducible apply State.failWaiters_canonical) | (with_reducible apply State.releaseDie_canonical)
               | (with_reducible apply State.unlistDie_canonical) | (with_reducible apply State.finishSettle_canonical)
               | (with_reducible apply State.checkMarkers_canonical) | (with_reducible apply foldl_canonical)
               | dsimp only | split

theorem execCrossDieInvalidation_canonical (x0) (x1) (x2) (s : State) (h : s.mem.wf = true) :
    goesOn (execCrossDieInvalidation x0 x1 x2 s) := by
  unfold execCrossDieInvalidation
  repeat first | with_reducible assumption | (with_reducible intro _) | (with_reducible apply State.addAgenda_canonical)
               | (with_reducible apply State.dropInvalidated_canonical) | (with_reducible apply goesOn_next)
               | dsimp only

theorem execDieFence_canonical (x0) (s : State) (h : s.mem.wf = true) : goesOn (execDieFence x0 s) := by
  unfold execDieFence
  repeat first | with_reducible assumption | (with_reducible intro _) | (with_reducible apply State.fenceDie_canonical)
               | (with_reducible apply goesOn_next) | dsimp only | split

theorem execInvalidationAck_canonical (x0) (s : State) (h : s.mem.wf = true) : goesOn (execInvalidationAck x0 s) := by
  unfold execInvalidationAck
  repeat first | with_reducible assumption | (with_reducible intro _)
               | (with_reducible apply State.modPending_canonical) | (with_reducible apply goesOn_next) | dsimp only

theorem execOwnershipRequest_canonical (x0) (x1) (s : State) (h : s.mem.wf = true) :
    goesOn (execOwnershipRequest x0 x1 s) := by
  unfold execOwnershipRequest
  repeat first | with_reducible assumption | (with_reducible intro _) | (with_reducible apply State.noteStore_canonical)
               | (with_reducible apply goesOn_next) | dsimp only | split

theorem execReadCopyRequest_canonical (x0) (x1) (s : State) (h : s.mem.wf = true) :
    goesOn (execReadCopyRequest x0 x1 s) := by
  unfold execReadCopyRequest
  repeat first | with_reducible assumption | (with_reducible intro _) | (with_reducible apply State.takeCopy_canonical)
               | (with_reducible apply goesOn_next) | dsimp only | split

theorem execSettleMarker_canonical (x0) (x1) (s : State) (h : s.mem.wf = true) : goesOn (execSettleMarker x0 x1 s) := by
  unfold execSettleMarker
  repeat first | with_reducible assumption | (with_reducible intro _) | (with_reducible apply State.addAgenda_canonical)
               | (with_reducible apply State.checkMarkers_canonical) | (with_reducible apply goesOn_next)
               | (with_reducible apply foldl_canonical) | dsimp only | split

theorem execSettleReport_canonical (x0) (s : State) (h : s.mem.wf = true) : goesOn (execSettleReport x0 s) := by
  unfold execSettleReport
  repeat first | with_reducible assumption | (with_reducible intro _)
               | (with_reducible apply State.finishSettle_canonical) | (with_reducible apply goesOn_next) | dsimp only
               | split

theorem execSettleRoundOpen_canonical (s : State) (h : s.mem.wf = true) : goesOn (execSettleRoundOpen s) := by
  unfold execSettleRoundOpen
  repeat first | with_reducible assumption | (with_reducible intro _) | (with_reducible apply State.addAgenda_canonical)
               | (with_reducible apply goesOn_next) | (with_reducible apply foldl_canonical) | dsimp only | split

theorem State.completeWalk_canonical (s : State) (x1) (x2) (x3) (h : s.mem.wf = true) :
    (State.completeWalk s x1 x2 x3).mem.wf = true := by
  unfold State.completeWalk
  repeat first | with_reducible assumption | (with_reducible intro _) | (with_reducible apply State.cacheDesc_canonical)
               | (with_reducible apply State.walkPut_canonical) | (with_reducible apply State.markPage_canonical)
               | dsimp only | split

theorem execPageWalk_canonical (x0) (x1) (x2) (s : State) (h : s.mem.wf = true) : goesOn (execPageWalk x0 x1 x2 s) := by
  unfold execPageWalk
  repeat first | with_reducible assumption | (with_reducible intro _)
               | (with_reducible apply State.completeWalk_canonical) | (with_reducible apply goesOn_next) | dsimp only

theorem State.checkRoot_canonical (s : State) (x1) (x2) (h : s.mem.wf = true) :
    (State.checkRoot s x1 x2).mem.wf = true := by
  unfold State.checkRoot
  repeat first | with_reducible assumption | (with_reducible intro _)
               | (with_reducible apply State.checkState_canonical) | dsimp only | split

theorem State.modQueue_canonical (s : State) (x1) (x2) (x3) (h : s.mem.wf = true) :
    (State.modQueue s x1 x2 x3).mem.wf = true := by
  unfold State.modQueue
  repeat first | with_reducible assumption | (with_reducible intro _) | (with_reducible apply State.modFn_canonical)
               | dsimp only

theorem State.finishReset_canonical (s : State) (x1) (x2) (h : s.mem.wf = true) :
    (State.finishReset s x1 x2).mem.wf = true := by
  unfold State.finishReset
  repeat first | with_reducible assumption | (with_reducible intro _) | (with_reducible apply State.modQueue_canonical)
               | dsimp only | split

theorem State.physWrite_canonical (s : State) (x1) (x2) (h : s.mem.wf = true) :
    (State.physWrite s x1 x2).mem.wf = true := by
  unfold State.physWrite
  repeat first | with_reducible assumption | (with_reducible intro _) | (with_reducible apply State.send_canonical)
               | (with_reducible apply State.putBlock_canonical) | dsimp only | split

theorem State.sendVector_canonical (s : State) (x1) (x2) (h : s.mem.wf = true) :
    (State.sendVector s x1 x2).mem.wf = true := by
  unfold State.sendVector
  repeat first | with_reducible assumption | (with_reducible intro _) | (with_reducible apply State.send_canonical)
               | dsimp only | split

theorem State.writeRecords_canonical (s : State) (x1) (x2) (x3) (h : s.mem.wf = true) :
    (State.writeRecords s x1 x2 x3).mem.wf = true := by
  induction x3 generalizing s with
  | zero =>
    unfold State.writeRecords
    repeat first | with_reducible assumption | (with_reducible intro _)
                 | (with_reducible apply State.physWrite_canonical) | (with_reducible apply State.modQueue_canonical)
                 | (with_reducible apply State.fenced_canonical) | (with_reducible apply State.sendVector_canonical)
                 | dsimp only | split | (refine fst_of (by assumption) ?_)
  | succ n ih =>
    unfold State.writeRecords
    repeat first | with_reducible assumption | (with_reducible intro _) | (with_reducible apply ih)
                 | (with_reducible apply State.physWrite_canonical) | (with_reducible apply State.modQueue_canonical)
                 | (with_reducible apply State.fenced_canonical) | (with_reducible apply State.sendVector_canonical)
                 | dsimp only | split | (refine fst_of (by assumption) ?_)

theorem State.completeQueue_canonical (s : State) (x1) (x2) (h : s.mem.wf = true) :
    (State.completeQueue s x1 x2).mem.wf = true := by
  unfold State.completeQueue
  repeat first | with_reducible assumption | (with_reducible intro _) | (with_reducible apply State.allPosted_canonical)
               | (with_reducible apply State.finishReset_canonical)
               | (with_reducible apply State.writeRecords_canonical) | dsimp only | split
               | (refine fst_of (by assumption) ?_)

theorem State.entryDone_canonical (s : State) (x1) (x2) (x3) (x4) (h : s.mem.wf = true) :
    (State.entryDone s x1 x2 x3 x4).mem.wf = true := by
  unfold State.entryDone
  repeat first | with_reducible assumption | (with_reducible intro _)
               | (with_reducible apply State.readyRecord_canonical) | dsimp only

theorem State.hostHeader_canonical (s : State) (x1) (x2) (x3) (h : s.mem.wf = true) :
    inboundCanonical (State.hostHeader s x1 x2 x3).1 := by
  unfold State.hostHeader
  repeat first | with_reducible assumption | (with_reducible intro _)
               | (with_reducible apply State.inboundRead_canonical) | (with_reducible apply translate_canonical)
               | dsimp only | split | (refine inboundCanonical_done_eq (by assumption) ?_)
               | (refine inboundCanonical_rejected_eq (by assumption) ?_)
               | (refine inboundCanonical_waits_eq (by assumption) ?_) | (refine fst_of (by assumption) ?_)

theorem State.launchHost_canonical (s : State) (x1) (x2) (x3) (x4) (x5) (x6) (x7) (h : s.mem.wf = true) :
    (State.launchHost s x1 x2 x3 x4 x5 x6 x7).mem.wf = true := by
  unfold State.launchHost
  repeat first | with_reducible assumption | (with_reducible intro _) | (with_reducible apply State.cacheDesc_canonical)
               | (with_reducible apply State.modQueue_canonical) | (with_reducible apply State.askAdd_canonical)
               | (with_reducible apply State.checkRoot_canonical) | (with_reducible apply State.entryDone_canonical)
               | (with_reducible apply State.beginLaunch_canonical) | dsimp only | split

theorem State.consumeEntry_canonical (s : State) (f q e) (h : s.mem.wf = true) :
    (s.consumeEntry f q e).mem.wf = true := by
  unfold State.consumeEntry
  extract_lets x d u v
  have hu : u.mem.wf = true := State.modQueue_canonical _ _ _ _ h
  split
  · apply State.entryDone_canonical
    simp only [v]
    split
    · exact State.refuse_canonical _ _ _ hu
    · exact hu
  · split
    · exact State.entryDone_canonical _ _ _ _ _ hu
    · have hi : inboundCanonical (u.hostHeader f x.asid e.header).1 := State.hostHeader_canonical _ _ _ _ hu
      split
      all_goals (rename_i e'; rw [e'] at hi)
      · exact State.entryDone_canonical _ _ _ _ _ hi
      · exact State.modQueue_canonical _ _ _ _ hi
      · exact State.launchHost_canonical _ _ _ _ _ _ _ _ hi

theorem State.offerConsume_canonical (s : State) (x1) (x2) (h : s.mem.wf = true) :
    (State.offerConsume s x1 x2).mem.wf = true := by
  unfold State.offerConsume
  repeat first | with_reducible assumption | (with_reducible intro _) | (with_reducible apply State.offer_canonical)
               | dsimp only | split

theorem State.physRead_canonical (s : State) (x1) (x2) (h : s.mem.wf = true) :
    (State.physRead s x1 x2).2.mem.wf = true := by
  unfold State.physRead
  repeat first | with_reducible assumption | (with_reducible intro _) | (with_reducible apply State.openData_canonical)
               | dsimp only | split | (refine snd_of (by assumption) ?_)

theorem State.resetQueue_canonical (s : State) (x1) (x2) (h : s.mem.wf = true) :
    (State.resetQueue s x1 x2).mem.wf = true := by
  unfold State.resetQueue
  repeat first | with_reducible assumption | (with_reducible intro _) | (with_reducible apply State.modQueue_canonical)
               | (with_reducible apply State.addDue_canonical) | (with_reducible apply State.modLaunch_canonical)
               | (with_reducible apply State.killScope_canonical) | (with_reducible apply foldl_canonical) | dsimp only
               | split

theorem State.ringDoorbell_canonical (s : State) (x1) (x2) (x3) (h : s.mem.wf = true) :
    (State.ringDoorbell s x1 x2 x3).mem.wf = true := by
  unfold State.ringDoorbell
  repeat first | with_reducible assumption | (with_reducible intro _)
               | (with_reducible apply State.offerConsume_canonical) | (with_reducible apply State.raiseInt_canonical)
               | (with_reducible apply State.modQueue_canonical) | dsimp only | split

theorem State.writeRingBase_canonical (s : State) (x1) (x2) (x3) (h : s.mem.wf = true) :
    (State.writeRingBase s x1 x2 x3).mem.wf = true := by
  unfold State.writeRingBase
  repeat first | with_reducible assumption | (with_reducible intro _) | (with_reducible apply State.modQueue_canonical)
               | dsimp only

theorem execCompletionRecord_canonical (x0) (x1) (s : State) (h : s.mem.wf = true) :
    goesOn (execCompletionRecord x0 x1 s) := by
  unfold execCompletionRecord
  repeat first | with_reducible assumption | (with_reducible intro _)
               | (with_reducible apply State.completeQueue_canonical) | (with_reducible apply goesOn_next) | dsimp only

theorem execDoorbell_canonical (x0) (x1) (x2) (s : State) (h : s.mem.wf = true) : goesOn (execDoorbell x0 x1 x2 s) := by
  unfold execDoorbell
  repeat first | with_reducible assumption | (with_reducible intro _)
               | (with_reducible apply State.ringDoorbell_canonical) | (with_reducible apply goesOn_next) | dsimp only

theorem execFirmwareCoreRestart_canonical (x0) (s : State) (h : s.mem.wf = true) :
    goesOn (execFirmwareCoreRestart x0 s) := by
  unfold execFirmwareCoreRestart
  repeat first | with_reducible assumption | (with_reducible intro _)
               | (with_reducible apply State.offerConsume_canonical) | (with_reducible apply goesOn_next)
               | (with_reducible apply foldl_canonical) | dsimp only | split

theorem execLaunchEntryConsume_canonical (x0) (x1) (s : State) (h : s.mem.wf = true) :
    goesOn (execLaunchEntryConsume x0 x1 s) := by
  unfold execLaunchEntryConsume
  repeat first | with_reducible assumption | (with_reducible intro _) | (with_reducible apply State.physRead_canonical)
               | (with_reducible apply State.offerConsume_canonical)
               | (with_reducible apply State.consumeEntry_canonical) | (with_reducible apply goesOn_next) | dsimp only
               | split | (refine snd_of (by assumption) ?_)

theorem execQueueReset_canonical (x0) (x1) (s : State) (h : s.mem.wf = true) : goesOn (execQueueReset x0 x1 s) := by
  unfold execQueueReset
  repeat first | with_reducible assumption | (with_reducible intro _)
               | (with_reducible apply State.resetQueue_canonical) | (with_reducible apply goesOn_next) | dsimp only

theorem execQueueRingBaseWrite_canonical (x0) (x1) (x2) (s : State) (h : s.mem.wf = true) :
    goesOn (execQueueRingBaseWrite x0 x1 x2 s) := by
  unfold execQueueRingBaseWrite
  repeat first | with_reducible assumption | (with_reducible intro _)
               | (with_reducible apply State.writeRingBase_canonical) | (with_reducible apply goesOn_next) | dsimp only

theorem State.assignLpn_canonical (s : State) (x1) (x2) (h : s.mem.wf = true) :
    (State.assignLpn s x1 x2).2.mem.wf = true := by
  unfold State.assignLpn
  repeat first | with_reducible assumption | (with_reducible intro _) | (with_reducible apply State.modLpn_canonical)
               | dsimp only | split

theorem State.setOwner_canonical (s : State) (x1) (x2) (h : s.mem.wf = true) :
    (State.setOwner s x1 x2).mem.wf = true := by
  unfold State.setOwner
  repeat first | with_reducible assumption | (with_reducible intro _) | (with_reducible apply State.put64_canonical)
               | (with_reducible apply foldl_canonical) | dsimp only

theorem State.grantRegion_canonical (s : State) (x1) (h : s.mem.wf = true) :
    (State.grantRegion s x1).mem.wf = true := by
  unfold State.grantRegion
  repeat first | with_reducible assumption | (with_reducible intro _) | (with_reducible apply State.setOwner_canonical)
               | (with_reducible apply State.releaseChain_canonical) | (with_reducible apply Mem.wf_writeBytes)
               | dsimp only | split

theorem State.setRing_canonical (s : State) (x1) (x2) (h : s.mem.wf = true) :
    (State.setRing s x1 x2).mem.wf = true := by
  unfold State.setRing
  repeat first | with_reducible assumption | (with_reducible intro _) | dsimp only

theorem State.hostReply_canonical (s : State) (x1) (x2) (h : s.mem.wf = true) :
    (State.hostReply s x1 x2).mem.wf = true := by
  unfold State.hostReply
  repeat first | with_reducible assumption | (with_reducible intro _) | (with_reducible apply State.refuse_canonical)
               | (with_reducible apply State.modFn_canonical) | (with_reducible apply State.setRing_canonical)
               | (with_reducible apply State.addAgenda_canonical) | (with_reducible apply State.raiseInt_canonical)
               | dsimp only | split

theorem State.newRound_canonical (s : State) (x1) (h : s.mem.wf = true) : (State.newRound s x1).mem.wf = true := by
  unfold State.newRound
  repeat first | with_reducible assumption | (with_reducible intro _) | (with_reducible apply State.modDie_canonical)
               | (with_reducible apply foldl_canonical) | dsimp only

theorem State.offerDispatch_canonical (s : State) (x1) (h : s.mem.wf = true) :
    (State.offerDispatch s x1).mem.wf = true := by
  unfold State.offerDispatch
  repeat first | with_reducible assumption | (with_reducible intro _) | (with_reducible apply State.offer_canonical)
               | dsimp only | split

theorem State.offerService_canonical (s : State) (x1) (h : s.mem.wf = true) :
    (State.offerService s x1).mem.wf = true := by
  unfold State.offerService
  repeat first | with_reducible assumption | (with_reducible intro _) | (with_reducible apply State.offer_canonical)
               | dsimp only | split

theorem State.offerWaiting_canonical (s : State) (h : s.mem.wf = true) : (State.offerWaiting s).mem.wf = true := by
  unfold State.offerWaiting
  repeat first | with_reducible assumption | (with_reducible intro _)
               | (with_reducible apply State.offerDispatch_canonical) | (with_reducible apply foldl_canonical)
               | dsimp only

theorem State.serve_canonical (s : State) (x1) (x2) (h : s.mem.wf = true) : (State.serve s x1 x2).mem.wf = true := by
  unfold State.serve
  repeat first | with_reducible assumption | (with_reducible intro _) | (with_reducible apply State.addAgenda_canonical)
               | (with_reducible apply State.offer_canonical) | dsimp only | split

theorem State.placeRequest_canonical (s : State) (x1) (x2) (x3) (h : s.mem.wf = true) :
    (State.placeRequest s x1 x2 x3).mem.wf = true := by
  unfold State.placeRequest
  repeat first | with_reducible assumption | (with_reducible intro _) | (with_reducible apply State.modDie_canonical)
               | (with_reducible apply State.serve_canonical) | (with_reducible apply State.setRing_canonical)
               | dsimp only | split

theorem State.postReply_canonical (s : State) (x1) (x2) (h : s.mem.wf = true) :
    (State.postReply s x1 x2).mem.wf = true := by
  unfold State.postReply
  repeat first | with_reducible assumption | (with_reducible intro _) | (with_reducible apply State.modDie_canonical)
               | (with_reducible apply State.setRing_canonical) | (with_reducible apply State.answerCall_canonical)
               | (with_reducible apply State.offerDispatch_canonical) | (with_reducible apply State.raiseInt_canonical)
               | dsimp only | split

theorem State.postService_canonical (s : State) (x1) (x2) (x3) (h : s.mem.wf = true) :
    (State.postService s x1 x2 x3).mem.wf = true := by
  unfold State.postService
  repeat first | with_reducible assumption | (with_reducible intro _)
               | (with_reducible apply State.sendVector_canonical) | (with_reducible apply State.send_canonical)
               | (with_reducible apply State.modFn_canonical) | (with_reducible apply State.setRing_canonical)
               | dsimp only | split

theorem State.pushFrame_canonical (s : State) (x1) (x2) (x3) (h : s.mem.wf = true) :
    (State.pushFrame s x1 x2 x3).mem.wf = true := by
  unfold State.pushFrame
  repeat first | with_reducible assumption | (with_reducible intro _) | (with_reducible apply State.modFn_canonical)
               | (with_reducible apply State.refuse_canonical) | dsimp only | split

theorem State.writeRegion_canonical (s : State) (x1) (h : s.mem.wf = true) :
    (State.writeRegion s x1).mem.wf = true := by
  unfold State.writeRegion
  repeat first | with_reducible assumption | (with_reducible intro _)
               | (with_reducible apply State.dropCopies_canonical) | (with_reducible apply State.send_canonical)
               | (with_reducible apply State.forgetLines_canonical) | (with_reducible apply State.zeroRange_canonical)
               | dsimp only

theorem State.releaseRegion_canonical (s : State) (f v) (h : s.mem.wf = true) :
    (s.releaseRegion f v).mem.wf = true := by
  unfold State.releaseRegion
  extract_lets region a
  split
  · exact h
  · have ha : a.mem.wf = true := by
      simp only [a]
      split
      · exact State.writeRegion_canonical _ _ h
      · exact h
    exact State.modFn_canonical _ _ _ (State.setOwner_canonical _ _ _ ha)

theorem State.requeue_canonical (s : State) (x1) (x2) (x3) (h : s.mem.wf = true) :
    (State.requeue s x1 x2 x3).mem.wf = true := by
  unfold State.requeue
  repeat first | with_reducible assumption | (with_reducible intro _)
               | (with_reducible apply State.offerDispatch_canonical) | (with_reducible apply State.modDie_canonical)
               | (with_reducible apply State.setRing_canonical) | dsimp only

theorem State.ringChanged_canonical (s : State) (x1) (h : s.mem.wf = true) :
    (State.ringChanged s x1).mem.wf = true := by
  unfold State.ringChanged
  repeat first | with_reducible assumption | (with_reducible intro _)
               | (with_reducible apply State.offerWaiting_canonical)
               | (with_reducible apply State.offerService_canonical) | dsimp only

theorem State.serveCall_canonical (s : State) (b p) (f : State → FnId → Word → Word × State)
    (hf : ∀ u a w, u.mem.wf = true → (f u a w).2.mem.wf = true) (h : s.mem.wf = true) :
    (s.serveCall b p f).mem.wf = true := by
  unfold State.serveCall
  split
  · exact h
  · split
    · exact State.addAgenda_canonical _ _ (State.setRing_canonical _ _ _ (hf _ _ _ h))
    · exact h

theorem State.transferOut_canonical (s : State) (x1) (x2) (h : s.mem.wf = true) :
    (State.transferOut s x1 x2).mem.wf = true := by
  unfold State.transferOut
  repeat first | with_reducible assumption | (with_reducible intro _) | (with_reducible apply State.modFn_canonical)
               | (with_reducible apply State.releaseRegion_canonical) | dsimp only | split

theorem State.turnBack_canonical (s : State) (x1) (x2) (x3) (h : s.mem.wf = true) :
    (State.turnBack s x1 x2 x3).mem.wf = true := by
  unfold State.turnBack
  repeat first | with_reducible assumption | (with_reducible intro _) | (with_reducible apply State.addAgenda_canonical)
               | (with_reducible apply State.setRing_canonical) | (with_reducible apply State.requeue_canonical)
               | dsimp only | split

theorem execBenchReply_canonical (x0) (s : State) (h : s.mem.wf = true) : goesOn (execBenchReply x0 s) := by
  unfold execBenchReply
  repeat first | with_reducible assumption | (with_reducible intro _) | (with_reducible apply State.postReply_canonical)
               | (with_reducible apply goesOn_next) | dsimp only | split

theorem execBenchRequestDispatch_canonical (x0) (s : State) (h : s.mem.wf = true) :
    goesOn (execBenchRequestDispatch x0 s) := by
  unfold execBenchRequestDispatch
  repeat first | with_reducible assumption | (with_reducible intro _)
               | (with_reducible apply State.offerDispatch_canonical)
               | (with_reducible apply State.placeRequest_canonical) | (with_reducible apply State.newRound_canonical)
               | (with_reducible apply goesOn_next) | dsimp only | split

theorem execLateFramePush_canonical (x0) (x1) (x2) (s : State) (h : s.mem.wf = true) :
    goesOn (execLateFramePush x0 x1 x2 s) := by
  unfold execLateFramePush
  repeat first | with_reducible assumption | (with_reducible intro _) | (with_reducible apply State.pushFrame_canonical)
               | (with_reducible apply goesOn_next) | dsimp only

theorem execOwnershipGrant_canonical (x0) (x1) (s : State) (h : s.mem.wf = true) :
    goesOn (execOwnershipGrant x0 x1 s) := by
  unfold execOwnershipGrant
  repeat first | with_reducible assumption | (with_reducible intro _)
               | (with_reducible apply State.grantRegion_canonical) | (with_reducible apply goesOn_next) | dsimp only

theorem execReplyTag_canonical (x0) (x1) (s : State) (h : s.mem.wf = true) : goesOn (execReplyTag x0 x1 s) := by
  unfold execReplyTag
  repeat first | with_reducible assumption | (with_reducible intro _) | (with_reducible apply State.hostReply_canonical)
               | (with_reducible apply goesOn_next) | dsimp only

theorem execServiceRingPost_canonical (x0) (s : State) (h : s.mem.wf = true) : goesOn (execServiceRingPost x0 s) := by
  unfold execServiceRingPost
  repeat first | with_reducible assumption | (with_reducible intro _) | (with_reducible apply State.allPosted_canonical)
               | (with_reducible apply State.offerService_canonical)
               | (with_reducible apply State.postService_canonical) | (with_reducible apply State.turnBack_canonical)
               | (with_reducible apply goesOn_next) | dsimp only | split | (refine fst_of (by assumption) ?_)

theorem execSyscallFirmware_canonical (x0) (s : State) (h : s.mem.wf = true) : goesOn (execSyscallFirmware x0 s) := by
  unfold execSyscallFirmware
  repeat first | with_reducible assumption | (with_reducible intro _) | (with_reducible apply State.serveCall_canonical)
               | (with_reducible apply goesOn_next) | dsimp only

theorem execSyscallHost_canonical (x0) (s : State) (h : s.mem.wf = true) : goesOn (execSyscallHost x0 s) := by
  unfold execSyscallHost
  repeat first | with_reducible assumption | (with_reducible intro _) | (with_reducible apply State.serveCall_canonical)
               | (with_reducible apply State.offer_canonical) | (with_reducible apply goesOn_next) | dsimp only | split

theorem execSyscallLpnAssign_canonical (x0) (s : State) (h : s.mem.wf = true) : goesOn (execSyscallLpnAssign x0 s) := by
  unfold execSyscallLpnAssign
  repeat first | with_reducible assumption | (with_reducible intro _) | (with_reducible apply State.serveCall_canonical)
               | (with_reducible apply State.assignLpn_canonical) | (with_reducible apply goesOn_next) | dsimp only
               | (refine snd_of (by assumption) ?_)

theorem execSyscallNull_canonical (x0) (s : State) (h : s.mem.wf = true) : goesOn (execSyscallNull x0 s) := by
  unfold execSyscallNull
  repeat first | with_reducible assumption | (with_reducible intro _) | (with_reducible apply State.serveCall_canonical)
               | (with_reducible apply goesOn_next) | dsimp only

theorem execTransferToProcessor_canonical (x0) (x1) (s : State) (h : s.mem.wf = true) :
    goesOn (execTransferToProcessor x0 x1 s) := by
  unfold execTransferToProcessor
  repeat first | with_reducible assumption | (with_reducible intro _)
               | (with_reducible apply State.transferOut_canonical) | (with_reducible apply goesOn_next) | dsimp only

theorem State.say_canonical (s : State) (x1) (x2) (x3) (h : s.mem.wf = true) :
    (State.say s x1 x2 x3).mem.wf = true := by
  unfold State.say
  repeat first | with_reducible assumption | (with_reducible intro _) | (with_reducible apply State.send_canonical)
               | dsimp only

theorem State.setParty_canonical (s : State) (x1) (h : s.mem.wf = true) : (State.setParty s x1).mem.wf = true := by
  unfold State.setParty
  repeat first | with_reducible assumption | (with_reducible intro _) | dsimp only

theorem State.setPhase_canonical (s : State) (x1) (x2) (h : s.mem.wf = true) :
    (State.setPhase s x1 x2).mem.wf = true := by
  unfold State.setPhase
  repeat first | with_reducible assumption | (with_reducible intro _) | (with_reducible apply State.setParty_canonical)
               | dsimp only

theorem State.answer_canonical (s : State) (x1) (x2) (x3) (x4) (x5) (h : s.mem.wf = true) :
    goesOn (State.answer s x1 x2 x3 x4 x5) := by
  unfold State.answer
  repeat first | with_reducible assumption | (with_reducible intro _) | (with_reducible apply State.say_canonical)
               | (with_reducible apply State.setPhase_canonical) | (with_reducible apply goesOn_next) | dsimp only
               | split

theorem State.ask_canonical (s : State) (x1) (h : s.mem.wf = true) : (State.ask s x1).mem.wf = true := by
  unfold State.ask
  repeat first | with_reducible assumption | (with_reducible intro _) | (with_reducible apply State.say_canonical)
               | (with_reducible apply State.setPhase_canonical) | dsimp only

theorem State.cutCollectives_canonical (s : State) (x1) (x2) (h : s.mem.wf = true) :
    (State.cutCollectives s x1 x2).mem.wf = true := by
  unfold State.cutCollectives
  repeat first | with_reducible assumption | (with_reducible intro _) | (with_reducible apply State.endCru_canonical)
               | (with_reducible apply foldl_canonical) | dsimp only | split

theorem State.releaseKey_canonical (s : State) (x1) (x2) (x3) (h : s.mem.wf = true) :
    (State.releaseKey s x1 x2 x3).mem.wf = true := by
  unfold State.releaseKey
  repeat first | with_reducible assumption | (with_reducible intro _) | (with_reducible apply State.say_canonical)
               | (with_reducible apply State.setParty_canonical) | dsimp only | split

theorem State.distribute_canonical (s : State) (x1) (x2) (h : s.mem.wf = true) :
    (State.distribute s x1 x2).mem.wf = true := by
  unfold State.distribute
  repeat first | with_reducible assumption | (with_reducible intro _)
               | (with_reducible apply State.releaseKey_canonical) | (with_reducible apply foldl_canonical) | dsimp only
               | split

theorem State.noteKeys_canonical (s : State) (h : s.mem.wf = true) : (State.noteKeys s).mem.wf = true := by
  unfold State.noteKeys
  repeat first | with_reducible assumption | (with_reducible intro _) | dsimp only | split

theorem State.endSessionWith_canonical (s : State) (x1) (h : s.mem.wf = true) :
    (State.endSessionWith s x1).mem.wf = true := by
  unfold State.endSessionWith
  repeat first | with_reducible assumption | (with_reducible intro _) | (with_reducible apply State.noteKeys_canonical)
               | (with_reducible apply State.setParty_canonical) | (with_reducible apply State.cutCollectives_canonical)
               | dsimp only | split

theorem State.enterEpoch_canonical (s : State) (x1) (x2) (h : s.mem.wf = true) :
    (State.enterEpoch s x1 x2).mem.wf = true := by
  unfold State.enterEpoch
  repeat first | with_reducible assumption | (with_reducible intro _) | dsimp only

theorem State.releaseKeys_canonical (s : State) (x1) (h : s.mem.wf = true) :
    (State.releaseKeys s x1).mem.wf = true := by
  unfold State.releaseKeys
  repeat first | with_reducible assumption | (with_reducible intro _)
               | (with_reducible apply State.releaseKey_canonical) | (with_reducible apply foldl_canonical) | dsimp only
               | split

theorem State.enterJob_canonical (s : State) (x1) (x2) (h : s.mem.wf = true) :
    (State.enterJob s x1 x2).mem.wf = true := by
  unfold State.enterJob
  repeat first | with_reducible assumption | (with_reducible intro _) | (with_reducible apply State.noteKeys_canonical)
               | (with_reducible apply State.cutCollectives_canonical)
               | (with_reducible apply State.enterEpoch_canonical) | (with_reducible apply State.ask_canonical)
               | (with_reducible apply State.releaseKeys_canonical) | (with_reducible apply foldl_canonical)
               | dsimp only | split

theorem State.letIn_canonical (s : State) (x1) (h : s.mem.wf = true) : (State.letIn s x1).mem.wf = true := by
  unfold State.letIn
  repeat first | with_reducible assumption | (with_reducible intro _)
               | (with_reducible apply State.releaseKeys_canonical) | (with_reducible apply State.setPhase_canonical)
               | dsimp only

theorem State.hear_canonical (s : State) (x1) (x2) (h : s.mem.wf = true) : (State.hear s x1 x2).mem.wf = true := by
  unfold State.hear
  repeat first | with_reducible assumption | (with_reducible intro _) | (with_reducible apply State.say_canonical)
               | (with_reducible apply State.setPhase_canonical) | (with_reducible apply State.setParty_canonical)
               | (with_reducible apply State.endSessionWith_canonical) | (with_reducible apply State.letIn_canonical)
               | dsimp only | split

theorem State.modPort_canonical (s : State) (x1) (x2) (h : s.mem.wf = true) :
    (State.modPort s x1 x2).mem.wf = true := by
  unfold State.modPort
  repeat first | with_reducible assumption | (with_reducible intro _) | dsimp only

theorem State.portDown_canonical (s : State) (x1) (x2) (h : s.mem.wf = true) :
    (State.portDown s x1 x2).mem.wf = true := by
  unfold State.portDown
  repeat first | with_reducible assumption | (with_reducible intro _) | (with_reducible apply State.modPort_canonical)
               | (with_reducible apply State.failWaiters_canonical)
               | (with_reducible apply State.cutCollectives_canonical) | dsimp only

theorem State.withdraw_canonical (s : State) (x1) (h : s.mem.wf = true) : (State.withdraw s x1).mem.wf = true := by
  unfold State.withdraw
  repeat first | with_reducible assumption | (with_reducible intro _)
               | (with_reducible apply State.cutCollectives_canonical) | dsimp only

theorem State.writeJob_canonical (s : State) (x1) (x2) (h : s.mem.wf = true) :
    (State.writeJob s x1 x2).mem.wf = true := by
  unfold State.writeJob
  repeat first | with_reducible assumption | (with_reducible intro _) | (with_reducible apply State.enterJob_canonical)
               | (with_reducible apply State.refuse_canonical) | dsimp only | split

theorem execChallenge_canonical (x0) (x1) (s : State) (h : s.mem.wf = true) : goesOn (execChallenge x0 x1 s) := by
  unfold execChallenge
  repeat first | with_reducible assumption | (with_reducible intro _) | (with_reducible apply State.answer_canonical)
               | dsimp only

theorem execEndSession_canonical (x0) (s : State) (h : s.mem.wf = true) : goesOn (execEndSession x0 s) := by
  unfold execEndSession
  repeat first | with_reducible assumption | (with_reducible intro _) | (with_reducible apply State.withdraw_canonical)
               | (with_reducible apply State.say_canonical) | (with_reducible apply State.endSessionWith_canonical)
               | (with_reducible apply goesOn_next) | dsimp only | split

theorem execFinish_canonical (x0) (x1) (s : State) (h : s.mem.wf = true) : goesOn (execFinish x0 x1 s) := by
  unfold execFinish
  repeat first | with_reducible assumption | (with_reducible intro _) | (with_reducible apply State.say_canonical)
               | (with_reducible apply State.answer_canonical) | (with_reducible apply State.setPhase_canonical)
               | (with_reducible apply goesOn_next) | (with_reducible exact goesOn_refused _) | dsimp only | split

theorem execFlitCounterLimit_canonical (x0) (s : State) (h : s.mem.wf = true) : goesOn (execFlitCounterLimit x0 s) := by
  unfold execFlitCounterLimit
  repeat first | with_reducible assumption | (with_reducible intro _) | (with_reducible apply State.modPort_canonical)
               | (with_reducible apply goesOn_next) | (with_reducible apply resCanonical_stop) | dsimp only

theorem execFlitReceive_canonical (x0) (x1) (s : State) (h : s.mem.wf = true) : goesOn (execFlitReceive x0 x1 s) := by
  unfold execFlitReceive
  repeat first | with_reducible assumption | (with_reducible intro _) | (with_reducible apply State.modPort_canonical)
               | (with_reducible apply State.report_canonical) | (with_reducible apply State.portDown_canonical)
               | (with_reducible apply goesOn_next) | dsimp only | split

theorem execGetCapabilities_canonical (x0) (s : State) (h : s.mem.wf = true) : goesOn (execGetCapabilities x0 s) := by
  unfold execGetCapabilities
  repeat first | with_reducible assumption | (with_reducible intro _) | (with_reducible apply State.answer_canonical)
               | dsimp only

theorem execGetCertificate_canonical (x0) (x1) (x2) (s : State) (h : s.mem.wf = true) :
    goesOn (execGetCertificate x0 x1 x2 s) := by
  unfold execGetCertificate
  repeat first | with_reducible assumption | (with_reducible intro _) | (with_reducible apply State.answer_canonical)
               | dsimp only

theorem execGetDigests_canonical (x0) (s : State) (h : s.mem.wf = true) : goesOn (execGetDigests x0 s) := by
  unfold execGetDigests
  repeat first | with_reducible assumption | (with_reducible intro _) | (with_reducible apply State.answer_canonical)
               | dsimp only

theorem execGetMeasurements_canonical (x0) (x1) (s : State) (h : s.mem.wf = true) :
    goesOn (execGetMeasurements x0 x1 s) := by
  unfold execGetMeasurements
  repeat first | with_reducible assumption | (with_reducible intro _) | (with_reducible apply State.say_canonical)
               | (with_reducible apply State.answer_canonical) | (with_reducible apply goesOn_next) | dsimp only | split

theorem execGetVersion_canonical (x0) (s : State) (h : s.mem.wf = true) : goesOn (execGetVersion x0 s) := by
  unfold execGetVersion
  repeat first | with_reducible assumption | (with_reducible intro _) | (with_reducible apply State.ask_canonical)
               | (with_reducible apply State.say_canonical) | (with_reducible apply State.setPhase_canonical)
               | (with_reducible apply goesOn_next) | dsimp only | split

theorem execJobPointerWrite_canonical (x0) (x1) (s : State) (h : s.mem.wf = true) :
    goesOn (execJobPointerWrite x0 x1 s) := by
  unfold execJobPointerWrite
  repeat first | with_reducible assumption | (with_reducible intro _) | (with_reducible apply State.writeJob_canonical)
               | (with_reducible apply goesOn_next) | dsimp only

theorem execKeyExchange_canonical (x0) (x1) (s : State) (h : s.mem.wf = true) : goesOn (execKeyExchange x0 x1 s) := by
  unfold execKeyExchange
  repeat first | with_reducible assumption | (with_reducible intro _) | (with_reducible apply State.answer_canonical)
               | dsimp only

theorem execKeyUpdate_canonical (x0) (x1) (s : State) (h : s.mem.wf = true) : goesOn (execKeyUpdate x0 x1 s) := by
  unfold execKeyUpdate
  repeat first | with_reducible assumption | (with_reducible intro _)
               | (with_reducible apply State.distribute_canonical) | (with_reducible apply State.say_canonical)
               | (with_reducible apply State.noteKeys_canonical) | (with_reducible apply State.setParty_canonical)
               | (with_reducible apply goesOn_next) | dsimp only | split

theorem execNegotiateAlgorithms_canonical (x0) (x1) (s : State) (h : s.mem.wf = true) :
    goesOn (execNegotiateAlgorithms x0 x1 s) := by
  unfold execNegotiateAlgorithms
  repeat first | with_reducible assumption | (with_reducible intro _) | (with_reducible apply State.answer_canonical)
               | (with_reducible apply State.say_canonical) | (with_reducible apply State.setPhase_canonical)
               | (with_reducible apply goesOn_next) | (with_reducible exact goesOn_refused _) | dsimp only | split

theorem execPortLaneChange_canonical (x0) (x1) (s : State) (h : s.mem.wf = true) :
    goesOn (execPortLaneChange x0 x1 s) := by
  unfold execPortLaneChange
  repeat first | with_reducible assumption | (with_reducible intro _) | (with_reducible apply State.modPort_canonical)
               | (with_reducible apply State.portDown_canonical) | (with_reducible apply goesOn_next) | dsimp only
               | split

theorem execSpdmResponse_canonical (x0) (x1) (s : State) (h : s.mem.wf = true) : goesOn (execSpdmResponse x0 x1 s) := by
  unfold execSpdmResponse
  repeat first | with_reducible assumption | (with_reducible intro _) | (with_reducible apply State.hear_canonical)
               | (with_reducible apply goesOn_next) | dsimp only

theorem Inbound.answered_canonical (x0) (h0 : inboundCanonical x0) : (Inbound.answered x0).mem.wf = true := by
  unfold Inbound.answered
  repeat first | with_reducible assumption | (with_reducible intro _) | (with_reducible apply State.send_canonical)
               | dsimp only | split | (exact inboundCanonical_of_done (by assumption))
               | (exact inboundCanonical_of_rejected (by assumption))
               | (exact inboundCanonical_of_waits (by assumption))

theorem State.answering_canonical (s : State) (f) (x : State → Inbound) (hx : ∀ u, u.mem.wf = true → inboundCanonical (x u))
    (h : s.mem.wf = true) : (s.answering f x).mem.wf = true := by
  unfold State.answering
  split
  · exact h
  · exact Inbound.answered_canonical _ (hx _ h)

theorem State.confirmWrites_canonical (s : State) (x1) (h : s.mem.wf = true) :
    (State.confirmWrites s x1).mem.wf = true := by
  unfold State.confirmWrites
  repeat first | with_reducible assumption | (with_reducible intro _) | dsimp only

theorem State.settleIo_canonical (s : State) (x1) (h : s.mem.wf = true) : (State.settleIo s x1).mem.wf = true := by
  unfold State.settleIo
  repeat first | with_reducible assumption | (with_reducible intro _) | dsimp only

theorem State.deliverIo_canonical (s : State) (x1) (x2) (h : s.mem.wf = true) :
    (State.deliverIo s x1 x2).mem.wf = true := by
  unfold State.deliverIo
  repeat first | with_reducible assumption | (with_reducible intro _) | (with_reducible apply State.settleIo_canonical)
               | (with_reducible apply State.setC_canonical) | (with_reducible apply State.modCur_canonical)
               | (with_reducible apply State.choose_canonical) | dsimp only | split

theorem State.hostRead_canonical (x0) (x1) (x2) (h2 : inboundCanonical x2) :
    (State.hostRead x0 x1 x2).mem.wf = true := by
  unfold State.hostRead
  repeat first | with_reducible assumption | (with_reducible intro _) | (with_reducible apply State.send_canonical)
               | (with_reducible apply State.refuseInbound_canonical) | dsimp only | split
               | (exact inboundCanonical_of_done (by assumption)) | (exact inboundCanonical_of_rejected (by assumption))
               | (exact inboundCanonical_of_waits (by assumption))

theorem State.postedWrite_canonical (x0) (x1) (h1 : inboundCanonical x1) : (State.postedWrite x0 x1).mem.wf = true := by
  unfold State.postedWrite
  repeat first | with_reducible assumption | (with_reducible intro _)
               | (with_reducible apply State.refuseInbound_canonical) | dsimp only | split
               | (exact inboundCanonical_of_done (by assumption)) | (exact inboundCanonical_of_rejected (by assumption))
               | (exact inboundCanonical_of_waits (by assumption))

theorem State.rejectIo_canonical (s : State) (x1) (h : s.mem.wf = true) : (State.rejectIo s x1).mem.wf = true := by
  unfold State.rejectIo
  repeat first | with_reducible assumption | (with_reducible intro _) | (with_reducible apply State.settleIo_canonical)
               | (with_reducible apply State.modCur_canonical) | (with_reducible apply State.choose_canonical)
               | (with_reducible apply State.takeTrap_canonical) | dsimp only | split

theorem execApertureRead_canonical (x0) (x1) (x2) (s : State) (h : s.mem.wf = true) :
    goesOn (execApertureRead x0 x1 x2 s) := by
  unfold execApertureRead
  repeat first | with_reducible assumption | (with_reducible intro _) | (with_reducible apply State.send_canonical)
               | (with_reducible apply State.hostRead_canonical) | (with_reducible apply State.inboundRead_canonical)
               | (with_reducible apply goesOn_next) | dsimp only | split

theorem execApertureWrite_canonical (x0) (x1) (x2) (s : State) (h : s.mem.wf = true) :
    goesOn (execApertureWrite x0 x1 x2 s) := by
  unfold execApertureWrite
  repeat first | with_reducible assumption | (with_reducible intro _)
               | (with_reducible apply State.postedWrite_canonical)
               | (with_reducible apply State.inboundWrite_canonical) | (with_reducible apply goesOn_next) | dsimp only
               | split

theorem execAtomicopRequest_canonical (x0) (x1) (s : State) (h : s.mem.wf = true) :
    goesOn (execAtomicopRequest x0 x1 s) := by
  unfold execAtomicopRequest
  repeat first | with_reducible assumption | (with_reducible intro _) | (with_reducible apply State.send_canonical)
               | (with_reducible apply goesOn_next) | dsimp only

theorem execPcieCompletion_canonical (x0) (x1) (s : State) (h : s.mem.wf = true) :
    goesOn (execPcieCompletion x0 x1 s) := by
  unfold execPcieCompletion
  repeat first | with_reducible assumption | (with_reducible intro _)
               | (with_reducible apply State.confirmWrites_canonical) | (with_reducible apply State.deliverIo_canonical)
               | (with_reducible apply State.rejectIo_canonical) | (with_reducible apply State.openData_canonical)
               | (with_reducible apply goesOn_next) | dsimp only | split | (refine snd_of (by assumption) ?_)

theorem execPcieLinkStateChange_canonical (s : State) (h : s.mem.wf = true) : goesOn (execPcieLinkStateChange s) := by
  unfold execPcieLinkStateChange
  repeat first | with_reducible assumption | (with_reducible intro _) | (with_reducible apply State.raiseInt_canonical)
               | (with_reducible apply goesOn_next) | dsimp only

theorem execPeerAcknowledgement_canonical (x0) (x1) (s : State) (h : s.mem.wf = true) :
    goesOn (execPeerAcknowledgement x0 x1 s) := by
  unfold execPeerAcknowledgement
  repeat first | with_reducible assumption | (with_reducible intro _) | (with_reducible apply State.settleIo_canonical)
               | (with_reducible apply State.deliverIo_canonical) | (with_reducible apply goesOn_next) | dsimp only
               | split

theorem execPeerAdd_canonical (x0) (x1) (x2) (x3) (s : State) (h : s.mem.wf = true) :
    goesOn (execPeerAdd x0 x1 x2 x3 s) := by
  unfold execPeerAdd
  repeat first | with_reducible assumption | (with_reducible intro _) | (with_reducible apply State.answering_canonical)
               | (with_reducible apply State.fromPeerWrite_canonical) | (with_reducible apply goesOn_next) | dsimp only

theorem execPeerAtomic_canonical (x0) (x1) (x2) (x3) (x4) (s : State) (h : s.mem.wf = true) :
    goesOn (execPeerAtomic x0 x1 x2 x3 x4 s) := by
  unfold execPeerAtomic
  repeat first | with_reducible assumption | (with_reducible intro _) | (with_reducible apply State.answering_canonical)
               | (with_reducible apply State.fromPeerAtomic_canonical) | (with_reducible apply goesOn_next) | dsimp only

theorem execPeerCounterRead_canonical (x0) (x1) (x2) (s : State) (h : s.mem.wf = true) :
    goesOn (execPeerCounterRead x0 x1 x2 s) := by
  unfold execPeerCounterRead
  repeat first | with_reducible assumption | (with_reducible intro _) | (with_reducible apply State.answering_canonical)
               | (with_reducible apply State.fromPeerRead_canonical) | (with_reducible apply goesOn_next) | dsimp only

theorem execPeerRead_canonical (x0) (x1) (x2) (s : State) (h : s.mem.wf = true) : goesOn (execPeerRead x0 x1 x2 s) := by
  unfold execPeerRead
  repeat first | with_reducible assumption | (with_reducible intro _) | (with_reducible apply State.answering_canonical)
               | (with_reducible apply State.fromPeerRead_canonical) | (with_reducible apply goesOn_next) | dsimp only

theorem execPeerWrite_canonical (x0) (x1) (x2) (s : State) (h : s.mem.wf = true) :
    goesOn (execPeerWrite x0 x1 x2 s) := by
  unfold execPeerWrite
  repeat first | with_reducible assumption | (with_reducible intro _) | (with_reducible apply State.answering_canonical)
               | (with_reducible apply State.fromPeerWrite_canonical) | (with_reducible apply goesOn_next) | dsimp only

theorem execWindowAdd_canonical (x0) (x1) (x2) (x3) (s : State) (h : s.mem.wf = true) :
    goesOn (execWindowAdd x0 x1 x2 x3 s) := by
  unfold execWindowAdd
  repeat first | with_reducible assumption | (with_reducible intro _) | (with_reducible apply State.refuse_canonical)
               | (with_reducible apply State.postedWrite_canonical) | (with_reducible apply State.inboundAdd_canonical)
               | (with_reducible apply goesOn_next) | dsimp only | split

theorem execWindowRead_canonical (x0) (x1) (x2) (s : State) (h : s.mem.wf = true) :
    goesOn (execWindowRead x0 x1 x2 s) := by
  unfold execWindowRead
  repeat first | with_reducible assumption | (with_reducible intro _) | (with_reducible apply State.send_canonical)
               | (with_reducible apply State.refuse_canonical) | (with_reducible apply State.hostRead_canonical)
               | (with_reducible apply State.inboundCounter_canonical) | (with_reducible apply goesOn_next) | dsimp only
               | split

theorem State.poisonAt_canonical (s : State) (x1) (h : s.mem.wf = true) : (State.poisonAt s x1).mem.wf = true := by
  unfold State.poisonAt
  repeat first | with_reducible assumption | (with_reducible intro _) | dsimp only | split

theorem State.errorEffect_canonical (s : State) (x1) (h : s.mem.wf = true) :
    (State.errorEffect s x1).mem.wf = true := by
  unfold State.errorEffect
  repeat first | with_reducible assumption | (with_reducible intro _) | (with_reducible apply State.poisonAt_canonical)
               | dsimp only | split

theorem State.forwardOp_canonical (s : State) (x1) (h : s.mem.wf = true) : (State.forwardOp s x1).mem.wf = true := by
  unfold State.forwardOp
  repeat first | with_reducible assumption | (with_reducible intro _) | (with_reducible apply State.setPair_canonical)
               | dsimp only | split

theorem State.holdHash_canonical (s : State) (x1) (x2) (x3) (h : s.mem.wf = true) :
    (State.holdHash s x1 x2 x3).mem.wf = true := by
  unfold State.holdHash
  repeat first | with_reducible assumption | (with_reducible intro _) | (with_reducible apply State.offer_canonical)
               | (with_reducible apply State.setPair_canonical) | dsimp only

theorem State.losePair_canonical (s : State) (x1) (h : s.mem.wf = true) : (State.losePair s x1).mem.wf = true := by
  unfold State.losePair
  repeat first | with_reducible assumption | (with_reducible intro _) | (with_reducible apply State.choose_canonical)
               | (with_reducible apply State.strandEnds_canonical) | (with_reducible apply State.leave_canonical)
               | (with_reducible apply State.endLease_canonical) | dsimp only | split

theorem State.mismatch_canonical (s : State) (x1) (h : s.mem.wf = true) : (State.mismatch s x1).mem.wf = true := by
  unfold State.mismatch
  repeat first | with_reducible assumption | (with_reducible intro _) | (with_reducible apply State.report_canonical)
               | (with_reducible apply State.losePair_canonical) | dsimp only

theorem State.redeliver_canonical (s : State) (x1) (h : s.mem.wf = true) : (State.redeliver s x1).mem.wf = true := by
  unfold State.redeliver
  repeat first | with_reducible assumption | (with_reducible intro _) | (with_reducible apply State.setCore_canonical)
               | (with_reducible apply State.pushPool_canonical) | (with_reducible apply State.deliver_canonical)
               | (with_reducible apply foldl_canonical) | dsimp only

theorem State.stopStrandsOn_canonical (s : State) (x1) (x2) (h : s.mem.wf = true) :
    (State.stopStrandsOn s x1 x2).mem.wf = true := by
  unfold State.stopStrandsOn
  repeat first | with_reducible assumption | (with_reducible intro _) | dsimp only | split

theorem State.removeCore_canonical (s : State) (x1) (h : s.mem.wf = true) : (State.removeCore s x1).mem.wf = true := by
  unfold State.removeCore
  repeat first | with_reducible assumption | (with_reducible intro _) | (with_reducible apply State.redeliver_canonical)
               | (with_reducible apply State.stopStrandsOn_canonical) | (with_reducible apply State.modCore_canonical)
               | dsimp only

theorem State.removeCluster_canonical (s : State) (x1) (h : s.mem.wf = true) :
    (State.removeCluster s x1).mem.wf = true := by
  unfold State.removeCluster
  repeat first | with_reducible assumption | (with_reducible intro _)
               | (with_reducible apply State.modCluster_canonical) | (with_reducible apply State.trySwap_canonical)
               | (with_reducible apply State.removeCore_canonical) | (with_reducible apply foldl_canonical) | dsimp only

theorem State.reseat_canonical (s : State) (d lpn line w) (h : s.mem.wf = true) :
    canonicalIn (s.reseat d lpn line w) fun x => x := by
  unfold State.reseat
  extract_lets used
  intro x e
  rw [Option.map_eq_some_iff] at e
  obtain ⟨y, _, e⟩ := e
  subst e
  exact State.modLpn_canonical _ _ _ _ (State.clearWay_canonical _ _ _ _ _ h)

theorem State.reseat_canonical_eq {s s' : State} {d lpn line w} (e : s.reseat d lpn line w = some s')
    (h : s.mem.wf = true) : s'.mem.wf = true := State.reseat_canonical s d lpn line w h _ e

theorem State.reseatAll_canonical (s : State) (x1) (x2) (x3) (h : s.mem.wf = true) :
    (State.reseatAll s x1 x2 x3).1.mem.wf = true := by
  induction x3 generalizing s with
  | nil =>
    unfold State.reseatAll
    repeat first | with_reducible assumption | (with_reducible intro _)
                 | (with_reducible apply State.departAt_canonical) | (with_reducible apply State.reseat_canonical)
                 | (with_reducible apply State.waitAt_canonical) | (with_reducible apply State.leavePage_canonical)
                 | dsimp only | split | (refine State.reseat_canonical_eq (by assumption) ?_)
                 | (refine fst_of (by assumption) ?_)
  | cons a l ih =>
    unfold State.reseatAll
    repeat first | with_reducible assumption | (with_reducible intro _) | (with_reducible apply ih)
                 | (with_reducible apply State.departAt_canonical) | (with_reducible apply State.reseat_canonical)
                 | (with_reducible apply State.waitAt_canonical) | (with_reducible apply State.leavePage_canonical)
                 | dsimp only | split | (refine State.reseat_canonical_eq (by assumption) ?_)
                 | (refine fst_of (by assumption) ?_)

theorem State.removeSlice_canonical (s : State) (x1) (x2) (h : s.mem.wf = true) :
    (State.removeSlice s x1 x2).mem.wf = true := by
  unfold State.removeSlice
  repeat first | with_reducible assumption | (with_reducible intro _) | (with_reducible apply State.evict_canonical)
               | (with_reducible apply State.reseatAll_canonical) | (with_reducible apply State.modDie_canonical)
               | (with_reducible apply foldl_canonical) | dsimp only | (refine fst_of (by assumption) ?_)

theorem State.removeUnit_canonical (s : State) (x1) (x2) (h : s.mem.wf = true) :
    (State.removeUnit s x1 x2).mem.wf = true := by
  unfold State.removeUnit
  repeat first | with_reducible assumption | (with_reducible intro _)
               | (with_reducible apply State.removeCore_canonical) | (with_reducible apply State.modCluster_canonical)
               | (with_reducible apply State.removeSlice_canonical) | (with_reducible apply State.modDie_canonical)
               | (with_reducible apply State.portDown_canonical) | (with_reducible apply State.modPort_canonical)
               | (with_reducible apply State.removeCluster_canonical) | dsimp only | split

theorem State.serveAgain_canonical (s : State) (x1) (x2) (h : s.mem.wf = true) :
    (State.serveAgain s x1 x2).mem.wf = true := by
  unfold State.serveAgain
  repeat first | with_reducible assumption | (with_reducible intro _) | (with_reducible apply State.offerNext_canonical)
               | (with_reducible apply State.offerAnvil_canonical) | dsimp only | split

theorem State.startAssay_canonical (s : State) (x1) (x2) (h : s.mem.wf = true) :
    (State.startAssay s x1 x2).mem.wf = true := by
  unfold State.startAssay
  repeat first | with_reducible assumption | (with_reducible intro _) | (with_reducible apply State.modDie_canonical)
               | (with_reducible apply State.stopStrandsOn_canonical) | dsimp only | split

theorem State.writeControl_canonical (s : State) (x1) (x2) (x3) (h : s.mem.wf = true) :
    (State.writeControl s x1 x2 x3).mem.wf = true := by
  unfold State.writeControl
  repeat first | with_reducible assumption | (with_reducible intro _) | (with_reducible apply State.modDie_canonical)
               | (with_reducible apply State.removeUnit_canonical) | dsimp only | split

theorem execAssayEnd_canonical (x0) (x1) (s : State) (h : s.mem.wf = true) : goesOn (execAssayEnd x0 x1 s) := by
  unfold execAssayEnd
  repeat first | with_reducible assumption | (with_reducible intro _) | (with_reducible apply State.modDie_canonical)
               | (with_reducible apply State.serveAgain_canonical) | (with_reducible apply State.removeUnit_canonical)
               | (with_reducible apply goesOn_next) | dsimp only | split

theorem execAssayStart_canonical (x0) (x1) (s : State) (h : s.mem.wf = true) : goesOn (execAssayStart x0 x1 s) := by
  unfold execAssayStart
  repeat first | with_reducible assumption | (with_reducible intro _)
               | (with_reducible apply State.startAssay_canonical) | (with_reducible apply goesOn_next) | dsimp only

theorem execErrorDetected_canonical (x0) (x1) (s : State) (h : s.mem.wf = true) :
    goesOn (execErrorDetected x0 x1 s) := by
  unfold execErrorDetected
  repeat first | with_reducible assumption | (with_reducible intro _)
               | (with_reducible apply State.modCluster_canonical) | (with_reducible apply State.report_canonical)
               | (with_reducible apply State.errorEffect_canonical) | (with_reducible apply goesOn_next) | dsimp only
               | split

theorem execPatinaSample_canonical (x0) (x1) (s : State) (h : s.mem.wf = true) : goesOn (execPatinaSample x0 x1 s) := by
  unfold execPatinaSample
  repeat first | with_reducible assumption | (with_reducible intro _)
               | (with_reducible apply State.modCluster_canonical)
               | (with_reducible apply State.removeCluster_canonical) | (with_reducible apply State.report_canonical)
               | (with_reducible apply goesOn_next) | dsimp only | split

theorem execTouchstoneHash_canonical (x0) (x1) (x2) (s : State) (h : s.mem.wf = true) :
    goesOn (execTouchstoneHash x0 x1 x2 s) := by
  unfold execTouchstoneHash
  repeat first | with_reducible assumption | (with_reducible intro _) | (with_reducible apply State.holdHash_canonical)
               | (with_reducible apply State.forwardOp_canonical) | (with_reducible apply State.mismatch_canonical)
               | (with_reducible apply goesOn_next) | dsimp only | split

theorem execTouchstoneTimeout_canonical (x0) (s : State) (h : s.mem.wf = true) :
    goesOn (execTouchstoneTimeout x0 s) := by
  unfold execTouchstoneTimeout
  repeat first | with_reducible assumption | (with_reducible intro _) | (with_reducible apply State.mismatch_canonical)
               | (with_reducible apply goesOn_next) | dsimp only | split

theorem State.evictWays_canonical (s : State) (x1) (x2) (h : s.mem.wf = true) :
    (State.evictWays s x1 x2).mem.wf = true := by
  unfold State.evictWays
  repeat first | with_reducible assumption | (with_reducible intro _) | (with_reducible apply State.evict_canonical)
               | (with_reducible apply foldl_canonical) | dsimp only

theorem State.pushBlock_canonical (s : State) (x1) (x2) (x3) (h : s.mem.wf = true) :
    (State.pushBlock s x1 x2 x3).mem.wf = true := by
  unfold State.pushBlock
  repeat first | with_reducible assumption | (with_reducible intro _) | (with_reducible apply State.pushPool_canonical)
               | (with_reducible apply State.refuse_canonical) | dsimp only | split

theorem State.writeCeiling_canonical (s : State) (x1) (x2) (h : s.mem.wf = true) :
    (State.writeCeiling s x1 x2).mem.wf = true := by
  unfold State.writeCeiling
  repeat first | with_reducible assumption | (with_reducible intro _) | (with_reducible apply State.modDie_canonical)
               | dsimp only | split

theorem State.writeLpn_canonical (s : State) (x1) (x2) (x3) (h : s.mem.wf = true) :
    (State.writeLpn s x1 x2 x3).mem.wf = true := by
  unfold State.writeLpn
  repeat first | with_reducible assumption | (with_reducible intro _) | (with_reducible apply State.modLpn_canonical)
               | dsimp only | split

theorem State.writePower_canonical (s : State) (x1) (x2) (h : s.mem.wf = true) :
    (State.writePower s x1 x2).mem.wf = true := by
  unfold State.writePower
  repeat first | with_reducible assumption | (with_reducible intro _)
               | (with_reducible apply State.leaveQueues_canonical) | (with_reducible apply State.modDie_canonical)
               | (with_reducible apply State.reseatAll_canonical) | (with_reducible apply State.evictWays_canonical)
               | dsimp only | split | (refine fst_of (by assumption) ?_)

theorem State.writeReservation_canonical (s : State) (x1) (x2) (x3) (h : s.mem.wf = true) :
    (State.writeReservation s x1 x2 x3).mem.wf = true := by
  unfold State.writeReservation
  repeat first | with_reducible assumption | (with_reducible intro _) | (with_reducible apply State.modDie_canonical)
               | (with_reducible apply State.offer_canonical) | dsimp only | split

theorem execContextBlockPoolPush_canonical (x0) (x1) (s : State) (h : s.mem.wf = true) :
    goesOn (execContextBlockPoolPush x0 x1 s) := by
  unfold execContextBlockPoolPush
  repeat first | with_reducible assumption | (with_reducible intro _) | (with_reducible apply State.pushBlock_canonical)
               | (with_reducible apply goesOn_next) | dsimp only

theorem execLpnEntryWrite_canonical (x0) (x1) (x2) (s : State) (h : s.mem.wf = true) :
    goesOn (execLpnEntryWrite x0 x1 x2 s) := by
  unfold execLpnEntryWrite
  repeat first | with_reducible assumption | (with_reducible intro _) | (with_reducible apply State.writeLpn_canonical)
               | (with_reducible apply goesOn_next) | dsimp only

theorem execPowerStateWrite_canonical (x0) (x1) (s : State) (h : s.mem.wf = true) :
    goesOn (execPowerStateWrite x0 x1 s) := by
  unfold execPowerStateWrite
  repeat first | with_reducible assumption | (with_reducible intro _)
               | (with_reducible apply State.writePower_canonical) | (with_reducible apply goesOn_next) | dsimp only

theorem execReservationWrite_canonical (x0) (x1) (x2) (s : State) (h : s.mem.wf = true) :
    goesOn (execReservationWrite x0 x1 x2 s) := by
  unfold execReservationWrite
  repeat first | with_reducible assumption | (with_reducible intro _)
               | (with_reducible apply State.writeReservation_canonical) | (with_reducible apply goesOn_next)
               | dsimp only

theorem execSwapAreaPoolPush_canonical (x0) (x1) (s : State) (h : s.mem.wf = true) :
    goesOn (execSwapAreaPoolPush x0 x1 s) := by
  unfold execSwapAreaPoolPush
  repeat first | with_reducible assumption | (with_reducible intro _) | (with_reducible apply State.pushBlock_canonical)
               | (with_reducible apply goesOn_next) | dsimp only

theorem execTeamBlockPoolPush_canonical (x0) (x1) (s : State) (h : s.mem.wf = true) :
    goesOn (execTeamBlockPoolPush x0 x1 s) := by
  unfold execTeamBlockPoolPush
  repeat first | with_reducible assumption | (with_reducible intro _) | (with_reducible apply State.pushBlock_canonical)
               | (with_reducible apply goesOn_next) | dsimp only

theorem State.modPol_canonical (s : State) (x1) (x2) (h : s.mem.wf = true) : (State.modPol s x1 x2).mem.wf = true := by
  unfold State.modPol
  repeat first | with_reducible assumption | (with_reducible intro _) | dsimp only

theorem State.writeHead_canonical (s : State) (x1) (x2) (x3) (h : s.mem.wf = true) :
    (State.writeHead s x1 x2 x3).mem.wf = true := by
  unfold State.writeHead
  repeat first | with_reducible assumption | (with_reducible intro _)
               | (with_reducible apply State.completeQueue_canonical) | (with_reducible apply State.modQueue_canonical)
               | dsimp only

theorem State.writeBar0_canonical (s : State) (x1) (x2) (x3) (h : s.mem.wf = true) :
    (State.writeBar0 s x1 x2 x3).mem.wf = true := by
  unfold State.writeBar0
  repeat first | with_reducible assumption | (with_reducible intro _)
               | (with_reducible apply State.ringDoorbell_canonical) | (with_reducible apply State.writeHead_canonical)
               | (with_reducible apply State.resetQueue_canonical) | (with_reducible apply State.modFn_canonical)
               | (with_reducible apply State.hostReply_canonical) | (with_reducible apply State.transferOut_canonical)
               | (with_reducible apply State.ringChanged_canonical) | dsimp only | split

theorem State.writeErrReg_canonical (s : State) (x1) (x2) (x3) (h : s.mem.wf = true) :
    (State.writeErrReg s x1 x2 x3).mem.wf = true := by
  unfold State.writeErrReg
  repeat first | with_reducible assumption | (with_reducible intro _) | (with_reducible apply State.modDie_canonical)
               | (with_reducible apply State.startAssay_canonical) | (with_reducible apply State.writeControl_canonical)
               | dsimp only | split

theorem State.writeQueueReg_canonical (s : State) (x1) (x2) (x3) (x4) (h : s.mem.wf = true) :
    (State.writeQueueReg s x1 x2 x3 x4).mem.wf = true := by
  unfold State.writeQueueReg
  repeat first | with_reducible assumption | (with_reducible intro _)
               | (with_reducible apply State.writeRingBase_canonical)
               | (with_reducible apply State.offerConsume_canonical) | (with_reducible apply State.modQueue_canonical)
               | dsimp only | split

theorem State.writeFnReg_canonical (s : State) (x1) (x2) (x3) (h : s.mem.wf = true) :
    (State.writeFnReg s x1 x2 x3).mem.wf = true := by
  unfold State.writeFnReg
  repeat first | with_reducible assumption | (with_reducible intro _) | (with_reducible apply State.modFn_canonical)
               | (with_reducible apply State.pushFrame_canonical) | (with_reducible apply State.ringChanged_canonical)
               | (with_reducible apply State.writeQueueReg_canonical) | dsimp only | split

theorem State.writeLeafReg_canonical (s : State) (x1) (x2) (x3) (h : s.mem.wf = true) :
    (State.writeLeafReg s x1 x2 x3).mem.wf = true := by
  unfold State.writeLeafReg
  repeat first | with_reducible assumption | (with_reducible intro _)
               | (with_reducible apply State.writeCeiling_canonical)
               | (with_reducible apply State.writeReservation_canonical) | dsimp only | split

theorem State.writePreEmpt_canonical (s : State) (x1) (x2) (h : s.mem.wf = true) :
    (State.writePreEmpt s x1 x2).mem.wf = true := by
  unfold State.writePreEmpt
  repeat first | with_reducible assumption | (with_reducible intro _)
               | (with_reducible apply State.preEmptTeam_canonical) | (with_reducible apply State.preEmptSlot_canonical)
               | dsimp only | split

theorem State.writeSched_canonical (s : State) (x1) (x2) (x3) (h : s.mem.wf = true) :
    (State.writeSched s x1 x2 x3).mem.wf = true := by
  unfold State.writeSched
  repeat first | with_reducible assumption | (with_reducible intro _) | (with_reducible apply State.modPol_canonical)
               | (with_reducible apply State.pushBlock_canonical) | (with_reducible apply State.writePreEmpt_canonical)
               | dsimp only | split

theorem State.writeMmio8_canonical (s : State) (x1) (x2) (x3) (h : s.mem.wf = true) :
    (State.writeMmio8 s x1 x2 x3).mem.wf = true := by
  unfold State.writeMmio8
  repeat first | with_reducible assumption | (with_reducible intro _)
               | (with_reducible apply State.writeLeafReg_canonical) | (with_reducible apply State.writeSched_canonical)
               | (with_reducible apply State.resolveWrite_canonical) | (with_reducible apply State.writeJob_canonical)
               | (with_reducible apply State.writeFnReg_canonical) | (with_reducible apply State.writeErrReg_canonical)
               | (with_reducible apply State.writePower_canonical) | dsimp only | split

theorem State.writeMmio_canonical (s : State) (x1) (x2) (x3) (h : s.mem.wf = true) :
    (State.writeMmio s x1 x2 x3).mem.wf = true := by
  unfold State.writeMmio
  repeat first | with_reducible assumption | (with_reducible intro _) | (with_reducible apply State.writeLpn_canonical)
               | (with_reducible apply State.writeMmio8_canonical) | dsimp only | split

theorem execRegisterWrite_canonical (x0) (x1) (s : State) (h : s.mem.wf = true) :
    goesOn (execRegisterWrite x0 x1 s) := by
  unfold execRegisterWrite
  repeat first | with_reducible assumption | (with_reducible intro _) | (with_reducible apply State.writeMmio_canonical)
               | (with_reducible apply State.writeBar0_canonical) | (with_reducible apply goesOn_next) | dsimp only
               | split

theorem State.sendClaim_canonical (s : State) (h : s.mem.wf = true) : (State.sendClaim s).mem.wf = true := by
  unfold State.sendClaim
  repeat first | with_reducible assumption | (with_reducible intro _) | (with_reducible apply State.send_canonical)
               | dsimp only

theorem State.adopt_canonical (s : State) (x1) (h : s.mem.wf = true) : (State.adopt s x1).mem.wf = true := by
  unfold State.adopt
  repeat first | with_reducible assumption | (with_reducible intro _) | (with_reducible apply State.sendClaim_canonical)
               | dsimp only

theorem State.rebooted_canonical (s : State) : s.rebooted.mem.wf = true := rfl

theorem State.sendChunks_canonical (s : State) (x1) (h : s.mem.wf = true) : (State.sendChunks s x1).mem.wf = true := by
  unfold State.sendChunks
  repeat first | with_reducible assumption | (with_reducible intro _) | (with_reducible apply State.send_canonical)
               | (with_reducible apply foldl_canonical) | dsimp only | split

theorem State.startImage_canonical (s : State) (x1) (x2) (h : s.mem.wf = true) :
    (State.startImage s x1 x2).mem.wf = true := by
  unfold State.startImage
  repeat first | with_reducible assumption | (with_reducible intro _) | (with_reducible apply State.putBlock_canonical)
               | (with_reducible apply foldl_canonical) | dsimp only

theorem State.verifyImage_canonical (s : State) (x1) (h : s.mem.wf = true) :
    (State.verifyImage s x1).mem.wf = true := by
  unfold State.verifyImage
  repeat first | with_reducible assumption | (with_reducible intro _)
               | (with_reducible apply State.startImage_canonical) | (with_reducible apply State.sendChunks_canonical)
               | dsimp only | split

theorem execClaim_canonical (x0) (x1) (s : State) (h : s.mem.wf = true) : goesOn (execClaim x0 x1 s) := by
  unfold execClaim
  repeat first | with_reducible assumption | (with_reducible intro _) | (with_reducible apply State.adopt_canonical)
               | (with_reducible apply State.sendClaim_canonical) | (with_reducible apply goesOn_next) | dsimp only
               | split

theorem execDeviceReset_canonical (s : State) (h : s.mem.wf = true) : goesOn (execDeviceReset s) := by
  unfold execDeviceReset
  repeat first | with_reducible assumption | (with_reducible intro _)
               | (with_reducible exact State.rebooted_canonical _) | (with_reducible apply goesOn_next) | dsimp only

theorem execImageVerify_canonical (x0) (s : State) (h : s.mem.wf = true) : goesOn (execImageVerify x0 s) := by
  unfold execImageVerify
  repeat first | with_reducible assumption | (with_reducible intro _)
               | (with_reducible apply State.verifyImage_canonical) | (with_reducible apply goesOn_next) | dsimp only
               | split

theorem execLeaderElectionExpiry_canonical (s : State) (h : s.mem.wf = true) : goesOn (execLeaderElectionExpiry s) := by
  unfold execLeaderElectionExpiry
  repeat first | with_reducible assumption | (with_reducible intro _) | (with_reducible apply State.sendClaim_canonical)
               | (with_reducible apply State.sendChunks_canonical) | (with_reducible apply goesOn_next) | dsimp only
               | split

theorem execLoadMessage_canonical (x0) (x1) (x2) (x3) (s : State) (h : s.mem.wf = true) :
    goesOn (execLoadMessage x0 x1 x2 x3 s) := by
  unfold execLoadMessage
  repeat first | with_reducible assumption | (with_reducible intro _) | (with_reducible apply State.send_canonical)
               | (with_reducible apply goesOn_next) | dsimp only | split

theorem execLoadTimeout_canonical (s : State) (h : s.mem.wf = true) : goesOn (execLoadTimeout s) := by
  unfold execLoadTimeout
  repeat first | with_reducible assumption | (with_reducible intro _) | (with_reducible apply State.adopt_canonical)
               | (with_reducible apply goesOn_next) | dsimp only | split

theorem execPackagePowerLoss_canonical (s : State) (h : s.mem.wf = true) : goesOn (execPackagePowerLoss s) := by
  unfold execPackagePowerLoss
  repeat first | with_reducible assumption | (with_reducible intro _) | (with_reducible apply goesOn_next) | dsimp only

theorem execResendRequest_canonical (x0) (x1) (x2) (s : State) (h : s.mem.wf = true) :
    goesOn (execResendRequest x0 x1 x2 s) := by
  unfold execResendRequest
  repeat first | with_reducible assumption | (with_reducible intro _)
               | (with_reducible apply State.sendChunks_canonical) | (with_reducible apply goesOn_next) | dsimp only
               | split

theorem State.askHashes_canonical (s : State) (x1) (x2) (h : s.mem.wf = true) :
    (State.askHashes s x1 x2).mem.wf = true := by
  unfold State.askHashes
  repeat first | with_reducible assumption | (with_reducible intro _) | (with_reducible apply State.free_canonical)
               | (with_reducible apply State.addAgenda_canonical) | (with_reducible apply State.setPair_canonical)
               | dsimp only | split | (refine snd_of (by assumption) ?_)

theorem State.retryAdd_canonical (s : State) (x1) (h : s.mem.wf = true) : (State.retryAdd s x1).mem.wf = true := by
  unfold State.retryAdd
  repeat first | with_reducible assumption | (with_reducible intro _) | (with_reducible apply State.askPosted_canonical)
               | (with_reducible apply State.strandEnds_canonical) | dsimp only | split

end Sys2Proof.Machine
end

