-- ==== Sys2Proof/Laws/Encoding.lean ====
section
/-!
SUPPORT. Fields of a word put together from fields.
-/
namespace Sys2Proof

set_option Elab.async false

/-- The whole of a value is a field of it. -/
@[simp] theorem fld_whole {n : Nat} (x : BitVec n) : fld x 0 n = x := by
  simp [fld, BitVec.extractLsb'_eq_self]

/-- A field below the join of two values lies in the lower one. -/
theorem fld_cat_below {m n k lo len : Nat} (x : BitVec m) (y : BitVec n) (le : lo + len ≤ n) (fits : n ≤ k) :
    fld (cat k x y) lo len = fld y lo len := by
  apply BitVec.eq_of_getLsbD_eq
  intro i hi
  simp only [fld, cat, BitVec.getLsbD_extractLsb', BitVec.getLsbD_setWidth, BitVec.getLsbD_append, hi, decide_true,
    Bool.true_and]
  rw [if_pos (by omega)]
  simp; omega

/-- A field above the join of two values lies in the upper one. -/
theorem fld_cat_above {m n k lo len : Nat} (x : BitVec m) (y : BitVec n) (le : n ≤ lo) (fits : lo + len ≤ k) :
    fld (cat k x y) lo len = fld x (lo - n) len := by
  apply BitVec.eq_of_getLsbD_eq
  intro i hi
  simp only [fld, cat, BitVec.getLsbD_extractLsb', BitVec.getLsbD_setWidth, BitVec.getLsbD_append, hi, decide_true,
    Bool.true_and]
  rw [if_neg (by omega), decide_eq_true (by omega : lo + i < k), Bool.true_and]
  congr 1; omega

/-- A field of a zero value is zero. -/
@[simp] theorem fld_zero (n lo len : Nat) : fld (0 : BitVec n) lo len = 0 := by
  apply BitVec.eq_of_getLsbD_eq
  intro i hi
  simp [fld]

end Sys2Proof
end

