-- ==== Sys2Proof/Laws/State.lean ====
section
/-!
SUPPORT. What each update of the state leaves in each field, one lemma per field and update, so that no proof unfolds a
record update.
-/
namespace Sys2Proof.Machine

/-! ### `State.modCur` -/

@[simp] theorem State.modCur_cur (s : State) (f : Strand → Strand) : (s.modCur f).cur = f s.cur := rfl
@[simp] theorem State.modCur_parked (s : State) (f : Strand → Strand) : (s.modCur f).parked = s.parked := rfl
@[simp] theorem State.modCur_due (s : State) (f : Strand → Strand) : (s.modCur f).due = s.due := rfl
@[simp] theorem State.modCur_agenda (s : State) (f : Strand → Strand) : (s.modCur f).agenda = s.agenda := rfl
@[simp] theorem State.modCur_turn (s : State) (f : Strand → Strand) : (s.modCur f).turn = s.turn := rfl
@[simp] theorem State.modCur_tick (s : State) (f : Strand → Strand) : (s.modCur f).tick = s.tick := rfl
@[simp] theorem State.modCur_stays (s : State) (f : Strand → Strand) : (s.modCur f).stays = s.stays := rfl
@[simp] theorem State.modCur_mem (s : State) (f : Strand → Strand) : (s.modCur f).mem = s.mem := rfl
@[simp] theorem State.modCur_tags (s : State) (f : Strand → Strand) : (s.modCur f).tags = s.tags := rfl
@[simp] theorem State.modCur_poison (s : State) (f : Strand → Strand) : (s.modCur f).poison = s.poison := rfl
@[simp] theorem State.modCur_tlb (s : State) (f : Strand → Strand) : (s.modCur f).tlb = s.tlb := rfl
@[simp] theorem State.modCur_walks (s : State) (f : Strand → Strand) : (s.modCur f).walks = s.walks := rfl
@[simp] theorem State.modCur_descs (s : State) (f : Strand → Strand) : (s.modCur f).descs = s.descs := rfl
@[simp] theorem State.modCur_astb (s : State) (f : Strand → Strand) : (s.modCur f).astb = s.astb := rfl
@[simp] theorem State.modCur_bootMap (s : State) (f : Strand → Strand) : (s.modCur f).bootMap = s.bootMap := rfl
@[simp] theorem State.modCur_time (s : State) (f : Strand → Strand) : (s.modCur f).time = s.time := rfl
@[simp] theorem State.modCur_cores (s : State) (f : Strand → Strand) : (s.modCur f).cores = s.cores := rfl
@[simp] theorem State.modCur_clusters (s : State) (f : Strand → Strand) : (s.modCur f).clusters = s.clusters := rfl
@[simp] theorem State.modCur_dies (s : State) (f : Strand → Strand) : (s.modCur f).dies = s.dies := rfl
@[simp] theorem State.modCur_policy (s : State) (f : Strand → Strand) : (s.modCur f).policy = s.policy := rfl
@[simp] theorem State.modCur_dirs (s : State) (f : Strand → Strand) : (s.modCur f).dirs = s.dirs := rfl
@[simp] theorem State.modCur_copies (s : State) (f : Strand → Strand) : (s.modCur f).copies = s.copies := rfl
@[simp] theorem State.modCur_caches (s : State) (f : Strand → Strand) : (s.modCur f).caches = s.caches := rfl
@[simp] theorem State.modCur_order (s : State) (f : Strand → Strand) : (s.modCur f).order = s.order := rfl
@[simp] theorem State.modCur_adds (s : State) (f : Strand → Strand) : (s.modCur f).adds = s.adds := rfl
@[simp] theorem State.modCur_settle (s : State) (f : Strand → Strand) : (s.modCur f).settle = s.settle := rfl
@[simp] theorem State.modCur_funcs (s : State) (f : Strand → Strand) : (s.modCur f).funcs = s.funcs := rfl
@[simp] theorem State.modCur_launches (s : State) (f : Strand → Strand) : (s.modCur f).launches = s.launches := rfl
@[simp] theorem State.modCur_teams (s : State) (f : Strand → Strand) : (s.modCur f).teams = s.teams := rfl
@[simp] theorem State.modCur_nextId (s : State) (f : Strand → Strand) : (s.modCur f).nextId = s.nextId := rfl
@[simp] theorem State.modCur_rings (s : State) (f : Strand → Strand) : (s.modCur f).rings = s.rings := rfl
@[simp] theorem State.modCur_chains (s : State) (f : Strand → Strand) : (s.modCur f).chains = s.chains := rfl
@[simp] theorem State.modCur_outstanding (s : State) (f : Strand → Strand) : (s.modCur f).outstanding = s.outstanding := rfl
@[simp] theorem State.modCur_sent (s : State) (f : Strand → Strand) : (s.modCur f).sent = s.sent := rfl
@[simp] theorem State.modCur_ports (s : State) (f : Strand → Strand) : (s.modCur f).ports = s.ports := rfl
@[simp] theorem State.modCur_jobPtrs (s : State) (f : Strand → Strand) : (s.modCur f).jobPtrs = s.jobPtrs := rfl
@[simp] theorem State.modCur_jobs (s : State) (f : Strand → Strand) : (s.modCur f).jobs = s.jobs := rfl
@[simp] theorem State.modCur_cruCounts (s : State) (f : Strand → Strand) : (s.modCur f).cruCounts = s.cruCounts := rfl
@[simp] theorem State.modCur_spdm (s : State) (f : Strand → Strand) : (s.modCur f).spdm = s.spdm := rfl
@[simp] theorem State.modCur_boot (s : State) (f : Strand → Strand) : (s.modCur f).boot = s.boot := rfl
@[simp] theorem State.modCur_pairs (s : State) (f : Strand → Strand) : (s.modCur f).pairs = s.pairs := rfl
@[simp] theorem State.modCur_restarting (s : State) (f : Strand → Strand) : (s.modCur f).restarting = s.restarting := rfl
@[simp] theorem State.modCur_powered (s : State) (f : Strand → Strand) : (s.modCur f).powered = s.powered := rfl

/-! ### `State.setCore` -/

@[simp] theorem State.setCore_cur (s : State) (c : CoreId) (v : Core) : (s.setCore c v).cur = s.cur := rfl
@[simp] theorem State.setCore_parked (s : State) (c : CoreId) (v : Core) : (s.setCore c v).parked = s.parked := rfl
@[simp] theorem State.setCore_due (s : State) (c : CoreId) (v : Core) : (s.setCore c v).due = s.due := rfl
@[simp] theorem State.setCore_agenda (s : State) (c : CoreId) (v : Core) : (s.setCore c v).agenda = s.agenda := rfl
@[simp] theorem State.setCore_turn (s : State) (c : CoreId) (v : Core) : (s.setCore c v).turn = s.turn := rfl
@[simp] theorem State.setCore_tick (s : State) (c : CoreId) (v : Core) : (s.setCore c v).tick = s.tick := rfl
@[simp] theorem State.setCore_stays (s : State) (c : CoreId) (v : Core) : (s.setCore c v).stays = s.stays := rfl
@[simp] theorem State.setCore_mem (s : State) (c : CoreId) (v : Core) : (s.setCore c v).mem = s.mem := rfl
@[simp] theorem State.setCore_tags (s : State) (c : CoreId) (v : Core) : (s.setCore c v).tags = s.tags := rfl
@[simp] theorem State.setCore_poison (s : State) (c : CoreId) (v : Core) : (s.setCore c v).poison = s.poison := rfl
@[simp] theorem State.setCore_tlb (s : State) (c : CoreId) (v : Core) : (s.setCore c v).tlb = s.tlb := rfl
@[simp] theorem State.setCore_walks (s : State) (c : CoreId) (v : Core) : (s.setCore c v).walks = s.walks := rfl
@[simp] theorem State.setCore_descs (s : State) (c : CoreId) (v : Core) : (s.setCore c v).descs = s.descs := rfl
@[simp] theorem State.setCore_astb (s : State) (c : CoreId) (v : Core) : (s.setCore c v).astb = s.astb := rfl
@[simp] theorem State.setCore_bootMap (s : State) (c : CoreId) (v : Core) : (s.setCore c v).bootMap = s.bootMap := rfl
@[simp] theorem State.setCore_time (s : State) (c : CoreId) (v : Core) : (s.setCore c v).time = s.time := rfl
@[simp] theorem State.setCore_cores (s : State) (c : CoreId) (v : Core) : (s.setCore c v).cores = mapSet s.cores c.val v := rfl
@[simp] theorem State.setCore_clusters (s : State) (c : CoreId) (v : Core) : (s.setCore c v).clusters = s.clusters := rfl
@[simp] theorem State.setCore_dies (s : State) (c : CoreId) (v : Core) : (s.setCore c v).dies = s.dies := rfl
@[simp] theorem State.setCore_policy (s : State) (c : CoreId) (v : Core) : (s.setCore c v).policy = s.policy := rfl
@[simp] theorem State.setCore_dirs (s : State) (c : CoreId) (v : Core) : (s.setCore c v).dirs = s.dirs := rfl
@[simp] theorem State.setCore_copies (s : State) (c : CoreId) (v : Core) : (s.setCore c v).copies = s.copies := rfl
@[simp] theorem State.setCore_caches (s : State) (c : CoreId) (v : Core) : (s.setCore c v).caches = s.caches := rfl
@[simp] theorem State.setCore_order (s : State) (c : CoreId) (v : Core) : (s.setCore c v).order = s.order := rfl
@[simp] theorem State.setCore_adds (s : State) (c : CoreId) (v : Core) : (s.setCore c v).adds = s.adds := rfl
@[simp] theorem State.setCore_settle (s : State) (c : CoreId) (v : Core) : (s.setCore c v).settle = s.settle := rfl
@[simp] theorem State.setCore_funcs (s : State) (c : CoreId) (v : Core) : (s.setCore c v).funcs = s.funcs := rfl
@[simp] theorem State.setCore_launches (s : State) (c : CoreId) (v : Core) : (s.setCore c v).launches = s.launches := rfl
@[simp] theorem State.setCore_teams (s : State) (c : CoreId) (v : Core) : (s.setCore c v).teams = s.teams := rfl
@[simp] theorem State.setCore_nextId (s : State) (c : CoreId) (v : Core) : (s.setCore c v).nextId = s.nextId := rfl
@[simp] theorem State.setCore_rings (s : State) (c : CoreId) (v : Core) : (s.setCore c v).rings = s.rings := rfl
@[simp] theorem State.setCore_chains (s : State) (c : CoreId) (v : Core) : (s.setCore c v).chains = s.chains := rfl
@[simp] theorem State.setCore_outstanding (s : State) (c : CoreId) (v : Core) : (s.setCore c v).outstanding = s.outstanding := rfl
@[simp] theorem State.setCore_sent (s : State) (c : CoreId) (v : Core) : (s.setCore c v).sent = s.sent := rfl
@[simp] theorem State.setCore_ports (s : State) (c : CoreId) (v : Core) : (s.setCore c v).ports = s.ports := rfl
@[simp] theorem State.setCore_jobPtrs (s : State) (c : CoreId) (v : Core) : (s.setCore c v).jobPtrs = s.jobPtrs := rfl
@[simp] theorem State.setCore_jobs (s : State) (c : CoreId) (v : Core) : (s.setCore c v).jobs = s.jobs := rfl
@[simp] theorem State.setCore_cruCounts (s : State) (c : CoreId) (v : Core) : (s.setCore c v).cruCounts = s.cruCounts := rfl
@[simp] theorem State.setCore_spdm (s : State) (c : CoreId) (v : Core) : (s.setCore c v).spdm = s.spdm := rfl
@[simp] theorem State.setCore_boot (s : State) (c : CoreId) (v : Core) : (s.setCore c v).boot = s.boot := rfl
@[simp] theorem State.setCore_pairs (s : State) (c : CoreId) (v : Core) : (s.setCore c v).pairs = s.pairs := rfl
@[simp] theorem State.setCore_restarting (s : State) (c : CoreId) (v : Core) : (s.setCore c v).restarting = s.restarting := rfl
@[simp] theorem State.setCore_powered (s : State) (c : CoreId) (v : Core) : (s.setCore c v).powered = s.powered := rfl

/-! ### `State.modCore` -/

@[simp] theorem State.modCore_cur (s : State) (c : CoreId) (f : Core → Core) : (s.modCore c f).cur = s.cur := rfl
@[simp] theorem State.modCore_parked (s : State) (c : CoreId) (f : Core → Core) : (s.modCore c f).parked = s.parked := rfl
@[simp] theorem State.modCore_due (s : State) (c : CoreId) (f : Core → Core) : (s.modCore c f).due = s.due := rfl
@[simp] theorem State.modCore_agenda (s : State) (c : CoreId) (f : Core → Core) : (s.modCore c f).agenda = s.agenda := rfl
@[simp] theorem State.modCore_turn (s : State) (c : CoreId) (f : Core → Core) : (s.modCore c f).turn = s.turn := rfl
@[simp] theorem State.modCore_tick (s : State) (c : CoreId) (f : Core → Core) : (s.modCore c f).tick = s.tick := rfl
@[simp] theorem State.modCore_stays (s : State) (c : CoreId) (f : Core → Core) : (s.modCore c f).stays = s.stays := rfl
@[simp] theorem State.modCore_mem (s : State) (c : CoreId) (f : Core → Core) : (s.modCore c f).mem = s.mem := rfl
@[simp] theorem State.modCore_tags (s : State) (c : CoreId) (f : Core → Core) : (s.modCore c f).tags = s.tags := rfl
@[simp] theorem State.modCore_poison (s : State) (c : CoreId) (f : Core → Core) : (s.modCore c f).poison = s.poison := rfl
@[simp] theorem State.modCore_tlb (s : State) (c : CoreId) (f : Core → Core) : (s.modCore c f).tlb = s.tlb := rfl
@[simp] theorem State.modCore_walks (s : State) (c : CoreId) (f : Core → Core) : (s.modCore c f).walks = s.walks := rfl
@[simp] theorem State.modCore_descs (s : State) (c : CoreId) (f : Core → Core) : (s.modCore c f).descs = s.descs := rfl
@[simp] theorem State.modCore_astb (s : State) (c : CoreId) (f : Core → Core) : (s.modCore c f).astb = s.astb := rfl
@[simp] theorem State.modCore_bootMap (s : State) (c : CoreId) (f : Core → Core) : (s.modCore c f).bootMap = s.bootMap := rfl
@[simp] theorem State.modCore_time (s : State) (c : CoreId) (f : Core → Core) : (s.modCore c f).time = s.time := rfl
@[simp] theorem State.modCore_cores (s : State) (c : CoreId) (f : Core → Core) : (s.modCore c f).cores = mapSet s.cores c.val (f (s.core c)) := rfl
@[simp] theorem State.modCore_clusters (s : State) (c : CoreId) (f : Core → Core) : (s.modCore c f).clusters = s.clusters := rfl
@[simp] theorem State.modCore_dies (s : State) (c : CoreId) (f : Core → Core) : (s.modCore c f).dies = s.dies := rfl
@[simp] theorem State.modCore_policy (s : State) (c : CoreId) (f : Core → Core) : (s.modCore c f).policy = s.policy := rfl
@[simp] theorem State.modCore_dirs (s : State) (c : CoreId) (f : Core → Core) : (s.modCore c f).dirs = s.dirs := rfl
@[simp] theorem State.modCore_copies (s : State) (c : CoreId) (f : Core → Core) : (s.modCore c f).copies = s.copies := rfl
@[simp] theorem State.modCore_caches (s : State) (c : CoreId) (f : Core → Core) : (s.modCore c f).caches = s.caches := rfl
@[simp] theorem State.modCore_order (s : State) (c : CoreId) (f : Core → Core) : (s.modCore c f).order = s.order := rfl
@[simp] theorem State.modCore_adds (s : State) (c : CoreId) (f : Core → Core) : (s.modCore c f).adds = s.adds := rfl
@[simp] theorem State.modCore_settle (s : State) (c : CoreId) (f : Core → Core) : (s.modCore c f).settle = s.settle := rfl
@[simp] theorem State.modCore_funcs (s : State) (c : CoreId) (f : Core → Core) : (s.modCore c f).funcs = s.funcs := rfl
@[simp] theorem State.modCore_launches (s : State) (c : CoreId) (f : Core → Core) : (s.modCore c f).launches = s.launches := rfl
@[simp] theorem State.modCore_teams (s : State) (c : CoreId) (f : Core → Core) : (s.modCore c f).teams = s.teams := rfl
@[simp] theorem State.modCore_nextId (s : State) (c : CoreId) (f : Core → Core) : (s.modCore c f).nextId = s.nextId := rfl
@[simp] theorem State.modCore_rings (s : State) (c : CoreId) (f : Core → Core) : (s.modCore c f).rings = s.rings := rfl
@[simp] theorem State.modCore_chains (s : State) (c : CoreId) (f : Core → Core) : (s.modCore c f).chains = s.chains := rfl
@[simp] theorem State.modCore_outstanding (s : State) (c : CoreId) (f : Core → Core) : (s.modCore c f).outstanding = s.outstanding := rfl
@[simp] theorem State.modCore_sent (s : State) (c : CoreId) (f : Core → Core) : (s.modCore c f).sent = s.sent := rfl
@[simp] theorem State.modCore_ports (s : State) (c : CoreId) (f : Core → Core) : (s.modCore c f).ports = s.ports := rfl
@[simp] theorem State.modCore_jobPtrs (s : State) (c : CoreId) (f : Core → Core) : (s.modCore c f).jobPtrs = s.jobPtrs := rfl
@[simp] theorem State.modCore_jobs (s : State) (c : CoreId) (f : Core → Core) : (s.modCore c f).jobs = s.jobs := rfl
@[simp] theorem State.modCore_cruCounts (s : State) (c : CoreId) (f : Core → Core) : (s.modCore c f).cruCounts = s.cruCounts := rfl
@[simp] theorem State.modCore_spdm (s : State) (c : CoreId) (f : Core → Core) : (s.modCore c f).spdm = s.spdm := rfl
@[simp] theorem State.modCore_boot (s : State) (c : CoreId) (f : Core → Core) : (s.modCore c f).boot = s.boot := rfl
@[simp] theorem State.modCore_pairs (s : State) (c : CoreId) (f : Core → Core) : (s.modCore c f).pairs = s.pairs := rfl
@[simp] theorem State.modCore_restarting (s : State) (c : CoreId) (f : Core → Core) : (s.modCore c f).restarting = s.restarting := rfl
@[simp] theorem State.modCore_powered (s : State) (c : CoreId) (f : Core → Core) : (s.modCore c f).powered = s.powered := rfl

/-! ### `State.setCluster` -/

@[simp] theorem State.setCluster_cur (s : State) (c : ClusterId) (v : Cluster) : (s.setCluster c v).cur = s.cur := rfl
@[simp] theorem State.setCluster_parked (s : State) (c : ClusterId) (v : Cluster) : (s.setCluster c v).parked = s.parked := rfl
@[simp] theorem State.setCluster_due (s : State) (c : ClusterId) (v : Cluster) : (s.setCluster c v).due = s.due := rfl
@[simp] theorem State.setCluster_agenda (s : State) (c : ClusterId) (v : Cluster) : (s.setCluster c v).agenda = s.agenda := rfl
@[simp] theorem State.setCluster_turn (s : State) (c : ClusterId) (v : Cluster) : (s.setCluster c v).turn = s.turn := rfl
@[simp] theorem State.setCluster_tick (s : State) (c : ClusterId) (v : Cluster) : (s.setCluster c v).tick = s.tick := rfl
@[simp] theorem State.setCluster_stays (s : State) (c : ClusterId) (v : Cluster) : (s.setCluster c v).stays = s.stays := rfl
@[simp] theorem State.setCluster_mem (s : State) (c : ClusterId) (v : Cluster) : (s.setCluster c v).mem = s.mem := rfl
@[simp] theorem State.setCluster_tags (s : State) (c : ClusterId) (v : Cluster) : (s.setCluster c v).tags = s.tags := rfl
@[simp] theorem State.setCluster_poison (s : State) (c : ClusterId) (v : Cluster) : (s.setCluster c v).poison = s.poison := rfl
@[simp] theorem State.setCluster_tlb (s : State) (c : ClusterId) (v : Cluster) : (s.setCluster c v).tlb = s.tlb := rfl
@[simp] theorem State.setCluster_walks (s : State) (c : ClusterId) (v : Cluster) : (s.setCluster c v).walks = s.walks := rfl
@[simp] theorem State.setCluster_descs (s : State) (c : ClusterId) (v : Cluster) : (s.setCluster c v).descs = s.descs := rfl
@[simp] theorem State.setCluster_astb (s : State) (c : ClusterId) (v : Cluster) : (s.setCluster c v).astb = s.astb := rfl
@[simp] theorem State.setCluster_bootMap (s : State) (c : ClusterId) (v : Cluster) : (s.setCluster c v).bootMap = s.bootMap := rfl
@[simp] theorem State.setCluster_time (s : State) (c : ClusterId) (v : Cluster) : (s.setCluster c v).time = s.time := rfl
@[simp] theorem State.setCluster_cores (s : State) (c : ClusterId) (v : Cluster) : (s.setCluster c v).cores = s.cores := rfl
@[simp] theorem State.setCluster_clusters (s : State) (c : ClusterId) (v : Cluster) : (s.setCluster c v).clusters = mapSet s.clusters c.val v := rfl
@[simp] theorem State.setCluster_dies (s : State) (c : ClusterId) (v : Cluster) : (s.setCluster c v).dies = s.dies := rfl
@[simp] theorem State.setCluster_policy (s : State) (c : ClusterId) (v : Cluster) : (s.setCluster c v).policy = s.policy := rfl
@[simp] theorem State.setCluster_dirs (s : State) (c : ClusterId) (v : Cluster) : (s.setCluster c v).dirs = s.dirs := rfl
@[simp] theorem State.setCluster_copies (s : State) (c : ClusterId) (v : Cluster) : (s.setCluster c v).copies = s.copies := rfl
@[simp] theorem State.setCluster_caches (s : State) (c : ClusterId) (v : Cluster) : (s.setCluster c v).caches = s.caches := rfl
@[simp] theorem State.setCluster_order (s : State) (c : ClusterId) (v : Cluster) : (s.setCluster c v).order = s.order := rfl
@[simp] theorem State.setCluster_adds (s : State) (c : ClusterId) (v : Cluster) : (s.setCluster c v).adds = s.adds := rfl
@[simp] theorem State.setCluster_settle (s : State) (c : ClusterId) (v : Cluster) : (s.setCluster c v).settle = s.settle := rfl
@[simp] theorem State.setCluster_funcs (s : State) (c : ClusterId) (v : Cluster) : (s.setCluster c v).funcs = s.funcs := rfl
@[simp] theorem State.setCluster_launches (s : State) (c : ClusterId) (v : Cluster) : (s.setCluster c v).launches = s.launches := rfl
@[simp] theorem State.setCluster_teams (s : State) (c : ClusterId) (v : Cluster) : (s.setCluster c v).teams = s.teams := rfl
@[simp] theorem State.setCluster_nextId (s : State) (c : ClusterId) (v : Cluster) : (s.setCluster c v).nextId = s.nextId := rfl
@[simp] theorem State.setCluster_rings (s : State) (c : ClusterId) (v : Cluster) : (s.setCluster c v).rings = s.rings := rfl
@[simp] theorem State.setCluster_chains (s : State) (c : ClusterId) (v : Cluster) : (s.setCluster c v).chains = s.chains := rfl
@[simp] theorem State.setCluster_outstanding (s : State) (c : ClusterId) (v : Cluster) : (s.setCluster c v).outstanding = s.outstanding := rfl
@[simp] theorem State.setCluster_sent (s : State) (c : ClusterId) (v : Cluster) : (s.setCluster c v).sent = s.sent := rfl
@[simp] theorem State.setCluster_ports (s : State) (c : ClusterId) (v : Cluster) : (s.setCluster c v).ports = s.ports := rfl
@[simp] theorem State.setCluster_jobPtrs (s : State) (c : ClusterId) (v : Cluster) : (s.setCluster c v).jobPtrs = s.jobPtrs := rfl
@[simp] theorem State.setCluster_jobs (s : State) (c : ClusterId) (v : Cluster) : (s.setCluster c v).jobs = s.jobs := rfl
@[simp] theorem State.setCluster_cruCounts (s : State) (c : ClusterId) (v : Cluster) : (s.setCluster c v).cruCounts = s.cruCounts := rfl
@[simp] theorem State.setCluster_spdm (s : State) (c : ClusterId) (v : Cluster) : (s.setCluster c v).spdm = s.spdm := rfl
@[simp] theorem State.setCluster_boot (s : State) (c : ClusterId) (v : Cluster) : (s.setCluster c v).boot = s.boot := rfl
@[simp] theorem State.setCluster_pairs (s : State) (c : ClusterId) (v : Cluster) : (s.setCluster c v).pairs = s.pairs := rfl
@[simp] theorem State.setCluster_restarting (s : State) (c : ClusterId) (v : Cluster) : (s.setCluster c v).restarting = s.restarting := rfl
@[simp] theorem State.setCluster_powered (s : State) (c : ClusterId) (v : Cluster) : (s.setCluster c v).powered = s.powered := rfl

/-! ### `State.modCluster` -/

@[simp] theorem State.modCluster_cur (s : State) (c : ClusterId) (f : Cluster → Cluster) : (s.modCluster c f).cur = s.cur := rfl
@[simp] theorem State.modCluster_parked (s : State) (c : ClusterId) (f : Cluster → Cluster) : (s.modCluster c f).parked = s.parked := rfl
@[simp] theorem State.modCluster_due (s : State) (c : ClusterId) (f : Cluster → Cluster) : (s.modCluster c f).due = s.due := rfl
@[simp] theorem State.modCluster_agenda (s : State) (c : ClusterId) (f : Cluster → Cluster) : (s.modCluster c f).agenda = s.agenda := rfl
@[simp] theorem State.modCluster_turn (s : State) (c : ClusterId) (f : Cluster → Cluster) : (s.modCluster c f).turn = s.turn := rfl
@[simp] theorem State.modCluster_tick (s : State) (c : ClusterId) (f : Cluster → Cluster) : (s.modCluster c f).tick = s.tick := rfl
@[simp] theorem State.modCluster_stays (s : State) (c : ClusterId) (f : Cluster → Cluster) : (s.modCluster c f).stays = s.stays := rfl
@[simp] theorem State.modCluster_mem (s : State) (c : ClusterId) (f : Cluster → Cluster) : (s.modCluster c f).mem = s.mem := rfl
@[simp] theorem State.modCluster_tags (s : State) (c : ClusterId) (f : Cluster → Cluster) : (s.modCluster c f).tags = s.tags := rfl
@[simp] theorem State.modCluster_poison (s : State) (c : ClusterId) (f : Cluster → Cluster) : (s.modCluster c f).poison = s.poison := rfl
@[simp] theorem State.modCluster_tlb (s : State) (c : ClusterId) (f : Cluster → Cluster) : (s.modCluster c f).tlb = s.tlb := rfl
@[simp] theorem State.modCluster_walks (s : State) (c : ClusterId) (f : Cluster → Cluster) : (s.modCluster c f).walks = s.walks := rfl
@[simp] theorem State.modCluster_descs (s : State) (c : ClusterId) (f : Cluster → Cluster) : (s.modCluster c f).descs = s.descs := rfl
@[simp] theorem State.modCluster_astb (s : State) (c : ClusterId) (f : Cluster → Cluster) : (s.modCluster c f).astb = s.astb := rfl
@[simp] theorem State.modCluster_bootMap (s : State) (c : ClusterId) (f : Cluster → Cluster) : (s.modCluster c f).bootMap = s.bootMap := rfl
@[simp] theorem State.modCluster_time (s : State) (c : ClusterId) (f : Cluster → Cluster) : (s.modCluster c f).time = s.time := rfl
@[simp] theorem State.modCluster_cores (s : State) (c : ClusterId) (f : Cluster → Cluster) : (s.modCluster c f).cores = s.cores := rfl
@[simp] theorem State.modCluster_clusters (s : State) (c : ClusterId) (f : Cluster → Cluster) : (s.modCluster c f).clusters = mapSet s.clusters c.val (f (s.cluster c)) := rfl
@[simp] theorem State.modCluster_dies (s : State) (c : ClusterId) (f : Cluster → Cluster) : (s.modCluster c f).dies = s.dies := rfl
@[simp] theorem State.modCluster_policy (s : State) (c : ClusterId) (f : Cluster → Cluster) : (s.modCluster c f).policy = s.policy := rfl
@[simp] theorem State.modCluster_dirs (s : State) (c : ClusterId) (f : Cluster → Cluster) : (s.modCluster c f).dirs = s.dirs := rfl
@[simp] theorem State.modCluster_copies (s : State) (c : ClusterId) (f : Cluster → Cluster) : (s.modCluster c f).copies = s.copies := rfl
@[simp] theorem State.modCluster_caches (s : State) (c : ClusterId) (f : Cluster → Cluster) : (s.modCluster c f).caches = s.caches := rfl
@[simp] theorem State.modCluster_order (s : State) (c : ClusterId) (f : Cluster → Cluster) : (s.modCluster c f).order = s.order := rfl
@[simp] theorem State.modCluster_adds (s : State) (c : ClusterId) (f : Cluster → Cluster) : (s.modCluster c f).adds = s.adds := rfl
@[simp] theorem State.modCluster_settle (s : State) (c : ClusterId) (f : Cluster → Cluster) : (s.modCluster c f).settle = s.settle := rfl
@[simp] theorem State.modCluster_funcs (s : State) (c : ClusterId) (f : Cluster → Cluster) : (s.modCluster c f).funcs = s.funcs := rfl
@[simp] theorem State.modCluster_launches (s : State) (c : ClusterId) (f : Cluster → Cluster) : (s.modCluster c f).launches = s.launches := rfl
@[simp] theorem State.modCluster_teams (s : State) (c : ClusterId) (f : Cluster → Cluster) : (s.modCluster c f).teams = s.teams := rfl
@[simp] theorem State.modCluster_nextId (s : State) (c : ClusterId) (f : Cluster → Cluster) : (s.modCluster c f).nextId = s.nextId := rfl
@[simp] theorem State.modCluster_rings (s : State) (c : ClusterId) (f : Cluster → Cluster) : (s.modCluster c f).rings = s.rings := rfl
@[simp] theorem State.modCluster_chains (s : State) (c : ClusterId) (f : Cluster → Cluster) : (s.modCluster c f).chains = s.chains := rfl
@[simp] theorem State.modCluster_outstanding (s : State) (c : ClusterId) (f : Cluster → Cluster) : (s.modCluster c f).outstanding = s.outstanding := rfl
@[simp] theorem State.modCluster_sent (s : State) (c : ClusterId) (f : Cluster → Cluster) : (s.modCluster c f).sent = s.sent := rfl
@[simp] theorem State.modCluster_ports (s : State) (c : ClusterId) (f : Cluster → Cluster) : (s.modCluster c f).ports = s.ports := rfl
@[simp] theorem State.modCluster_jobPtrs (s : State) (c : ClusterId) (f : Cluster → Cluster) : (s.modCluster c f).jobPtrs = s.jobPtrs := rfl
@[simp] theorem State.modCluster_jobs (s : State) (c : ClusterId) (f : Cluster → Cluster) : (s.modCluster c f).jobs = s.jobs := rfl
@[simp] theorem State.modCluster_cruCounts (s : State) (c : ClusterId) (f : Cluster → Cluster) : (s.modCluster c f).cruCounts = s.cruCounts := rfl
@[simp] theorem State.modCluster_spdm (s : State) (c : ClusterId) (f : Cluster → Cluster) : (s.modCluster c f).spdm = s.spdm := rfl
@[simp] theorem State.modCluster_boot (s : State) (c : ClusterId) (f : Cluster → Cluster) : (s.modCluster c f).boot = s.boot := rfl
@[simp] theorem State.modCluster_pairs (s : State) (c : ClusterId) (f : Cluster → Cluster) : (s.modCluster c f).pairs = s.pairs := rfl
@[simp] theorem State.modCluster_restarting (s : State) (c : ClusterId) (f : Cluster → Cluster) : (s.modCluster c f).restarting = s.restarting := rfl
@[simp] theorem State.modCluster_powered (s : State) (c : ClusterId) (f : Cluster → Cluster) : (s.modCluster c f).powered = s.powered := rfl

/-! ### `State.modDie` -/

@[simp] theorem State.modDie_cur (s : State) (d : DieId) (f : Die → Die) : (s.modDie d f).cur = s.cur := rfl
@[simp] theorem State.modDie_parked (s : State) (d : DieId) (f : Die → Die) : (s.modDie d f).parked = s.parked := rfl
@[simp] theorem State.modDie_due (s : State) (d : DieId) (f : Die → Die) : (s.modDie d f).due = s.due := rfl
@[simp] theorem State.modDie_agenda (s : State) (d : DieId) (f : Die → Die) : (s.modDie d f).agenda = s.agenda := rfl
@[simp] theorem State.modDie_turn (s : State) (d : DieId) (f : Die → Die) : (s.modDie d f).turn = s.turn := rfl
@[simp] theorem State.modDie_tick (s : State) (d : DieId) (f : Die → Die) : (s.modDie d f).tick = s.tick := rfl
@[simp] theorem State.modDie_stays (s : State) (d : DieId) (f : Die → Die) : (s.modDie d f).stays = s.stays := rfl
@[simp] theorem State.modDie_mem (s : State) (d : DieId) (f : Die → Die) : (s.modDie d f).mem = s.mem := rfl
@[simp] theorem State.modDie_tags (s : State) (d : DieId) (f : Die → Die) : (s.modDie d f).tags = s.tags := rfl
@[simp] theorem State.modDie_poison (s : State) (d : DieId) (f : Die → Die) : (s.modDie d f).poison = s.poison := rfl
@[simp] theorem State.modDie_tlb (s : State) (d : DieId) (f : Die → Die) : (s.modDie d f).tlb = s.tlb := rfl
@[simp] theorem State.modDie_walks (s : State) (d : DieId) (f : Die → Die) : (s.modDie d f).walks = s.walks := rfl
@[simp] theorem State.modDie_descs (s : State) (d : DieId) (f : Die → Die) : (s.modDie d f).descs = s.descs := rfl
@[simp] theorem State.modDie_astb (s : State) (d : DieId) (f : Die → Die) : (s.modDie d f).astb = s.astb := rfl
@[simp] theorem State.modDie_bootMap (s : State) (d : DieId) (f : Die → Die) : (s.modDie d f).bootMap = s.bootMap := rfl
@[simp] theorem State.modDie_time (s : State) (d : DieId) (f : Die → Die) : (s.modDie d f).time = s.time := rfl
@[simp] theorem State.modDie_cores (s : State) (d : DieId) (f : Die → Die) : (s.modDie d f).cores = s.cores := rfl
@[simp] theorem State.modDie_clusters (s : State) (d : DieId) (f : Die → Die) : (s.modDie d f).clusters = s.clusters := rfl
@[simp] theorem State.modDie_dies (s : State) (d : DieId) (f : Die → Die) : (s.modDie d f).dies = s.dies.set d (f (s.dies.get d)) := rfl
@[simp] theorem State.modDie_policy (s : State) (d : DieId) (f : Die → Die) : (s.modDie d f).policy = s.policy := rfl
@[simp] theorem State.modDie_dirs (s : State) (d : DieId) (f : Die → Die) : (s.modDie d f).dirs = s.dirs := rfl
@[simp] theorem State.modDie_copies (s : State) (d : DieId) (f : Die → Die) : (s.modDie d f).copies = s.copies := rfl
@[simp] theorem State.modDie_caches (s : State) (d : DieId) (f : Die → Die) : (s.modDie d f).caches = s.caches := rfl
@[simp] theorem State.modDie_order (s : State) (d : DieId) (f : Die → Die) : (s.modDie d f).order = s.order := rfl
@[simp] theorem State.modDie_adds (s : State) (d : DieId) (f : Die → Die) : (s.modDie d f).adds = s.adds := rfl
@[simp] theorem State.modDie_settle (s : State) (d : DieId) (f : Die → Die) : (s.modDie d f).settle = s.settle := rfl
@[simp] theorem State.modDie_funcs (s : State) (d : DieId) (f : Die → Die) : (s.modDie d f).funcs = s.funcs := rfl
@[simp] theorem State.modDie_launches (s : State) (d : DieId) (f : Die → Die) : (s.modDie d f).launches = s.launches := rfl
@[simp] theorem State.modDie_teams (s : State) (d : DieId) (f : Die → Die) : (s.modDie d f).teams = s.teams := rfl
@[simp] theorem State.modDie_nextId (s : State) (d : DieId) (f : Die → Die) : (s.modDie d f).nextId = s.nextId := rfl
@[simp] theorem State.modDie_rings (s : State) (d : DieId) (f : Die → Die) : (s.modDie d f).rings = s.rings := rfl
@[simp] theorem State.modDie_chains (s : State) (d : DieId) (f : Die → Die) : (s.modDie d f).chains = s.chains := rfl
@[simp] theorem State.modDie_outstanding (s : State) (d : DieId) (f : Die → Die) : (s.modDie d f).outstanding = s.outstanding := rfl
@[simp] theorem State.modDie_sent (s : State) (d : DieId) (f : Die → Die) : (s.modDie d f).sent = s.sent := rfl
@[simp] theorem State.modDie_ports (s : State) (d : DieId) (f : Die → Die) : (s.modDie d f).ports = s.ports := rfl
@[simp] theorem State.modDie_jobPtrs (s : State) (d : DieId) (f : Die → Die) : (s.modDie d f).jobPtrs = s.jobPtrs := rfl
@[simp] theorem State.modDie_jobs (s : State) (d : DieId) (f : Die → Die) : (s.modDie d f).jobs = s.jobs := rfl
@[simp] theorem State.modDie_cruCounts (s : State) (d : DieId) (f : Die → Die) : (s.modDie d f).cruCounts = s.cruCounts := rfl
@[simp] theorem State.modDie_spdm (s : State) (d : DieId) (f : Die → Die) : (s.modDie d f).spdm = s.spdm := rfl
@[simp] theorem State.modDie_boot (s : State) (d : DieId) (f : Die → Die) : (s.modDie d f).boot = s.boot := rfl
@[simp] theorem State.modDie_pairs (s : State) (d : DieId) (f : Die → Die) : (s.modDie d f).pairs = s.pairs := rfl
@[simp] theorem State.modDie_restarting (s : State) (d : DieId) (f : Die → Die) : (s.modDie d f).restarting = s.restarting := rfl
@[simp] theorem State.modDie_powered (s : State) (d : DieId) (f : Die → Die) : (s.modDie d f).powered = s.powered := rfl

/-! ### `State.modFn` -/

@[simp] theorem State.modFn_cur (s : State) (k : FnId) (f : Function → Function) : (s.modFn k f).cur = s.cur := rfl
@[simp] theorem State.modFn_parked (s : State) (k : FnId) (f : Function → Function) : (s.modFn k f).parked = s.parked := rfl
@[simp] theorem State.modFn_due (s : State) (k : FnId) (f : Function → Function) : (s.modFn k f).due = s.due := rfl
@[simp] theorem State.modFn_agenda (s : State) (k : FnId) (f : Function → Function) : (s.modFn k f).agenda = s.agenda := rfl
@[simp] theorem State.modFn_turn (s : State) (k : FnId) (f : Function → Function) : (s.modFn k f).turn = s.turn := rfl
@[simp] theorem State.modFn_tick (s : State) (k : FnId) (f : Function → Function) : (s.modFn k f).tick = s.tick := rfl
@[simp] theorem State.modFn_stays (s : State) (k : FnId) (f : Function → Function) : (s.modFn k f).stays = s.stays := rfl
@[simp] theorem State.modFn_mem (s : State) (k : FnId) (f : Function → Function) : (s.modFn k f).mem = s.mem := rfl
@[simp] theorem State.modFn_tags (s : State) (k : FnId) (f : Function → Function) : (s.modFn k f).tags = s.tags := rfl
@[simp] theorem State.modFn_poison (s : State) (k : FnId) (f : Function → Function) : (s.modFn k f).poison = s.poison := rfl
@[simp] theorem State.modFn_tlb (s : State) (k : FnId) (f : Function → Function) : (s.modFn k f).tlb = s.tlb := rfl
@[simp] theorem State.modFn_walks (s : State) (k : FnId) (f : Function → Function) : (s.modFn k f).walks = s.walks := rfl
@[simp] theorem State.modFn_descs (s : State) (k : FnId) (f : Function → Function) : (s.modFn k f).descs = s.descs := rfl
@[simp] theorem State.modFn_astb (s : State) (k : FnId) (f : Function → Function) : (s.modFn k f).astb = s.astb := rfl
@[simp] theorem State.modFn_bootMap (s : State) (k : FnId) (f : Function → Function) : (s.modFn k f).bootMap = s.bootMap := rfl
@[simp] theorem State.modFn_time (s : State) (k : FnId) (f : Function → Function) : (s.modFn k f).time = s.time := rfl
@[simp] theorem State.modFn_cores (s : State) (k : FnId) (f : Function → Function) : (s.modFn k f).cores = s.cores := rfl
@[simp] theorem State.modFn_clusters (s : State) (k : FnId) (f : Function → Function) : (s.modFn k f).clusters = s.clusters := rfl
@[simp] theorem State.modFn_dies (s : State) (k : FnId) (f : Function → Function) : (s.modFn k f).dies = s.dies := rfl
@[simp] theorem State.modFn_policy (s : State) (k : FnId) (f : Function → Function) : (s.modFn k f).policy = s.policy := rfl
@[simp] theorem State.modFn_dirs (s : State) (k : FnId) (f : Function → Function) : (s.modFn k f).dirs = s.dirs := rfl
@[simp] theorem State.modFn_copies (s : State) (k : FnId) (f : Function → Function) : (s.modFn k f).copies = s.copies := rfl
@[simp] theorem State.modFn_caches (s : State) (k : FnId) (f : Function → Function) : (s.modFn k f).caches = s.caches := rfl
@[simp] theorem State.modFn_order (s : State) (k : FnId) (f : Function → Function) : (s.modFn k f).order = s.order := rfl
@[simp] theorem State.modFn_adds (s : State) (k : FnId) (f : Function → Function) : (s.modFn k f).adds = s.adds := rfl
@[simp] theorem State.modFn_settle (s : State) (k : FnId) (f : Function → Function) : (s.modFn k f).settle = s.settle := rfl
@[simp] theorem State.modFn_funcs (s : State) (k : FnId) (f : Function → Function) : (s.modFn k f).funcs = s.funcs.set k (f (s.funcs.get k)) := rfl
@[simp] theorem State.modFn_launches (s : State) (k : FnId) (f : Function → Function) : (s.modFn k f).launches = s.launches := rfl
@[simp] theorem State.modFn_teams (s : State) (k : FnId) (f : Function → Function) : (s.modFn k f).teams = s.teams := rfl
@[simp] theorem State.modFn_nextId (s : State) (k : FnId) (f : Function → Function) : (s.modFn k f).nextId = s.nextId := rfl
@[simp] theorem State.modFn_rings (s : State) (k : FnId) (f : Function → Function) : (s.modFn k f).rings = s.rings := rfl
@[simp] theorem State.modFn_chains (s : State) (k : FnId) (f : Function → Function) : (s.modFn k f).chains = s.chains := rfl
@[simp] theorem State.modFn_outstanding (s : State) (k : FnId) (f : Function → Function) : (s.modFn k f).outstanding = s.outstanding := rfl
@[simp] theorem State.modFn_sent (s : State) (k : FnId) (f : Function → Function) : (s.modFn k f).sent = s.sent := rfl
@[simp] theorem State.modFn_ports (s : State) (k : FnId) (f : Function → Function) : (s.modFn k f).ports = s.ports := rfl
@[simp] theorem State.modFn_jobPtrs (s : State) (k : FnId) (f : Function → Function) : (s.modFn k f).jobPtrs = s.jobPtrs := rfl
@[simp] theorem State.modFn_jobs (s : State) (k : FnId) (f : Function → Function) : (s.modFn k f).jobs = s.jobs := rfl
@[simp] theorem State.modFn_cruCounts (s : State) (k : FnId) (f : Function → Function) : (s.modFn k f).cruCounts = s.cruCounts := rfl
@[simp] theorem State.modFn_spdm (s : State) (k : FnId) (f : Function → Function) : (s.modFn k f).spdm = s.spdm := rfl
@[simp] theorem State.modFn_boot (s : State) (k : FnId) (f : Function → Function) : (s.modFn k f).boot = s.boot := rfl
@[simp] theorem State.modFn_pairs (s : State) (k : FnId) (f : Function → Function) : (s.modFn k f).pairs = s.pairs := rfl
@[simp] theorem State.modFn_restarting (s : State) (k : FnId) (f : Function → Function) : (s.modFn k f).restarting = s.restarting := rfl
@[simp] theorem State.modFn_powered (s : State) (k : FnId) (f : Function → Function) : (s.modFn k f).powered = s.powered := rfl

/-! ### `State.addDue` -/

@[simp] theorem State.addDue_cur (s : State) (i : Instr) : (s.addDue i).cur = s.cur := rfl
@[simp] theorem State.addDue_parked (s : State) (i : Instr) : (s.addDue i).parked = s.parked := rfl
@[simp] theorem State.addDue_due (s : State) (i : Instr) : (s.addDue i).due = s.due ++ [i] := rfl
@[simp] theorem State.addDue_agenda (s : State) (i : Instr) : (s.addDue i).agenda = s.agenda := rfl
@[simp] theorem State.addDue_turn (s : State) (i : Instr) : (s.addDue i).turn = s.turn := rfl
@[simp] theorem State.addDue_tick (s : State) (i : Instr) : (s.addDue i).tick = s.tick := rfl
@[simp] theorem State.addDue_stays (s : State) (i : Instr) : (s.addDue i).stays = s.stays := rfl
@[simp] theorem State.addDue_mem (s : State) (i : Instr) : (s.addDue i).mem = s.mem := rfl
@[simp] theorem State.addDue_tags (s : State) (i : Instr) : (s.addDue i).tags = s.tags := rfl
@[simp] theorem State.addDue_poison (s : State) (i : Instr) : (s.addDue i).poison = s.poison := rfl
@[simp] theorem State.addDue_tlb (s : State) (i : Instr) : (s.addDue i).tlb = s.tlb := rfl
@[simp] theorem State.addDue_walks (s : State) (i : Instr) : (s.addDue i).walks = s.walks := rfl
@[simp] theorem State.addDue_descs (s : State) (i : Instr) : (s.addDue i).descs = s.descs := rfl
@[simp] theorem State.addDue_astb (s : State) (i : Instr) : (s.addDue i).astb = s.astb := rfl
@[simp] theorem State.addDue_bootMap (s : State) (i : Instr) : (s.addDue i).bootMap = s.bootMap := rfl
@[simp] theorem State.addDue_time (s : State) (i : Instr) : (s.addDue i).time = s.time := rfl
@[simp] theorem State.addDue_cores (s : State) (i : Instr) : (s.addDue i).cores = s.cores := rfl
@[simp] theorem State.addDue_clusters (s : State) (i : Instr) : (s.addDue i).clusters = s.clusters := rfl
@[simp] theorem State.addDue_dies (s : State) (i : Instr) : (s.addDue i).dies = s.dies := rfl
@[simp] theorem State.addDue_policy (s : State) (i : Instr) : (s.addDue i).policy = s.policy := rfl
@[simp] theorem State.addDue_dirs (s : State) (i : Instr) : (s.addDue i).dirs = s.dirs := rfl
@[simp] theorem State.addDue_copies (s : State) (i : Instr) : (s.addDue i).copies = s.copies := rfl
@[simp] theorem State.addDue_caches (s : State) (i : Instr) : (s.addDue i).caches = s.caches := rfl
@[simp] theorem State.addDue_order (s : State) (i : Instr) : (s.addDue i).order = s.order := rfl
@[simp] theorem State.addDue_adds (s : State) (i : Instr) : (s.addDue i).adds = s.adds := rfl
@[simp] theorem State.addDue_settle (s : State) (i : Instr) : (s.addDue i).settle = s.settle := rfl
@[simp] theorem State.addDue_funcs (s : State) (i : Instr) : (s.addDue i).funcs = s.funcs := rfl
@[simp] theorem State.addDue_launches (s : State) (i : Instr) : (s.addDue i).launches = s.launches := rfl
@[simp] theorem State.addDue_teams (s : State) (i : Instr) : (s.addDue i).teams = s.teams := rfl
@[simp] theorem State.addDue_nextId (s : State) (i : Instr) : (s.addDue i).nextId = s.nextId := rfl
@[simp] theorem State.addDue_rings (s : State) (i : Instr) : (s.addDue i).rings = s.rings := rfl
@[simp] theorem State.addDue_chains (s : State) (i : Instr) : (s.addDue i).chains = s.chains := rfl
@[simp] theorem State.addDue_outstanding (s : State) (i : Instr) : (s.addDue i).outstanding = s.outstanding := rfl
@[simp] theorem State.addDue_sent (s : State) (i : Instr) : (s.addDue i).sent = s.sent := rfl
@[simp] theorem State.addDue_ports (s : State) (i : Instr) : (s.addDue i).ports = s.ports := rfl
@[simp] theorem State.addDue_jobPtrs (s : State) (i : Instr) : (s.addDue i).jobPtrs = s.jobPtrs := rfl
@[simp] theorem State.addDue_jobs (s : State) (i : Instr) : (s.addDue i).jobs = s.jobs := rfl
@[simp] theorem State.addDue_cruCounts (s : State) (i : Instr) : (s.addDue i).cruCounts = s.cruCounts := rfl
@[simp] theorem State.addDue_spdm (s : State) (i : Instr) : (s.addDue i).spdm = s.spdm := rfl
@[simp] theorem State.addDue_boot (s : State) (i : Instr) : (s.addDue i).boot = s.boot := rfl
@[simp] theorem State.addDue_pairs (s : State) (i : Instr) : (s.addDue i).pairs = s.pairs := rfl
@[simp] theorem State.addDue_restarting (s : State) (i : Instr) : (s.addDue i).restarting = s.restarting := rfl
@[simp] theorem State.addDue_powered (s : State) (i : Instr) : (s.addDue i).powered = s.powered := rfl

/-! ### `State.addAgenda` -/

@[simp] theorem State.addAgenda_cur (s : State) (i : Instr) : (s.addAgenda i).cur = s.cur := rfl
@[simp] theorem State.addAgenda_parked (s : State) (i : Instr) : (s.addAgenda i).parked = s.parked := rfl
@[simp] theorem State.addAgenda_due (s : State) (i : Instr) : (s.addAgenda i).due = s.due := rfl
@[simp] theorem State.addAgenda_agenda (s : State) (i : Instr) : (s.addAgenda i).agenda = s.agenda ++ [i] := rfl
@[simp] theorem State.addAgenda_turn (s : State) (i : Instr) : (s.addAgenda i).turn = s.turn := rfl
@[simp] theorem State.addAgenda_tick (s : State) (i : Instr) : (s.addAgenda i).tick = s.tick := rfl
@[simp] theorem State.addAgenda_stays (s : State) (i : Instr) : (s.addAgenda i).stays = s.stays := rfl
@[simp] theorem State.addAgenda_mem (s : State) (i : Instr) : (s.addAgenda i).mem = s.mem := rfl
@[simp] theorem State.addAgenda_tags (s : State) (i : Instr) : (s.addAgenda i).tags = s.tags := rfl
@[simp] theorem State.addAgenda_poison (s : State) (i : Instr) : (s.addAgenda i).poison = s.poison := rfl
@[simp] theorem State.addAgenda_tlb (s : State) (i : Instr) : (s.addAgenda i).tlb = s.tlb := rfl
@[simp] theorem State.addAgenda_walks (s : State) (i : Instr) : (s.addAgenda i).walks = s.walks := rfl
@[simp] theorem State.addAgenda_descs (s : State) (i : Instr) : (s.addAgenda i).descs = s.descs := rfl
@[simp] theorem State.addAgenda_astb (s : State) (i : Instr) : (s.addAgenda i).astb = s.astb := rfl
@[simp] theorem State.addAgenda_bootMap (s : State) (i : Instr) : (s.addAgenda i).bootMap = s.bootMap := rfl
@[simp] theorem State.addAgenda_time (s : State) (i : Instr) : (s.addAgenda i).time = s.time := rfl
@[simp] theorem State.addAgenda_cores (s : State) (i : Instr) : (s.addAgenda i).cores = s.cores := rfl
@[simp] theorem State.addAgenda_clusters (s : State) (i : Instr) : (s.addAgenda i).clusters = s.clusters := rfl
@[simp] theorem State.addAgenda_dies (s : State) (i : Instr) : (s.addAgenda i).dies = s.dies := rfl
@[simp] theorem State.addAgenda_policy (s : State) (i : Instr) : (s.addAgenda i).policy = s.policy := rfl
@[simp] theorem State.addAgenda_dirs (s : State) (i : Instr) : (s.addAgenda i).dirs = s.dirs := rfl
@[simp] theorem State.addAgenda_copies (s : State) (i : Instr) : (s.addAgenda i).copies = s.copies := rfl
@[simp] theorem State.addAgenda_caches (s : State) (i : Instr) : (s.addAgenda i).caches = s.caches := rfl
@[simp] theorem State.addAgenda_order (s : State) (i : Instr) : (s.addAgenda i).order = s.order := rfl
@[simp] theorem State.addAgenda_adds (s : State) (i : Instr) : (s.addAgenda i).adds = s.adds := rfl
@[simp] theorem State.addAgenda_settle (s : State) (i : Instr) : (s.addAgenda i).settle = s.settle := rfl
@[simp] theorem State.addAgenda_funcs (s : State) (i : Instr) : (s.addAgenda i).funcs = s.funcs := rfl
@[simp] theorem State.addAgenda_launches (s : State) (i : Instr) : (s.addAgenda i).launches = s.launches := rfl
@[simp] theorem State.addAgenda_teams (s : State) (i : Instr) : (s.addAgenda i).teams = s.teams := rfl
@[simp] theorem State.addAgenda_nextId (s : State) (i : Instr) : (s.addAgenda i).nextId = s.nextId := rfl
@[simp] theorem State.addAgenda_rings (s : State) (i : Instr) : (s.addAgenda i).rings = s.rings := rfl
@[simp] theorem State.addAgenda_chains (s : State) (i : Instr) : (s.addAgenda i).chains = s.chains := rfl
@[simp] theorem State.addAgenda_outstanding (s : State) (i : Instr) : (s.addAgenda i).outstanding = s.outstanding := rfl
@[simp] theorem State.addAgenda_sent (s : State) (i : Instr) : (s.addAgenda i).sent = s.sent := rfl
@[simp] theorem State.addAgenda_ports (s : State) (i : Instr) : (s.addAgenda i).ports = s.ports := rfl
@[simp] theorem State.addAgenda_jobPtrs (s : State) (i : Instr) : (s.addAgenda i).jobPtrs = s.jobPtrs := rfl
@[simp] theorem State.addAgenda_jobs (s : State) (i : Instr) : (s.addAgenda i).jobs = s.jobs := rfl
@[simp] theorem State.addAgenda_cruCounts (s : State) (i : Instr) : (s.addAgenda i).cruCounts = s.cruCounts := rfl
@[simp] theorem State.addAgenda_spdm (s : State) (i : Instr) : (s.addAgenda i).spdm = s.spdm := rfl
@[simp] theorem State.addAgenda_boot (s : State) (i : Instr) : (s.addAgenda i).boot = s.boot := rfl
@[simp] theorem State.addAgenda_pairs (s : State) (i : Instr) : (s.addAgenda i).pairs = s.pairs := rfl
@[simp] theorem State.addAgenda_restarting (s : State) (i : Instr) : (s.addAgenda i).restarting = s.restarting := rfl
@[simp] theorem State.addAgenda_powered (s : State) (i : Instr) : (s.addAgenda i).powered = s.powered := rfl

/-! ### `State.send` -/

@[simp] theorem State.send_cur (s : State) (m : Sent) : (s.send m).cur = s.cur := rfl
@[simp] theorem State.send_parked (s : State) (m : Sent) : (s.send m).parked = s.parked := rfl
@[simp] theorem State.send_due (s : State) (m : Sent) : (s.send m).due = s.due := rfl
@[simp] theorem State.send_agenda (s : State) (m : Sent) : (s.send m).agenda = s.agenda := rfl
@[simp] theorem State.send_turn (s : State) (m : Sent) : (s.send m).turn = s.turn := rfl
@[simp] theorem State.send_tick (s : State) (m : Sent) : (s.send m).tick = s.tick := rfl
@[simp] theorem State.send_stays (s : State) (m : Sent) : (s.send m).stays = s.stays := rfl
@[simp] theorem State.send_mem (s : State) (m : Sent) : (s.send m).mem = s.mem := rfl
@[simp] theorem State.send_tags (s : State) (m : Sent) : (s.send m).tags = s.tags := rfl
@[simp] theorem State.send_poison (s : State) (m : Sent) : (s.send m).poison = s.poison := rfl
@[simp] theorem State.send_tlb (s : State) (m : Sent) : (s.send m).tlb = s.tlb := rfl
@[simp] theorem State.send_walks (s : State) (m : Sent) : (s.send m).walks = s.walks := rfl
@[simp] theorem State.send_descs (s : State) (m : Sent) : (s.send m).descs = s.descs := rfl
@[simp] theorem State.send_astb (s : State) (m : Sent) : (s.send m).astb = s.astb := rfl
@[simp] theorem State.send_bootMap (s : State) (m : Sent) : (s.send m).bootMap = s.bootMap := rfl
@[simp] theorem State.send_time (s : State) (m : Sent) : (s.send m).time = s.time := rfl
@[simp] theorem State.send_cores (s : State) (m : Sent) : (s.send m).cores = s.cores := rfl
@[simp] theorem State.send_clusters (s : State) (m : Sent) : (s.send m).clusters = s.clusters := rfl
@[simp] theorem State.send_dies (s : State) (m : Sent) : (s.send m).dies = s.dies := rfl
@[simp] theorem State.send_policy (s : State) (m : Sent) : (s.send m).policy = s.policy := rfl
@[simp] theorem State.send_dirs (s : State) (m : Sent) : (s.send m).dirs = s.dirs := rfl
@[simp] theorem State.send_copies (s : State) (m : Sent) : (s.send m).copies = s.copies := rfl
@[simp] theorem State.send_caches (s : State) (m : Sent) : (s.send m).caches = s.caches := rfl
@[simp] theorem State.send_order (s : State) (m : Sent) : (s.send m).order = s.order := rfl
@[simp] theorem State.send_adds (s : State) (m : Sent) : (s.send m).adds = s.adds := rfl
@[simp] theorem State.send_settle (s : State) (m : Sent) : (s.send m).settle = s.settle := rfl
@[simp] theorem State.send_funcs (s : State) (m : Sent) : (s.send m).funcs = s.funcs := rfl
@[simp] theorem State.send_launches (s : State) (m : Sent) : (s.send m).launches = s.launches := rfl
@[simp] theorem State.send_teams (s : State) (m : Sent) : (s.send m).teams = s.teams := rfl
@[simp] theorem State.send_nextId (s : State) (m : Sent) : (s.send m).nextId = s.nextId := rfl
@[simp] theorem State.send_rings (s : State) (m : Sent) : (s.send m).rings = s.rings := rfl
@[simp] theorem State.send_chains (s : State) (m : Sent) : (s.send m).chains = s.chains := rfl
@[simp] theorem State.send_outstanding (s : State) (m : Sent) : (s.send m).outstanding = s.outstanding := rfl
@[simp] theorem State.send_sent (s : State) (m : Sent) : (s.send m).sent = s.sent ++ [m] := rfl
@[simp] theorem State.send_ports (s : State) (m : Sent) : (s.send m).ports = s.ports := rfl
@[simp] theorem State.send_jobPtrs (s : State) (m : Sent) : (s.send m).jobPtrs = s.jobPtrs := rfl
@[simp] theorem State.send_jobs (s : State) (m : Sent) : (s.send m).jobs = s.jobs := rfl
@[simp] theorem State.send_cruCounts (s : State) (m : Sent) : (s.send m).cruCounts = s.cruCounts := rfl
@[simp] theorem State.send_spdm (s : State) (m : Sent) : (s.send m).spdm = s.spdm := rfl
@[simp] theorem State.send_boot (s : State) (m : Sent) : (s.send m).boot = s.boot := rfl
@[simp] theorem State.send_pairs (s : State) (m : Sent) : (s.send m).pairs = s.pairs := rfl
@[simp] theorem State.send_restarting (s : State) (m : Sent) : (s.send m).restarting = s.restarting := rfl
@[simp] theorem State.send_powered (s : State) (m : Sent) : (s.send m).powered = s.powered := rfl

/-! ### `State.setX` -/

@[simp] theorem State.setX_cur (s : State) (i : CIdx) (v : Word) : (s.setX i v).cur = s.cur.setCreg i (CapReg.untagged v) := rfl
@[simp] theorem State.setX_parked (s : State) (i : CIdx) (v : Word) : (s.setX i v).parked = s.parked := rfl
@[simp] theorem State.setX_due (s : State) (i : CIdx) (v : Word) : (s.setX i v).due = s.due := rfl
@[simp] theorem State.setX_agenda (s : State) (i : CIdx) (v : Word) : (s.setX i v).agenda = s.agenda := rfl
@[simp] theorem State.setX_turn (s : State) (i : CIdx) (v : Word) : (s.setX i v).turn = s.turn := rfl
@[simp] theorem State.setX_tick (s : State) (i : CIdx) (v : Word) : (s.setX i v).tick = s.tick := rfl
@[simp] theorem State.setX_stays (s : State) (i : CIdx) (v : Word) : (s.setX i v).stays = s.stays := rfl
@[simp] theorem State.setX_mem (s : State) (i : CIdx) (v : Word) : (s.setX i v).mem = s.mem := rfl
@[simp] theorem State.setX_tags (s : State) (i : CIdx) (v : Word) : (s.setX i v).tags = s.tags := rfl
@[simp] theorem State.setX_poison (s : State) (i : CIdx) (v : Word) : (s.setX i v).poison = s.poison := rfl
@[simp] theorem State.setX_tlb (s : State) (i : CIdx) (v : Word) : (s.setX i v).tlb = s.tlb := rfl
@[simp] theorem State.setX_walks (s : State) (i : CIdx) (v : Word) : (s.setX i v).walks = s.walks := rfl
@[simp] theorem State.setX_descs (s : State) (i : CIdx) (v : Word) : (s.setX i v).descs = s.descs := rfl
@[simp] theorem State.setX_astb (s : State) (i : CIdx) (v : Word) : (s.setX i v).astb = s.astb := rfl
@[simp] theorem State.setX_bootMap (s : State) (i : CIdx) (v : Word) : (s.setX i v).bootMap = s.bootMap := rfl
@[simp] theorem State.setX_time (s : State) (i : CIdx) (v : Word) : (s.setX i v).time = s.time := rfl
@[simp] theorem State.setX_cores (s : State) (i : CIdx) (v : Word) : (s.setX i v).cores = s.cores := rfl
@[simp] theorem State.setX_clusters (s : State) (i : CIdx) (v : Word) : (s.setX i v).clusters = s.clusters := rfl
@[simp] theorem State.setX_dies (s : State) (i : CIdx) (v : Word) : (s.setX i v).dies = s.dies := rfl
@[simp] theorem State.setX_policy (s : State) (i : CIdx) (v : Word) : (s.setX i v).policy = s.policy := rfl
@[simp] theorem State.setX_dirs (s : State) (i : CIdx) (v : Word) : (s.setX i v).dirs = s.dirs := rfl
@[simp] theorem State.setX_copies (s : State) (i : CIdx) (v : Word) : (s.setX i v).copies = s.copies := rfl
@[simp] theorem State.setX_caches (s : State) (i : CIdx) (v : Word) : (s.setX i v).caches = s.caches := rfl
@[simp] theorem State.setX_order (s : State) (i : CIdx) (v : Word) : (s.setX i v).order = s.order := rfl
@[simp] theorem State.setX_adds (s : State) (i : CIdx) (v : Word) : (s.setX i v).adds = s.adds := rfl
@[simp] theorem State.setX_settle (s : State) (i : CIdx) (v : Word) : (s.setX i v).settle = s.settle := rfl
@[simp] theorem State.setX_funcs (s : State) (i : CIdx) (v : Word) : (s.setX i v).funcs = s.funcs := rfl
@[simp] theorem State.setX_launches (s : State) (i : CIdx) (v : Word) : (s.setX i v).launches = s.launches := rfl
@[simp] theorem State.setX_teams (s : State) (i : CIdx) (v : Word) : (s.setX i v).teams = s.teams := rfl
@[simp] theorem State.setX_nextId (s : State) (i : CIdx) (v : Word) : (s.setX i v).nextId = s.nextId := rfl
@[simp] theorem State.setX_rings (s : State) (i : CIdx) (v : Word) : (s.setX i v).rings = s.rings := rfl
@[simp] theorem State.setX_chains (s : State) (i : CIdx) (v : Word) : (s.setX i v).chains = s.chains := rfl
@[simp] theorem State.setX_outstanding (s : State) (i : CIdx) (v : Word) : (s.setX i v).outstanding = s.outstanding := rfl
@[simp] theorem State.setX_sent (s : State) (i : CIdx) (v : Word) : (s.setX i v).sent = s.sent := rfl
@[simp] theorem State.setX_ports (s : State) (i : CIdx) (v : Word) : (s.setX i v).ports = s.ports := rfl
@[simp] theorem State.setX_jobPtrs (s : State) (i : CIdx) (v : Word) : (s.setX i v).jobPtrs = s.jobPtrs := rfl
@[simp] theorem State.setX_jobs (s : State) (i : CIdx) (v : Word) : (s.setX i v).jobs = s.jobs := rfl
@[simp] theorem State.setX_cruCounts (s : State) (i : CIdx) (v : Word) : (s.setX i v).cruCounts = s.cruCounts := rfl
@[simp] theorem State.setX_spdm (s : State) (i : CIdx) (v : Word) : (s.setX i v).spdm = s.spdm := rfl
@[simp] theorem State.setX_boot (s : State) (i : CIdx) (v : Word) : (s.setX i v).boot = s.boot := rfl
@[simp] theorem State.setX_pairs (s : State) (i : CIdx) (v : Word) : (s.setX i v).pairs = s.pairs := rfl
@[simp] theorem State.setX_restarting (s : State) (i : CIdx) (v : Word) : (s.setX i v).restarting = s.restarting := rfl
@[simp] theorem State.setX_powered (s : State) (i : CIdx) (v : Word) : (s.setX i v).powered = s.powered := rfl

/-! ### `State.setC` -/

@[simp] theorem State.setC_cur (s : State) (i : CIdx) (v : CapReg) : (s.setC i v).cur = s.cur.setCreg i v := rfl
@[simp] theorem State.setC_parked (s : State) (i : CIdx) (v : CapReg) : (s.setC i v).parked = s.parked := rfl
@[simp] theorem State.setC_due (s : State) (i : CIdx) (v : CapReg) : (s.setC i v).due = s.due := rfl
@[simp] theorem State.setC_agenda (s : State) (i : CIdx) (v : CapReg) : (s.setC i v).agenda = s.agenda := rfl
@[simp] theorem State.setC_turn (s : State) (i : CIdx) (v : CapReg) : (s.setC i v).turn = s.turn := rfl
@[simp] theorem State.setC_tick (s : State) (i : CIdx) (v : CapReg) : (s.setC i v).tick = s.tick := rfl
@[simp] theorem State.setC_stays (s : State) (i : CIdx) (v : CapReg) : (s.setC i v).stays = s.stays := rfl
@[simp] theorem State.setC_mem (s : State) (i : CIdx) (v : CapReg) : (s.setC i v).mem = s.mem := rfl
@[simp] theorem State.setC_tags (s : State) (i : CIdx) (v : CapReg) : (s.setC i v).tags = s.tags := rfl
@[simp] theorem State.setC_poison (s : State) (i : CIdx) (v : CapReg) : (s.setC i v).poison = s.poison := rfl
@[simp] theorem State.setC_tlb (s : State) (i : CIdx) (v : CapReg) : (s.setC i v).tlb = s.tlb := rfl
@[simp] theorem State.setC_walks (s : State) (i : CIdx) (v : CapReg) : (s.setC i v).walks = s.walks := rfl
@[simp] theorem State.setC_descs (s : State) (i : CIdx) (v : CapReg) : (s.setC i v).descs = s.descs := rfl
@[simp] theorem State.setC_astb (s : State) (i : CIdx) (v : CapReg) : (s.setC i v).astb = s.astb := rfl
@[simp] theorem State.setC_bootMap (s : State) (i : CIdx) (v : CapReg) : (s.setC i v).bootMap = s.bootMap := rfl
@[simp] theorem State.setC_time (s : State) (i : CIdx) (v : CapReg) : (s.setC i v).time = s.time := rfl
@[simp] theorem State.setC_cores (s : State) (i : CIdx) (v : CapReg) : (s.setC i v).cores = s.cores := rfl
@[simp] theorem State.setC_clusters (s : State) (i : CIdx) (v : CapReg) : (s.setC i v).clusters = s.clusters := rfl
@[simp] theorem State.setC_dies (s : State) (i : CIdx) (v : CapReg) : (s.setC i v).dies = s.dies := rfl
@[simp] theorem State.setC_policy (s : State) (i : CIdx) (v : CapReg) : (s.setC i v).policy = s.policy := rfl
@[simp] theorem State.setC_dirs (s : State) (i : CIdx) (v : CapReg) : (s.setC i v).dirs = s.dirs := rfl
@[simp] theorem State.setC_copies (s : State) (i : CIdx) (v : CapReg) : (s.setC i v).copies = s.copies := rfl
@[simp] theorem State.setC_caches (s : State) (i : CIdx) (v : CapReg) : (s.setC i v).caches = s.caches := rfl
@[simp] theorem State.setC_order (s : State) (i : CIdx) (v : CapReg) : (s.setC i v).order = s.order := rfl
@[simp] theorem State.setC_adds (s : State) (i : CIdx) (v : CapReg) : (s.setC i v).adds = s.adds := rfl
@[simp] theorem State.setC_settle (s : State) (i : CIdx) (v : CapReg) : (s.setC i v).settle = s.settle := rfl
@[simp] theorem State.setC_funcs (s : State) (i : CIdx) (v : CapReg) : (s.setC i v).funcs = s.funcs := rfl
@[simp] theorem State.setC_launches (s : State) (i : CIdx) (v : CapReg) : (s.setC i v).launches = s.launches := rfl
@[simp] theorem State.setC_teams (s : State) (i : CIdx) (v : CapReg) : (s.setC i v).teams = s.teams := rfl
@[simp] theorem State.setC_nextId (s : State) (i : CIdx) (v : CapReg) : (s.setC i v).nextId = s.nextId := rfl
@[simp] theorem State.setC_rings (s : State) (i : CIdx) (v : CapReg) : (s.setC i v).rings = s.rings := rfl
@[simp] theorem State.setC_chains (s : State) (i : CIdx) (v : CapReg) : (s.setC i v).chains = s.chains := rfl
@[simp] theorem State.setC_outstanding (s : State) (i : CIdx) (v : CapReg) : (s.setC i v).outstanding = s.outstanding := rfl
@[simp] theorem State.setC_sent (s : State) (i : CIdx) (v : CapReg) : (s.setC i v).sent = s.sent := rfl
@[simp] theorem State.setC_ports (s : State) (i : CIdx) (v : CapReg) : (s.setC i v).ports = s.ports := rfl
@[simp] theorem State.setC_jobPtrs (s : State) (i : CIdx) (v : CapReg) : (s.setC i v).jobPtrs = s.jobPtrs := rfl
@[simp] theorem State.setC_jobs (s : State) (i : CIdx) (v : CapReg) : (s.setC i v).jobs = s.jobs := rfl
@[simp] theorem State.setC_cruCounts (s : State) (i : CIdx) (v : CapReg) : (s.setC i v).cruCounts = s.cruCounts := rfl
@[simp] theorem State.setC_spdm (s : State) (i : CIdx) (v : CapReg) : (s.setC i v).spdm = s.spdm := rfl
@[simp] theorem State.setC_boot (s : State) (i : CIdx) (v : CapReg) : (s.setC i v).boot = s.boot := rfl
@[simp] theorem State.setC_pairs (s : State) (i : CIdx) (v : CapReg) : (s.setC i v).pairs = s.pairs := rfl
@[simp] theorem State.setC_restarting (s : State) (i : CIdx) (v : CapReg) : (s.setC i v).restarting = s.restarting := rfl
@[simp] theorem State.setC_powered (s : State) (i : CIdx) (v : CapReg) : (s.setC i v).powered = s.powered := rfl

/-! ### `State.setV` -/

@[simp] theorem State.setV_cur (s : State) (i : VIdx) (v : VReg) : (s.setV i v).cur = s.cur.setVreg i v := rfl
@[simp] theorem State.setV_parked (s : State) (i : VIdx) (v : VReg) : (s.setV i v).parked = s.parked := rfl
@[simp] theorem State.setV_due (s : State) (i : VIdx) (v : VReg) : (s.setV i v).due = s.due := rfl
@[simp] theorem State.setV_agenda (s : State) (i : VIdx) (v : VReg) : (s.setV i v).agenda = s.agenda := rfl
@[simp] theorem State.setV_turn (s : State) (i : VIdx) (v : VReg) : (s.setV i v).turn = s.turn := rfl
@[simp] theorem State.setV_tick (s : State) (i : VIdx) (v : VReg) : (s.setV i v).tick = s.tick := rfl
@[simp] theorem State.setV_stays (s : State) (i : VIdx) (v : VReg) : (s.setV i v).stays = s.stays := rfl
@[simp] theorem State.setV_mem (s : State) (i : VIdx) (v : VReg) : (s.setV i v).mem = s.mem := rfl
@[simp] theorem State.setV_tags (s : State) (i : VIdx) (v : VReg) : (s.setV i v).tags = s.tags := rfl
@[simp] theorem State.setV_poison (s : State) (i : VIdx) (v : VReg) : (s.setV i v).poison = s.poison := rfl
@[simp] theorem State.setV_tlb (s : State) (i : VIdx) (v : VReg) : (s.setV i v).tlb = s.tlb := rfl
@[simp] theorem State.setV_walks (s : State) (i : VIdx) (v : VReg) : (s.setV i v).walks = s.walks := rfl
@[simp] theorem State.setV_descs (s : State) (i : VIdx) (v : VReg) : (s.setV i v).descs = s.descs := rfl
@[simp] theorem State.setV_astb (s : State) (i : VIdx) (v : VReg) : (s.setV i v).astb = s.astb := rfl
@[simp] theorem State.setV_bootMap (s : State) (i : VIdx) (v : VReg) : (s.setV i v).bootMap = s.bootMap := rfl
@[simp] theorem State.setV_time (s : State) (i : VIdx) (v : VReg) : (s.setV i v).time = s.time := rfl
@[simp] theorem State.setV_cores (s : State) (i : VIdx) (v : VReg) : (s.setV i v).cores = s.cores := rfl
@[simp] theorem State.setV_clusters (s : State) (i : VIdx) (v : VReg) : (s.setV i v).clusters = s.clusters := rfl
@[simp] theorem State.setV_dies (s : State) (i : VIdx) (v : VReg) : (s.setV i v).dies = s.dies := rfl
@[simp] theorem State.setV_policy (s : State) (i : VIdx) (v : VReg) : (s.setV i v).policy = s.policy := rfl
@[simp] theorem State.setV_dirs (s : State) (i : VIdx) (v : VReg) : (s.setV i v).dirs = s.dirs := rfl
@[simp] theorem State.setV_copies (s : State) (i : VIdx) (v : VReg) : (s.setV i v).copies = s.copies := rfl
@[simp] theorem State.setV_caches (s : State) (i : VIdx) (v : VReg) : (s.setV i v).caches = s.caches := rfl
@[simp] theorem State.setV_order (s : State) (i : VIdx) (v : VReg) : (s.setV i v).order = s.order := rfl
@[simp] theorem State.setV_adds (s : State) (i : VIdx) (v : VReg) : (s.setV i v).adds = s.adds := rfl
@[simp] theorem State.setV_settle (s : State) (i : VIdx) (v : VReg) : (s.setV i v).settle = s.settle := rfl
@[simp] theorem State.setV_funcs (s : State) (i : VIdx) (v : VReg) : (s.setV i v).funcs = s.funcs := rfl
@[simp] theorem State.setV_launches (s : State) (i : VIdx) (v : VReg) : (s.setV i v).launches = s.launches := rfl
@[simp] theorem State.setV_teams (s : State) (i : VIdx) (v : VReg) : (s.setV i v).teams = s.teams := rfl
@[simp] theorem State.setV_nextId (s : State) (i : VIdx) (v : VReg) : (s.setV i v).nextId = s.nextId := rfl
@[simp] theorem State.setV_rings (s : State) (i : VIdx) (v : VReg) : (s.setV i v).rings = s.rings := rfl
@[simp] theorem State.setV_chains (s : State) (i : VIdx) (v : VReg) : (s.setV i v).chains = s.chains := rfl
@[simp] theorem State.setV_outstanding (s : State) (i : VIdx) (v : VReg) : (s.setV i v).outstanding = s.outstanding := rfl
@[simp] theorem State.setV_sent (s : State) (i : VIdx) (v : VReg) : (s.setV i v).sent = s.sent := rfl
@[simp] theorem State.setV_ports (s : State) (i : VIdx) (v : VReg) : (s.setV i v).ports = s.ports := rfl
@[simp] theorem State.setV_jobPtrs (s : State) (i : VIdx) (v : VReg) : (s.setV i v).jobPtrs = s.jobPtrs := rfl
@[simp] theorem State.setV_jobs (s : State) (i : VIdx) (v : VReg) : (s.setV i v).jobs = s.jobs := rfl
@[simp] theorem State.setV_cruCounts (s : State) (i : VIdx) (v : VReg) : (s.setV i v).cruCounts = s.cruCounts := rfl
@[simp] theorem State.setV_spdm (s : State) (i : VIdx) (v : VReg) : (s.setV i v).spdm = s.spdm := rfl
@[simp] theorem State.setV_boot (s : State) (i : VIdx) (v : VReg) : (s.setV i v).boot = s.boot := rfl
@[simp] theorem State.setV_pairs (s : State) (i : VIdx) (v : VReg) : (s.setV i v).pairs = s.pairs := rfl
@[simp] theorem State.setV_restarting (s : State) (i : VIdx) (v : VReg) : (s.setV i v).restarting = s.restarting := rfl
@[simp] theorem State.setV_powered (s : State) (i : VIdx) (v : VReg) : (s.setV i v).powered = s.powered := rfl

/-! ### `State.setM` -/

@[simp] theorem State.setM_cur (s : State) (i : MIdx) (v : MReg) : (s.setM i v).cur = s.cur.setMreg i v := rfl
@[simp] theorem State.setM_parked (s : State) (i : MIdx) (v : MReg) : (s.setM i v).parked = s.parked := rfl
@[simp] theorem State.setM_due (s : State) (i : MIdx) (v : MReg) : (s.setM i v).due = s.due := rfl
@[simp] theorem State.setM_agenda (s : State) (i : MIdx) (v : MReg) : (s.setM i v).agenda = s.agenda := rfl
@[simp] theorem State.setM_turn (s : State) (i : MIdx) (v : MReg) : (s.setM i v).turn = s.turn := rfl
@[simp] theorem State.setM_tick (s : State) (i : MIdx) (v : MReg) : (s.setM i v).tick = s.tick := rfl
@[simp] theorem State.setM_stays (s : State) (i : MIdx) (v : MReg) : (s.setM i v).stays = s.stays := rfl
@[simp] theorem State.setM_mem (s : State) (i : MIdx) (v : MReg) : (s.setM i v).mem = s.mem := rfl
@[simp] theorem State.setM_tags (s : State) (i : MIdx) (v : MReg) : (s.setM i v).tags = s.tags := rfl
@[simp] theorem State.setM_poison (s : State) (i : MIdx) (v : MReg) : (s.setM i v).poison = s.poison := rfl
@[simp] theorem State.setM_tlb (s : State) (i : MIdx) (v : MReg) : (s.setM i v).tlb = s.tlb := rfl
@[simp] theorem State.setM_walks (s : State) (i : MIdx) (v : MReg) : (s.setM i v).walks = s.walks := rfl
@[simp] theorem State.setM_descs (s : State) (i : MIdx) (v : MReg) : (s.setM i v).descs = s.descs := rfl
@[simp] theorem State.setM_astb (s : State) (i : MIdx) (v : MReg) : (s.setM i v).astb = s.astb := rfl
@[simp] theorem State.setM_bootMap (s : State) (i : MIdx) (v : MReg) : (s.setM i v).bootMap = s.bootMap := rfl
@[simp] theorem State.setM_time (s : State) (i : MIdx) (v : MReg) : (s.setM i v).time = s.time := rfl
@[simp] theorem State.setM_cores (s : State) (i : MIdx) (v : MReg) : (s.setM i v).cores = s.cores := rfl
@[simp] theorem State.setM_clusters (s : State) (i : MIdx) (v : MReg) : (s.setM i v).clusters = s.clusters := rfl
@[simp] theorem State.setM_dies (s : State) (i : MIdx) (v : MReg) : (s.setM i v).dies = s.dies := rfl
@[simp] theorem State.setM_policy (s : State) (i : MIdx) (v : MReg) : (s.setM i v).policy = s.policy := rfl
@[simp] theorem State.setM_dirs (s : State) (i : MIdx) (v : MReg) : (s.setM i v).dirs = s.dirs := rfl
@[simp] theorem State.setM_copies (s : State) (i : MIdx) (v : MReg) : (s.setM i v).copies = s.copies := rfl
@[simp] theorem State.setM_caches (s : State) (i : MIdx) (v : MReg) : (s.setM i v).caches = s.caches := rfl
@[simp] theorem State.setM_order (s : State) (i : MIdx) (v : MReg) : (s.setM i v).order = s.order := rfl
@[simp] theorem State.setM_adds (s : State) (i : MIdx) (v : MReg) : (s.setM i v).adds = s.adds := rfl
@[simp] theorem State.setM_settle (s : State) (i : MIdx) (v : MReg) : (s.setM i v).settle = s.settle := rfl
@[simp] theorem State.setM_funcs (s : State) (i : MIdx) (v : MReg) : (s.setM i v).funcs = s.funcs := rfl
@[simp] theorem State.setM_launches (s : State) (i : MIdx) (v : MReg) : (s.setM i v).launches = s.launches := rfl
@[simp] theorem State.setM_teams (s : State) (i : MIdx) (v : MReg) : (s.setM i v).teams = s.teams := rfl
@[simp] theorem State.setM_nextId (s : State) (i : MIdx) (v : MReg) : (s.setM i v).nextId = s.nextId := rfl
@[simp] theorem State.setM_rings (s : State) (i : MIdx) (v : MReg) : (s.setM i v).rings = s.rings := rfl
@[simp] theorem State.setM_chains (s : State) (i : MIdx) (v : MReg) : (s.setM i v).chains = s.chains := rfl
@[simp] theorem State.setM_outstanding (s : State) (i : MIdx) (v : MReg) : (s.setM i v).outstanding = s.outstanding := rfl
@[simp] theorem State.setM_sent (s : State) (i : MIdx) (v : MReg) : (s.setM i v).sent = s.sent := rfl
@[simp] theorem State.setM_ports (s : State) (i : MIdx) (v : MReg) : (s.setM i v).ports = s.ports := rfl
@[simp] theorem State.setM_jobPtrs (s : State) (i : MIdx) (v : MReg) : (s.setM i v).jobPtrs = s.jobPtrs := rfl
@[simp] theorem State.setM_jobs (s : State) (i : MIdx) (v : MReg) : (s.setM i v).jobs = s.jobs := rfl
@[simp] theorem State.setM_cruCounts (s : State) (i : MIdx) (v : MReg) : (s.setM i v).cruCounts = s.cruCounts := rfl
@[simp] theorem State.setM_spdm (s : State) (i : MIdx) (v : MReg) : (s.setM i v).spdm = s.spdm := rfl
@[simp] theorem State.setM_boot (s : State) (i : MIdx) (v : MReg) : (s.setM i v).boot = s.boot := rfl
@[simp] theorem State.setM_pairs (s : State) (i : MIdx) (v : MReg) : (s.setM i v).pairs = s.pairs := rfl
@[simp] theorem State.setM_restarting (s : State) (i : MIdx) (v : MReg) : (s.setM i v).restarting = s.restarting := rfl
@[simp] theorem State.setM_powered (s : State) (i : MIdx) (v : MReg) : (s.setM i v).powered = s.powered := rfl

/-! ### `State.zeroRange` -/

@[simp] theorem State.zeroRange_cur (s : State) (a n : Nat) : (s.zeroRange a n).cur = s.cur := rfl
@[simp] theorem State.zeroRange_parked (s : State) (a n : Nat) : (s.zeroRange a n).parked = s.parked := rfl
@[simp] theorem State.zeroRange_due (s : State) (a n : Nat) : (s.zeroRange a n).due = s.due := rfl
@[simp] theorem State.zeroRange_agenda (s : State) (a n : Nat) : (s.zeroRange a n).agenda = s.agenda := rfl
@[simp] theorem State.zeroRange_turn (s : State) (a n : Nat) : (s.zeroRange a n).turn = s.turn := rfl
@[simp] theorem State.zeroRange_tick (s : State) (a n : Nat) : (s.zeroRange a n).tick = s.tick := rfl
@[simp] theorem State.zeroRange_stays (s : State) (a n : Nat) : (s.zeroRange a n).stays = s.stays := rfl
@[simp] theorem State.zeroRange_mem (s : State) (a n : Nat) : (s.zeroRange a n).mem = s.mem.clear a n := rfl
@[simp] theorem State.zeroRange_tags (s : State) (a n : Nat) : (s.zeroRange a n).tags = setCut s.tags (a / 16) ((a + n) / 16) := rfl
@[simp] theorem State.zeroRange_poison (s : State) (a n : Nat) : (s.zeroRange a n).poison = setCut s.poison (a / 64) ((a + n) / 64) := rfl
@[simp] theorem State.zeroRange_tlb (s : State) (a n : Nat) : (s.zeroRange a n).tlb = s.tlb := rfl
@[simp] theorem State.zeroRange_walks (s : State) (a n : Nat) : (s.zeroRange a n).walks = s.walks := rfl
@[simp] theorem State.zeroRange_descs (s : State) (a n : Nat) : (s.zeroRange a n).descs = s.descs := rfl
@[simp] theorem State.zeroRange_astb (s : State) (a n : Nat) : (s.zeroRange a n).astb = s.astb := rfl
@[simp] theorem State.zeroRange_bootMap (s : State) (a n : Nat) : (s.zeroRange a n).bootMap = s.bootMap := rfl
@[simp] theorem State.zeroRange_time (s : State) (a n : Nat) : (s.zeroRange a n).time = s.time := rfl
@[simp] theorem State.zeroRange_cores (s : State) (a n : Nat) : (s.zeroRange a n).cores = s.cores := rfl
@[simp] theorem State.zeroRange_clusters (s : State) (a n : Nat) : (s.zeroRange a n).clusters = s.clusters := rfl
@[simp] theorem State.zeroRange_dies (s : State) (a n : Nat) : (s.zeroRange a n).dies = s.dies := rfl
@[simp] theorem State.zeroRange_policy (s : State) (a n : Nat) : (s.zeroRange a n).policy = s.policy := rfl
@[simp] theorem State.zeroRange_dirs (s : State) (a n : Nat) : (s.zeroRange a n).dirs = s.dirs := rfl
@[simp] theorem State.zeroRange_copies (s : State) (a n : Nat) : (s.zeroRange a n).copies = s.copies := rfl
@[simp] theorem State.zeroRange_caches (s : State) (a n : Nat) : (s.zeroRange a n).caches = s.caches := rfl
@[simp] theorem State.zeroRange_order (s : State) (a n : Nat) : (s.zeroRange a n).order = s.order.expose a n := rfl
@[simp] theorem State.zeroRange_adds (s : State) (a n : Nat) : (s.zeroRange a n).adds = s.adds := rfl
@[simp] theorem State.zeroRange_settle (s : State) (a n : Nat) : (s.zeroRange a n).settle = s.settle := rfl
@[simp] theorem State.zeroRange_funcs (s : State) (a n : Nat) : (s.zeroRange a n).funcs = s.funcs := rfl
@[simp] theorem State.zeroRange_launches (s : State) (a n : Nat) : (s.zeroRange a n).launches = s.launches := rfl
@[simp] theorem State.zeroRange_teams (s : State) (a n : Nat) : (s.zeroRange a n).teams = s.teams := rfl
@[simp] theorem State.zeroRange_nextId (s : State) (a n : Nat) : (s.zeroRange a n).nextId = s.nextId := rfl
@[simp] theorem State.zeroRange_rings (s : State) (a n : Nat) : (s.zeroRange a n).rings = s.rings := rfl
@[simp] theorem State.zeroRange_chains (s : State) (a n : Nat) : (s.zeroRange a n).chains = s.chains := rfl
@[simp] theorem State.zeroRange_outstanding (s : State) (a n : Nat) : (s.zeroRange a n).outstanding = s.outstanding := rfl
@[simp] theorem State.zeroRange_sent (s : State) (a n : Nat) : (s.zeroRange a n).sent = s.sent := rfl
@[simp] theorem State.zeroRange_ports (s : State) (a n : Nat) : (s.zeroRange a n).ports = s.ports := rfl
@[simp] theorem State.zeroRange_jobPtrs (s : State) (a n : Nat) : (s.zeroRange a n).jobPtrs = s.jobPtrs := rfl
@[simp] theorem State.zeroRange_jobs (s : State) (a n : Nat) : (s.zeroRange a n).jobs = s.jobs := rfl
@[simp] theorem State.zeroRange_cruCounts (s : State) (a n : Nat) : (s.zeroRange a n).cruCounts = s.cruCounts := rfl
@[simp] theorem State.zeroRange_spdm (s : State) (a n : Nat) : (s.zeroRange a n).spdm = s.spdm := rfl
@[simp] theorem State.zeroRange_boot (s : State) (a n : Nat) : (s.zeroRange a n).boot = s.boot := rfl
@[simp] theorem State.zeroRange_pairs (s : State) (a n : Nat) : (s.zeroRange a n).pairs = s.pairs := rfl
@[simp] theorem State.zeroRange_restarting (s : State) (a n : Nat) : (s.zeroRange a n).restarting = s.restarting := rfl
@[simp] theorem State.zeroRange_powered (s : State) (a n : Nat) : (s.zeroRange a n).powered = s.powered := rfl

/-! ### `State.copyRange` -/

@[simp] theorem State.copyRange_cur (s : State) (p q n : Nat) : (s.copyRange p q n).cur = s.cur := rfl
@[simp] theorem State.copyRange_parked (s : State) (p q n : Nat) : (s.copyRange p q n).parked = s.parked := rfl
@[simp] theorem State.copyRange_due (s : State) (p q n : Nat) : (s.copyRange p q n).due = s.due := rfl
@[simp] theorem State.copyRange_agenda (s : State) (p q n : Nat) : (s.copyRange p q n).agenda = s.agenda := rfl
@[simp] theorem State.copyRange_turn (s : State) (p q n : Nat) : (s.copyRange p q n).turn = s.turn := rfl
@[simp] theorem State.copyRange_tick (s : State) (p q n : Nat) : (s.copyRange p q n).tick = s.tick := rfl
@[simp] theorem State.copyRange_stays (s : State) (p q n : Nat) : (s.copyRange p q n).stays = s.stays := rfl
@[simp] theorem State.copyRange_mem (s : State) (p q n : Nat) : (s.copyRange p q n).mem = s.mem.copy p q n := rfl
@[simp] theorem State.copyRange_tlb (s : State) (p q n : Nat) : (s.copyRange p q n).tlb = s.tlb := rfl
@[simp] theorem State.copyRange_walks (s : State) (p q n : Nat) : (s.copyRange p q n).walks = s.walks := rfl
@[simp] theorem State.copyRange_descs (s : State) (p q n : Nat) : (s.copyRange p q n).descs = s.descs := rfl
@[simp] theorem State.copyRange_astb (s : State) (p q n : Nat) : (s.copyRange p q n).astb = s.astb := rfl
@[simp] theorem State.copyRange_bootMap (s : State) (p q n : Nat) : (s.copyRange p q n).bootMap = s.bootMap := rfl
@[simp] theorem State.copyRange_time (s : State) (p q n : Nat) : (s.copyRange p q n).time = s.time := rfl
@[simp] theorem State.copyRange_cores (s : State) (p q n : Nat) : (s.copyRange p q n).cores = s.cores := rfl
@[simp] theorem State.copyRange_clusters (s : State) (p q n : Nat) : (s.copyRange p q n).clusters = s.clusters := rfl
@[simp] theorem State.copyRange_dies (s : State) (p q n : Nat) : (s.copyRange p q n).dies = s.dies := rfl
@[simp] theorem State.copyRange_policy (s : State) (p q n : Nat) : (s.copyRange p q n).policy = s.policy := rfl
@[simp] theorem State.copyRange_dirs (s : State) (p q n : Nat) : (s.copyRange p q n).dirs = s.dirs := rfl
@[simp] theorem State.copyRange_copies (s : State) (p q n : Nat) : (s.copyRange p q n).copies = s.copies := rfl
@[simp] theorem State.copyRange_caches (s : State) (p q n : Nat) : (s.copyRange p q n).caches = s.caches := rfl
@[simp] theorem State.copyRange_adds (s : State) (p q n : Nat) : (s.copyRange p q n).adds = s.adds := rfl
@[simp] theorem State.copyRange_settle (s : State) (p q n : Nat) : (s.copyRange p q n).settle = s.settle := rfl
@[simp] theorem State.copyRange_funcs (s : State) (p q n : Nat) : (s.copyRange p q n).funcs = s.funcs := rfl
@[simp] theorem State.copyRange_launches (s : State) (p q n : Nat) : (s.copyRange p q n).launches = s.launches := rfl
@[simp] theorem State.copyRange_teams (s : State) (p q n : Nat) : (s.copyRange p q n).teams = s.teams := rfl
@[simp] theorem State.copyRange_nextId (s : State) (p q n : Nat) : (s.copyRange p q n).nextId = s.nextId := rfl
@[simp] theorem State.copyRange_rings (s : State) (p q n : Nat) : (s.copyRange p q n).rings = s.rings := rfl
@[simp] theorem State.copyRange_chains (s : State) (p q n : Nat) : (s.copyRange p q n).chains = s.chains := rfl
@[simp] theorem State.copyRange_outstanding (s : State) (p q n : Nat) : (s.copyRange p q n).outstanding = s.outstanding := rfl
@[simp] theorem State.copyRange_sent (s : State) (p q n : Nat) : (s.copyRange p q n).sent = s.sent := rfl
@[simp] theorem State.copyRange_ports (s : State) (p q n : Nat) : (s.copyRange p q n).ports = s.ports := rfl
@[simp] theorem State.copyRange_jobPtrs (s : State) (p q n : Nat) : (s.copyRange p q n).jobPtrs = s.jobPtrs := rfl
@[simp] theorem State.copyRange_jobs (s : State) (p q n : Nat) : (s.copyRange p q n).jobs = s.jobs := rfl
@[simp] theorem State.copyRange_cruCounts (s : State) (p q n : Nat) : (s.copyRange p q n).cruCounts = s.cruCounts := rfl
@[simp] theorem State.copyRange_spdm (s : State) (p q n : Nat) : (s.copyRange p q n).spdm = s.spdm := rfl
@[simp] theorem State.copyRange_boot (s : State) (p q n : Nat) : (s.copyRange p q n).boot = s.boot := rfl
@[simp] theorem State.copyRange_pairs (s : State) (p q n : Nat) : (s.copyRange p q n).pairs = s.pairs := rfl
@[simp] theorem State.copyRange_restarting (s : State) (p q n : Nat) : (s.copyRange p q n).restarting = s.restarting := rfl
@[simp] theorem State.copyRange_powered (s : State) (p q n : Nat) : (s.copyRange p q n).powered = s.powered := rfl

/-! ### `State.dropCopies` -/

@[simp] theorem State.dropCopies_cur (s : State) (a n : Nat) : (s.dropCopies a n).cur = s.cur := rfl
@[simp] theorem State.dropCopies_parked (s : State) (a n : Nat) : (s.dropCopies a n).parked = s.parked := rfl
@[simp] theorem State.dropCopies_due (s : State) (a n : Nat) : (s.dropCopies a n).due = s.due := rfl
@[simp] theorem State.dropCopies_agenda (s : State) (a n : Nat) : (s.dropCopies a n).agenda = s.agenda := rfl
@[simp] theorem State.dropCopies_turn (s : State) (a n : Nat) : (s.dropCopies a n).turn = s.turn := rfl
@[simp] theorem State.dropCopies_tick (s : State) (a n : Nat) : (s.dropCopies a n).tick = s.tick := rfl
@[simp] theorem State.dropCopies_stays (s : State) (a n : Nat) : (s.dropCopies a n).stays = s.stays := rfl
@[simp] theorem State.dropCopies_mem (s : State) (a n : Nat) : (s.dropCopies a n).mem = s.mem := rfl
@[simp] theorem State.dropCopies_tags (s : State) (a n : Nat) : (s.dropCopies a n).tags = s.tags := rfl
@[simp] theorem State.dropCopies_poison (s : State) (a n : Nat) : (s.dropCopies a n).poison = s.poison := rfl
@[simp] theorem State.dropCopies_tlb (s : State) (a n : Nat) : (s.dropCopies a n).tlb = s.tlb := rfl
@[simp] theorem State.dropCopies_walks (s : State) (a n : Nat) : (s.dropCopies a n).walks = s.walks := rfl
@[simp] theorem State.dropCopies_descs (s : State) (a n : Nat) : (s.dropCopies a n).descs = s.descs := rfl
@[simp] theorem State.dropCopies_astb (s : State) (a n : Nat) : (s.dropCopies a n).astb = s.astb := rfl
@[simp] theorem State.dropCopies_bootMap (s : State) (a n : Nat) : (s.dropCopies a n).bootMap = s.bootMap := rfl
@[simp] theorem State.dropCopies_time (s : State) (a n : Nat) : (s.dropCopies a n).time = s.time := rfl
@[simp] theorem State.dropCopies_cores (s : State) (a n : Nat) : (s.dropCopies a n).cores = s.cores := rfl
@[simp] theorem State.dropCopies_clusters (s : State) (a n : Nat) : (s.dropCopies a n).clusters = s.clusters := rfl
@[simp] theorem State.dropCopies_dies (s : State) (a n : Nat) : (s.dropCopies a n).dies = s.dies := rfl
@[simp] theorem State.dropCopies_policy (s : State) (a n : Nat) : (s.dropCopies a n).policy = s.policy := rfl
@[simp] theorem State.dropCopies_dirs (s : State) (a n : Nat) : (s.dropCopies a n).dirs = s.dirs := rfl
@[simp] theorem State.dropCopies_caches (s : State) (a n : Nat) : (s.dropCopies a n).caches = s.caches := rfl
@[simp] theorem State.dropCopies_order (s : State) (a n : Nat) : (s.dropCopies a n).order = s.order := rfl
@[simp] theorem State.dropCopies_adds (s : State) (a n : Nat) : (s.dropCopies a n).adds = s.adds := rfl
@[simp] theorem State.dropCopies_settle (s : State) (a n : Nat) : (s.dropCopies a n).settle = s.settle := rfl
@[simp] theorem State.dropCopies_funcs (s : State) (a n : Nat) : (s.dropCopies a n).funcs = s.funcs := rfl
@[simp] theorem State.dropCopies_launches (s : State) (a n : Nat) : (s.dropCopies a n).launches = s.launches := rfl
@[simp] theorem State.dropCopies_teams (s : State) (a n : Nat) : (s.dropCopies a n).teams = s.teams := rfl
@[simp] theorem State.dropCopies_nextId (s : State) (a n : Nat) : (s.dropCopies a n).nextId = s.nextId := rfl
@[simp] theorem State.dropCopies_rings (s : State) (a n : Nat) : (s.dropCopies a n).rings = s.rings := rfl
@[simp] theorem State.dropCopies_chains (s : State) (a n : Nat) : (s.dropCopies a n).chains = s.chains := rfl
@[simp] theorem State.dropCopies_outstanding (s : State) (a n : Nat) : (s.dropCopies a n).outstanding = s.outstanding := rfl
@[simp] theorem State.dropCopies_sent (s : State) (a n : Nat) : (s.dropCopies a n).sent = s.sent := rfl
@[simp] theorem State.dropCopies_ports (s : State) (a n : Nat) : (s.dropCopies a n).ports = s.ports := rfl
@[simp] theorem State.dropCopies_jobPtrs (s : State) (a n : Nat) : (s.dropCopies a n).jobPtrs = s.jobPtrs := rfl
@[simp] theorem State.dropCopies_jobs (s : State) (a n : Nat) : (s.dropCopies a n).jobs = s.jobs := rfl
@[simp] theorem State.dropCopies_cruCounts (s : State) (a n : Nat) : (s.dropCopies a n).cruCounts = s.cruCounts := rfl
@[simp] theorem State.dropCopies_spdm (s : State) (a n : Nat) : (s.dropCopies a n).spdm = s.spdm := rfl
@[simp] theorem State.dropCopies_boot (s : State) (a n : Nat) : (s.dropCopies a n).boot = s.boot := rfl
@[simp] theorem State.dropCopies_pairs (s : State) (a n : Nat) : (s.dropCopies a n).pairs = s.pairs := rfl
@[simp] theorem State.dropCopies_restarting (s : State) (a n : Nat) : (s.dropCopies a n).restarting = s.restarting := rfl
@[simp] theorem State.dropCopies_powered (s : State) (a n : Nat) : (s.dropCopies a n).powered = s.powered := rfl

/-! ### `State.undo` -/

@[simp] theorem State.undo_cur (s b : State) : (s.undo b).cur = s.cur := rfl
@[simp] theorem State.undo_parked (s b : State) : (s.undo b).parked = s.parked := rfl
@[simp] theorem State.undo_due (s b : State) : (s.undo b).due = s.due := rfl
@[simp] theorem State.undo_agenda (s b : State) : (s.undo b).agenda = s.agenda := rfl
@[simp] theorem State.undo_turn (s b : State) : (s.undo b).turn = s.turn := rfl
@[simp] theorem State.undo_tick (s b : State) : (s.undo b).tick = s.tick := rfl
@[simp] theorem State.undo_stays (s b : State) : (s.undo b).stays = s.stays := rfl
@[simp] theorem State.undo_mem (s b : State) : (s.undo b).mem = b.mem := rfl
@[simp] theorem State.undo_tags (s b : State) : (s.undo b).tags = b.tags := rfl
@[simp] theorem State.undo_poison (s b : State) : (s.undo b).poison = b.poison := rfl
@[simp] theorem State.undo_tlb (s b : State) : (s.undo b).tlb = b.tlb := rfl
@[simp] theorem State.undo_walks (s b : State) : (s.undo b).walks = b.walks := rfl
@[simp] theorem State.undo_descs (s b : State) : (s.undo b).descs = b.descs := rfl
@[simp] theorem State.undo_astb (s b : State) : (s.undo b).astb = s.astb := rfl
@[simp] theorem State.undo_bootMap (s b : State) : (s.undo b).bootMap = s.bootMap := rfl
@[simp] theorem State.undo_time (s b : State) : (s.undo b).time = s.time := rfl
@[simp] theorem State.undo_cores (s b : State) : (s.undo b).cores = s.cores := rfl
@[simp] theorem State.undo_clusters (s b : State) : (s.undo b).clusters = s.clusters := rfl
@[simp] theorem State.undo_dies (s b : State) : (s.undo b).dies = s.dies := rfl
@[simp] theorem State.undo_policy (s b : State) : (s.undo b).policy = s.policy := rfl
@[simp] theorem State.undo_dirs (s b : State) : (s.undo b).dirs = b.dirs := rfl
@[simp] theorem State.undo_copies (s b : State) : (s.undo b).copies = b.copies := rfl
@[simp] theorem State.undo_caches (s b : State) : (s.undo b).caches = b.caches := rfl
@[simp] theorem State.undo_order (s b : State) : (s.undo b).order = b.order := rfl
@[simp] theorem State.undo_adds (s b : State) : (s.undo b).adds = s.adds := rfl
@[simp] theorem State.undo_settle (s b : State) : (s.undo b).settle = s.settle := rfl
@[simp] theorem State.undo_funcs (s b : State) : (s.undo b).funcs = s.funcs := rfl
@[simp] theorem State.undo_launches (s b : State) : (s.undo b).launches = s.launches := rfl
@[simp] theorem State.undo_teams (s b : State) : (s.undo b).teams = s.teams := rfl
@[simp] theorem State.undo_nextId (s b : State) : (s.undo b).nextId = s.nextId := rfl
@[simp] theorem State.undo_rings (s b : State) : (s.undo b).rings = s.rings := rfl
@[simp] theorem State.undo_chains (s b : State) : (s.undo b).chains = s.chains := rfl
@[simp] theorem State.undo_outstanding (s b : State) : (s.undo b).outstanding = s.outstanding := rfl
@[simp] theorem State.undo_sent (s b : State) : (s.undo b).sent = s.sent := rfl
@[simp] theorem State.undo_ports (s b : State) : (s.undo b).ports = s.ports := rfl
@[simp] theorem State.undo_jobPtrs (s b : State) : (s.undo b).jobPtrs = s.jobPtrs := rfl
@[simp] theorem State.undo_jobs (s b : State) : (s.undo b).jobs = s.jobs := rfl
@[simp] theorem State.undo_cruCounts (s b : State) : (s.undo b).cruCounts = s.cruCounts := rfl
@[simp] theorem State.undo_spdm (s b : State) : (s.undo b).spdm = s.spdm := rfl
@[simp] theorem State.undo_boot (s b : State) : (s.undo b).boot = s.boot := rfl
@[simp] theorem State.undo_pairs (s b : State) : (s.undo b).pairs = s.pairs := rfl
@[simp] theorem State.undo_restarting (s b : State) : (s.undo b).restarting = s.restarting := rfl
@[simp] theorem State.undo_powered (s b : State) : (s.undo b).powered = s.powered := rfl

/-! ### `State.free` -/

@[simp] theorem State.free_cur (s : State) : s.free.2.cur = s.cur := rfl
@[simp] theorem State.free_parked (s : State) : s.free.2.parked = s.parked := rfl
@[simp] theorem State.free_due (s : State) : s.free.2.due = s.due := rfl
@[simp] theorem State.free_agenda (s : State) : s.free.2.agenda = s.agenda := rfl
@[simp] theorem State.free_turn (s : State) : s.free.2.turn = s.turn := rfl
@[simp] theorem State.free_tick (s : State) : s.free.2.tick = s.tick + 1 := rfl
@[simp] theorem State.free_stays (s : State) : s.free.2.stays = s.stays := rfl
@[simp] theorem State.free_mem (s : State) : s.free.2.mem = s.mem := rfl
@[simp] theorem State.free_tags (s : State) : s.free.2.tags = s.tags := rfl
@[simp] theorem State.free_poison (s : State) : s.free.2.poison = s.poison := rfl
@[simp] theorem State.free_tlb (s : State) : s.free.2.tlb = s.tlb := rfl
@[simp] theorem State.free_walks (s : State) : s.free.2.walks = s.walks := rfl
@[simp] theorem State.free_descs (s : State) : s.free.2.descs = s.descs := rfl
@[simp] theorem State.free_astb (s : State) : s.free.2.astb = s.astb := rfl
@[simp] theorem State.free_bootMap (s : State) : s.free.2.bootMap = s.bootMap := rfl
@[simp] theorem State.free_time (s : State) : s.free.2.time = s.time := rfl
@[simp] theorem State.free_cores (s : State) : s.free.2.cores = s.cores := rfl
@[simp] theorem State.free_clusters (s : State) : s.free.2.clusters = s.clusters := rfl
@[simp] theorem State.free_dies (s : State) : s.free.2.dies = s.dies := rfl
@[simp] theorem State.free_policy (s : State) : s.free.2.policy = s.policy := rfl
@[simp] theorem State.free_dirs (s : State) : s.free.2.dirs = s.dirs := rfl
@[simp] theorem State.free_copies (s : State) : s.free.2.copies = s.copies := rfl
@[simp] theorem State.free_caches (s : State) : s.free.2.caches = s.caches := rfl
@[simp] theorem State.free_order (s : State) : s.free.2.order = s.order := rfl
@[simp] theorem State.free_adds (s : State) : s.free.2.adds = s.adds := rfl
@[simp] theorem State.free_settle (s : State) : s.free.2.settle = s.settle := rfl
@[simp] theorem State.free_funcs (s : State) : s.free.2.funcs = s.funcs := rfl
@[simp] theorem State.free_launches (s : State) : s.free.2.launches = s.launches := rfl
@[simp] theorem State.free_teams (s : State) : s.free.2.teams = s.teams := rfl
@[simp] theorem State.free_nextId (s : State) : s.free.2.nextId = s.nextId := rfl
@[simp] theorem State.free_rings (s : State) : s.free.2.rings = s.rings := rfl
@[simp] theorem State.free_chains (s : State) : s.free.2.chains = s.chains := rfl
@[simp] theorem State.free_outstanding (s : State) : s.free.2.outstanding = s.outstanding := rfl
@[simp] theorem State.free_sent (s : State) : s.free.2.sent = s.sent := rfl
@[simp] theorem State.free_ports (s : State) : s.free.2.ports = s.ports := rfl
@[simp] theorem State.free_jobPtrs (s : State) : s.free.2.jobPtrs = s.jobPtrs := rfl
@[simp] theorem State.free_jobs (s : State) : s.free.2.jobs = s.jobs := rfl
@[simp] theorem State.free_cruCounts (s : State) : s.free.2.cruCounts = s.cruCounts := rfl
@[simp] theorem State.free_spdm (s : State) : s.free.2.spdm = s.spdm := rfl
@[simp] theorem State.free_boot (s : State) : s.free.2.boot = s.boot := rfl
@[simp] theorem State.free_pairs (s : State) : s.free.2.pairs = s.pairs := rfl
@[simp] theorem State.free_restarting (s : State) : s.free.2.restarting = s.restarting := rfl
@[simp] theorem State.free_powered (s : State) : s.free.2.powered = s.powered := rfl

/-! ### `Strand.setCreg` -/

@[simp] theorem Strand.setCreg_run (t : Strand) (i : CIdx) (v : CapReg) : (t.setCreg i v).run = t.run := by unfold Strand.setCreg; split <;> rfl
@[simp] theorem Strand.setCreg_core (t : Strand) (i : CIdx) (v : CapReg) : (t.setCreg i v).core = t.core := by unfold Strand.setCreg; split <;> rfl
@[simp] theorem Strand.setCreg_slot (t : Strand) (i : CIdx) (v : CapReg) : (t.setCreg i v).slot = t.slot := by unfold Strand.setCreg; split <;> rfl
@[simp] theorem Strand.setCreg_vregs (t : Strand) (i : CIdx) (v : CapReg) : (t.setCreg i v).vregs = t.vregs := by unfold Strand.setCreg; split <;> rfl
@[simp] theorem Strand.setCreg_masks (t : Strand) (i : CIdx) (v : CapReg) : (t.setCreg i v).masks = t.masks := by unfold Strand.setCreg; split <;> rfl
@[simp] theorem Strand.setCreg_grant (t : Strand) (i : CIdx) (v : CapReg) : (t.setCreg i v).grant = t.grant := by unfold Strand.setCreg; split <;> rfl
@[simp] theorem Strand.setCreg_pc (t : Strand) (i : CIdx) (v : CapReg) : (t.setCreg i v).pc = t.pc := by unfold Strand.setCreg; split <;> rfl
@[simp] theorem Strand.setCreg_status (t : Strand) (i : CIdx) (v : CapReg) : (t.setCreg i v).status = t.status := by unfold Strand.setCreg; split <;> rfl
@[simp] theorem Strand.setCreg_cause (t : Strand) (i : CIdx) (v : CapReg) : (t.setCreg i v).cause = t.cause := by unfold Strand.setCreg; split <;> rfl
@[simp] theorem Strand.setCreg_epc (t : Strand) (i : CIdx) (v : CapReg) : (t.setCreg i v).epc = t.epc := by unfold Strand.setCreg; split <;> rfl
@[simp] theorem Strand.setCreg_tval (t : Strand) (i : CIdx) (v : CapReg) : (t.setCreg i v).tval = t.tval := by unfold Strand.setCreg; split <;> rfl
@[simp] theorem Strand.setCreg_tvec (t : Strand) (i : CIdx) (v : CapReg) : (t.setCreg i v).tvec = t.tvec := by unfold Strand.setCreg; split <;> rfl
@[simp] theorem Strand.setCreg_pstatus (t : Strand) (i : CIdx) (v : CapReg) : (t.setCreg i v).pstatus = t.pstatus := by unfold Strand.setCreg; split <;> rfl
@[simp] theorem Strand.setCreg_idem (t : Strand) (i : CIdx) (v : CapReg) : (t.setCreg i v).idem = t.idem := by unfold Strand.setCreg; split <;> rfl
@[simp] theorem Strand.setCreg_scope (t : Strand) (i : CIdx) (v : CapReg) : (t.setCreg i v).scope = t.scope := by unfold Strand.setCreg; split <;> rfl
@[simp] theorem Strand.setCreg_sctb (t : Strand) (i : CIdx) (v : CapReg) : (t.setCreg i v).sctb = t.sctb := by unfold Strand.setCreg; split <;> rfl
@[simp] theorem Strand.setCreg_asid (t : Strand) (i : CIdx) (v : CapReg) : (t.setCreg i v).asid = t.asid := by unfold Strand.setCreg; split <;> rfl
@[simp] theorem Strand.setCreg_strandNo (t : Strand) (i : CIdx) (v : CapReg) : (t.setCreg i v).strandNo = t.strandNo := by unfold Strand.setCreg; split <;> rfl
@[simp] theorem Strand.setCreg_team (t : Strand) (i : CIdx) (v : CapReg) : (t.setCreg i v).team = t.team := by unfold Strand.setCreg; split <;> rfl
@[simp] theorem Strand.setCreg_lad (t : Strand) (i : CIdx) (v : CapReg) : (t.setCreg i v).lad = t.lad := by unfold Strand.setCreg; split <;> rfl
@[simp] theorem Strand.setCreg_cru (t : Strand) (i : CIdx) (v : CapReg) : (t.setCreg i v).cru = t.cru := by unfold Strand.setCreg; split <;> rfl
@[simp] theorem Strand.setCreg_board (t : Strand) (i : CIdx) (v : CapReg) : (t.setCreg i v).board = t.board := by unfold Strand.setCreg; split <;> rfl
@[simp] theorem Strand.setCreg_handle (t : Strand) (i : CIdx) (v : CapReg) : (t.setCreg i v).handle = t.handle := by unfold Strand.setCreg; split <;> rfl
@[simp] theorem Strand.setCreg_birth (t : Strand) (i : CIdx) (v : CapReg) : (t.setCreg i v).birth = t.birth := by unfold Strand.setCreg; split <;> rfl
@[simp] theorem Strand.setCreg_teamFlag (t : Strand) (i : CIdx) (v : CapReg) : (t.setCreg i v).teamFlag = t.teamFlag := by unfold Strand.setCreg; split <;> rfl
@[simp] theorem Strand.setCreg_prio (t : Strand) (i : CIdx) (v : CapReg) : (t.setCreg i v).prio = t.prio := by unfold Strand.setCreg; split <;> rfl
@[simp] theorem Strand.setCreg_affinity (t : Strand) (i : CIdx) (v : CapReg) : (t.setCreg i v).affinity = t.affinity := by unfold Strand.setCreg; split <;> rfl
@[simp] theorem Strand.setCreg_launchId (t : Strand) (i : CIdx) (v : CapReg) : (t.setCreg i v).launchId = t.launchId := by unfold Strand.setCreg; split <;> rfl
@[simp] theorem Strand.setCreg_teamId (t : Strand) (i : CIdx) (v : CapReg) : (t.setCreg i v).teamId = t.teamId := by unfold Strand.setCreg; split <;> rfl
@[simp] theorem Strand.setCreg_cancelled (t : Strand) (i : CIdx) (v : CapReg) : (t.setCreg i v).cancelled = t.cancelled := by unfold Strand.setCreg; split <;> rfl
@[simp] theorem Strand.setCreg_killed (t : Strand) (i : CIdx) (v : CapReg) : (t.setCreg i v).killed = t.killed := by unfold Strand.setCreg; split <;> rfl
@[simp] theorem Strand.setCreg_stopWanted (t : Strand) (i : CIdx) (v : CapReg) : (t.setCreg i v).stopWanted = t.stopWanted := by unfold Strand.setCreg; split <;> rfl
@[simp] theorem Strand.setCreg_wait (t : Strand) (i : CIdx) (v : CapReg) : (t.setCreg i v).wait = t.wait := by unfold Strand.setCreg; split <;> rfl
@[simp] theorem Strand.setCreg_waitBack (t : Strand) (i : CIdx) (v : CapReg) : (t.setCreg i v).waitBack = t.waitBack := by unfold Strand.setCreg; split <;> rfl
@[simp] theorem Strand.setCreg_resuming (t : Strand) (i : CIdx) (v : CapReg) : (t.setCreg i v).resuming = t.resuming := by unfold Strand.setCreg; split <;> rfl
@[simp] theorem Strand.setCreg_held (t : Strand) (i : CIdx) (v : CapReg) : (t.setCreg i v).held = t.held := by unfold Strand.setCreg; split <;> rfl

/-! ### `Strand.setMreg` -/

@[simp] theorem Strand.setMreg_run (t : Strand) (i : MIdx) (v : MReg) : (t.setMreg i v).run = t.run := by unfold Strand.setMreg; split <;> rfl
@[simp] theorem Strand.setMreg_core (t : Strand) (i : MIdx) (v : MReg) : (t.setMreg i v).core = t.core := by unfold Strand.setMreg; split <;> rfl
@[simp] theorem Strand.setMreg_slot (t : Strand) (i : MIdx) (v : MReg) : (t.setMreg i v).slot = t.slot := by unfold Strand.setMreg; split <;> rfl
@[simp] theorem Strand.setMreg_regs (t : Strand) (i : MIdx) (v : MReg) : (t.setMreg i v).regs = t.regs := by unfold Strand.setMreg; split <;> rfl
@[simp] theorem Strand.setMreg_vregs (t : Strand) (i : MIdx) (v : MReg) : (t.setMreg i v).vregs = t.vregs := by unfold Strand.setMreg; split <;> rfl
@[simp] theorem Strand.setMreg_grant (t : Strand) (i : MIdx) (v : MReg) : (t.setMreg i v).grant = t.grant := by unfold Strand.setMreg; split <;> rfl
@[simp] theorem Strand.setMreg_pc (t : Strand) (i : MIdx) (v : MReg) : (t.setMreg i v).pc = t.pc := by unfold Strand.setMreg; split <;> rfl
@[simp] theorem Strand.setMreg_status (t : Strand) (i : MIdx) (v : MReg) : (t.setMreg i v).status = t.status := by unfold Strand.setMreg; split <;> rfl
@[simp] theorem Strand.setMreg_cause (t : Strand) (i : MIdx) (v : MReg) : (t.setMreg i v).cause = t.cause := by unfold Strand.setMreg; split <;> rfl
@[simp] theorem Strand.setMreg_epc (t : Strand) (i : MIdx) (v : MReg) : (t.setMreg i v).epc = t.epc := by unfold Strand.setMreg; split <;> rfl
@[simp] theorem Strand.setMreg_tval (t : Strand) (i : MIdx) (v : MReg) : (t.setMreg i v).tval = t.tval := by unfold Strand.setMreg; split <;> rfl
@[simp] theorem Strand.setMreg_tvec (t : Strand) (i : MIdx) (v : MReg) : (t.setMreg i v).tvec = t.tvec := by unfold Strand.setMreg; split <;> rfl
@[simp] theorem Strand.setMreg_pstatus (t : Strand) (i : MIdx) (v : MReg) : (t.setMreg i v).pstatus = t.pstatus := by unfold Strand.setMreg; split <;> rfl
@[simp] theorem Strand.setMreg_idem (t : Strand) (i : MIdx) (v : MReg) : (t.setMreg i v).idem = t.idem := by unfold Strand.setMreg; split <;> rfl
@[simp] theorem Strand.setMreg_scope (t : Strand) (i : MIdx) (v : MReg) : (t.setMreg i v).scope = t.scope := by unfold Strand.setMreg; split <;> rfl
@[simp] theorem Strand.setMreg_sctb (t : Strand) (i : MIdx) (v : MReg) : (t.setMreg i v).sctb = t.sctb := by unfold Strand.setMreg; split <;> rfl
@[simp] theorem Strand.setMreg_asid (t : Strand) (i : MIdx) (v : MReg) : (t.setMreg i v).asid = t.asid := by unfold Strand.setMreg; split <;> rfl
@[simp] theorem Strand.setMreg_strandNo (t : Strand) (i : MIdx) (v : MReg) : (t.setMreg i v).strandNo = t.strandNo := by unfold Strand.setMreg; split <;> rfl
@[simp] theorem Strand.setMreg_team (t : Strand) (i : MIdx) (v : MReg) : (t.setMreg i v).team = t.team := by unfold Strand.setMreg; split <;> rfl
@[simp] theorem Strand.setMreg_lad (t : Strand) (i : MIdx) (v : MReg) : (t.setMreg i v).lad = t.lad := by unfold Strand.setMreg; split <;> rfl
@[simp] theorem Strand.setMreg_cru (t : Strand) (i : MIdx) (v : MReg) : (t.setMreg i v).cru = t.cru := by unfold Strand.setMreg; split <;> rfl
@[simp] theorem Strand.setMreg_board (t : Strand) (i : MIdx) (v : MReg) : (t.setMreg i v).board = t.board := by unfold Strand.setMreg; split <;> rfl
@[simp] theorem Strand.setMreg_handle (t : Strand) (i : MIdx) (v : MReg) : (t.setMreg i v).handle = t.handle := by unfold Strand.setMreg; split <;> rfl
@[simp] theorem Strand.setMreg_birth (t : Strand) (i : MIdx) (v : MReg) : (t.setMreg i v).birth = t.birth := by unfold Strand.setMreg; split <;> rfl
@[simp] theorem Strand.setMreg_teamFlag (t : Strand) (i : MIdx) (v : MReg) : (t.setMreg i v).teamFlag = t.teamFlag := by unfold Strand.setMreg; split <;> rfl
@[simp] theorem Strand.setMreg_prio (t : Strand) (i : MIdx) (v : MReg) : (t.setMreg i v).prio = t.prio := by unfold Strand.setMreg; split <;> rfl
@[simp] theorem Strand.setMreg_affinity (t : Strand) (i : MIdx) (v : MReg) : (t.setMreg i v).affinity = t.affinity := by unfold Strand.setMreg; split <;> rfl
@[simp] theorem Strand.setMreg_launchId (t : Strand) (i : MIdx) (v : MReg) : (t.setMreg i v).launchId = t.launchId := by unfold Strand.setMreg; split <;> rfl
@[simp] theorem Strand.setMreg_teamId (t : Strand) (i : MIdx) (v : MReg) : (t.setMreg i v).teamId = t.teamId := by unfold Strand.setMreg; split <;> rfl
@[simp] theorem Strand.setMreg_cancelled (t : Strand) (i : MIdx) (v : MReg) : (t.setMreg i v).cancelled = t.cancelled := by unfold Strand.setMreg; split <;> rfl
@[simp] theorem Strand.setMreg_killed (t : Strand) (i : MIdx) (v : MReg) : (t.setMreg i v).killed = t.killed := by unfold Strand.setMreg; split <;> rfl
@[simp] theorem Strand.setMreg_stopWanted (t : Strand) (i : MIdx) (v : MReg) : (t.setMreg i v).stopWanted = t.stopWanted := by unfold Strand.setMreg; split <;> rfl
@[simp] theorem Strand.setMreg_wait (t : Strand) (i : MIdx) (v : MReg) : (t.setMreg i v).wait = t.wait := by unfold Strand.setMreg; split <;> rfl
@[simp] theorem Strand.setMreg_waitBack (t : Strand) (i : MIdx) (v : MReg) : (t.setMreg i v).waitBack = t.waitBack := by unfold Strand.setMreg; split <;> rfl
@[simp] theorem Strand.setMreg_resuming (t : Strand) (i : MIdx) (v : MReg) : (t.setMreg i v).resuming = t.resuming := by unfold Strand.setMreg; split <;> rfl
@[simp] theorem Strand.setMreg_held (t : Strand) (i : MIdx) (v : MReg) : (t.setMreg i v).held = t.held := by unfold Strand.setMreg; split <;> rfl

/-! ### `Strand.setVreg` -/

@[simp] theorem Strand.setVreg_run (t : Strand) (i : VIdx) (v : VReg) : (t.setVreg i v).run = t.run := rfl
@[simp] theorem Strand.setVreg_core (t : Strand) (i : VIdx) (v : VReg) : (t.setVreg i v).core = t.core := rfl
@[simp] theorem Strand.setVreg_slot (t : Strand) (i : VIdx) (v : VReg) : (t.setVreg i v).slot = t.slot := rfl
@[simp] theorem Strand.setVreg_regs (t : Strand) (i : VIdx) (v : VReg) : (t.setVreg i v).regs = t.regs := rfl
@[simp] theorem Strand.setVreg_masks (t : Strand) (i : VIdx) (v : VReg) : (t.setVreg i v).masks = t.masks := rfl
@[simp] theorem Strand.setVreg_grant (t : Strand) (i : VIdx) (v : VReg) : (t.setVreg i v).grant = t.grant := rfl
@[simp] theorem Strand.setVreg_pc (t : Strand) (i : VIdx) (v : VReg) : (t.setVreg i v).pc = t.pc := rfl
@[simp] theorem Strand.setVreg_status (t : Strand) (i : VIdx) (v : VReg) : (t.setVreg i v).status = t.status := rfl
@[simp] theorem Strand.setVreg_cause (t : Strand) (i : VIdx) (v : VReg) : (t.setVreg i v).cause = t.cause := rfl
@[simp] theorem Strand.setVreg_epc (t : Strand) (i : VIdx) (v : VReg) : (t.setVreg i v).epc = t.epc := rfl
@[simp] theorem Strand.setVreg_tval (t : Strand) (i : VIdx) (v : VReg) : (t.setVreg i v).tval = t.tval := rfl
@[simp] theorem Strand.setVreg_tvec (t : Strand) (i : VIdx) (v : VReg) : (t.setVreg i v).tvec = t.tvec := rfl
@[simp] theorem Strand.setVreg_pstatus (t : Strand) (i : VIdx) (v : VReg) : (t.setVreg i v).pstatus = t.pstatus := rfl
@[simp] theorem Strand.setVreg_idem (t : Strand) (i : VIdx) (v : VReg) : (t.setVreg i v).idem = t.idem := rfl
@[simp] theorem Strand.setVreg_scope (t : Strand) (i : VIdx) (v : VReg) : (t.setVreg i v).scope = t.scope := rfl
@[simp] theorem Strand.setVreg_sctb (t : Strand) (i : VIdx) (v : VReg) : (t.setVreg i v).sctb = t.sctb := rfl
@[simp] theorem Strand.setVreg_asid (t : Strand) (i : VIdx) (v : VReg) : (t.setVreg i v).asid = t.asid := rfl
@[simp] theorem Strand.setVreg_strandNo (t : Strand) (i : VIdx) (v : VReg) : (t.setVreg i v).strandNo = t.strandNo := rfl
@[simp] theorem Strand.setVreg_team (t : Strand) (i : VIdx) (v : VReg) : (t.setVreg i v).team = t.team := rfl
@[simp] theorem Strand.setVreg_lad (t : Strand) (i : VIdx) (v : VReg) : (t.setVreg i v).lad = t.lad := rfl
@[simp] theorem Strand.setVreg_cru (t : Strand) (i : VIdx) (v : VReg) : (t.setVreg i v).cru = t.cru := rfl
@[simp] theorem Strand.setVreg_board (t : Strand) (i : VIdx) (v : VReg) : (t.setVreg i v).board = t.board := rfl
@[simp] theorem Strand.setVreg_handle (t : Strand) (i : VIdx) (v : VReg) : (t.setVreg i v).handle = t.handle := rfl
@[simp] theorem Strand.setVreg_birth (t : Strand) (i : VIdx) (v : VReg) : (t.setVreg i v).birth = t.birth := rfl
@[simp] theorem Strand.setVreg_teamFlag (t : Strand) (i : VIdx) (v : VReg) : (t.setVreg i v).teamFlag = t.teamFlag := rfl
@[simp] theorem Strand.setVreg_prio (t : Strand) (i : VIdx) (v : VReg) : (t.setVreg i v).prio = t.prio := rfl
@[simp] theorem Strand.setVreg_affinity (t : Strand) (i : VIdx) (v : VReg) : (t.setVreg i v).affinity = t.affinity := rfl
@[simp] theorem Strand.setVreg_launchId (t : Strand) (i : VIdx) (v : VReg) : (t.setVreg i v).launchId = t.launchId := rfl
@[simp] theorem Strand.setVreg_teamId (t : Strand) (i : VIdx) (v : VReg) : (t.setVreg i v).teamId = t.teamId := rfl
@[simp] theorem Strand.setVreg_cancelled (t : Strand) (i : VIdx) (v : VReg) : (t.setVreg i v).cancelled = t.cancelled := rfl
@[simp] theorem Strand.setVreg_killed (t : Strand) (i : VIdx) (v : VReg) : (t.setVreg i v).killed = t.killed := rfl
@[simp] theorem Strand.setVreg_stopWanted (t : Strand) (i : VIdx) (v : VReg) : (t.setVreg i v).stopWanted = t.stopWanted := rfl
@[simp] theorem Strand.setVreg_wait (t : Strand) (i : VIdx) (v : VReg) : (t.setVreg i v).wait = t.wait := rfl
@[simp] theorem Strand.setVreg_waitBack (t : Strand) (i : VIdx) (v : VReg) : (t.setVreg i v).waitBack = t.waitBack := rfl
@[simp] theorem Strand.setVreg_resuming (t : Strand) (i : VIdx) (v : VReg) : (t.setVreg i v).resuming = t.resuming := rfl
@[simp] theorem Strand.setVreg_held (t : Strand) (i : VIdx) (v : VReg) : (t.setVreg i v).held = t.held := rfl

/-! ### `Strand.clearPfx` -/

@[simp] theorem Strand.clearPfx_run (t : Strand) : (t.clearPfx).run = t.run := rfl
@[simp] theorem Strand.clearPfx_core (t : Strand) : (t.clearPfx).core = t.core := rfl
@[simp] theorem Strand.clearPfx_slot (t : Strand) : (t.clearPfx).slot = t.slot := rfl
@[simp] theorem Strand.clearPfx_regs (t : Strand) : (t.clearPfx).regs = t.regs := rfl
@[simp] theorem Strand.clearPfx_vregs (t : Strand) : (t.clearPfx).vregs = t.vregs := rfl
@[simp] theorem Strand.clearPfx_masks (t : Strand) : (t.clearPfx).masks = t.masks := rfl
@[simp] theorem Strand.clearPfx_grant (t : Strand) : (t.clearPfx).grant = t.grant := rfl
@[simp] theorem Strand.clearPfx_pc (t : Strand) : (t.clearPfx).pc = t.pc := rfl
@[simp] theorem Strand.clearPfx_cause (t : Strand) : (t.clearPfx).cause = t.cause := rfl
@[simp] theorem Strand.clearPfx_epc (t : Strand) : (t.clearPfx).epc = t.epc := rfl
@[simp] theorem Strand.clearPfx_tval (t : Strand) : (t.clearPfx).tval = t.tval := rfl
@[simp] theorem Strand.clearPfx_tvec (t : Strand) : (t.clearPfx).tvec = t.tvec := rfl
@[simp] theorem Strand.clearPfx_pstatus (t : Strand) : (t.clearPfx).pstatus = t.pstatus := rfl
@[simp] theorem Strand.clearPfx_idem (t : Strand) : (t.clearPfx).idem = t.idem := rfl
@[simp] theorem Strand.clearPfx_scope (t : Strand) : (t.clearPfx).scope = t.scope := rfl
@[simp] theorem Strand.clearPfx_sctb (t : Strand) : (t.clearPfx).sctb = t.sctb := rfl
@[simp] theorem Strand.clearPfx_asid (t : Strand) : (t.clearPfx).asid = t.asid := rfl
@[simp] theorem Strand.clearPfx_strandNo (t : Strand) : (t.clearPfx).strandNo = t.strandNo := rfl
@[simp] theorem Strand.clearPfx_team (t : Strand) : (t.clearPfx).team = t.team := rfl
@[simp] theorem Strand.clearPfx_lad (t : Strand) : (t.clearPfx).lad = t.lad := rfl
@[simp] theorem Strand.clearPfx_cru (t : Strand) : (t.clearPfx).cru = t.cru := rfl
@[simp] theorem Strand.clearPfx_board (t : Strand) : (t.clearPfx).board = t.board := rfl
@[simp] theorem Strand.clearPfx_handle (t : Strand) : (t.clearPfx).handle = t.handle := rfl
@[simp] theorem Strand.clearPfx_birth (t : Strand) : (t.clearPfx).birth = t.birth := rfl
@[simp] theorem Strand.clearPfx_teamFlag (t : Strand) : (t.clearPfx).teamFlag = t.teamFlag := rfl
@[simp] theorem Strand.clearPfx_prio (t : Strand) : (t.clearPfx).prio = t.prio := rfl
@[simp] theorem Strand.clearPfx_affinity (t : Strand) : (t.clearPfx).affinity = t.affinity := rfl
@[simp] theorem Strand.clearPfx_launchId (t : Strand) : (t.clearPfx).launchId = t.launchId := rfl
@[simp] theorem Strand.clearPfx_teamId (t : Strand) : (t.clearPfx).teamId = t.teamId := rfl
@[simp] theorem Strand.clearPfx_cancelled (t : Strand) : (t.clearPfx).cancelled = t.cancelled := rfl
@[simp] theorem Strand.clearPfx_killed (t : Strand) : (t.clearPfx).killed = t.killed := rfl
@[simp] theorem Strand.clearPfx_stopWanted (t : Strand) : (t.clearPfx).stopWanted = t.stopWanted := rfl
@[simp] theorem Strand.clearPfx_wait (t : Strand) : (t.clearPfx).wait = t.wait := rfl
@[simp] theorem Strand.clearPfx_waitBack (t : Strand) : (t.clearPfx).waitBack = t.waitBack := rfl
@[simp] theorem Strand.clearPfx_resuming (t : Strand) : (t.clearPfx).resuming = t.resuming := rfl
@[simp] theorem Strand.clearPfx_held (t : Strand) : (t.clearPfx).held = t.held := rfl

/-! ### `Strand.setShield` -/

@[simp] theorem Strand.setShield_run (t : Strand) (n : Nat) : (t.setShield n).run = t.run := by cases t; rfl
@[simp] theorem Strand.setShield_core (t : Strand) (n : Nat) : (t.setShield n).core = t.core := by cases t; rfl
@[simp] theorem Strand.setShield_slot (t : Strand) (n : Nat) : (t.setShield n).slot = t.slot := by cases t; rfl
@[simp] theorem Strand.setShield_regs (t : Strand) (n : Nat) : (t.setShield n).regs = t.regs := by cases t; rfl
@[simp] theorem Strand.setShield_vregs (t : Strand) (n : Nat) : (t.setShield n).vregs = t.vregs := by cases t; rfl
@[simp] theorem Strand.setShield_masks (t : Strand) (n : Nat) : (t.setShield n).masks = t.masks := by cases t; rfl
@[simp] theorem Strand.setShield_grant (t : Strand) (n : Nat) : (t.setShield n).grant = t.grant := by cases t; rfl
@[simp] theorem Strand.setShield_pc (t : Strand) (n : Nat) : (t.setShield n).pc = t.pc := by cases t; rfl
@[simp] theorem Strand.setShield_cause (t : Strand) (n : Nat) : (t.setShield n).cause = t.cause := by cases t; rfl
@[simp] theorem Strand.setShield_epc (t : Strand) (n : Nat) : (t.setShield n).epc = t.epc := by cases t; rfl
@[simp] theorem Strand.setShield_tval (t : Strand) (n : Nat) : (t.setShield n).tval = t.tval := by cases t; rfl
@[simp] theorem Strand.setShield_tvec (t : Strand) (n : Nat) : (t.setShield n).tvec = t.tvec := by cases t; rfl
@[simp] theorem Strand.setShield_pstatus (t : Strand) (n : Nat) : (t.setShield n).pstatus = t.pstatus := by cases t; rfl
@[simp] theorem Strand.setShield_idem (t : Strand) (n : Nat) : (t.setShield n).idem = t.idem := by cases t; rfl
@[simp] theorem Strand.setShield_scope (t : Strand) (n : Nat) : (t.setShield n).scope = t.scope := by cases t; rfl
@[simp] theorem Strand.setShield_sctb (t : Strand) (n : Nat) : (t.setShield n).sctb = t.sctb := by cases t; rfl
@[simp] theorem Strand.setShield_asid (t : Strand) (n : Nat) : (t.setShield n).asid = t.asid := by cases t; rfl
@[simp] theorem Strand.setShield_strandNo (t : Strand) (n : Nat) : (t.setShield n).strandNo = t.strandNo := by cases t; rfl
@[simp] theorem Strand.setShield_team (t : Strand) (n : Nat) : (t.setShield n).team = t.team := by cases t; rfl
@[simp] theorem Strand.setShield_lad (t : Strand) (n : Nat) : (t.setShield n).lad = t.lad := by cases t; rfl
@[simp] theorem Strand.setShield_cru (t : Strand) (n : Nat) : (t.setShield n).cru = t.cru := by cases t; rfl
@[simp] theorem Strand.setShield_board (t : Strand) (n : Nat) : (t.setShield n).board = t.board := by cases t; rfl
@[simp] theorem Strand.setShield_handle (t : Strand) (n : Nat) : (t.setShield n).handle = t.handle := by cases t; rfl
@[simp] theorem Strand.setShield_birth (t : Strand) (n : Nat) : (t.setShield n).birth = t.birth := by cases t; rfl
@[simp] theorem Strand.setShield_teamFlag (t : Strand) (n : Nat) : (t.setShield n).teamFlag = t.teamFlag := by cases t; rfl
@[simp] theorem Strand.setShield_prio (t : Strand) (n : Nat) : (t.setShield n).prio = t.prio := by cases t; rfl
@[simp] theorem Strand.setShield_affinity (t : Strand) (n : Nat) : (t.setShield n).affinity = t.affinity := by cases t; rfl
@[simp] theorem Strand.setShield_launchId (t : Strand) (n : Nat) : (t.setShield n).launchId = t.launchId := by cases t; rfl
@[simp] theorem Strand.setShield_teamId (t : Strand) (n : Nat) : (t.setShield n).teamId = t.teamId := by cases t; rfl
@[simp] theorem Strand.setShield_cancelled (t : Strand) (n : Nat) : (t.setShield n).cancelled = t.cancelled := by cases t; rfl
@[simp] theorem Strand.setShield_killed (t : Strand) (n : Nat) : (t.setShield n).killed = t.killed := by cases t; rfl
@[simp] theorem Strand.setShield_stopWanted (t : Strand) (n : Nat) : (t.setShield n).stopWanted = t.stopWanted := by cases t; rfl
@[simp] theorem Strand.setShield_wait (t : Strand) (n : Nat) : (t.setShield n).wait = t.wait := by cases t; rfl
@[simp] theorem Strand.setShield_waitBack (t : Strand) (n : Nat) : (t.setShield n).waitBack = t.waitBack := by cases t; rfl
@[simp] theorem Strand.setShield_resuming (t : Strand) (n : Nat) : (t.setShield n).resuming = t.resuming := by cases t; rfl
@[simp] theorem Strand.setShield_held (t : Strand) (n : Nat) : (t.setShield n).held = t.held := by cases t; rfl

end Sys2Proof.Machine
end

