-- ==== Sys2Proof/Laws/Registers.lean ====
section
/-!
SUPPORT. Registers: a read after a write, c0 and m0 (R213), and the fields of STATUS.
-/
namespace Sys2Proof.Machine

set_option Elab.async false

@[simp] theorem Strand.creg_zero (t : Strand) : t.creg 0 = CapReg.zero := rfl

@[simp] theorem Strand.mreg_zero (t : Strand) : t.mreg 0 = BitVec.allOnes 128 := rfl

/-- A scalar register after a write of one (R213). -/
theorem Strand.creg_setCreg (t : Strand) (d r : CIdx) (v : CapReg) :
    (t.setCreg d v).creg r = if r = d ∧ d ≠ 0 then v else t.creg r := by
  unfold Strand.setCreg
  by_cases h0 : d = 0
  · simp [h0]
  · rw [if_neg h0]
    unfold Strand.creg
    by_cases hr : r = d
    · subst hr
      rw [if_neg h0, if_pos ⟨rfl, h0⟩]
      exact Vector.getElem_set_self _
    · have : r.toFin ≠ d.toFin := fun e => hr (BitVec.eq_of_toFin_eq e)
      have hv : (d.toFin : Nat) ≠ (r.toFin : Nat) := fun e => this (Fin.ext e.symm)
      simp only [hr, false_and, if_false]
      split
      · rfl
      · exact Vector.getElem_set_ne _ _ hv

/-- A vector register after a write of one. -/
theorem Strand.vreg_setVreg (t : Strand) (d r : VIdx) (v : VReg) :
    (t.setVreg d v).vreg r = if r = d then v else t.vreg r := by
  unfold Strand.setVreg Strand.vreg
  by_cases hr : r = d
  · subst hr
    rw [if_pos rfl]
    exact Vector.getElem_set_self _
  · have : r.toFin ≠ d.toFin := fun e => hr (BitVec.eq_of_toFin_eq e)
    have hv : (d.toFin : Nat) ≠ (r.toFin : Nat) := fun e => this (Fin.ext e.symm)
    rw [if_neg hr]
    exact Vector.getElem_set_ne d.toFin.isLt r.toFin.isLt hv

/-- A mask register after a write of one (R213). -/
theorem Strand.mreg_setMreg (t : Strand) (d r : MIdx) (v : MReg) :
    (t.setMreg d v).mreg r = if r = d ∧ d ≠ 0 then v else t.mreg r := by
  unfold Strand.setMreg
  by_cases h0 : d = 0
  · simp [h0]
  · rw [if_neg h0]
    unfold Strand.mreg
    by_cases hr : r = d
    · subst hr
      rw [if_neg h0, if_pos ⟨rfl, h0⟩]
      exact Vector.getElem_set_self _
    · have : r.toFin ≠ d.toFin := fun e => hr (BitVec.eq_of_toFin_eq e)
      have hv : (d.toFin : Nat) ≠ (r.toFin : Nat) := fun e => this (Fin.ext e.symm)
      simp only [hr, false_and, if_false]
      split
      · rfl
      · exact Vector.getElem_set_ne _ _ hv

/-- An update that keeps the scalar registers keeps every one of them. -/
theorem Strand.creg_congr {t u : Strand} (h : t.regs = u.regs) (r : CIdx) : t.creg r = u.creg r := by
  simp only [Strand.creg, h]

/-- An update that keeps the vector registers keeps every one of them. -/
theorem Strand.vreg_congr {t u : Strand} (h : t.vregs = u.vregs) (r : VIdx) : t.vreg r = u.vreg r := by
  simp only [Strand.vreg, h]

/-- An update that keeps the mask registers keeps every one of them. -/
theorem Strand.mreg_congr {t u : Strand} (h : t.masks = u.masks) (r : MIdx) : t.mreg r = u.mreg r := by
  simp only [Strand.mreg, h]

end Sys2Proof.Machine
end

