-- ==== Sys2Proof/Laws/Issue.lean ====
section
/-!
SUPPORT. The issue of an instruction: what stops it, and what it comes to when nothing does (R203, R224).
-/
namespace Sys2Proof.Machine

set_option Elab.async false

/-- Nothing that R203 lists stops an instruction of a form that takes no formats. -/
theorem Form.issueFault_none {f : Form} {s : State} (ht : f.takes = none) (hv : f.vector = false)
    (hc : s.clearFor (f.reads ++ f.writes)) : f.issueFault s = none := by
  obtain ⟨hp, hs⟩ := hc
  have h3 : f.shortFault s.cur = none := by
    simp only [Form.shortFault]
    split
    · rw [hs (by assumption)]; rfl
    · rfl
  simp [Form.issueFault, Form.badWord, Form.grantFault, ht, hv, hp, h3]

/-- An instruction that nothing stops, and that is no cancellation point, comes to what its own entry says. -/
theorem Form.run_clear {f : Form} {s : State} {entry : State → Res} (ht : f.takes = none) (hv : f.vector = false)
    (hpt : f.point = false) (hc : s.clearFor (f.reads ++ f.writes))
    (hb : f.mild = true ∨ f.badSource s.cur = none) : f.run s entry = .next (f.conclude s (entry s)) := by
  simp only [Form.run, Form.issue, Form.issueFault_none ht hv hc, hpt]
  obtain h | h := hb <;> simp [h]

/-- A malformed source of an instruction that nothing of R203 stops (R20, R224). -/
theorem Form.run_malformed {f : Form} {s : State} {entry : State → Res} {c : CapReg} (ht : f.takes = none)
    (hv : f.vector = false) (hpt : f.point = false) (hc : s.clearFor (f.reads ++ f.writes)) (hm : f.mild = false)
    (hb : f.badSource s.cur = some c) :
    f.run s entry = .next (s.registerError.takeTrap (s.trapAt 2 3 c.lo)) := by
  simp [Form.run, Form.issue, Form.issueFault_none ht hv hc, hpt, hm, hb]

/-- Sources that are sound are none of them malformed (R224). -/
theorem Form.badSource_none {f : Form} {s : State} {srcs : List CIdx} (hr : f.reads = srcs.map RegName.c)
    (h : ∀ a ∈ srcs, s.sound a) : f.badSource s.cur = none := by
  simp only [Form.badSource, hr, List.filterMap_map, List.find?_eq_none, List.mem_filterMap]
  rintro c ⟨a, ha, hc⟩
  simp only [Function.comp, Option.some.injEq] at hc
  subst hc
  have := h a ha
  simp only [State.sound] at this
  cases ht : (s.cur.creg a).tag <;> simp_all

/-- How a completed instruction of a form leaves the strand when no format code word was pending. -/
theorem Form.finish_clear {f : Form} {b : Strand} {s : State} {pc : Word} (hp : b.pfx = false) :
    f.finish b s pc = s.modCur fun t => { t with pc := pc, board := boardAfter b.board f.gap f.writes f.lat } := by
  simp [Form.finish, hp]

/-- An instruction of the scalar family that writes one register (R203, R223, R224). -/
theorem plain_gives {i j : Instr} {g : Gap} {srcs : List CIdx} {d : CIdx} {lat : Option Nat} {s : State} {v : CapReg}
    {entry : State → Res}
    (he : exec j s = (plain i g (srcs.map RegName.c) [.c d] lat).run s entry) (hv : entry s = .done (s.setC d v)) :
    gives s j srcs d v := by
  intro hc hs
  refine ⟨_, he.trans (Form.run_clear rfl rfl rfl hc (Or.inr (Form.badSource_none rfl hs))), ?_⟩
  simp only [hv, Form.conclude, Form.finish_clear hc.1]
  refine ⟨rfl, ?_, ?_⟩
  · intro r
    exact (Strand.creg_congr (by simp) r).trans (Strand.creg_setCreg s.cur d r v)
  · simp only [scalarOnly, State.modCur, State.setC, Strand.setCreg]
    split <;> rfl

end Sys2Proof.Machine
end

