-- ==== Sys2Proof/Laws/Lanes.lean ====
section
/-!
SUPPORT. Lanes of a vector register that is put together from lanes.
-/
namespace Sys2Proof.Machine

set_option Elab.async false

/-- Lane k of packed lanes. -/
theorem packLanes_lane (b : Nat) (l : List Nat) (k : Nat) (lt : k < l.length) :
    packLanes b l / 2 ^ (k * b) % 2 ^ b = l[k] % 2 ^ b := by
  induction l generalizing k with
  | nil => simp at lt
  | cons x l ih =>
    cases k with
    | zero => simp [packLanes]
    | succ k =>
      have hb : 0 < 2 ^ b := Nat.two_pow_pos b
      simp only [packLanes, List.getElem_cons_succ]
      rw [Nat.succ_mul, Nat.add_comm (k * b) b, Nat.pow_add, ← Nat.div_div_eq_div_mul,
        Nat.add_mul_div_left _ _ hb, Nat.div_eq_of_lt (Nat.mod_lt _ hb), Nat.zero_add]
      exact ih k (by simpa using lt)

/-- Packed lanes fit in their bits. -/
theorem packLanes_lt (b : Nat) (l : List Nat) : packLanes b l < 2 ^ (l.length * b) := by
  induction l with
  | nil => simp [packLanes]
  | cons x l ih =>
    have hx : x % 2 ^ b < 2 ^ b := Nat.mod_lt _ (Nat.two_pow_pos b)
    simp only [packLanes, List.length_cons, Nat.succ_mul]
    rw [Nat.add_comm (l.length * b) b, Nat.pow_add]
    calc x % 2 ^ b + 2 ^ b * packLanes b l < 2 ^ b + 2 ^ b * packLanes b l := by omega
      _ = 2 ^ b * (packLanes b l + 1) := by rw [Nat.mul_add, Nat.mul_one, Nat.add_comm]
      _ ≤ 2 ^ b * 2 ^ (l.length * b) := Nat.mul_le_mul_left _ ih

/-- A lane of a register made from lanes. -/
theorem laneOf_vecOf (b : Nat) (f : Nat → Nat) (k : Nat) (lt : k < 1024 / b) : laneOf b (vecOf b f) k = f k % 2 ^ b := by
  have hl : ((List.range (1024 / b)).map f).length = 1024 / b := by simp
  have hp := packLanes_lt b ((List.range (1024 / b)).map f)
  have hw : packLanes b ((List.range (1024 / b)).map f) < 2 ^ 1024 :=
    Nat.lt_of_lt_of_le hp (Nat.pow_le_pow_right (by decide) (by rw [hl]; exact Nat.div_mul_le_self 1024 b))
  have := packLanes_lane b ((List.range (1024 / b)).map f) k (by rw [hl]; exact lt)
  simp only [laneOf, vecOf, bitsOf, BitVec.toNat_ofNat, Nat.mod_eq_of_lt hw, Nat.shiftRight_eq_div_pow, this]
  simp

/-- A lane holds no more than its bits. -/
theorem laneOf_lt (b : Nat) (v : VReg) (k : Nat) : laneOf b v k < 2 ^ b := Nat.mod_lt _ (Nat.two_pow_pos b)

/-- A lane of a register whose active lanes have been replaced (R215, R268). -/
theorem laneOf_mapLanes (b : Nat) (m : MReg) (old : VReg) (f : Nat → Nat) (k : Nat) (lt : k < 1024 / b) :
    laneOf b (mapLanes b m old f) k = if laneOn b m k then f k % 2 ^ b else laneOf b old k := by
  simp only [mapLanes, laneOf_vecOf b _ k lt]
  split
  · rfl
  · exact Nat.mod_eq_of_lt (laneOf_lt b old k)

/-- A lane of a register of which one lane has been replaced. -/
theorem laneOf_putLane (b : Nat) (v : VReg) (j x k : Nat) (lt : k < 1024 / b) :
    laneOf b (putLane b v j x) k = if k = j then x % 2 ^ b else laneOf b v k := by
  simp only [putLane, laneOf_vecOf b _ k lt]
  split
  · rfl
  · exact Nat.mod_eq_of_lt (laneOf_lt b v k)

end Sys2Proof.Machine
end

