-- ==== Sys2Proof/Laws/PerInstr.lean ====
section
/-!
SUPPORT. Of every instruction: decoding its word gives it back (R199, R204, R205, R216). An event has no word.
-/
namespace Sys2Proof.Laws.F

set_option Elab.async false

/-- Decoding the word of a well-formed instruction gives it back. -/
def Statement (i : Instr) : Prop := ∀ w, i.wf = true → encode i = some w → decode w = .ok i

/-- The statement of an instruction without a word. -/
theorem of_none {i : Instr} (h : encode i = none) : Statement i := by
  intro w _ e
  rw [h] at e
  cases e

/-- The statement of an instruction whose word the fields give back. -/
theorem of_fields {i : Instr} {v : BitVec 32} (e : encode i = some v) (h : decodeFields v = .ok i) : Statement i := by
  intro w wf e'
  rw [e] at e'
  cases e'
  simp only [decode, h, wf, if_true]

theorem add (x0 x1 x2 x3) : Statement (.add x0 x1 x2 x3) :=
  of_fields rfl (by simp [decodeFields, decodeMajor01, fld_cat_below, fld_cat_above])
theorem sub (x0 x1 x2 x3) : Statement (.sub x0 x1 x2 x3) :=
  of_fields rfl (by simp [decodeFields, decodeMajor01, fld_cat_below, fld_cat_above])
theorem mul (x0 x1 x2 x3) : Statement (.mul x0 x1 x2 x3) :=
  of_fields rfl (by simp [decodeFields, decodeMajor01, fld_cat_below, fld_cat_above])
theorem mulh (x0 x1 x2 x3) : Statement (.mulh x0 x1 x2 x3) :=
  of_fields rfl (by simp [decodeFields, decodeMajor01, fld_cat_below, fld_cat_above])
theorem mulhu (x0 x1 x2 x3) : Statement (.mulhu x0 x1 x2 x3) :=
  of_fields rfl (by simp [decodeFields, decodeMajor01, fld_cat_below, fld_cat_above])
theorem div (x0 x1 x2 x3) : Statement (.div x0 x1 x2 x3) :=
  of_fields rfl (by simp [decodeFields, decodeMajor01, fld_cat_below, fld_cat_above])
theorem divu (x0 x1 x2 x3) : Statement (.divu x0 x1 x2 x3) :=
  of_fields rfl (by simp [decodeFields, decodeMajor01, fld_cat_below, fld_cat_above])
theorem rem (x0 x1 x2 x3) : Statement (.rem x0 x1 x2 x3) :=
  of_fields rfl (by simp [decodeFields, decodeMajor01, fld_cat_below, fld_cat_above])
theorem remu (x0 x1 x2 x3) : Statement (.remu x0 x1 x2 x3) :=
  of_fields rfl (by simp [decodeFields, decodeMajor01, fld_cat_below, fld_cat_above])
theorem and (x0 x1 x2 x3) : Statement (.and x0 x1 x2 x3) :=
  of_fields rfl (by simp [decodeFields, decodeMajor01, fld_cat_below, fld_cat_above])
theorem or (x0 x1 x2 x3) : Statement (.or x0 x1 x2 x3) :=
  of_fields rfl (by simp [decodeFields, decodeMajor01, fld_cat_below, fld_cat_above])
theorem xor (x0 x1 x2 x3) : Statement (.xor x0 x1 x2 x3) :=
  of_fields rfl (by simp [decodeFields, decodeMajor01, fld_cat_below, fld_cat_above])
theorem sll (x0 x1 x2 x3) : Statement (.sll x0 x1 x2 x3) :=
  of_fields rfl (by simp [decodeFields, decodeMajor01, fld_cat_below, fld_cat_above])
theorem srl (x0 x1 x2 x3) : Statement (.srl x0 x1 x2 x3) :=
  of_fields rfl (by simp [decodeFields, decodeMajor01, fld_cat_below, fld_cat_above])
theorem sra (x0 x1 x2 x3) : Statement (.sra x0 x1 x2 x3) :=
  of_fields rfl (by simp [decodeFields, decodeMajor01, fld_cat_below, fld_cat_above])
theorem slt (x0 x1 x2 x3) : Statement (.slt x0 x1 x2 x3) :=
  of_fields rfl (by simp [decodeFields, decodeMajor01, fld_cat_below, fld_cat_above])
theorem sltu (x0 x1 x2 x3) : Statement (.sltu x0 x1 x2 x3) :=
  of_fields rfl (by simp [decodeFields, decodeMajor01, fld_cat_below, fld_cat_above])
theorem min (x0 x1 x2 x3) : Statement (.min x0 x1 x2 x3) :=
  of_fields rfl (by simp [decodeFields, decodeMajor01, fld_cat_below, fld_cat_above])
theorem max (x0 x1 x2 x3) : Statement (.max x0 x1 x2 x3) :=
  of_fields rfl (by simp [decodeFields, decodeMajor01, fld_cat_below, fld_cat_above])
theorem minu (x0 x1 x2 x3) : Statement (.minu x0 x1 x2 x3) :=
  of_fields rfl (by simp [decodeFields, decodeMajor01, fld_cat_below, fld_cat_above])
theorem maxu (x0 x1 x2 x3) : Statement (.maxu x0 x1 x2 x3) :=
  of_fields rfl (by simp [decodeFields, decodeMajor01, fld_cat_below, fld_cat_above])
theorem sel (x0 x1 x2 x3) : Statement (.sel x0 x1 x2 x3) :=
  of_fields rfl (by simp [decodeFields, decodeMajor01, fld_cat_below, fld_cat_above])
theorem clz (x0 x1 x2) : Statement (.clz x0 x1 x2) :=
  of_fields rfl (by simp [decodeFields, decodeMajor01, fld_cat_below, fld_cat_above])
theorem ctz (x0 x1 x2) : Statement (.ctz x0 x1 x2) :=
  of_fields rfl (by simp [decodeFields, decodeMajor01, fld_cat_below, fld_cat_above])
theorem popc (x0 x1 x2) : Statement (.popc x0 x1 x2) :=
  of_fields rfl (by simp [decodeFields, decodeMajor01, fld_cat_below, fld_cat_above])
theorem addi (x0 x1 x2 x3) : Statement (.addi x0 x1 x2 x3) :=
  of_fields rfl (by simp [decodeFields, decodeMajor02, fld_cat_below, fld_cat_above])
theorem andi (x0 x1 x2 x3) : Statement (.andi x0 x1 x2 x3) :=
  of_fields rfl (by simp [decodeFields, decodeMajor03, fld_cat_below, fld_cat_above])
theorem ori (x0 x1 x2 x3) : Statement (.ori x0 x1 x2 x3) :=
  of_fields rfl (by simp [decodeFields, decodeMajor04, fld_cat_below, fld_cat_above])
theorem xori (x0 x1 x2 x3) : Statement (.xori x0 x1 x2 x3) :=
  of_fields rfl (by simp [decodeFields, decodeMajor05, fld_cat_below, fld_cat_above])
theorem slti (x0 x1 x2 x3) : Statement (.slti x0 x1 x2 x3) :=
  of_fields rfl (by simp [decodeFields, decodeMajor06, fld_cat_below, fld_cat_above])
theorem sltiu (x0 x1 x2 x3) : Statement (.sltiu x0 x1 x2 x3) :=
  of_fields rfl (by simp [decodeFields, decodeMajor07, fld_cat_below, fld_cat_above])
theorem slli (x0 x1 x2 x3) : Statement (.slli x0 x1 x2 x3) :=
  of_fields rfl (by simp [decodeFields, decodeMajor07, fld_cat_below, fld_cat_above])
theorem srli (x0 x1 x2 x3) : Statement (.srli x0 x1 x2 x3) :=
  of_fields rfl (by simp [decodeFields, decodeMajor07, fld_cat_below, fld_cat_above])
theorem srai (x0 x1 x2 x3) : Statement (.srai x0 x1 x2 x3) :=
  of_fields rfl (by simp [decodeFields, decodeMajor07, fld_cat_below, fld_cat_above])
theorem lui (x0 x1 x2) : Statement (.lui x0 x1 x2) :=
  of_fields rfl (by simp [decodeFields, decodeMajor08, fld_cat_below, fld_cat_above])
theorem capSet (x0 x1 x2 x3) : Statement (.capSet x0 x1 x2 x3) :=
  of_fields rfl (by simp [decodeFields, decodeMajor09, fld_cat_below, fld_cat_above])
theorem capAnd (x0 x1 x2 x3) : Statement (.capAnd x0 x1 x2 x3) :=
  of_fields rfl (by simp [decodeFields, decodeMajor09, fld_cat_below, fld_cat_above])
theorem capAddr (x0 x1 x2 x3) : Statement (.capAddr x0 x1 x2 x3) :=
  of_fields rfl (by simp [decodeFields, decodeMajor09, fld_cat_below, fld_cat_above])
theorem capBase (x0 x1 x2) : Statement (.capBase x0 x1 x2) :=
  of_fields rfl (by simp [decodeFields, decodeMajor09, fld_cat_below, fld_cat_above])
theorem capLen (x0 x1 x2) : Statement (.capLen x0 x1 x2) :=
  of_fields rfl (by simp [decodeFields, decodeMajor09, fld_cat_below, fld_cat_above])
theorem capPerm (x0 x1 x2) : Statement (.capPerm x0 x1 x2) :=
  of_fields rfl (by simp [decodeFields, decodeMajor09, fld_cat_below, fld_cat_above])
theorem capTag (x0 x1 x2) : Statement (.capTag x0 x1 x2) :=
  of_fields rfl (by simp [decodeFields, decodeMajor09, fld_cat_below, fld_cat_above])
theorem capClr (x0 x1 x2) : Statement (.capClr x0 x1 x2) :=
  of_fields rfl (by simp [decodeFields, decodeMajor09, fld_cat_below, fld_cat_above])
theorem capSub (x0 x1 x2 x3) : Statement (.capSub x0 x1 x2 x3) :=
  of_fields rfl (by simp [decodeFields, decodeMajor09, fld_cat_below, fld_cat_above])
theorem capInc (x0 x1 x2 x3) : Statement (.capInc x0 x1 x2 x3) :=
  of_fields rfl (by simp [decodeFields, decodeMajor0A, fld_cat_below, fld_cat_above])
theorem beq (x0 x1 x2 x3) : Statement (.beq x0 x1 x2 x3) :=
  of_fields rfl (by simp [decodeFields, decodeMajor10, fld_cat_below, fld_cat_above])
theorem bne (x0 x1 x2 x3) : Statement (.bne x0 x1 x2 x3) :=
  of_fields rfl (by simp [decodeFields, decodeMajor11, fld_cat_below, fld_cat_above])
theorem blt (x0 x1 x2 x3) : Statement (.blt x0 x1 x2 x3) :=
  of_fields rfl (by simp [decodeFields, decodeMajor12, fld_cat_below, fld_cat_above])
theorem bge (x0 x1 x2 x3) : Statement (.bge x0 x1 x2 x3) :=
  of_fields rfl (by simp [decodeFields, decodeMajor13, fld_cat_below, fld_cat_above])
theorem bltu (x0 x1 x2 x3) : Statement (.bltu x0 x1 x2 x3) :=
  of_fields rfl (by simp [decodeFields, decodeMajor14, fld_cat_below, fld_cat_above])
theorem bgeu (x0 x1 x2 x3) : Statement (.bgeu x0 x1 x2 x3) :=
  of_fields rfl (by simp [decodeFields, decodeMajor15, fld_cat_below, fld_cat_above])
theorem jal (x0 x1 x2) : Statement (.jal x0 x1 x2) :=
  of_fields rfl (by simp [decodeFields, decodeMajor16, fld_cat_below, fld_cat_above])
theorem jalr (x0 x1 x2 x3) : Statement (.jalr x0 x1 x2 x3) :=
  of_fields rfl (by simp [decodeFields, decodeMajor17, fld_cat_below, fld_cat_above])
theorem idem (x0 x1) : Statement (.idem x0 x1) :=
  of_fields rfl (by simp [decodeFields, decodeMajor18, fld_cat_below, fld_cat_above])
theorem ldB (x0 x1 x2 x3) : Statement (.ldB x0 x1 x2 x3) :=
  of_fields rfl (by simp [decodeFields, decodeMajor20, fld_cat_below, fld_cat_above])
theorem ldBu (x0 x1 x2 x3) : Statement (.ldBu x0 x1 x2 x3) :=
  of_fields rfl (by simp [decodeFields, decodeMajor20, fld_cat_below, fld_cat_above])
theorem ldH (x0 x1 x2 x3) : Statement (.ldH x0 x1 x2 x3) :=
  of_fields rfl (by simp [decodeFields, decodeMajor20, fld_cat_below, fld_cat_above])
theorem ldHu (x0 x1 x2 x3) : Statement (.ldHu x0 x1 x2 x3) :=
  of_fields rfl (by simp [decodeFields, decodeMajor20, fld_cat_below, fld_cat_above])
theorem ldW (x0 x1 x2 x3) : Statement (.ldW x0 x1 x2 x3) :=
  of_fields rfl (by simp [decodeFields, decodeMajor20, fld_cat_below, fld_cat_above])
theorem ldWu (x0 x1 x2 x3) : Statement (.ldWu x0 x1 x2 x3) :=
  of_fields rfl (by simp [decodeFields, decodeMajor20, fld_cat_below, fld_cat_above])
theorem ldD (x0 x1 x2 x3) : Statement (.ldD x0 x1 x2 x3) :=
  of_fields rfl (by simp [decodeFields, decodeMajor20, fld_cat_below, fld_cat_above])
theorem ldC (x0 x1 x2 x3) : Statement (.ldC x0 x1 x2 x3) :=
  of_fields rfl (by simp [decodeFields, decodeMajor20, fld_cat_below, fld_cat_above])
theorem stB (x0 x1 x2 x3) : Statement (.stB x0 x1 x2 x3) :=
  of_fields rfl (by simp [decodeFields, decodeMajor21, fld_cat_below, fld_cat_above])
theorem stH (x0 x1 x2 x3) : Statement (.stH x0 x1 x2 x3) :=
  of_fields rfl (by simp [decodeFields, decodeMajor21, fld_cat_below, fld_cat_above])
theorem stW (x0 x1 x2 x3) : Statement (.stW x0 x1 x2 x3) :=
  of_fields rfl (by simp [decodeFields, decodeMajor21, fld_cat_below, fld_cat_above])
theorem stD (x0 x1 x2 x3) : Statement (.stD x0 x1 x2 x3) :=
  of_fields rfl (by simp [decodeFields, decodeMajor21, fld_cat_below, fld_cat_above])
theorem stC (x0 x1 x2 x3) : Statement (.stC x0 x1 x2 x3) :=
  of_fields rfl (by simp [decodeFields, decodeMajor21, fld_cat_below, fld_cat_above])
theorem amoAdd (x0 x1 x2 x3 x4) : Statement (.amoAdd x0 x1 x2 x3 x4) :=
  of_fields rfl (by simp [decodeFields, decodeMajor22, fld_cat_below, fld_cat_above])
theorem amoAnd (x0 x1 x2 x3 x4) : Statement (.amoAnd x0 x1 x2 x3 x4) :=
  of_fields rfl (by simp [decodeFields, decodeMajor22, fld_cat_below, fld_cat_above])
theorem amoOr (x0 x1 x2 x3 x4) : Statement (.amoOr x0 x1 x2 x3 x4) :=
  of_fields rfl (by simp [decodeFields, decodeMajor22, fld_cat_below, fld_cat_above])
theorem amoXor (x0 x1 x2 x3 x4) : Statement (.amoXor x0 x1 x2 x3 x4) :=
  of_fields rfl (by simp [decodeFields, decodeMajor22, fld_cat_below, fld_cat_above])
theorem amoMin (x0 x1 x2 x3 x4) : Statement (.amoMin x0 x1 x2 x3 x4) :=
  of_fields rfl (by simp [decodeFields, decodeMajor22, fld_cat_below, fld_cat_above])
theorem amoMax (x0 x1 x2 x3 x4) : Statement (.amoMax x0 x1 x2 x3 x4) :=
  of_fields rfl (by simp [decodeFields, decodeMajor22, fld_cat_below, fld_cat_above])
theorem amoSwp (x0 x1 x2 x3 x4) : Statement (.amoSwp x0 x1 x2 x3 x4) :=
  of_fields rfl (by simp [decodeFields, decodeMajor22, fld_cat_below, fld_cat_above])
theorem amoCas (x0 x1 x2 x3 x4) : Statement (.amoCas x0 x1 x2 x3 x4) :=
  of_fields rfl (by simp [decodeFields, decodeMajor22, fld_cat_below, fld_cat_above])
theorem fence (x0 x1) : Statement (.fence x0 x1) :=
  of_fields rfl (by simp [decodeFields, decodeMajor23, fld_cat_below, fld_cat_above])
theorem fenceSc (x0) : Statement (.fenceSc x0) :=
  of_fields rfl (by simp [decodeFields, decodeMajor23, fld_cat_below, fld_cat_above])
theorem dcWb (x0 x1) : Statement (.dcWb x0 x1) :=
  of_fields rfl (by simp [decodeFields, decodeMajor23, fld_cat_below, fld_cat_above])
theorem dcInv (x0 x1) : Statement (.dcInv x0 x1) :=
  of_fields rfl (by simp [decodeFields, decodeMajor23, fld_cat_below, fld_cat_above])
theorem dcFlush (x0 x1) : Statement (.dcFlush x0 x1) :=
  of_fields rfl (by simp [decodeFields, decodeMajor23, fld_cat_below, fld_cat_above])
theorem dcPf (x0 x1) : Statement (.dcPf x0 x1) :=
  of_fields rfl (by simp [decodeFields, decodeMajor23, fld_cat_below, fld_cat_above])
theorem ldBAcq (x0 x1 x2 x3) : Statement (.ldBAcq x0 x1 x2 x3) :=
  of_fields rfl (by simp [decodeFields, decodeMajor24, fld_cat_below, fld_cat_above])
theorem ldBuAcq (x0 x1 x2 x3) : Statement (.ldBuAcq x0 x1 x2 x3) :=
  of_fields rfl (by simp [decodeFields, decodeMajor24, fld_cat_below, fld_cat_above])
theorem ldHAcq (x0 x1 x2 x3) : Statement (.ldHAcq x0 x1 x2 x3) :=
  of_fields rfl (by simp [decodeFields, decodeMajor24, fld_cat_below, fld_cat_above])
theorem ldHuAcq (x0 x1 x2 x3) : Statement (.ldHuAcq x0 x1 x2 x3) :=
  of_fields rfl (by simp [decodeFields, decodeMajor24, fld_cat_below, fld_cat_above])
theorem ldWAcq (x0 x1 x2 x3) : Statement (.ldWAcq x0 x1 x2 x3) :=
  of_fields rfl (by simp [decodeFields, decodeMajor24, fld_cat_below, fld_cat_above])
theorem ldWuAcq (x0 x1 x2 x3) : Statement (.ldWuAcq x0 x1 x2 x3) :=
  of_fields rfl (by simp [decodeFields, decodeMajor24, fld_cat_below, fld_cat_above])
theorem ldDAcq (x0 x1 x2 x3) : Statement (.ldDAcq x0 x1 x2 x3) :=
  of_fields rfl (by simp [decodeFields, decodeMajor24, fld_cat_below, fld_cat_above])
theorem ldCAcq (x0 x1 x2 x3) : Statement (.ldCAcq x0 x1 x2 x3) :=
  of_fields rfl (by simp [decodeFields, decodeMajor24, fld_cat_below, fld_cat_above])
theorem stBRel (x0 x1 x2 x3) : Statement (.stBRel x0 x1 x2 x3) :=
  of_fields rfl (by simp [decodeFields, decodeMajor25, fld_cat_below, fld_cat_above])
theorem stHRel (x0 x1 x2 x3) : Statement (.stHRel x0 x1 x2 x3) :=
  of_fields rfl (by simp [decodeFields, decodeMajor25, fld_cat_below, fld_cat_above])
theorem stWRel (x0 x1 x2 x3) : Statement (.stWRel x0 x1 x2 x3) :=
  of_fields rfl (by simp [decodeFields, decodeMajor25, fld_cat_below, fld_cat_above])
theorem stDRel (x0 x1 x2 x3) : Statement (.stDRel x0 x1 x2 x3) :=
  of_fields rfl (by simp [decodeFields, decodeMajor25, fld_cat_below, fld_cat_above])
theorem stCRel (x0 x1 x2 x3) : Statement (.stCRel x0 x1 x2 x3) :=
  of_fields rfl (by simp [decodeFields, decodeMajor25, fld_cat_below, fld_cat_above])
theorem vld (x0 x1 x2 x3 x4) : Statement (.vld x0 x1 x2 x3 x4) :=
  of_fields rfl (by simp [decodeFields, decodeMajor28, fld_cat_below, fld_cat_above])
theorem vst (x0 x1 x2 x3 x4) : Statement (.vst x0 x1 x2 x3 x4) :=
  of_fields rfl (by simp [decodeFields, decodeMajor28, fld_cat_below, fld_cat_above])
theorem vlds (x0 x1 x2 x3 x4) : Statement (.vlds x0 x1 x2 x3 x4) :=
  of_fields rfl (by simp [decodeFields, decodeMajor28, fld_cat_below, fld_cat_above])
theorem vsts (x0 x1 x2 x3 x4) : Statement (.vsts x0 x1 x2 x3 x4) :=
  of_fields rfl (by simp [decodeFields, decodeMajor28, fld_cat_below, fld_cat_above])
theorem vgat (x0 x1 x2 x3 x4) : Statement (.vgat x0 x1 x2 x3 x4) :=
  of_fields rfl (by simp [decodeFields, decodeMajor28, fld_cat_below, fld_cat_above])
theorem vsct (x0 x1 x2 x3 x4) : Statement (.vsct x0 x1 x2 x3 x4) :=
  of_fields rfl (by simp [decodeFields, decodeMajor28, fld_cat_below, fld_cat_above])
theorem vldb (x0 x1 x2 x3 x4) : Statement (.vldb x0 x1 x2 x3 x4) :=
  of_fields rfl (by simp [decodeFields, decodeMajor28, fld_cat_below, fld_cat_above])
theorem vadd (x0 x1 x2 x3 x4 x5) : Statement (.vadd x0 x1 x2 x3 x4 x5) :=
  of_fields rfl (by simp [decodeFields, decodeMajor29, fld_cat_below, fld_cat_above])
theorem vsub (x0 x1 x2 x3 x4 x5) : Statement (.vsub x0 x1 x2 x3 x4 x5) :=
  of_fields rfl (by simp [decodeFields, decodeMajor29, fld_cat_below, fld_cat_above])
theorem vmul (x0 x1 x2 x3 x4 x5) : Statement (.vmul x0 x1 x2 x3 x4 x5) :=
  of_fields rfl (by simp [decodeFields, decodeMajor29, fld_cat_below, fld_cat_above])
theorem vmulh (x0 x1 x2 x3 x4 x5) : Statement (.vmulh x0 x1 x2 x3 x4 x5) :=
  of_fields rfl (by simp [decodeFields, decodeMajor29, fld_cat_below, fld_cat_above])
theorem vand (x0 x1 x2 x3 x4 x5) : Statement (.vand x0 x1 x2 x3 x4 x5) :=
  of_fields rfl (by simp [decodeFields, decodeMajor29, fld_cat_below, fld_cat_above])
theorem vor (x0 x1 x2 x3 x4 x5) : Statement (.vor x0 x1 x2 x3 x4 x5) :=
  of_fields rfl (by simp [decodeFields, decodeMajor29, fld_cat_below, fld_cat_above])
theorem vxor (x0 x1 x2 x3 x4 x5) : Statement (.vxor x0 x1 x2 x3 x4 x5) :=
  of_fields rfl (by simp [decodeFields, decodeMajor29, fld_cat_below, fld_cat_above])
theorem vsll (x0 x1 x2 x3 x4 x5) : Statement (.vsll x0 x1 x2 x3 x4 x5) :=
  of_fields rfl (by simp [decodeFields, decodeMajor29, fld_cat_below, fld_cat_above])
theorem vsrl (x0 x1 x2 x3 x4 x5) : Statement (.vsrl x0 x1 x2 x3 x4 x5) :=
  of_fields rfl (by simp [decodeFields, decodeMajor29, fld_cat_below, fld_cat_above])
theorem vsra (x0 x1 x2 x3 x4 x5) : Statement (.vsra x0 x1 x2 x3 x4 x5) :=
  of_fields rfl (by simp [decodeFields, decodeMajor29, fld_cat_below, fld_cat_above])
theorem vmin (x0 x1 x2 x3 x4 x5) : Statement (.vmin x0 x1 x2 x3 x4 x5) :=
  of_fields rfl (by simp [decodeFields, decodeMajor29, fld_cat_below, fld_cat_above])
theorem vmax (x0 x1 x2 x3 x4 x5) : Statement (.vmax x0 x1 x2 x3 x4 x5) :=
  of_fields rfl (by simp [decodeFields, decodeMajor29, fld_cat_below, fld_cat_above])
theorem vfadd (x0 x1 x2 x3 x4 x5) : Statement (.vfadd x0 x1 x2 x3 x4 x5) :=
  of_fields rfl (by simp [decodeFields, decodeMajor2A, fld_cat_below, fld_cat_above])
theorem vfsub (x0 x1 x2 x3 x4 x5) : Statement (.vfsub x0 x1 x2 x3 x4 x5) :=
  of_fields rfl (by simp [decodeFields, decodeMajor2A, fld_cat_below, fld_cat_above])
theorem vfmul (x0 x1 x2 x3 x4 x5) : Statement (.vfmul x0 x1 x2 x3 x4 x5) :=
  of_fields rfl (by simp [decodeFields, decodeMajor2A, fld_cat_below, fld_cat_above])
theorem vfma (x0 x1 x2 x3 x4 x5) : Statement (.vfma x0 x1 x2 x3 x4 x5) :=
  of_fields rfl (by simp [decodeFields, decodeMajor2A, fld_cat_below, fld_cat_above])
theorem vfms (x0 x1 x2 x3 x4 x5) : Statement (.vfms x0 x1 x2 x3 x4 x5) :=
  of_fields rfl (by simp [decodeFields, decodeMajor2A, fld_cat_below, fld_cat_above])
theorem vfnma (x0 x1 x2 x3 x4 x5) : Statement (.vfnma x0 x1 x2 x3 x4 x5) :=
  of_fields rfl (by simp [decodeFields, decodeMajor2A, fld_cat_below, fld_cat_above])
theorem vfmin (x0 x1 x2 x3 x4 x5) : Statement (.vfmin x0 x1 x2 x3 x4 x5) :=
  of_fields rfl (by simp [decodeFields, decodeMajor2A, fld_cat_below, fld_cat_above])
theorem vfmax (x0 x1 x2 x3 x4 x5) : Statement (.vfmax x0 x1 x2 x3 x4 x5) :=
  of_fields rfl (by simp [decodeFields, decodeMajor2A, fld_cat_below, fld_cat_above])
theorem vfabs (x0 x1 x2 x3 x4) : Statement (.vfabs x0 x1 x2 x3 x4) :=
  of_fields rfl (by simp [decodeFields, decodeMajor2A, fld_cat_below, fld_cat_above])
theorem vfrcp (x0 x1 x2 x3 x4) : Statement (.vfrcp x0 x1 x2 x3 x4) :=
  of_fields rfl (by simp [decodeFields, decodeMajor2A, fld_cat_below, fld_cat_above])
theorem vfrsq (x0 x1 x2 x3 x4) : Statement (.vfrsq x0 x1 x2 x3 x4) :=
  of_fields rfl (by simp [decodeFields, decodeMajor2A, fld_cat_below, fld_cat_above])
theorem vfex2 (x0 x1 x2 x3 x4) : Statement (.vfex2 x0 x1 x2 x3 x4) :=
  of_fields rfl (by simp [decodeFields, decodeMajor2A, fld_cat_below, fld_cat_above])
theorem vflg2 (x0 x1 x2 x3 x4) : Statement (.vflg2 x0 x1 x2 x3 x4) :=
  of_fields rfl (by simp [decodeFields, decodeMajor2A, fld_cat_below, fld_cat_above])
theorem vcmp (x0 x1 x2 x3 x4 x5 x6) : Statement (.vcmp x0 x1 x2 x3 x4 x5 x6) :=
  of_fields rfl (by simp [decodeFields, decodeMajor2B, fld_cat_below, fld_cat_above])
theorem vfcmp (x0 x1 x2 x3 x4 x5 x6) : Statement (.vfcmp x0 x1 x2 x3 x4 x5 x6) :=
  of_fields rfl (by simp [decodeFields, decodeMajor2B, fld_cat_below, fld_cat_above])
theorem vsel (x0 x1 x2 x3 x4) : Statement (.vsel x0 x1 x2 x3 x4) :=
  of_fields rfl (by simp [decodeFields, decodeMajor2B, fld_cat_below, fld_cat_above])
theorem mand (x0 x1 x2 x3 x4) : Statement (.mand x0 x1 x2 x3 x4) :=
  of_fields rfl (by simp [decodeFields, decodeMajor2B, fld_cat_below, fld_cat_above])
theorem mor (x0 x1 x2 x3 x4) : Statement (.mor x0 x1 x2 x3 x4) :=
  of_fields rfl (by simp [decodeFields, decodeMajor2B, fld_cat_below, fld_cat_above])
theorem mxor (x0 x1 x2 x3 x4) : Statement (.mxor x0 x1 x2 x3 x4) :=
  of_fields rfl (by simp [decodeFields, decodeMajor2B, fld_cat_below, fld_cat_above])
theorem mpop (x0 x1 x2 x3 x4) : Statement (.mpop x0 x1 x2 x3 x4) :=
  of_fields rfl (by simp [decodeFields, decodeMajor2B, fld_cat_below, fld_cat_above])
theorem vperm (x0 x1 x2 x3 x4 x5) : Statement (.vperm x0 x1 x2 x3 x4 x5) :=
  of_fields rfl (by simp [decodeFields, decodeMajor2C, fld_cat_below, fld_cat_above])
theorem vshf (x0 x1 x2 x3 x4 x5) : Statement (.vshf x0 x1 x2 x3 x4 x5) :=
  of_fields rfl (by simp [decodeFields, decodeMajor2C, fld_cat_below, fld_cat_above])
theorem vsld (x0 x1 x2 x3 x4) : Statement (.vsld x0 x1 x2 x3 x4) :=
  of_fields rfl (by simp [decodeFields, decodeMajor2C, fld_cat_below, fld_cat_above])
theorem vbc (x0 x1 x2 x3 x4) : Statement (.vbc x0 x1 x2 x3 x4) :=
  of_fields rfl (by simp [decodeFields, decodeMajor2C, fld_cat_below, fld_cat_above])
theorem vext (x0 x1 x2 x3 x4) : Statement (.vext x0 x1 x2 x3 x4) :=
  of_fields rfl (by simp [decodeFields, decodeMajor2C, fld_cat_below, fld_cat_above])
theorem vins (x0 x1 x2 x3 x4) : Statement (.vins x0 x1 x2 x3 x4) :=
  of_fields rfl (by simp [decodeFields, decodeMajor2C, fld_cat_below, fld_cat_above])
theorem vzip (x0 x1 x2 x3 x4 x5) : Statement (.vzip x0 x1 x2 x3 x4 x5) :=
  of_fields rfl (by simp [decodeFields, decodeMajor2C, fld_cat_below, fld_cat_above])
theorem vuzp (x0 x1 x2 x3 x4 x5) : Statement (.vuzp x0 x1 x2 x3 x4 x5) :=
  of_fields rfl (by simp [decodeFields, decodeMajor2C, fld_cat_below, fld_cat_above])
theorem vredadd (x0 x1 x2 x3 x4) : Statement (.vredadd x0 x1 x2 x3 x4) :=
  of_fields rfl (by simp [decodeFields, decodeMajor2C, fld_cat_below, fld_cat_above])
theorem vredmax (x0 x1 x2 x3 x4) : Statement (.vredmax x0 x1 x2 x3 x4) :=
  of_fields rfl (by simp [decodeFields, decodeMajor2C, fld_cat_below, fld_cat_above])
theorem vredmin (x0 x1 x2 x3 x4) : Statement (.vredmin x0 x1 x2 x3 x4) :=
  of_fields rfl (by simp [decodeFields, decodeMajor2C, fld_cat_below, fld_cat_above])
theorem vfredadd (x0 x1 x2 x3 x4) : Statement (.vfredadd x0 x1 x2 x3 x4) :=
  of_fields rfl (by simp [decodeFields, decodeMajor2C, fld_cat_below, fld_cat_above])
theorem vfamax (x0 x1 x2 x3 x4) : Statement (.vfamax x0 x1 x2 x3 x4) :=
  of_fields rfl (by simp [decodeFields, decodeMajor2C, fld_cat_below, fld_cat_above])
theorem vcvt (x0 x1 x2 x3 x4 x5) : Statement (.vcvt x0 x1 x2 x3 x4 x5) :=
  of_fields rfl (by simp [decodeFields, decodeMajor2D, fld_cat_below, fld_cat_above])
theorem vqnt (x0 x1 x2 x3 x4 x5) : Statement (.vqnt x0 x1 x2 x3 x4 x5) :=
  of_fields rfl (by simp [decodeFields, decodeMajor2D, fld_cat_below, fld_cat_above])
theorem vdqnt (x0 x1 x2 x3 x4 x5) : Statement (.vdqnt x0 x1 x2 x3 x4 x5) :=
  of_fields rfl (by simp [decodeFields, decodeMajor2D, fld_cat_below, fld_cat_above])
theorem vscl (x0 x1 x2 x3 x4 x5) : Statement (.vscl x0 x1 x2 x3 x4 x5) :=
  of_fields rfl (by simp [decodeFields, decodeMajor2D, fld_cat_below, fld_cat_above])
theorem vunpk (x0 x1 x2 x3 x4 x5) : Statement (.vunpk x0 x1 x2 x3 x4 x5) :=
  of_fields rfl (by simp [decodeFields, decodeMajor2D, fld_cat_below, fld_cat_above])
theorem vimm (x0 x1 x2 x3) : Statement (.vimm x0 x1 x2 x3) :=
  of_fields rfl (by simp [decodeFields, decodeMajor2E, fld_cat_below, fld_cat_above])
theorem fmt (x0 x1 x2 x3 x4 x5) : Statement (.fmt x0 x1 x2 x3 x4 x5) :=
  of_fields rfl (by simp [decodeFields, decodeMajor2F, fld_cat_below, fld_cat_above])
theorem ctrAdd (x0 x1 x2 x3 x4) : Statement (.ctrAdd x0 x1 x2 x3 x4) :=
  of_fields rfl (by simp [decodeFields, decodeMajor30, fld_cat_below, fld_cat_above])
theorem ctrMax (x0 x1 x2 x3 x4) : Statement (.ctrMax x0 x1 x2 x3 x4) :=
  of_fields rfl (by simp [decodeFields, decodeMajor30, fld_cat_below, fld_cat_above])
theorem ctrWait (x0 x1 x2 x3 x4) : Statement (.ctrWait x0 x1 x2 x3 x4) :=
  of_fields rfl (by simp [decodeFields, decodeMajor30, fld_cat_below, fld_cat_above])
theorem ctrTest (x0 x1 x2 x3 x4) : Statement (.ctrTest x0 x1 x2 x3 x4) :=
  of_fields rfl (by simp [decodeFields, decodeMajor30, fld_cat_below, fld_cat_above])
theorem ctrRead (x0 x1 x2) : Statement (.ctrRead x0 x1 x2) :=
  of_fields rfl (by simp [decodeFields, decodeMajor30, fld_cat_below, fld_cat_above])
theorem ctrInit (x0 x1 x2 x3 x4) : Statement (.ctrInit x0 x1 x2 x3 x4) :=
  of_fields rfl (by simp [decodeFields, decodeMajor30, fld_cat_below, fld_cat_above])
theorem scoOpen (x0 x1 x2 x3) : Statement (.scoOpen x0 x1 x2 x3) :=
  of_fields rfl (by simp [decodeFields, decodeMajor31, fld_cat_below, fld_cat_above])
theorem scoClose (x0 x1 x2) : Statement (.scoClose x0 x1 x2) :=
  of_fields rfl (by simp [decodeFields, decodeMajor31, fld_cat_below, fld_cat_above])
theorem scoCancel (x0 x1) : Statement (.scoCancel x0 x1) :=
  of_fields rfl (by simp [decodeFields, decodeMajor31, fld_cat_below, fld_cat_above])
theorem scoSucceed (x0 x1 x2) : Statement (.scoSucceed x0 x1 x2) :=
  of_fields rfl (by simp [decodeFields, decodeMajor31, fld_cat_below, fld_cat_above])
theorem scoSpawn (x0 x1 x2 x3) : Statement (.scoSpawn x0 x1 x2 x3) :=
  of_fields rfl (by simp [decodeFields, decodeMajor31, fld_cat_below, fld_cat_above])
theorem scoLaunch (x0 x1 x2 x3) : Statement (.scoLaunch x0 x1 x2 x3) :=
  of_fields rfl (by simp [decodeFields, decodeMajor31, fld_cat_below, fld_cat_above])
theorem scoShield (x0) : Statement (.scoShield x0) :=
  of_fields rfl (by simp [decodeFields, decodeMajor31, fld_cat_below, fld_cat_above])
theorem scoUnshield (x0) : Statement (.scoUnshield x0) :=
  of_fields rfl (by simp [decodeFields, decodeMajor31, fld_cat_below, fld_cat_above])
theorem scoPoll (x0 x1) : Statement (.scoPoll x0 x1) :=
  of_fields rfl (by simp [decodeFields, decodeMajor31, fld_cat_below, fld_cat_above])
theorem scoId (x0 x1) : Statement (.scoId x0 x1) :=
  of_fields rfl (by simp [decodeFields, decodeMajor31, fld_cat_below, fld_cat_above])
theorem lfDiscard (x0 x1) : Statement (.lfDiscard x0 x1) :=
  of_fields rfl (by simp [decodeFields, decodeMajor32, fld_cat_below, fld_cat_above])
theorem lfMove (x0 x1 x2) : Statement (.lfMove x0 x1 x2) :=
  of_fields rfl (by simp [decodeFields, decodeMajor32, fld_cat_below, fld_cat_above])
theorem lfStat (x0 x1 x2) : Statement (.lfStat x0 x1 x2) :=
  of_fields rfl (by simp [decodeFields, decodeMajor32, fld_cat_below, fld_cat_above])
theorem mxLease (x0 x1) : Statement (.mxLease x0 x1) :=
  of_fields rfl (by simp [decodeFields, decodeMajor34, fld_cat_below, fld_cat_above])
theorem mxFree (x0) : Statement (.mxFree x0) :=
  of_fields rfl (by simp [decodeFields, decodeMajor34, fld_cat_below, fld_cat_above])
theorem mxOpb (x0 x1 x2 x3) : Statement (.mxOpb x0 x1 x2 x3) :=
  of_fields rfl (by simp [decodeFields, decodeMajor34, fld_cat_below, fld_cat_above])
theorem mxMma (x0 x1 x2 x3) : Statement (.mxMma x0 x1 x2 x3) :=
  of_fields rfl (by simp [decodeFields, decodeMajor34, fld_cat_below, fld_cat_above])
theorem mxLd (x0 x1 x2) : Statement (.mxLd x0 x1 x2) :=
  of_fields rfl (by simp [decodeFields, decodeMajor34, fld_cat_below, fld_cat_above])
theorem mxSt (x0 x1 x2) : Statement (.mxSt x0 x1 x2) :=
  of_fields rfl (by simp [decodeFields, decodeMajor34, fld_cat_below, fld_cat_above])
theorem mxZero (x0) : Statement (.mxZero x0) :=
  of_fields rfl (by simp [decodeFields, decodeMajor34, fld_cat_below, fld_cat_above])
theorem mxChk (x0 x1) : Statement (.mxChk x0 x1) :=
  of_fields rfl (by simp [decodeFields, decodeMajor34, fld_cat_below, fld_cat_above])
theorem ladSet (x0 x1 x2) : Statement (.ladSet x0 x1 x2) :=
  of_fields rfl (by simp [decodeFields, decodeMajor35, fld_cat_below, fld_cat_above])
theorem ladGet (x0 x1 x2) : Statement (.ladGet x0 x1 x2) :=
  of_fields rfl (by simp [decodeFields, decodeMajor35, fld_cat_below, fld_cat_above])
theorem ladGo (x0 x1) : Statement (.ladGo x0 x1) :=
  of_fields rfl (by simp [decodeFields, decodeMajor35, fld_cat_below, fld_cat_above])
theorem ladStat (x0 x1 x2) : Statement (.ladStat x0 x1 x2) :=
  of_fields rfl (by simp [decodeFields, decodeMajor35, fld_cat_below, fld_cat_above])
theorem cruSet (x0 x1 x2) : Statement (.cruSet x0 x1 x2) :=
  of_fields rfl (by simp [decodeFields, decodeMajor36, fld_cat_below, fld_cat_above])
theorem cruGet (x0 x1 x2) : Statement (.cruGet x0 x1 x2) :=
  of_fields rfl (by simp [decodeFields, decodeMajor36, fld_cat_below, fld_cat_above])
theorem cruGo (x0 x1) : Statement (.cruGo x0 x1) :=
  of_fields rfl (by simp [decodeFields, decodeMajor36, fld_cat_below, fld_cat_above])
theorem cruStat (x0 x1 x2) : Statement (.cruStat x0 x1 x2) :=
  of_fields rfl (by simp [decodeFields, decodeMajor36, fld_cat_below, fld_cat_above])
theorem sysCall (x0 x1) : Statement (.sysCall x0 x1) :=
  of_fields rfl (by simp [decodeFields, decodeMajor3C, fld_cat_below, fld_cat_above])
theorem trap (x0 x1) : Statement (.trap x0 x1) :=
  of_fields rfl (by simp [decodeFields, decodeMajor3C, fld_cat_below, fld_cat_above])
theorem eret (x0) : Statement (.eret x0) :=
  of_fields rfl (by simp [decodeFields, decodeMajor3C, fld_cat_below, fld_cat_above])
theorem yield (x0) : Statement (.yield x0) :=
  of_fields rfl (by simp [decodeFields, decodeMajor3C, fld_cat_below, fld_cat_above])
theorem brk (x0) : Statement (.brk x0) :=
  of_fields rfl (by simp [decodeFields, decodeMajor3C, fld_cat_below, fld_cat_above])
theorem halt (x0) : Statement (.halt x0) :=
  of_fields rfl (by simp [decodeFields, decodeMajor3C, fld_cat_below, fld_cat_above])
theorem tlbInv (x0 x1 x2) : Statement (.tlbInv x0 x1 x2) :=
  of_fields rfl (by simp [decodeFields, decodeMajor3C, fld_cat_below, fld_cat_above])
theorem tlbAll (x0 x1) : Statement (.tlbAll x0 x1) :=
  of_fields rfl (by simp [decodeFields, decodeMajor3C, fld_cat_below, fld_cat_above])
theorem csrr (x0 x1 x2) : Statement (.csrr x0 x1 x2) :=
  of_fields rfl (by simp [decodeFields, decodeMajor3D, fld_cat_below, fld_cat_above])
theorem csrw (x0 x1 x2 x3) : Statement (.csrw x0 x1 x2 x3) :=
  of_fields rfl (by simp [decodeFields, decodeMajor3D, fld_cat_below, fld_cat_above])
theorem csrs (x0 x1 x2 x3) : Statement (.csrs x0 x1 x2 x3) :=
  of_fields rfl (by simp [decodeFields, decodeMajor3D, fld_cat_below, fld_cat_above])
theorem csrc (x0 x1 x2 x3) : Statement (.csrc x0 x1 x2 x3) :=
  of_fields rfl (by simp [decodeFields, decodeMajor3D, fld_cat_below, fld_cat_above])
theorem registerWrite (x0 x1) : Statement (.registerWrite x0 x1) := of_none rfl
theorem crossDieInvalidation (x0 x1 x2) : Statement (.crossDieInvalidation x0 x1 x2) := of_none rfl
theorem invalidationAck (x0) : Statement (.invalidationAck x0) := of_none rfl
theorem settleMarker (x0 x1) : Statement (.settleMarker x0 x1) := of_none rfl
theorem settleReport (x0) : Statement (.settleReport x0) := of_none rfl
theorem cancelBroadcast (x0 x1 x2) : Statement (.cancelBroadcast x0 x1 x2) := of_none rfl
theorem scopeDeath (x0 x1) : Statement (.scopeDeath x0 x1) := of_none rfl
theorem scopeClosing (x0 x1) : Statement (.scopeClosing x0 x1) := of_none rfl
theorem strandResume (x0) : Statement (.strandResume x0) := of_none rfl
theorem teamPlacement (x0) : Statement (.teamPlacement x0) := of_none rfl
theorem quantumEnd (x0 x1) : Statement (.quantumEnd x0 x1) := of_none rfl
theorem leafShrink (x0 x1) : Statement (.leafShrink x0 x1) := of_none rfl
theorem leafConversion (x0 x1 x2 x3) : Statement (.leafConversion x0 x1 x2 x3) := of_none rfl
theorem leafMoveDone (x0 x1) : Statement (.leafMoveDone x0 x1) := of_none rfl
theorem ladleSegment (x0 x1) : Statement (.ladleSegment x0 x1) := of_none rfl
theorem ladleTransferEnd (x0 x1) : Statement (.ladleTransferEnd x0 x1) := of_none rfl
theorem anvilCommandRun (x0) : Statement (.anvilCommandRun x0) := of_none rfl
theorem anvilRunEnd (x0) : Statement (.anvilRunEnd x0) := of_none rfl
theorem collectiveEnd (x0 x1) : Statement (.collectiveEnd x0 x1) := of_none rfl
theorem launchEntryConsume (x0 x1) : Statement (.launchEntryConsume x0 x1) := of_none rfl
theorem completionRecord (x0 x1) : Statement (.completionRecord x0 x1) := of_none rfl
theorem serviceRingPost (x0) : Statement (.serviceRingPost x0) := of_none rfl
theorem ownershipGrant (x0 x1) : Statement (.ownershipGrant x0 x1) := of_none rfl
theorem benchRequestDispatch (x0) : Statement (.benchRequestDispatch x0) := of_none rfl
theorem benchReply (x0) : Statement (.benchReply x0) := of_none rfl
theorem syscallNull (x0) : Statement (.syscallNull x0) := of_none rfl
theorem syscallHost (x0) : Statement (.syscallHost x0) := of_none rfl
theorem syscallLpnAssign (x0) : Statement (.syscallLpnAssign x0) := of_none rfl
theorem syscallFirmware (x0) : Statement (.syscallFirmware x0) := of_none rfl
theorem interrupt (x0) : Statement (.interrupt x0) := of_none rfl
theorem faultQueueSlotFree (x0) : Statement (.faultQueueSlotFree x0) := of_none rfl
theorem illegalInstruction (x0) : Statement (.illegalInstruction x0) := of_none rfl
theorem steal (x0 x1) : Statement (.steal x0 x1) := of_none rfl
theorem stealWaitExpiry (x0) : Statement (.stealWaitExpiry x0) := of_none rfl
theorem preEmptSlot (x0 x1) : Statement (.preEmptSlot x0 x1) := of_none rfl
theorem preEmptTeam (x0 x1) : Statement (.preEmptTeam x0 x1) := of_none rfl
theorem pageWalk (x0 x1 x2) : Statement (.pageWalk x0 x1 x2) := of_none rfl
theorem collectiveFlit (x0 x1 x2 x3 x4 x5) : Statement (.collectiveFlit x0 x1 x2 x3 x4 x5) := of_none rfl
theorem collectiveReady (x0 x1 x2) : Statement (.collectiveReady x0 x1 x2) := of_none rfl
theorem collectiveCommit (x0 x1) : Statement (.collectiveCommit x0 x1) := of_none rfl
theorem collectiveAbort (x0 x1) : Statement (.collectiveAbort x0 x1) := of_none rfl
theorem errorDetected (x0 x1) : Statement (.errorDetected x0 x1) := of_none rfl
theorem pcieCompletion (x0 x1) : Statement (.pcieCompletion x0 x1) := of_none rfl
theorem peerAcknowledgement (x0 x1) : Statement (.peerAcknowledgement x0 x1) := of_none rfl
theorem settleRoundOpen : Statement .settleRoundOpen := of_none rfl
theorem deviceReset : Statement .deviceReset := of_none rfl
theorem imageVerify (x0) : Statement (.imageVerify x0) := of_none rfl
theorem claim (x0 x1) : Statement (.claim x0 x1) := of_none rfl
theorem leaderElectionExpiry : Statement .leaderElectionExpiry := of_none rfl
theorem loadMessage (x0 x1 x2 x3) : Statement (.loadMessage x0 x1 x2 x3) := of_none rfl
theorem resendRequest (x0 x1 x2) : Statement (.resendRequest x0 x1 x2) := of_none rfl
theorem loadTimeout : Statement .loadTimeout := of_none rfl
theorem readCopyRequest (x0 x1) : Statement (.readCopyRequest x0 x1) := of_none rfl
theorem ownershipRequest (x0 x1) : Statement (.ownershipRequest x0 x1) := of_none rfl
theorem dieFence (x0) : Statement (.dieFence x0) := of_none rfl
theorem scopeKill (x0 x1) : Statement (.scopeKill x0 x1) := of_none rfl
theorem teamBlockPoolPush (x0 x1) : Statement (.teamBlockPoolPush x0 x1) := of_none rfl
theorem contextBlockPoolPush (x0 x1) : Statement (.contextBlockPoolPush x0 x1) := of_none rfl
theorem swapAreaPoolPush (x0 x1) : Statement (.swapAreaPoolPush x0 x1) := of_none rfl
theorem reservationWrite (x0 x1 x2) : Statement (.reservationWrite x0 x1 x2) := of_none rfl
theorem lpnEntryWrite (x0 x1 x2) : Statement (.lpnEntryWrite x0 x1 x2) := of_none rfl
theorem powerStateWrite (x0 x1) : Statement (.powerStateWrite x0 x1) := of_none rfl
theorem collectiveTimeout (x0 x1) : Statement (.collectiveTimeout x0 x1) := of_none rfl
theorem flitReceive (x0 x1) : Statement (.flitReceive x0 x1) := of_none rfl
theorem flitCounterLimit (x0) : Statement (.flitCounterLimit x0) := of_none rfl
theorem portLaneChange (x0 x1) : Statement (.portLaneChange x0 x1) := of_none rfl
theorem getVersion (x0) : Statement (.getVersion x0) := of_none rfl
theorem getCapabilities (x0) : Statement (.getCapabilities x0) := of_none rfl
theorem negotiateAlgorithms (x0 x1) : Statement (.negotiateAlgorithms x0 x1) := of_none rfl
theorem getDigests (x0) : Statement (.getDigests x0) := of_none rfl
theorem getCertificate (x0 x1 x2) : Statement (.getCertificate x0 x1 x2) := of_none rfl
theorem challenge (x0 x1) : Statement (.challenge x0 x1) := of_none rfl
theorem getMeasurements (x0 x1) : Statement (.getMeasurements x0 x1) := of_none rfl
theorem keyExchange (x0 x1) : Statement (.keyExchange x0 x1) := of_none rfl
theorem finish (x0 x1) : Statement (.finish x0 x1) := of_none rfl
theorem keyUpdate (x0 x1) : Statement (.keyUpdate x0 x1) := of_none rfl
theorem endSession (x0) : Statement (.endSession x0) := of_none rfl
theorem peerWrite (x0 x1 x2) : Statement (.peerWrite x0 x1 x2) := of_none rfl
theorem peerRead (x0 x1 x2) : Statement (.peerRead x0 x1 x2) := of_none rfl
theorem peerAtomic (x0 x1 x2 x3 x4) : Statement (.peerAtomic x0 x1 x2 x3 x4) := of_none rfl
theorem peerAdd (x0 x1 x2 x3) : Statement (.peerAdd x0 x1 x2 x3) := of_none rfl
theorem peerCounterRead (x0 x1 x2) : Statement (.peerCounterRead x0 x1 x2) := of_none rfl
theorem windowAdd (x0 x1 x2 x3) : Statement (.windowAdd x0 x1 x2 x3) := of_none rfl
theorem windowRead (x0 x1 x2) : Statement (.windowRead x0 x1 x2) := of_none rfl
theorem apertureWrite (x0 x1 x2) : Statement (.apertureWrite x0 x1 x2) := of_none rfl
theorem apertureRead (x0 x1 x2) : Statement (.apertureRead x0 x1 x2) := of_none rfl
theorem atomicopRequest (x0 x1) : Statement (.atomicopRequest x0 x1) := of_none rfl
theorem doorbell (x0 x1 x2) : Statement (.doorbell x0 x1 x2) := of_none rfl
theorem queueReset (x0 x1) : Statement (.queueReset x0 x1) := of_none rfl
theorem queueRingBaseWrite (x0 x1 x2) : Statement (.queueRingBaseWrite x0 x1 x2) := of_none rfl
theorem replyTag (x0 x1) : Statement (.replyTag x0 x1) := of_none rfl
theorem transferToProcessor (x0 x1) : Statement (.transferToProcessor x0 x1) := of_none rfl
theorem lateFramePush (x0 x1 x2) : Statement (.lateFramePush x0 x1 x2) := of_none rfl
theorem jobPointerWrite (x0 x1) : Statement (.jobPointerWrite x0 x1) := of_none rfl
theorem pcieLinkStateChange : Statement .pcieLinkStateChange := of_none rfl
theorem resolveRetry (x0 x1) : Statement (.resolveRetry x0 x1) := of_none rfl
theorem resolveResume (x0 x1) : Statement (.resolveResume x0 x1) := of_none rfl
theorem resolveRetire (x0 x1) : Statement (.resolveRetire x0 x1) := of_none rfl
theorem resolveIgnored (x0 x1) : Statement (.resolveIgnored x0 x1) := of_none rfl
theorem assayStart (x0 x1) : Statement (.assayStart x0 x1) := of_none rfl
theorem assayEnd (x0 x1) : Statement (.assayEnd x0 x1) := of_none rfl
theorem patinaSample (x0 x1) : Statement (.patinaSample x0 x1) := of_none rfl
theorem touchstoneHash (x0 x1 x2) : Statement (.touchstoneHash x0 x1 x2) := of_none rfl
theorem touchstoneTimeout (x0) : Statement (.touchstoneTimeout x0) := of_none rfl
theorem spdmResponse (x0 x1) : Statement (.spdmResponse x0 x1) := of_none rfl
theorem firmwareCoreRestart (x0) : Statement (.firmwareCoreRestart x0) := of_none rfl
theorem packagePowerLoss : Statement .packagePowerLoss := of_none rfl

end Sys2Proof.Laws.F
end

