-- ==== Sys2Proof/Laws/Tables.lean ====
section
/-!
SUPPORT. Tables by number, and the parts of the device that are kept in them: a read after a write.
-/
namespace Sys2Proof.Machine

set_option Elab.async false

/-- A lookup after an entry is set. -/
theorem mapGet_mapSet {α : Type} (l : List (Nat × α)) (a b : Nat) (v d : α) :
    mapGet (mapSet l a v) b d = if b = a then v else mapGet l b d := by
  induction l with
  | nil => simp only [mapSet, mapGet]
  | cons e l ih =>
    obtain ⟨k, w⟩ := e
    simp only [mapSet]
    split
    · simp only [mapGet]
    · split
      · rename_i h
        subst h
        simp only [mapGet]
        split <;> rfl
      · simp only [mapGet, ih]
        split
        · rw [if_neg (by omega)]
        · rfl

/-- The same for a lookup that may find nothing. -/
theorem mapGet?_mapSet {α : Type} (l : List (Nat × α)) (a b : Nat) (v : α) :
    mapGet? (mapSet l a v) b = if b = a then some v else mapGet? l b := by
  induction l with
  | nil => simp only [mapSet, mapGet?]
  | cons e l ih =>
    obtain ⟨k, w⟩ := e
    simp only [mapSet]
    split
    · simp only [mapGet?]
    · split
      · rename_i h
        subst h
        simp only [mapGet?]
        split <;> rfl
      · simp only [mapGet?, ih]
        split
        · rw [if_neg (by omega)]
        · rfl

/-- An entry that is taken out is not found. -/
theorem mapGet?_mapDel {α : Type} (l : List (Nat × α)) (a b : Nat) :
    mapGet? (mapDel l a) b = if b = a then none else mapGet? l b := by
  induction l with
  | nil => simp [mapDel, mapGet?]
  | cons e l ih =>
    obtain ⟨k, w⟩ := e
    simp only [mapDel] at ih
    by_cases hk : k = a
    · subst hk
      simp only [mapDel, List.filter, beq_self_eq_true, Bool.not_true, ih, mapGet?]
      split <;> rfl
    · simp only [mapDel, List.filter, beq_eq_false_iff_ne.mpr hk, Bool.not_false, mapGet?, ih]
      split
      · rw [if_neg (by omega)]
      · rfl

/-! ### Cores, clusters, dies and functions -/

/-- A core after a core is changed. -/
theorem State.core_modCore (s : State) (c k : CoreId) (f : Core → Core) :
    (s.modCore c f).core k = if k = c then f (s.core c) else s.core k := by
  simp only [State.core, State.modCore, State.setCore, mapGet_mapSet, Fin.ext_iff]

/-- An entry of a vector after one is set. -/
theorem get_set {α : Type} {n : Nat} (v : Vector α n) (i k : Fin n) (x : α) :
    (v.set i x).get k = if k = i then x else v.get k := by
  by_cases h : k = i
  · subst h
    rw [if_pos rfl]
    exact Vector.getElem_set_self _
  · rw [if_neg h]
    exact Vector.getElem_set_ne i.isLt k.isLt fun e => h (Fin.ext e.symm)

/-- A die after a die is changed. -/
theorem State.die_modDie (s : State) (d k : DieId) (f : Die → Die) :
    (s.modDie d f).die k = if k = d then f (s.die d) else s.die k := by
  exact get_set s.dies d k (f (s.dies.get d))

/-- A function after a function is changed. -/
theorem State.fn_modFn (s : State) (f k : FnId) (g : Function → Function) :
    (s.modFn f g).fn k = if k = f then g (s.fn f) else s.fn k := by
  exact get_set s.funcs f k (g (s.funcs.get f))

/-! ### Values in memory -/

/-- Bytes read outside those written. -/
theorem Mem.readBytes_writeBytes_apart {m : Mem} (a c n : Nat) (bs : List Byte) (h : m.wf = true)
    (out : a + bs.length ≤ c ∨ c + n ≤ a) : (m.writeBytes a bs).readBytes c n = m.readBytes c n := by
  apply List.ext_getElem?
  intro i
  by_cases hi : i < n
  · rw [Mem.readBytes_getElem? _ _ _ _ hi, Mem.readBytes_getElem? _ _ _ _ hi,
      Mem.read_writeBytes_outside a (c + i) bs h (by omega)]
  · rw [List.getElem?_eq_none (by simp; omega), List.getElem?_eq_none (by simp; omega)]

/-- Memory after the device writes bytes. -/
@[simp] theorem State.putBytes_mem (s : State) (a : Nat) (bs : List Byte) :
    (s.putBytes a bs).mem = s.mem.writeBytes a bs := by
  unfold State.putBytes
  split
  · rename_i h
    rw [List.isEmpty_iff] at h
    subst h
    rfl
  · rfl

/-- The pieces that a write of the device falls into lie within it. -/
theorem sectorRuns_within {a : Nat} {bs : List Byte} {x : Nat × List Byte} (h : x ∈ sectorRuns a bs) :
    a ≤ x.1 ∧ x.1 + x.2.length ≤ a + bs.length := by
  simp only [sectorRuns, List.mem_map, List.mem_range] at h
  obtain ⟨i, hi, rfl⟩ := h
  simp only [List.length_take, List.length_drop]
  omega

/-- A write of the device that no fence and no poison keeps from memory (R55, R56). -/
theorem State.putBlock_mem (s : State) (a : Nat) (bs : List Byte) (hf : s.fencedAt a = false)
    (hp : s.partlyPoisoned a bs.length = false) : (s.putBlock a bs).mem = s.mem.writeBytes a bs := by
  simp [State.putBlock, hf, hp, State.dropCopies]

theorem State.putN_mem (s : State) (a n v : Nat) (hf : s.fencedAt a = false) (hp : s.partlyPoisoned a n = false) :
    (s.putN a n v).mem = s.mem.writeBytes a (leBytes n v) :=
  State.putBlock_mem s a _ hf (by simpa using hp)

theorem State.put64_mem (s : State) (a v : Nat) (hf : s.fencedAt a = false) (hp : s.partlyPoisoned a 8 = false) :
    (s.put64 a v).mem = s.mem.writeBytes a (leBytes 8 v) :=
  State.putN_mem s a 8 v hf hp

/-- Bytes read outside all of the pieces written. -/
theorem State.bytes_putRuns_apart (l : List (Nat × List Byte)) (c k : Nat) (s : State) (h : s.mem.wf = true)
    (out : ∀ x ∈ l, x.1 + x.2.length ≤ c ∨ c + k ≤ x.1) :
    (l.foldl (fun (s : State) x => (s.putBytes x.1 x.2).dropCopies x.1 x.2.length) s).bytes c k = s.bytes c k := by
  induction l generalizing s with
  | nil => rfl
  | cons x l ih =>
    have hm : ((s.putBytes x.1 x.2).dropCopies x.1 x.2.length).mem = s.mem.writeBytes x.1 x.2 := by
      simp [State.dropCopies]
    rw [List.foldl_cons, ih _ (by rw [hm]; exact Mem.wf_writeBytes _ _ h) fun y hy => out y (List.mem_cons_of_mem _ hy)]
    simp only [State.bytes, hm]
    exact Mem.readBytes_writeBytes_apart _ _ _ _ h (out x (List.mem_cons_self ..))

/-- Bytes read outside what the device writes. -/
theorem State.bytes_putBlock_apart (s : State) (a : Nat) (bs : List Byte) (c k : Nat) (h : s.mem.wf = true)
    (out : a + bs.length ≤ c ∨ c + k ≤ a) : (s.putBlock a bs).bytes c k = s.bytes c k := by
  unfold State.putBlock
  split
  · rfl
  · split
    · refine State.bytes_putRuns_apart _ c k s h fun x hx => ?_
      have := sectorRuns_within (List.mem_filter.mp hx).1
      omega
    · simp only [State.bytes, State.dropCopies, State.putBytes_mem]
      exact Mem.readBytes_writeBytes_apart a c k _ h out

/-- A value read where it has been written. -/
theorem State.memN_putN (s : State) (a n v : Nat) (h : s.mem.wf = true) (hf : s.fencedAt a = false)
    (hp : s.partlyPoisoned a n = false) : (s.putN a n v).memN a n = v % 256 ^ n := by
  have := Mem.readBytes_writeBytes a (leBytes n v) h
  simp only [leBytes_length] at this
  simp only [State.memN, State.bytes, State.putN_mem s a n v hf hp, this, leNat_leBytes]

/-- A value read outside what has been written. -/
theorem State.memN_putN_apart (s : State) (a n v c k : Nat) (h : s.mem.wf = true) (out : a + n ≤ c ∨ c + k ≤ a) :
    (s.putN a n v).memN c k = s.memN c k := by
  simp only [State.memN, State.putN]
  rw [State.bytes_putBlock_apart s a _ c k h (by simpa using out)]

end Sys2Proof.Machine
end

