-- ==== Sys2Proof/Tests/Slice0.lean ====
section
/-!
SUPPORT. Tests of the model: well-formedness, decoding, single steps, and for every statement of
Sys2Proof/Certificates/Slice0/Obligations.lean concrete states and operands that meet its hypotheses. Expected words and
results are those that spec/ prints or that its rules give by hand.
-/
namespace Sys2Proof.Tests

open Sys2Proof.Machine

set_option Elab.async false

/-! ### Well-formedness (R217): one ill-formed term for each check -/

theorem test_wf_fence_scope : (Instr.fence 0 4).wf = true ∧ (Instr.fence 0 5).wf = false := by decide
theorem test_wf_amo_scope : (Instr.amoAdd 0 1 2 3 4).wf = true ∧ (Instr.amoAdd 0 1 2 3 7).wf = false := by decide
theorem test_wf_ctr_scope : (Instr.ctrWait 0 1 2 3 4).wf = true ∧ (Instr.ctrWait 0 1 2 3 6).wf = false := by decide
theorem test_wf_acquire_scope : (Instr.ldCAcq 0 1 2 4).wf = true ∧ (Instr.ldCAcq 0 1 2 5).wf = false := by decide
theorem test_wf_release_scope : (Instr.stBRel 0 1 2 4).wf = true ∧ (Instr.stBRel 0 1 2 5).wf = false := by decide
theorem test_wf_vcmp_code : (Instr.vcmp 0 2 1 2 3 0 5).wf = true ∧ (Instr.vcmp 0 2 1 2 3 0 6).wf = false := by decide
theorem test_wf_vfcmp_code : (Instr.vfcmp 0 0 1 2 3 0 4).wf = true ∧ (Instr.vfcmp 0 0 1 2 3 0 5).wf = false := by decide
theorem test_wf_mask_not : (Instr.mand 0 1 2 3 1).wf = true ∧ (Instr.mor 0 1 2 3 2).wf = false := by decide
theorem test_wf_vbc_lane : (Instr.vbc 0 4 5 31 2).wf = true ∧ (Instr.vbc 0 4 5 32 2).wf = false := by decide
theorem test_wf_vext_lane : (Instr.vext 0 8 5 63 1).wf = true ∧ (Instr.vext 0 8 5 64 1).wf = false := by decide
theorem test_wf_vins_lane : (Instr.vins 0 4 9 15 3).wf = true ∧ (Instr.vins 0 4 9 16 3).wf = false := by decide
theorem test_wf_vunpk : (Instr.vunpk 0 4 5 1 0 1).wf = true ∧ (Instr.vunpk 0 4 5 2 0 1).wf = false ∧
    (Instr.vunpk 0 4 5 1 0 2).wf = false := by decide
theorem test_wf_vimm_type : (Instr.vimm 0 4 4 7).wf = true ∧ (Instr.vimm 0 4 5 7).wf = false := by decide
theorem test_wf_lad_number : (Instr.ladSet 0 9 8).wf = true ∧ (Instr.ladSet 0 9 9).wf = false ∧
    (Instr.ladGet 0 9 8).wf = false := by decide
theorem test_wf_cru_number : (Instr.cruSet 0 9 7).wf = true ∧ (Instr.cruSet 0 9 8).wf = false ∧
    (Instr.cruGet 0 8 9).wf = false := by decide
theorem test_wf_csr_number : (Instr.csrr 0 8 0x032).wf = true ∧ (Instr.csrw 0 8 9 0x033).wf = false := by decide

/-! ### Decoding: words that spec/11_encoding.md to spec/16_system_isa.md print beside their assembly text -/

/-- The decoder reads an instruction from a word. -/
def reads (w : Nat) (i : Instr) : Prop := decodeTableWord 32 w = some i

theorem test_decode_scalar :
    reads 0x01209280 (.add 0 8 9 10) ∧ reads 0x01209285 (.div 0 8 9 10) ∧
    reads 0x01209295 (.sel 0 8 9 10) ∧ reads 0x01209016 (.clz 0 8 9) := by
  unfold reads; decide

theorem test_decode_immediate :
    reads 0x02209FFC (.addi 0 8 9 0xFFC) ∧ reads 0x03208040 (.andi 0 8 8 0x40) ∧
    reads 0x07209043 (.slli 0 8 9 3) ∧ reads 0x08212345 (.lui 0 8 0x12345) := by
  unfold reads; decide

theorem test_decode_capability :
    reads 0x09209280 (.capSet 0 8 9 10) ∧ reads 0x09209281 (.capAnd 0 8 9 10) ∧
    reads 0x09209004 (.capLen 0 8 9) ∧ reads 0x09209007 (.capClr 0 8 9) ∧
    reads 0x09209288 (.capSub 0 8 9 10) ∧ reads 0x0A209040 (.capInc 0 8 9 64) := by
  unfold reads; decide

theorem test_decode_control :
    reads 0x10209FFD (.beq 0 8 9 0xFFD) ∧ reads 0x16040040 (.jal 0 1 64) ∧
    reads 0x17009000 (.jalr 0 0 9 0) ∧ reads 0x18000001 (.idem 0 1) := by
  unfold reads; decide

theorem test_decode_memory :
    reads 0x20203E00 (.ldC 0 8 3 0) ∧ reads 0x20203C02 (.ldD 0 8 3 2) ∧
    reads 0x202099FF (.ldW 0 8 9 0x1FF) ∧ reads 0x20595A03 (.ldWu 0 22 21 3) ∧
    reads 0x21243C02 (.stD 0 9 3 2) := by
  unfold reads; decide

theorem test_decode_ordered :
    reads 0x24209580 (.ldDAcq 0 8 9 2) ∧ reads 0x25289580 (.stDRel 0 10 9 2) ∧
    reads 0x2538F900 (.stWRel 0 14 15 4) := by
  unfold reads; decide

theorem test_decode_atomic :
    reads 0x2224A202 (.amoAdd 0 9 10 8 2) ∧ reads 0x2224A23B (.amoCas 0 9 10 8 3) ∧
    reads 0x2240F012 (.amoOr 0 16 15 0 2) := by
  unfold reads; decide

theorem test_decode_fence :
    reads 0x23000002 (.fence 0 2) ∧ reads 0x23000008 (.fenceSc 0) ∧
    reads 0x23240020 (.dcFlush 0 9) := by
  unfold reads; decide

theorem test_decode_vector_memory :
    reads 0x28210480 (.vld 0 4 8 9 0) ∧ reads 0x68108001 (.vst 1 2 4 0 0) ∧
    reads 0x28290502 (.vlds 0 5 8 10 0) ∧ reads 0x28290503 (.vsts 0 5 8 10 0) ∧
    reads 0x28310394 (.vgat 0 6 8 7 1) ∧ reads 0x28310385 (.vsct 0 6 8 7 0) ∧
    reads 0x28110006 (.vldb 0 2 8 0 0) := by
  unfold reads; decide

theorem test_decode_vector_integer :
    reads 0x29088602 (.vadd 0 1 2 3 0 2) ∧ reads 0x29214C8D (.vmulh 0 4 5 6 2 1) ∧
    reads 0x29088624 (.vsra 0 1 2 3 0 0) := by
  unfold reads; decide

theorem test_decode_vector_float :
    reads 0x2A42540C (.vfma 0 8 9 10 0 0) ∧ reads 0x2A190022 (.vfabs 0 3 4 0 2) ∧
    reads 0x2A19002B (.vfrsq 0 3 4 0 3) ∧ reads 0x2A100209 (.vfmul 0 2 0 1 0 1) := by
  unfold reads; decide

theorem test_decode_vector_compare :
    reads 0x2B888602 (.vcmp 0 2 1 2 3 0 2) ∧ reads 0x2B11080C (.vfcmp 0 0 2 4 4 0 4) ∧
    reads 0x2B298ED0 (.vsel 0 5 6 7 3) ∧ reads 0x2B088618 (.mand 0 1 2 3 0) ∧
    reads 0x2B088619 (.mand 0 1 2 3 1) ∧ reads 0x2B204032 (.mpop 0 8 1 0 2) := by
  unfold reads; decide

theorem test_decode_vector_move :
    reads 0x2C214C00 (.vperm 0 4 5 6 0 0) ∧ reads 0x2C214C06 (.vshf 0 4 5 6 0 2) ∧
    reads 0x2C2140CA (.vsld 0 4 5 3 2) ∧ reads 0x2C2141CD (.vbc 0 4 5 7 1) ∧
    reads 0x2C414092 (.vext 0 8 5 2 2) ∧ reads 0x2C224096 (.vins 0 4 9 2 2) ∧
    reads 0x2C214C59 (.vzip 0 4 5 6 1 1) ∧ reads 0x2C214C1C (.vuzp 0 4 5 6 0 0) := by
  unfold reads; decide

theorem test_decode_vector_reduction :
    reads 0x2C214062 (.vredadd 0 4 5 1 2) ∧ reads 0x2C214024 (.vredmax 0 4 5 0 0) ∧
    reads 0x2C21402C (.vfredadd 0 4 5 0 0) ∧ reads 0x2C214031 (.vfamax 0 4 5 0 1) := by
  unfold reads; decide

theorem test_decode_conversion :
    reads 0x2D214200 (.vcvt 0 4 5 1 0 0) ∧ reads 0x2D214C04 (.vqnt 0 4 5 6 0 0) ∧
    reads 0x2D390C08 (.vdqnt 0 7 4 6 0 0) ∧ reads 0x2D214C0D (.vscl 0 4 5 6 0 1) ∧
    reads 0x2D214210 (.vunpk 0 4 5 1 0 0) := by
  unfold reads; decide

theorem test_decode_format :
    reads 0x6E083F81 (.vimm 1 1 0 0x3F81) ∧ reads 0x2F000020 (.fmt 0 0 0 1 0 0) ∧
    reads 0x2F010000 (.fmt 0 1 0 0 0 0) ∧ reads 0x2F111000 (.fmt 0 0x11 0x10 0 0 0) ∧
    reads 0x2F000005 (.fmt 0 0 0 0 0 5) := by
  unfold reads; decide

theorem test_decode_counter :
    reads 0x3020A002 (.ctrAdd 0 8 10 0 2) ∧ reads 0x3020A24B (.ctrMax 0 8 10 9 3) ∧
    reads 0x3020B152 (.ctrWait 0 8 11 5 2) ∧ reads 0x3020B259 (.ctrTest 0 8 11 9 1) ∧
    reads 0x30200260 (.ctrRead 0 8 9) ∧ reads 0x3020002B (.ctrInit 0 8 0 0 3) := by
  unfold reads; decide

theorem test_decode_scope :
    reads 0x31009200 (.scoOpen 0 0 9 8) ∧ reads 0x31200148 (.scoClose 0 8 5) ∧
    reads 0x31200010 (.scoCancel 0 8) ∧ reads 0x31200258 (.scoSucceed 0 8 9) ∧
    reads 0x3120A2E0 (.scoSpawn 0 8 10 11) ∧ reads 0x3120A2E8 (.scoLaunch 0 8 10 11) := by
  unfold reads; decide

theorem test_decode_shield :
    reads 0x31000038 (.scoShield 0) ∧ reads 0x31000039 (.scoUnshield 0) ∧
    reads 0x3100023A (.scoPoll 0 8) ∧ reads 0x3100023B (.scoId 0 8) := by
  unfold reads; decide

theorem test_decode_leaf :
    reads 0x32240000 (.lfDiscard 0 9) ∧ reads 0x3224A008 (.lfMove 0 9 10) ∧
    reads 0x32240210 (.lfStat 0 9 8) := by
  unfold reads; decide

theorem test_decode_anvil :
    reads 0x34000200 (.mxLease 0 8) ∧ reads 0x34000008 (.mxFree 0) ∧
    reads 0x3424A010 (.mxOpb 0 9 10 0) ∧ reads 0x342CC358 (.mxMma 0 11 12 13) ∧
    reads 0x3424A020 (.mxLd 0 9 10) ∧ reads 0x3424A028 (.mxSt 0 9 10) ∧
    reads 0x34000030 (.mxZero 0) ∧ reads 0x34000238 (.mxChk 0 8) := by
  unfold reads; decide

theorem test_decode_ladle :
    reads 0x352C7000 (.ladSet 0 11 7) ∧ reads 0x35002208 (.ladGet 0 2 8) ∧
    reads 0x35000210 (.ladGo 0 8) ∧ reads 0x35200258 (.ladStat 0 8 9) := by
  unfold reads; decide

theorem test_decode_crucible :
    reads 0x36244000 (.cruSet 0 9 4) ∧ reads 0x36000210 (.cruGo 0 8) := by
  unfold reads; decide

theorem test_decode_system :
    reads 0x3C008000 (.sysCall 0 8) ∧ reads 0x3C008001 (.trap 0 8) ∧
    reads 0x3C000002 (.eret 0) ∧ reads 0x3C000003 (.yield 0) ∧
    reads 0x3C000005 (.halt 0) ∧ reads 0x3C008246 (.tlbInv 0 8 9) := by
  unfold reads; decide

theorem test_decode_control_register :
    reads 0x3D200000 (.csrr 0 8 0) ∧ reads 0x3D200021 (.csrr 0 8 0x021) ∧
    reads 0x3D24A400 (.csrw 0 9 10 0) ∧ reads 0x3D009C00 (.csrc 0 0 9 0) := by
  unfold reads; decide

/-- Words that R217 makes no instruction: an unassigned major and selector, a field that must be zero, a scope field of 5, a
lane beyond the register, a register number the map does not list, and the word of zeros. -/
theorem test_decode_refuses :
    decodeTableWord 32 0x0B000000 = none ∧ decodeTableWord 32 0x01209299 = none ∧ decodeTableWord 32 0x34001008 = none ∧
    decodeTableWord 32 0x23000005 = none ∧ decodeTableWord 32 0x2C21480E = none ∧ decodeTableWord 32 0x3D200033 = none ∧
    decodeTableWord 32 0 = none := by decide

/-! ### Small states -/

/-- The root capability at an address. -/
def rootAt (a : Nat) : CapReg := { rootCap with bits := rootCap.bits + BitVec.ofNat 128 a }

/-- The firmware strand of core 0 issues at 0x1000 under the boot map: privileged, ASID 0. c8 is the root capability at
0x2000, c9 the most negative number, c10 minus one, c11 seven. -/
def fw : State :=
  let s : State := { State.reset with cur := { Strand.firmware 0 with run := .ready, pc := 0x1000 }, sent := [] }
  (((s.setC 8 (rootAt 0x2000)).setX 9 0x8000000000000000).setX 10 0xFFFFFFFFFFFFFFFF).setX 11 7

/-- The same with every vector register granted, v4 and v5 of alternating bytes and m1 naming byte 0 only. -/
def vec : State :=
  let s : State := { fw with cur := { fw.cur with grant := 4 } }
  ((s.setV 4 (BitVec.ofNat 1024 0x807F0102)).setV 5 (BitVec.ofNat 1024 0x0101FF01)).setM 1 1

/-- The same strand as a user of ASID 1, whose descriptor stands at 0x100040 and whose root table at 0x110000. -/
def user : State :=
  let s : State :=
    { fw with
      cur := { fw.cur with status := 0, asid := 1, handle := { asid := 1, addr := 0x7000 } }
      astb := 0x100000 }
  { s with mem := s.mem.writeBytes 0x100040 (leBytes 8 0x8000000000110000) }

/-- What a step of an instruction leaves, if it goes on. -/
def leftBy {α : Type} (i : Instr) (s : State) (f : State → α) : Option α :=
  match exec i s with
  | .next t => some (f t)
  | _ => none

/-! ### The scalar family -/

theorem witness_integer_operations :
    fw.clearFor [.c 8, .c 9, .c 10] ∧ fw.sound 8 ∧ fw.sound 9 ∧ fw.sound 10 ∧ fw.clearFor [.c 8] ∧ fw.x 0 = 0 ∧
      fw.x 9 = 0x8000000000000000 ∧ fw.x 10 = 0xFFFFFFFFFFFFFFFF := by
  unfold State.clearFor State.sound; decide

theorem test_add_wraps : leftBy (.add 0 12 10 11) fw (·.x 12) = some 6 := by decide
theorem test_add_discarded : leftBy (.add 0 0 10 11) fw (fun t => (t.x 0, t.cur.pc)) = some (0, 0x1004) := by decide
theorem test_mulh : leftBy (.mulh 0 12 9 10) fw (·.x 12) = some 0 := by decide
theorem test_mulhu : leftBy (.mulhu 0 12 10 10) fw (·.x 12) = some 0xFFFFFFFFFFFFFFFE := by decide
theorem test_div_by_zero : leftBy (.div 0 12 9 0) fw (·.x 12) = some 0xFFFFFFFFFFFFFFFF := by decide
theorem test_div_overflow : leftBy (.div 0 12 9 10) fw (·.x 12) = some 0x8000000000000000 := by decide
theorem test_rem_by_zero : leftBy (.rem 0 12 11 0) fw (·.x 12) = some 7 := by decide
theorem test_rem_overflow : leftBy (.rem 0 12 9 10) fw (·.x 12) = some 0 := by decide
theorem test_sra : leftBy (.sra 0 12 9 10) fw (·.x 12) = some 0xFFFFFFFFFFFFFFFF := by decide
theorem test_slt_signed : leftBy (.slt 0 12 9 11) fw (·.x 12) = some 1 := by decide
theorem test_sltu_unsigned : leftBy (.sltu 0 12 9 11) fw (·.x 12) = some 0 := by decide
theorem test_sel_old_destination : leftBy (.sel 0 11 9 10) fw (·.x 11) = some 0x8000000000000000 := by decide
theorem test_clz_zero : leftBy (.clz 0 12 0) fw (·.x 12) = some 64 := by decide
theorem test_ctz : leftBy (.ctz 0 12 9) fw (·.x 12) = some 63 := by decide
theorem test_popc : leftBy (.popc 0 12 10) fw (·.x 12) = some 64 := by decide
theorem test_addi_negative : leftBy (.addi 0 12 11 0xFFC) fw (·.x 12) = some 3 := by decide
theorem test_lui_negative : leftBy (.lui 0 12 0x20000) fw (·.x 12) = some 0xFFFFFFFFE0000000 := by decide
theorem test_lui_printed : leftBy (.lui 0 8 0x12345) fw (·.x 8) = some 0x12345000 := by decide

/-- A tagged capability whose reserved permission bits are not zero (R20). -/
def malformed : CapReg := { tag := true, bits := BitVec.allOnes 128 }

theorem witness_malformed_source :
    let s := fw.setC 8 malformed
    (s.cur.creg 8).tag = true ∧ capMalformed (s.cur.creg 8).bits = true ∧ s.clearFor [.c 8, .c 9, .c 12] ∧
      s.clearFor [.c 8, .c 12] ∧ s.clearFor [.c 8, .c 9] := by
  unfold State.clearFor; decide

theorem witness_capability_derivations :
    let s := fw.setX 10 0x40
    s.clearFor [.c 8, .c 10, .c 12] ∧ s.sound 8 ∧ s.sound 10 ∧ (s.cur.creg 8).lo.toNat + (s.x 10).toNat ≤ 2 ^ 64 ∧
      encodeBounds 0x2000 0x2040 = some (0, 0x2000, 0x2040) ∧
      (fw.cur.creg 8).lo.toNat + (fw.x 10).toNat > 2 ^ 64 ∧
      encodeBounds (fw.cur.creg 8).lo.toNat ((fw.cur.creg 8).lo.toNat + ((fw.setX 10 0xFFFFFFFFFFFFE000).x 10).toNat) = none := by
  unfold State.clearFor State.sound; decide

theorem witness_bounds_encoding :
    encodeBounds 0 0 = some (0, 0, 0) ∧ encodeBounds 0 0x3000 = some (0, 0, 0x3000) ∧
      encodeBounds 1 0x3002 = some (1, 0, 0x3002) ∧ encodeBounds 0 (2 ^ 64) = none ∧
      (fw.cur.creg 8).lo.toNat = 0x2000 ∧ encodeBounds 0x2000 0x2001 = some (0, 0x2000, 0x2001) := by decide

theorem witness_capability_monotone :
    let c := fw.cur.creg 8
    capMalformed c.bits = false ∧ (CapReg.narrow c 0x40).tag = true ∧ (CapReg.mask c 1).tag = true ∧
      (CapReg.moveTo c 0x3000).tag = true := by decide

theorem witness_capability_queries : fw.clearFor [.c 8, .c 9, .c 12] ∧ fw.clearFor [.c 8, .c 12] ∧ fw.sound 8 ∧ fw.sound 9 := by
  unfold State.clearFor State.sound; decide

theorem test_cap_len_of_root : leftBy (.capLen 0 12 8) fw (·.x 12) = some 0x1000000000000 := by decide
theorem test_cap_perm_of_root : leftBy (.capPerm 0 12 8) fw (·.x 12) = some 0xFF := by decide
theorem test_cap_and_drops : leftBy (.capAnd 0 12 8 11) fw (fun t => hasPerm (t.cur.creg 12).bits .storeCap) = some false := by decide
theorem test_cap_inc_outside : leftBy (.capInc 0 12 8 0x800) (fw.setC 8 (rootAt 0)) (fun t => (t.cur.creg 12).tag) = some false := by
  decide

theorem witness_branches :
    fw.clearFor [.c 9, .c 10] ∧ fw.sound 9 ∧ fw.sound 10 ∧ fw.x 9 = fw.x 9 ∧ fw.x 9 ≠ fw.x 10 ∧
      (fw.x 9).toInt < (fw.x 10).toInt ∧ (fw.x 9).toNat < (fw.x 10).toNat := by
  unfold State.clearFor State.sound; decide

theorem test_beq_back : leftBy (.beq 0 9 9 0xFFD) fw (·.cur.pc) = some 0xFF4 := by decide
theorem test_blt_signed : leftBy (.blt 0 9 11 2) fw (·.cur.pc) = some 0x1008 := by decide
theorem test_bgeu_not_taken : leftBy (.bgeu 0 11 9 2) fw (·.cur.pc) = some 0x1004 := by decide

theorem witness_jumps :
    fw.clearFor [.c 1] ∧ fw.clearFor [.c 8, .c 1] ∧ fw.clearFor [] ∧ fw.sound 8 ∧
      capFault (fw.cur.creg 8) 0x2004 4 [.execute] = none ∧ capFault (fw.cur.creg 8) 0x2002 4 [.execute] = none ∧
      capFault (fw.cur.creg 9) 0x8000000000000000 4 [.execute] = some 0 := by
  unfold State.clearFor State.sound; decide

theorem test_jal_link : leftBy (.jal 0 1 64) fw (fun t => (t.cur.pc, t.x 1)) = some (0x1100, 0x1004) := by decide
theorem test_jalr : leftBy (.jalr 0 1 8 4) fw (fun t => (t.cur.pc, t.x 1)) = some (0x2004, 0x1004) := by decide
theorem test_jalr_unaligned : leftBy (.jalr 0 1 8 2) fw (fun t => (t.cur.cause, t.cur.tval)) = some (4, 0x2002) := by decide

/-! ### Memory -/

/-- A page of ASID 1 on die 0 at 0x2000, with an entry of the given bits cached; R, W, A and D are set (R30, R35). -/
def paged (entry bits : Nat) : State :=
  { user with tlb := [{ site := .core 0, asid := 1, base := 0x2000 / 2 ^ bits * 2 ^ bits, bits := bits
                        entry := BitVec.ofNat 64 (entry + 0x663) }] }

/-- The page register and entry of an LPN that function 0 owns, with no line. -/
def emptyPage : Lpn :=
  { v := true, state := .empty, lines := [], queue := [], f := 0, lastAsid := 0, frame := 0, spill := false }

/-- The frame 0x4000 as a normal, a counter and an IO page; the frames of the host window, a peer window and the MMIO of
die 0 as IO pages; LPN 3 of die 0 as a leaf page. -/
def normalPage : State := paged 0x4100 12
def counterPage : State := paged (2 ^ 62 + 0x4000) 12
def hostPage : State := paged (3 * 2 ^ 62 + 0x800000000000) 12
def peerPage : State := paged (3 * 2 ^ 62 + 0x1000000000000) 12
def leafPage : State :=
  (paged (2 ^ 63 + 0x3800) 16).modDie 0 fun d =>
    { d with
      lpns := [(3, emptyPage)]
      resv := d.resv.set 0 { reservation := 1, resident := 0 } }

/-- The place that an entry of the boot map gives (R404). -/
def plain (loc : Nat) : Place := { loc := loc, ptype := .normal, tags := true, cmem := false, spill := false, owner := 0 }

/-- A function with a result of its own: the result, and that the call answers it. -/
theorem answers {α β : Type} {p : α × β} {b : β} (h : p.2 = b) : p = (p.1, b) := Prod.ext rfl h

theorem is_ok {ε α : Type} {x : Except ε α} {a : α} (h : x.toOption = some a) : x = .ok a := by
  cases x <;> simp_all [Except.toOption]

theorem tlbFill_own {s : State} {c : Option CoreId} {e : TlbEntry} (h : c.map TlbSite.core = some e.site) :
    s.tlbFill c e = s := by
  cases c with
  | none => cases h
  | some c => simp [State.tlbFill, ← Option.some.inj h]

theorem translate_cached {s : State} {w : Party} {va : Word} {k : Kind} {p : Place} (e : TlbEntry)
    (h2 : va.toNat < windowBase ∧ w.asid ≠ 0 ∧ w.core.map TlbSite.core = some e.site ∧
      s.tlbHit w.core w.asid va.toNat = some e ∧ bitsOf e.entry.toNat 10 1 = 1)
    (h3 : (entryAccess s w.asid va k e.entry.toNat e.bits).toOption = some p) : translate s w va k = (s, .ok p) := by
  obtain ⟨hv, hw, hc, hx, hy⟩ := h2
  have hv0 : windowBase ≤ 2 ^ 48 := by decide
  have hv1 : ¬ va.toNat ≥ 2 ^ 48 := by omega
  have hv2 : ¬ va.toNat ≥ windowBase := by omega
  unfold Machine.translate
  rw [if_neg hv1, if_neg (fun h => hv2 h.2), if_neg (fun h => hw h.1), hx]
  simp [hy, is_ok h3, tlbFill_own hc]

theorem cached_reaches {s : State} {c : CapReg} {va : Word} {n : Nat} {ps : List Perm} {k : Kind} {p : Place} (e : TlbEntry)
    (h1 : s.storeQueued = false ∧ capFault c va.toNat n ps = none ∧ va.toNat % n = 0)
    (h2 : va.toNat < windowBase ∧ s.me.asid ≠ 0 ∧ s.me.core.map TlbSite.core = some e.site ∧
      s.tlbHit s.me.core s.me.asid va.toNat = some e ∧ bitsOf e.entry.toNat 10 1 = 1)
    (h3 : (entryAccess s s.me.asid va k e.entry.toNat e.bits).toOption = some p) : s.reaches c va n ps k s p :=
  ⟨h1.1, h1.2.1, h1.2.2, translate_cached e h2 h3⟩

theorem fw_reaches (n : Nat) (h : n = 1 ∨ n = 2 ∨ n = 4 ∨ n = 8 ∨ n = 16) (k : Kind) (ps : List Perm)
    (hk : k = .load ∨ k = .store ∨ k = .tagStore ∨ k = .atomic) (hp : ps ∈ [[Perm.load], [.store], [.store, .storeCap], [.load, .store]]) :
    fw.reaches (fw.cur.creg 8) 0x2000 n ps k fw (plain 0x2000) := by
  unfold State.reaches
  rcases h with rfl | rfl | rfl | rfl | rfl <;> rcases hk with rfl | rfl | rfl | rfl <;>
    simp only [List.mem_cons, List.not_mem_nil, or_false] at hp <;> rcases hp with rfl | rfl | rfl | rfl <;>
    exact ⟨by decide, by decide, by decide, rfl⟩

theorem witness_loads :
    fw.clearFor [.c 8, .c 12] ∧ fw.sound 8 ∧ fw.reaches (fw.cur.creg 8) 0x2000 8 [.load] .load fw (plain 0x2000) ∧
      fw.reaches (fw.cur.creg 8) 0x2000 16 [.load] .load fw (plain 0x2000) ∧
      fw.calm (plain 0x2000) 0x2000 8 ∧ fw.calm (plain 0x2000) 0x2000 16 := by
  refine ⟨?_, ?_, fw_reaches 8 (by simp) _ _ (by simp) (by simp), fw_reaches 16 (by simp) _ _ (by simp) (by simp), ?_, ?_⟩ <;>
    (try unfold State.clearFor) <;> (try unfold State.sound) <;> (try unfold State.calm) <;> decide

theorem witness_stores :
    fw.mem.wf = true ∧ fw.clearFor [.c 11, .c 8] ∧ fw.sound 8 ∧ fw.sound 11 ∧ (fw.cur.creg 11).tag = false ∧
      (fw.cur.creg 8).tag = true ∧ queueCapAt 0x2000 = none ∧ hasPerm (fw.cur.creg 8).bits .global = true ∧
      fw.reaches (fw.cur.creg 8) 0x2000 8 [.store] .store fw (plain 0x2000) ∧
      fw.reaches (fw.cur.creg 8) 0x2000 16 [.store, .storeCap] .store fw (plain 0x2000) ∧
      fw.reaches (fw.cur.creg 8) 0x2000 16 [.store, .storeCap] .tagStore fw (plain 0x2000) ∧
      fw.readyWrite fw.me (plain 0x2000) 0x2000 8 = (fw, none) ∧ fw.readyWrite fw.me (plain 0x2000) 0x2000 16 = (fw, none) ∧
      fw.releaseAt 0 = (fw, none) ∧ fw.releaseAt 4 = (fw, none) := by
  refine ⟨by decide, ?_, ?_, ?_, by decide, by decide, by decide, by decide, fw_reaches 8 (by simp) _ _ (by simp) (by simp),
    fw_reaches 16 (by simp) _ _ (by simp) (by simp), fw_reaches 16 (by simp) _ _ (by simp) (by simp), rfl, rfl, rfl, rfl⟩ <;>
    (try unfold State.clearFor) <;> (try unfold State.sound) <;> decide

theorem witness_atomics :
    fw.mem.wf = true ∧ fw.clearFor [.c 8, .c 11, .c 12] ∧ fw.sound 8 ∧ fw.sound 11 ∧ fw.sound 12 ∧
      fw.reaches (fw.cur.creg 8) 0x2000 8 [.load, .store] .atomic fw (plain 0x2000) ∧ fw.calm (plain 0x2000) 0x2000 8 ∧
      (∀ op, fw.portRefuses op 0x2000 = false) ∧
      fw.releaseAt 4 = (fw, none) ∧ fw.readyWrite fw.me (plain 0x2000) 0x2000 8 = (fw, none) ∧
      BitVec.ofNat 64 (fw.mem64 0x2000) = fw.x 12 ∧ BitVec.ofNat 64 (fw.mem64 0x2000) ≠ fw.x 11 := by
  refine ⟨by decide, ?_, ?_, ?_, ?_, fw_reaches 8 (by simp) _ _ (by simp) (by simp), ?_, fun _ => rfl, rfl, rfl, by decide, by decide⟩ <;>
    (try unfold State.clearFor) <;> (try unfold State.sound) <;> (try unfold State.calm) <;> decide

/-- A leaf page takes a store into an unallocated line, which is allocated (R63, R65). -/
theorem witness_store_to_leaf :
    let p := (translate leafPage leafPage.me 0x2000 .store).2
    let q : Place := { loc := leafLoc 0 3 0x2000, ptype := .leaf, tags := false, cmem := false, spill := false, owner := 0 }
    p = .ok q ∧ (leafPage.readyWrite leafPage.me q 0x2000 8).2 = none := by
  constructor <;> rfl

theorem test_store_byte_order : leftBy (.stD 0 11 8 1) (fw.setX 11 0x0102030405060708) (·.bytes 0x2008 8) =
    some [8, 7, 6, 5, 4, 3, 2, 1] := by decide
theorem test_load_sign : leftBy (.ldB 0 12 8 0) { fw with mem := [(0x2000, 0x80)] } (·.x 12) = some 0xFFFFFFFFFFFFFF80 := by decide
theorem test_load_zero : leftBy (.ldHu 0 12 8 0) { fw with mem := [(0x2001, 0x80)] } (·.x 12) = some 0x8000 := by decide
theorem test_store_clears_tag : leftBy (.stB 0 11 8 0) { fw with tags := [0x200, 0x201] } (·.tags) = some [0x201] := by decide
theorem test_store_capability : leftBy (.stC 0 8 8 0) fw (fun t => (t.tags, t.memC 0x2000 == rootAt 0x2000)) =
    some ([0x200], true) := by decide
theorem test_amo_min_signed :
    leftBy (.amoMin 0 8 9 12 2) { fw with mem := [(0x2000, 5)] } (fun t => (t.x 12, t.mem64 0x2000)) =
      some (5, 0x8000000000000000) := by decide
theorem test_cas_fails : leftBy (.amoCas 0 8 9 11 2) { fw with mem := [(0x2000, 5)] } (fun t => (t.x 11, t.mem64 0x2000)) =
    some (5, 5) := by decide

theorem witness_access_faults :
    let s := fw.setC 8 (rootAt 0x2001)
    s.storeQueued = false ∧ s.sound 8 ∧ s.sound 9 ∧ s.clearFor [.c 8, .c 12] ∧ s.clearFor [.c 12, .c 8] ∧
      capFault (s.cur.creg 8) 0x2001 8 [.load] = none ∧ capFault (s.cur.creg 8) 0x2001 8 [.store] = none ∧
      capFault (s.cur.creg 9) 0x8000000000000000 8 [.load] = some 0 := by
  unfold State.clearFor State.sound; decide

theorem test_access_unaligned : leftBy (.ldD 0 12 8 0) (fw.setC 8 (rootAt 0x2001)) (fun t => (t.cur.cause, t.cur.tval)) =
    some (4, 0x2001) := by decide
theorem test_access_untagged : leftBy (.stD 0 12 9 0) fw (fun t => (t.cur.cause, t.cur.epc)) = some (2, 0x1000) := by decide

theorem witness_capability_check :
    (fw.cur.creg 9).tag = false ∧ malformed.tag = true ∧ capMalformed malformed.bits = true ∧
      (CapReg.mask (rootAt 0) 1).tag = true ∧ hasPerm (CapReg.mask (rootAt 0) 1).bits .store = false ∧
      capFault (CapReg.narrow (rootAt 0x2000) 8) 0x2000 8 [.load] = none ∧
      capFault (CapReg.narrow (rootAt 0x2000) 8) 0x2001 8 [.load] = some 1 := by decide

/-- The tables of ASID 1 map the page at 0x2000 as normal, with R and W and without A and D (R30). -/
def walked : State :=
  { user with
    mem := (((user.mem.writeBytes 0x110000 (leBytes 8 0x111001)).writeBytes 0x111000 (leBytes 8 0x112001)).writeBytes 0x112000
      (leBytes 8 0x113001)).writeBytes 0x113010 (leBytes 8 0x4063) }

theorem witness_translation :
    walked.mem.wf = true ∧ (translate walked walked.me 0x2000 .store).2 = .ok
      { loc := 0x4000, ptype := .normal, tags := false, cmem := false, spill := false, owner := 0 } ∧
      (translate walked walked.me 0x2000 .store).1.mem64 0x113010 = 0x4663 ∧
      (translate walked walked.me 0x2000 .load).1.mem64 0x113010 = 0x4263 ∧ walked.me.asid ≠ 0 := by
  refine ⟨by decide, is_ok (by decide +kernel), by decide +kernel, by decide +kernel, by decide⟩

theorem witness_translation_cached :
    ∃ e, normalPage.tlbHit normalPage.me.core normalPage.me.asid 0x2000 = some e ∧ bitsOf e.entry.toNat 10 1 = 1 := by
  exact ⟨_, rfl, by decide⟩

theorem test_translation_beyond_48 : (translate fw fw.me 0x1000000000000 .load).2 = .error (.fault 3 4 0x1000000000000) := rfl
theorem test_translation_window_without_team :
    (translate user user.me 0xFFFFFFE00000 .load).2 = .error (.fault 3 6 0xFFFFFFE00000) := rfl

theorem witness_fences :
    fw.clearFor [] ∧ fw.storeQueued = false ∧ (fw.fenceAcquire 3).quiet.settled = true ∧
      (fw.fenceAcquire 4).quiet.settled = true ∧ fw.outstanding = [] ∧
      ({ fw with settle := { fw.settle with finished := [fw.cur.handle.addr] } } : State).settle.finished.contains
        fw.cur.handle.addr = true ∧
      fw.clearFor [.c 8] ∧ fw.sound 8 ∧ capFault (fw.cur.creg 8) (fw.x 8).toNat 1 [.load] = none ∧
      translate fw fw.me (fw.x 8) .load = (fw, .ok (plain 0x2000)) ∧ (plain 0x2000).cacheable = true ∧
      fw.gate fw.me (plain 0x2000) (fw.x 8) 8 = none ∧ ({ plain 0x2000 with cmem := true } : Place).cacheable = false := by
  refine ⟨?_, by decide, by decide, by decide, rfl, by decide, ?_, ?_, by decide, rfl, by decide, by decide, by decide⟩ <;>
    (try unfold State.clearFor) <;> (try unfold State.sound) <;> decide
/-! ### Vector memory -/

theorem vec_clear (l : List RegName) : vec.clearVec l bare := by
  refine ⟨by decide, by decide, fun v _ => ?_, fun h => absurd h (by decide)⟩
  have := v.isLt
  show v.toNat < 8 * 4
  omega

/-- The one element that m1 selects. -/
def one : List Elem := [{ k := 0, va := 0x2000 }]

theorem witness_vector_loads :
    vec.clearVec [.c 8, .c 0, .m 1, .v 6] bare ∧ vec.sound 8 ∧ vec.sound 0 ∧ vec.storeQueued = false ∧
      ((List.range 128).filter fun k => (vec.cur.mreg 1).getLsbD k).map (fun k => ({ k := k, va := 0x2000 + BitVec.ofNat 64 k } : Elem)) =
        one ∧
      ((List.range 128).filter fun k => (vec.cur.mreg 2).getLsbD k) = [] ∧
      vec.vecCheck (vec.cur.creg 8) 1 .vecLoad .load (some 0x2000) one = (vec, .ok [(plain 0x2000, { k := 0, va := 0x2000 })]) ∧
      vec.vecCheck (vec.cur.creg 8) 4 .vecLoad .load none one = (vec, .ok [(plain 0x2000, { k := 0, va := 0x2000 })]) ∧
      vec.calm (plain 0x2000) 0x2000 1 ∧ vec.calm (plain 0x2000) 0x2000 4 := by
  refine ⟨vec_clear _, ?_, ?_, by decide, by decide, by decide, rfl, rfl, ?_, ?_⟩ <;> (try unfold State.sound) <;>
    (try unfold State.calm) <;> decide

theorem witness_vector_stores :
    vec.mem.wf = true ∧ vec.clearVec [.v 4, .c 8, .c 0, .m 1] bare ∧ vec.storeQueued = false ∧
      vec.vecCheck (vec.cur.creg 8) 1 .vecStore .store (some 0x2000) one = (vec, .ok [(plain 0x2000, { k := 0, va := 0x2000 })]) ∧
      vec.vecCheck (vec.cur.creg 8) 4 .vecStore .store none one = (vec, .ok [(plain 0x2000, { k := 0, va := 0x2000 })]) ∧
      vec.vecGate 4 [(plain 0x2000, { k := 0, va := 0x2000 })] [(plain 0x2000, { k := 0, va := 0x2000 })] = none ∧
      vec.arriveAll vec.me [(plain 0x2000, 0x2000, 4)] none = vec ∧
      vec.vecAlloc [(plain 0x2000, { k := 0, va := 0x2000 })] = (vec, none, none) := by
  exact ⟨by decide, vec_clear _, by decide, rfl, rfl, by decide, rfl, rfl⟩

theorem test_vld_masked : leftBy (.vld 0 4 8 0 1) { vec with mem := [(0x2000, 0xAA), (0x2001, 0xBB)] }
    (fun t => (laneOf 8 (t.cur.vreg 4) 0, laneOf 8 (t.cur.vreg 4) 1)) = some (0xAA, 1) := by decide +kernel
theorem test_vldb_repeats : leftBy (.vldb 0 4 8 0 0) { vec with mem := [(0x2001, 0xBB)] }
    (fun t => (laneOf 8 (t.cur.vreg 4) 1, laneOf 8 (t.cur.vreg 4) 121, laneOf 8 (t.cur.vreg 4) 120)) = some (0xBB, 0xBB, 0) := by decide +kernel
theorem test_vst_masked : leftBy (.vst 0 4 8 0 1) vec (·.mem) = some [(0x2000, 2)] := by decide +kernel
theorem test_vector_beyond_grant : leftBy (.vadd 0 8 4 5 0 0) { vec with cur := { vec.cur with grant := 1 } }
    (fun t => (t.cur.cause, t.cur.tval)) = some (0x0D, 8) := by decide +kernel

/-! ### Ports -/

/-- A place of an IO page. -/
def port (loc : Nat) : Place := { loc := loc, ptype := .io, tags := false, cmem := false, spill := false, owner := 0 }

/-- Memory with the tables of ASID 1 below its root, whose last level stands at 0x113000 (R30). -/
def tables (m : Mem) : Mem :=
  ((m.writeBytes 0x110000 (leBytes 8 0x111001)).writeBytes 0x111000 (leBytes 8 0x112001)).writeBytes 0x112000 (leBytes 8 0x113001)

/-- A job of two ranks whose window 0 names a rank, whose rank 1 is reached through port 0, and whose Peer base is the
normal page at 0x3000. -/
def peered (rank : Nat) (path : Nat) : State :=
  { peerPage with
    jobs := peerPage.jobs.set 0 (some
      { hallmark := 0x200000, groups := 0, groupCount := 0, peerMap := 0x210000, peers := [BitVec.ofNat 16 (0x8000 + rank)], ranks := 2, rank := 0, epoch := 1
        peerAsid := 1, peerBase := 0x3000 })
    ports := peerPage.ports.set 0 { Port.reset with up := true }
    mem := ((tables peerPage.mem).writeBytes 0x113018 (leBytes 8 0x4763)).writeBytes 0x201008 (leBytes 8 path) }

/-- Rank 1 behind port 0, in service; the same with the port at its flit limit; and the device's own rank. -/
def peerOne : State := peered 1 (2 ^ 63 + 2 ^ 48)
def peerHeld : State := { peerOne with ports := peerOne.ports.set 0 { Port.reset with up := true, stopped := [(0, 1)] } }
def peerOwn : State := peered 0 0

/-- The firmware strand with c8 at the first register of die 0's scheduler block. -/
def mmio : State := fw.setC 8 { rootCap with bits := rootCap.bits + 0xF00000200000 }

theorem witness_ports_mmio :
    mmio.clearFor [.c 8, .c 12] ∧ mmio.clearFor [.c 12, .c 8] ∧ mmio.sound 8 ∧ mmio.sound 12 ∧
      mmio.reaches (mmio.cur.creg 8) 0xF00000200000 8 [.load] .load mmio (port 0xF000000200000) ∧
      mmio.reaches (mmio.cur.creg 8) 0xF00000200000 8 [.store] .store mmio (port 0xF000000200000) ∧
      mmio.reaches (mmio.cur.creg 8) 0xF00000200000 8 [.load, .store] .atomic mmio (port 0xF000000200000) ∧
      regionOf 0xF000000200000 = .mmio ∧ mmio.fencedAt 0xF000000200000 = false ∧ portTakes .add 0xF000000200000 = false ∧
      mmio.releaseAt 0 = (mmio, none) ∧ isResolve 0xF000000300000 = true ∧ mmio.releaseAt 4 = (mmio, none) := by
  refine ⟨?_, ?_, ?_, ?_, ⟨by decide, by decide, by decide, rfl⟩, ⟨by decide, by decide, by decide, rfl⟩,
    ⟨by decide, by decide, by decide, rfl⟩, by decide, by decide, by decide, rfl, by decide, rfl⟩ <;>
    (try unfold State.clearFor) <;> (try unfold State.sound) <;> decide

theorem witness_ports_queue_capability :
    let s := fw.setC 8 { rootCap with bits := rootCap.bits + 0xF00000500130 }
    queueCapAt 0xF000000500130 = some (0, 0) ∧ s.fencedAt 0xF000000500130 = false ∧ hasPerm (s.cur.creg 8).bits .global = true ∧
      s.clearFor [.c 8, .c 8] ∧ s.sound 8 ∧
      s.reaches (s.cur.creg 8) 0xF00000500130 16 [.store, .storeCap] .store s (port 0xF000000500130) := by
  refine ⟨by decide, by decide, by decide, ?_, ?_, ⟨by decide, by decide, by decide, rfl⟩⟩ <;>
    (try unfold State.clearFor) <;> (try unfold State.sound) <;> decide

theorem witness_ports_host :
    let s := hostPage
    s.reaches (s.cur.creg 8) 0x2000 8 [.load] .load s (port 0x800000000000) ∧
      s.reaches (s.cur.creg 8) 0x2000 8 [.store] .store s (port 0x800000000000) ∧
      s.reaches (s.cur.creg 8) 0x2000 8 [.load, .store] .atomic s (port 0x800000000000) ∧
      regionOf 0x800000000000 = .host ∧ s.fencedAt 0x800000000000 = false ∧ portTakes .cas 0x800000000000 = true ∧
      portTakes .and 0x800000000000 = false ∧
      (s.modDie 0 fun d => { d with fenced := true }).fencedAt 0x800000000000 = true := by
  exact ⟨cached_reaches { site := .core 0, asid := 1, base := 0x2000, bits := 12, entry := 0xC000800000000663 } (by decide +kernel) (by decide +kernel)
      (by decide +kernel),
    cached_reaches { site := .core 0, asid := 1, base := 0x2000, bits := 12, entry := 0xC000800000000663 } (by decide +kernel) (by decide +kernel)
      (by decide +kernel),
    cached_reaches { site := .core 0, asid := 1, base := 0x2000, bits := 12, entry := 0xC000800000000663 } (by decide +kernel) (by decide +kernel)
      (by decide +kernel),
    by decide, by decide, by decide, by decide, by decide⟩

/-- The host-window page of `hostPage` in a region that the processor owns. -/
def awayPage : State := paged (3 * 2 ^ 62 + 2 ^ 59 + 0x800000000000) 12

theorem witness_ports_away :
    let q : Place := { port 0x800000000000 with owner := 1 }
    awayPage.reaches (awayPage.cur.creg 8) 0x2000 8 [.load] .load awayPage q ∧
      awayPage.reaches (awayPage.cur.creg 8) 0x2000 8 [.store] .store awayPage q ∧
      awayPage.reaches (awayPage.cur.creg 8) 0x2000 8 [.load, .store] .atomic awayPage q ∧ q.owner = 1 ∧
      awayPage.portRefuses .cas 0x2000 = false ∧ hostPage.portRefuses .cas 0x2000 = false ∧
      hostPage.portRefuses .and 0x2000 = true := by
  let e : TlbEntry := { site := .core 0, asid := 1, base := 0x2000, bits := 12, entry := 0xC800800000000663 }
  exact ⟨cached_reaches e (by decide +kernel) (by decide +kernel) (by decide +kernel),
    cached_reaches e (by decide +kernel) (by decide +kernel) (by decide +kernel),
    cached_reaches e (by decide +kernel) (by decide +kernel) (by decide +kernel), by decide, by decide +kernel, by decide +kernel,
    by decide +kernel⟩

theorem witness_ports_peer :
    peerOne.reaches (peerOne.cur.creg 8) 0x2000 8 [.load] .load peerOne (port 0x1000000000000) ∧
      regionOf 0x1000000000000 = .peer ∧ peerParts 0x1000000000000 = (0, 0) ∧ portTakes .xor 0x1000000000000 = true ∧
      peerOne.peerRoute peerOne.myFn 0 = .rank 1 ∧ peerOne.peerRoute peerOne.myFn 1 = .none ∧
      (peered 1 0).peerRoute peerOne.myFn 0 = .unreachable ∧ peerHeld.peerRoute peerHeld.myFn 0 = .held ∧
      peerOwn.peerRoute peerOwn.myFn 0 = .own := by
  exact ⟨cached_reaches { site := .core 0, asid := 1, base := 0x2000, bits := 12, entry := 0xC001000000000663 } (by decide +kernel) (by decide +kernel)
      (by decide +kernel), by decide, by decide, by decide, by decide, by decide, by decide, by decide, by decide⟩

/-- The data of an inbound access that was performed. -/
def doneWith : Inbound → Option (List Byte)
  | .done _ bs => some bs
  | _ => none

theorem is_done {r : Inbound} {bs : List Byte} (h : doneWith r = some bs) : ∃ s bs, r = .done s bs := by
  cases r <;> simp_all [doneWith]

theorem witness_ports_own :
    (∃ s2 bs, peerOwn.fromPeerRead 0 peerOwn.myself 0 8 = .done s2 bs) ∧ (∃ s2 bs, peerOwn.fromPeerWrite 0 peerOwn.myself 0 [1] = .done s2 bs) ∧
      ∃ s2 bs, peerOwn.fromPeerAtomic 0 peerOwn.myself 0 .add 1 0 = .done s2 bs :=
  ⟨is_done (bs := List.replicate 8 0) (by decide +kernel), is_done (bs := []) (by decide +kernel),
    is_done (bs := List.replicate 8 0) (by decide +kernel)⟩

theorem test_host_load_waits : leftBy (.ldD 0 12 8 0) hostPage (fun t => (t.cur.run, t.sent)) =
    some (.waitIo 1, [.hostRead 1 0 8]) := by decide
theorem test_peer_store_sent : leftBy (.stB 0 11 8 1) peerOne (·.sent) = some [.peerWrite 1 0 1 1 [7]] := by decide
theorem test_mmio_store_due : leftBy (.stD 0 11 8 0) mmio (·.due) =
    some [.registerWrite (.mmio 0xF000000200000 8) 7] := by decide
theorem test_host_atomic_refused : leftBy (.amoAnd 0 8 11 12 3) { hostPage with cur := { hostPage.cur with status := 1 } }
    (fun t => (t.cur.cause, t.cur.tval)) = some (0x503, 0x2000) := by decide

/-! ### Vector arithmetic -/

/-- The state `vec` with a format code word pending: source and destination code, rounding, saturation (R207, R211). -/
def prefixed (a b : BitVec 8) (rnd : BitVec 3) (sat : BitVec 2) : State :=
  { vec with cur := { vec.cur with
      status := BitVec.ofNat 64 (a.toNat * 2 ^ 40 + b.toNat * 2 ^ 32 + rnd.toNat * 2 ^ 29 + sat.toNat * 2 ^ 27 + 129) } }

theorem prefixed_clear (a b : BitVec 8) (l : List RegName) (takes : Option (BitVec 24) → Bool)
    (h : (match (prefixed a b 0 0).cur.pending with
      | none => takes none
      | some v => payloadOk v && takes (some v)) = true) (hc : (prefixed a b 0 0).cur.chk = false) :
    (prefixed a b 0 0).clearVec l takes := by
  refine ⟨h, by show (4 : BitVec 3) ≠ 0; decide, fun v _ => ?_, fun h => absurd (hc.symm.trans h) (by decide)⟩
  have := v.isLt
  show v.toNat < 8 * 4
  omega

theorem witness_vector_integer : vec.clearVec [.v 4, .v 5, .m 1, .v 6] bare := vec_clear _

theorem test_vadd_wraps : leftBy (.vadd 0 6 4 5 0 0) vec (fun t => (laneOf 8 (t.cur.vreg 6) 1, laneOf 8 (t.cur.vreg 6) 2)) =
    some (0, 0x80) := by decide +kernel
theorem test_vmulh_signed : leftBy (.vmulh 0 6 4 5 0 1) vec (fun t => laneOf 16 (t.cur.vreg 6) 1) = some 0xFF7F := by
  decide +kernel
theorem test_vmax_inactive : leftBy (.vmax 0 4 4 5 1 0) vec (fun t => laneOf 32 (t.cur.vreg 4) 0) = some 0x807F0102 := by
  decide +kernel

theorem witness_vector_compares :
    vec.clearVec [.v 4, .v 5, .m 1, .m 2] bare ∧ vec.clearVec [.v 4, .v 5, .m 1, .v 6] bare ∧
      vec.clearVec [.m 1, .m 2, .m 3] bare ∧ vec.clearVec [.m 1, .m 2, .c 12] bare ∧ (0 : BitVec 3).toNat = 0 ∧
      (5 : BitVec 3).toNat = 5 := ⟨vec_clear _, vec_clear _, vec_clear _, vec_clear _, rfl, rfl⟩

theorem test_vcmp_lane_bits : leftBy (.vcmp 0 1 2 4 5 0 2) vec (fun t => (t.cur.mreg 2).setWidth 8) = some 0x0C := by
  decide +kernel
theorem test_mand_not : leftBy (.mand 0 2 0 1 1) vec (fun t => (t.cur.mreg 2).setWidth 8) = some 0xFE := by decide +kernel
theorem test_mpop_lanes : leftBy (.mpop 0 12 0 1 2) vec (·.x 12) = some 1 := by decide +kernel

theorem witness_vector_moves :
    vec.clearVec [.v 6, .v 4, .v 5, .m 1, .v 6] bare ∧ vec.clearVec [.v 4, .v 6] bare ∧
      vec.clearVec [.v 4, .c 6] bare ∧ vec.clearVec [.c 4, .v 6] bare ∧ vec.sound 4 ∧
      (0 : BitVec 7).toNat < 1024 / 64 ∧ (127 : BitVec 7).toNat < 1024 / 8 := by
  refine ⟨vec_clear _, vec_clear _, vec_clear _, vec_clear _, ?_, by decide, by decide⟩
  unfold State.sound; decide

theorem test_vext : leftBy (.vext 0 12 4 1 1) vec (·.x 12) = some 0x807F := by decide +kernel
theorem test_vsld_second : leftBy (.vsld 0 5 4 127 0) vec (fun t => (laneOf 8 (t.cur.vreg 5) 0, laneOf 8 (t.cur.vreg 5) 1)) =
    some (0, 1) := by decide +kernel
theorem test_vzip_low : leftBy (.vzip 0 6 4 5 0 0) vec (fun t => laneOf 32 (t.cur.vreg 6) 0) = some 0xFF010102 := by
  decide +kernel

theorem witness_vector_reductions : vec.clearVec [.v 4, .m 1, .v 6] bare := vec_clear _

theorem test_vredadd_signed : leftBy (.vredadd 0 6 4 0 0) vec (fun t => laneOf 64 (t.cur.vreg 6) 0) = some 2 := by
  decide +kernel
theorem test_vredmin_none : leftBy (.vredmin 0 6 4 7 0) (vec.setM 7 0) (fun t => laneOf 64 (t.cur.vreg 6) 0) = some 127 := by
  decide +kernel

theorem witness_vector_float :
    vec.clearVec [.v 4, .v 5, .m 1, .v 6] (typeTakes 0 sameWidth) ∧
      (prefixed 0 0 0 0).clearVec [.v 4, .v 5, .m 1, .v 6] (typeTakes 2 sameWidth) ∧
      (prefixed 0x11 0x12 0 0).clearVec [.v 6, .v 4, .v 5, .m 1, .v 6] (typeTakes 3 sameWidth) := by
  refine ⟨⟨by decide, (vec_clear [.v 4, .v 5, .m 1, .v 6]).2⟩, prefixed_clear _ _ _ _ (by decide) (by decide),
    prefixed_clear _ _ _ _ (by decide) (by decide)⟩

/-- The product 1.5 × 1.0078125 of spec/11_encoding.md, to nearest and toward zero. -/
theorem test_vfmul_rounds :
    let s := (vec.setV 4 (BitVec.ofNat 1024 0x3FC0)).setV 5 (BitVec.ofNat 1024 0x3F81)
    leftBy (.vfmul 0 6 4 5 1 1) s (fun t => laneOf 16 (t.cur.vreg 6) 0) = some 0x3FC2 ∧
      leftBy (.vfmul 0 6 4 5 1 1)
        { s with cur := { s.cur with status := 0x20000081 } } (fun t => laneOf 16 (t.cur.vreg 6) 0) = some 0x3FC1 := by
  decide +kernel

theorem witness_vector_float_compare :
    vec.clearVec [.v 4, .v 5, .m 1, .m 2] (typeTakes 0 fun u v => decide (u = v)) ∧
      (prefixed 0x11 0 0 0).clearVec [.v 4, .v 5, .m 1, .m 2] (typeTakes 3 fun u v => decide (u = v)) ∧
      vec.clearVec [.v 4, .m 1, .v 6] (typeTakes 1 fun _ v => floatCode v) ∧
      (prefixed 0x11 0x10 0 0).clearVec [.v 4, .m 1, .v 6] (typeTakes 3 fun _ v => floatCode v) := by
  refine ⟨⟨by decide, (vec_clear [.v 4, .v 5, .m 1, .m 2]).2⟩, prefixed_clear _ _ _ _ (by decide) (by decide),
    ⟨by decide, (vec_clear [.v 4, .m 1, .v 6]).2⟩, prefixed_clear _ _ _ _ (by decide) (by decide)⟩

theorem witness_round_exact :
    intCode 0x01 = true ∧ binaryCode 0x10 = true ∧ byteCode 0x44 = true ∧ 0x7FC00000 < 2 ^ fmtBits 0x10 ∧
      valueOf 0x10 0x7FC00000 = .nan ∧ valueOf 0x10 0x3F800000 ≠ .nan ∧ 4 ≤ 4 := by decide +kernel

theorem test_value_printed : FpNum.eq (valueOf 0x11 0x3FC0) (valueOf 0x10 0x3FC00000) = true := by decide +kernel

theorem witness_conversions :
    (prefixed 0x01 0x10 0 0).clearVec [.v 4, .m 1, .v 6] (cvtTakes 0 3) ∧
      (prefixed 0x10 0x01 0 0).clearVec [.v 4, .m 1, .v 6] (cvtTakes 0 3) ∧
      vec.clearVec [.v 4, .m 1, .v 6] bareTakes ∧
      (prefixed 0x01 0x10 0 0).clearVec [.v 4, .v 5, .m 1, .v 6] (dqntTakes 3) ∧
      vec.clearVec [.v 4, .v 5, .m 1, .v 6] (sclTakes 0) ∧
      (prefixed 0x10 0x01 0 0).clearVec [.v 4, .m 1, .v 6, .v 7] (qntTakes 3) := by
  refine ⟨prefixed_clear _ _ _ _ (by decide) (by decide), prefixed_clear _ _ _ _ (by decide) (by decide),
    ⟨by decide, (vec_clear [.v 4, .m 1, .v 6]).2⟩, prefixed_clear _ _ _ _ (by decide) (by decide),
    ⟨by decide, (vec_clear [.v 4, .v 5, .m 1, .v 6]).2⟩, prefixed_clear _ _ _ _ (by decide) (by decide)⟩

theorem test_vcvt_widens : leftBy (.vcvt 0 6 4 0 0 0) (prefixed 0x01 0x10 0 0) (fun t => laneOf 32 (t.cur.vreg 6) 3) =
    some 0xC3000000 := by decide +kernel
theorem test_vunpk_sign : leftBy (.vunpk 0 6 4 1 0 0) vec (fun t => laneOf 8 (t.cur.vreg 6) 3) = some 0xF8 := by decide +kernel

theorem witness_format_words :
    vec.clearVec [.v 6] (immTakes 4) ∧ (prefixed 0x01 0 0 0).clearVec [.v 6] (immTakes 2) ∧ vec.clearFor [] ∧
      (prefixed 0x11 0 0 0).cur.pfx = true ∧ (4 : BitVec 3).toNat ≤ 4 ∧ (prefixed 0x01 0 5 0).cur.pfx = true ∧
      payloadOk (prefixed 0x01 0 5 0).cur.pfxv = false := by
  refine ⟨⟨by decide, (vec_clear [.v 6]).2⟩, prefixed_clear _ _ _ _ (by decide) (by decide), ?_, by decide, by decide, by decide,
    by decide⟩
  unfold State.clearFor; decide

theorem test_vimm_signed : leftBy (.vimm 0 6 3 0xFFFE) vec (fun t => laneOf 32 (t.cur.vreg 6) 31) = some 0xFFFFFFFE := by
  decide +kernel
theorem test_fmt_then_add : leftBy (.add 0 12 9 10) (prefixed 0x11 0 0 0) (fun t => (t.cur.cause, t.cur.tval, t.cur.status)) =
    some (1, 0x01309280, 0x0000110000000001) := by decide +kernel

/-! ### Counters -/

/-- The place of the counter page, its cached entry, and the page for a privileged strand of the ASID. -/
def counter : Place := { loc := 0x4000, ptype := .counter, tags := false, cmem := false, spill := false, owner := 0 }
def counterEntry : TlbEntry := { site := .core 0, asid := 1, base := 0x2000, bits := 12, entry := 0x4000000000004663 }
def counterPriv : State := { counterPage with cur := { counterPage.cur with status := 1 } }

theorem witness_counters :
    counterPage.clearFor [.c 8, .c 10, .c 12] ∧ counterPage.clearFor [.c 8, .c 10, .c 12, .c 5] ∧ counterPage.sound 8 ∧
      counterPage.sound 10 ∧ counterPage.undisturbed ∧
      counterPage.reaches (counterPage.cur.creg 8) 0x2000 8 [.counter] .ctrWrite counterPage counter ∧
      counterPage.reaches (counterPage.cur.creg 8) 0x2000 8 [.counter] .ctrRead counterPage counter ∧
      counterPage.calm counter 0x2000 8 ∧ counterPage.performAt 0x4000 8 = counterPage ∧
      counterPage.releaseAt 0 = (counterPage, none) ∧ (counterPage.releaseAt 4).2 = none ∧ counterPage.priv = false ∧
      counterPage.quiet.settled = true ∧ counterPage.tableRoom 0x4000 0 = true ∧ counterPage.mem64 0x4000 = 0 ∧
      (counterPage.releaseWord 2 0x4000 8).markOf 0x4000 = none ∧ (counterPage.releaseWord 2 0x4000 8).waitersAt 0x4000 = [] := by
  refine ⟨?_, ?_, ?_, ?_, ⟨by decide, fun l h => nomatch h⟩,
    cached_reaches counterEntry (by decide +kernel) (by decide +kernel) (by decide +kernel),
    cached_reaches counterEntry (by decide +kernel) (by decide +kernel) (by decide +kernel), ?_, rfl, rfl, rfl, by decide, by decide,
    by decide +kernel, by decide, by decide +kernel, by decide +kernel⟩ <;>
    (try unfold State.clearFor) <;> (try unfold State.sound) <;> (try unfold State.calm) <;> decide

theorem witness_counters_init :
    counterPriv.priv = true ∧ (counterPriv.releaseWord 2 0x4000 8).hasWaiters 0x4000 = false ∧
      counterPriv.reaches (counterPriv.cur.creg 8) 0x2000 8 [.counter] .ctrWrite counterPriv counter ∧
      ((counterPriv.setWaiters 0x4000 [{ pa := 0x4000, threshold := 1, handle := { asid := 1, addr := 0x7040 } }]).releaseWord 2
        0x4000 8).hasWaiters 0x4000 = true ∧
      hasPerm (CapReg.mask (rootAt 0x2000) 1).bits .counter = false ∧ (CapReg.mask (rootAt 0x2000) 1).tag = true ∧
      capMalformed (CapReg.mask (rootAt 0x2000) 1).bits = false :=
  ⟨by decide, by decide +kernel, cached_reaches counterEntry (by decide +kernel) (by decide +kernel) (by decide +kernel),
    by decide +kernel, by decide, by decide, by decide⟩

theorem test_ctr_add_saturates :
    leftBy (.ctrAdd 0 8 10 12 2) { counterPriv with mem := (counterPriv.mem.writeBytes 0x4000 [2]) }
      (fun t => (t.x 12, t.mem64 0x4000)) = some (2, 2 ^ 64 - 1) := by decide +kernel
theorem test_ctr_wait_met : leftBy (.ctrWait 0 8 0 12 2) counterPage (fun t => (t.x 5, t.cur.pc)) = some (0, 0x1004) := by
  decide +kernel
theorem test_ctr_wait_suspends : leftBy (.ctrWait 0 8 11 12 2) counterPage (fun t => (t.cur.run, t.waitersAt 0x4000)) =
    some (.absent, [{ pa := 0x4000, threshold := 7, handle := { asid := 1, addr := 0x7000 } }]) := by decide +kernel
theorem test_ctr_init_user : leftBy (.ctrInit 0 8 0 0 3) counterPage
    (fun t => t.mem64 0x4000) = some 0 := by decide +kernel

/-! ### Scopes -/

/-- Scope 1, the strand's own: a root opened by it, and scope 3, a child that it opened. -/
def own : ScopeRec :=
  { asid := 0, id := 1, parent := noParent, state := .opened, depth := 0, attrs := 0, births := 2, deaths := 0, lost := 0
    result := 0, cx := false, kl := false, sc := false, fl := false, cscope := 0, caddr := 0, cvalue := 0, handler := 0
    leafBase := 0, opener := 0x1000, closeWait := false, swept := 0 }
def child : ScopeRec := { own with id := 3, parent := 1, depth := 1, births := 0, opener := fw.cur.handle.addr }

/-- The firmware strand under a table of 64 records at 0x300000 whose free list starts at record 2, with own and child in
the scope cache (R146 to R149). -/
def inScopeWith (o c : ScopeRec) : State :=
  let s : State := { fw with cur := { fw.cur with sctb := 0x300006, scope := 1, birth := 1 } }
  { s with
    mem := s.mem.writeBytes 0x300000 [2]
    dies := s.dies.set 0 { Die.reset with scopes := [(0x300040, o), (0x3000C0, c)] } }
def inScope : State := inScopeWith own child

theorem inScope_names (v : Word) (a : Nat) (r : ScopeRec) (h : v.toNat < 2 ^ 32 ∧
    inScope.scopeIn inScope.cur.sctb inScope.cur.asid (inScope.scopeId v) = some (a, r) ∧ inScope.fencedAt a = false ∧
    r.state ≠ .free ∧ (inScope.tablePath r.id).any (fun e => decide (e.2.id = inScope.ownScope)) = true) : inScope.namesBelow v a r :=
  ⟨⟨h.1, h.2.1, h.2.2.1, h.2.2.2.1⟩, by simpa using h.2.2.2.2⟩

theorem inScope_undisturbed : inScope.undisturbed := ⟨by decide, fun l h => nomatch h⟩

theorem witness_scope_open :
    inScope.clearFor [.c 0, .c 8, .c 12] ∧ inScope.sound 0 ∧ inScope.sound 8 ∧ inScope.undisturbed ∧ inScope.x 0 ≠ 0xFFFFFFFF ∧
      inScope.namesBelow (inScope.x 0) 0x300040 own ∧ scopeTableOf inScope.cur.sctb = some { base := 0x300000, n := 6 } ∧
      inScope.storeQueued = false ∧ capFault (inScope.cur.creg 8) 0x2000 48 [.load] = none ∧
      (∃ s1 bs, (inScope.checkAll inScope.cur.asid (inScope.tablePath own.id)).readPieces (inScope.cur.creg 8).lo 3 = (s1, .ok bs) ∧
        descriptorOk bs = true ∧ s1.completionHeld s1.me (inScope.cur.creg 8) (BitVec.ofNat 64 (qwordOf bs 0)) = false ∧
        s1.completionOk s1.me (inScope.cur.creg 8) (BitVec.ofNat 64 (qwordOf bs 0)) = true ∧ s1.mem.wf = true ∧
        s1.memN 0x300000 4 = 2 ∧ (s1.die 0).scopes.length < 8192 ∧ s1.partlyPoisoned 0x300000 4 = false) ∧
      own.depth < 64 ∧ own.acceptsAll = true ∧ 0x300080 ≠ 0x300040 ∧ { own with state := .sealed }.acceptsAll = false ∧
      64 ≤ { own with depth := 64 }.depth ∧ descriptorOk (List.replicate 48 255) = false := by
  refine ⟨?_, ?_, ?_, inScope_undisturbed, by decide, inScope_names _ _ _ (by decide +kernel), by decide, by decide, by decide,
    ⟨_, List.replicate 48 0, answers (is_ok (by decide +kernel)), by decide +kernel, by decide +kernel, by decide +kernel,
      by decide +kernel, by decide +kernel, by decide +kernel, by decide +kernel⟩, by decide, by decide, by decide, by decide,
      by decide, by decide⟩ <;>
    (try unfold State.clearFor) <;> (try unfold State.sound) <;> decide

/-- A root scope is opened by privileged code; its table is not full and its free list starts at record 2, or is empty. -/
theorem witness_scope_open_first :
    let s := inScope.setX 9 0xFFFFFFFF
    s.x 9 = 0xFFFFFFFF ∧ s.priv = true ∧ s.fencedAt 0x300000 = false ∧ scopeTableOf s.cur.sctb = some { base := 0x300000, n := 6 } ∧
      s.clearFor [.c 9, .c 8, .c 12] ∧ s.sound 9 ∧ s.sound 8 ∧ s.undisturbed ∧ s.storeQueued = false ∧
      (∃ s1 bs, s.readPieces (s.cur.creg 8).lo 3 = (s1, .ok bs) ∧ descriptorOk bs = true ∧
        s1.completionHeld s1.me (s.cur.creg 8) (BitVec.ofNat 64 (qwordOf bs 0)) = false ∧
        s1.completionOk s1.me (s.cur.creg 8) (BitVec.ofNat 64 (qwordOf bs 0)) = true ∧ s1.mem.wf = true ∧
        s1.memN 0x300000 4 = 2 ∧ (s1.die 0).scopes.length < 8192) ∧
      ({ s with mem := [] } : State).memN 0x300000 4 = 0 := by
  refine ⟨by decide, by decide, by decide, by decide, ?_, ?_, ?_, ⟨by decide, fun l h => nomatch h⟩, by decide,
    ⟨_, List.replicate 48 0, answers (is_ok (by decide +kernel)), by decide +kernel, by decide +kernel, by decide +kernel,
      by decide +kernel, by decide +kernel, by decide +kernel⟩, by decide⟩ <;>
    (try unfold State.clearFor) <;> (try unfold State.sound) <;> decide

theorem test_open_root : leftBy (.scoOpen 0 9 8 12) (inScope.setX 9 0xFFFFFFFF) (fun t => (t.x 12,
    (t.cached 0x300080).map ScopeRec.parent)) = some (2, some noParent) := by decide +kernel

theorem witness_scope_open_root :
    let s := { inScope with cur := { inScope.cur with status := 0 } }.setX 9 0xFFFFFFFF
    s.x 9 = 0xFFFFFFFF ∧ scopeTableOf s.cur.sctb = some { base := 0x300000, n := 6 } ∧ s.priv = false ∧ inScope.priv = true ∧
      (inScope.modDie 0 fun d => { d with fenced := true }).fencedAt 0x300000 = true := by decide +kernel

theorem test_open : leftBy (.scoOpen 0 0 8 12) inScope (fun t => (t.x 12, (t.cached 0x300080).map ScopeRec.depth,
    (t.cached 0x300040).map ScopeRec.births)) = some (2, some 1, some 3) := by decide +kernel

theorem witness_scope_operations :
    inScope.clearFor [.c 11, .c 12, .c 5] ∧ inScope.sound 11 ∧ inScope.undisturbed ∧ inScope.names 3 0x3000C0 child ∧
      child.opener = inScope.cur.handle.addr ∧ child.state = .opened ∧ child.deaths = child.births ∧
      child.lb = false ∧ child.caddr = 0 ∧ inScope.mem.wf = true ∧
      inScope.addWaits (child.party 0) 0x2000 = false ∧ child.cscope ≠ 4 ∧ (inScope.releaseAt 3).2 = none ∧ { child with births := 1 }.deaths ≠ { child with births := 1 }.births ∧ inScope.quiet.settled = true ∧
      inScope.namesBelow 3 0x3000C0 child ∧ inScope.names 0 0x300040 own ∧ own.sc = false ∧ own.cx = false ∧
      inScope.cur.shield = 0 ∧ own.cancel.cx = true ∧
      ({ inScope.cur with status := putField inScope.cur.status 16 4 15 } : Strand).shield = 15 ∧
      ({ inScope.cur with status := putField inScope.cur.status 16 4 1 } : Strand).shield = 1 ∧
      (scopeTableOf inScope.cur.sctb).isSome = true ∧ inScope.cur.cancelled = false := by
  refine ⟨?_, ?_, inScope_undisturbed, (inScope_names _ _ _ (by decide +kernel)).1, by decide, by decide, by decide,
    by decide, by decide, by decide, by decide, by decide, rfl, by decide, by decide, inScope_names _ _ _ (by decide +kernel), (inScope_names _ _ _ (by decide +kernel)).1, by decide, by decide,
    by decide, by decide, by decide, by decide, by decide, by decide⟩ <;>
    (try unfold State.clearFor) <;> (try unfold State.sound) <;> decide

/-- The closing steps of scope 3 are done at once, and count a death in scope 1; with a leaf region in a page that is moving
they are not (R74, R155). -/
theorem witness_scope_close :
    let r1 := { child with state := .closing, closeWait := true }
    let u := inScope.pinScope 0x3000C0 r1
    (u.closeSteps 0x3000C0 r1).2 = true ∧ u.scopeOf child.asid child.parent = some (0x300040, own) ∧ child.depth ≠ 0 ∧
      inScope.fencedAt 0x300040 = false ∧ inScope.partlyPoisoned 0x300000 4 = false ∧
      (let r2 := { child with state := .closing, closeWait := true, asid := 1, attrs := 0x14 }
        let v := { walked with mem := walked.mem.writeBytes 0x113000 ((List.replicate 16 (leBytes 8 0x8000000000003863)).flatMap id) }.modDie 0 fun d =>
          { d with lpns := [(3, { emptyPage with state := .converting })], resv := d.resv.set 0 { reservation := 1, resident := 1 } }
        r2.lb = true ∧ (v.closeSteps 0x3000C0 r2).2 = false) := by decide +kernel

/-- A cancel waits below a shield of one whose scope has a handler (R159, R161). -/
theorem witness_unshield_diverts :
    let s := inScopeWith { own with handler := 0x3000 } child
    let t : State := { s with cur := { s.cur with status := putField s.cur.status 16 4 1, cancelled := true } }
    t.cur.shield = 1 ∧ t.cur.cancelled = true ∧ t.clearFor [] ∧ (scopeTableOf t.cur.sctb).isSome = true ∧
      t.scopeOf t.cur.handle.asid t.cur.birth = some (0x300040, { own with handler := 0x3000 }) := by
  refine ⟨by decide, by decide, ?_, by decide, by decide +kernel⟩
  unfold State.clearFor; decide

theorem test_close_empty : leftBy (.scoClose 0 11 12) (inScope.setX 11 3) (fun t => (t.x 5, (t.cached 0x300040).map ScopeRec.deaths,
    t.memN 0x300000 4)) = some (0, some 1, 3) := by decide +kernel
theorem test_close_waits : leftBy (.scoClose 0 11 12) ((inScopeWith own { child with births := 1 }).setX 11 3)
    (fun t => (t.cur.run, (t.cached 0x3000C0).map ScopeRec.state)) = some (.absent, some .sealed) := by decide +kernel
theorem test_succeed : leftBy (.scoSucceed 0 11 12) inScope (fun t => (t.x 12, t.cur.shield, (t.cached 0x300040).map ScopeRec.result)) =
    some (1, 1, some 7) := by decide +kernel
theorem test_unshield_below : leftBy (.scoUnshield 0) inScope (fun t => (t.cur.cause, t.cur.tval)) = some (0x607, 1) := by
  decide +kernel

theorem witness_spawn :
    inScope.undisturbed ∧ inScope.sound 0 ∧ inScope.sound 8 ∧ inScope.storeQueued = false ∧ inScope.clearFor [.c 0, .c 8, .c 12] ∧
      inScope.namesBelow (inScope.x 0) 0x300040 own ∧ (inScope.checkAll inScope.cur.asid (inScope.tablePath own.id)).recordPlace (inScope.cur.creg 8) = (inScope, .ok (plain 0x2000)) ∧
      inScope.spawnable { asid := 0, addr := 0x2000 } = true ∧ (inScope.releaseAt 3).2 = none ∧ own.acceptsAll = true ∧
      inScope.mem.wf = true ∧
      ({ inScope with mem := inScope.mem.writeBytes 0x2038 [1] } : State).spawnable { asid := 0, addr := 0x2000 } = false := by
  refine ⟨inScope_undisturbed, ?_, ?_, by decide, ?_, inScope_names _ _ _ (by decide +kernel), rfl, by decide +kernel, rfl,
    by decide, by decide +kernel, by decide +kernel⟩ <;>
    (try unfold State.clearFor) <;> (try unfold State.sound) <;> decide

/-- A kernel header at 0x2000: one strand a team, one team (R138). -/
def header : State :=
  { inScope with mem := (((inScope.mem.writeBytes 0x2000 (leBytes 8 0x47484B31)).writeBytes 0x2010 (leBytes 8 0x100)).writeBytes 0x2018
      (leBytes 8 0x100010001)) }

/-- The bytes and the tag that a header's read gives. -/
def headerRead (r : Option (State × Except Stop (List Byte × Bool))) : Option (List Byte × Bool) :=
  r.bind fun x => x.2.toOption

theorem is_header {r : Option (State × Except Stop (List Byte × Bool))} {x : List Byte × Bool} (h : headerRead r = some x) :
    ∃ s, r = some (s, .ok x) := by
  match r with
  | none => simp [headerRead] at h
  | some (s, e) => exact ⟨s, by rw [is_ok (x := e) (a := x) (by simpa [headerRead] using h)]⟩

theorem launch_not_held {s : State} {w : Party} {c : CapReg} {bs : List Byte} {l : Launch} {r : Option ScopeRec}
    (h : l.caddr = 0) (h1 : l.teams = 1) : s.launchHeld w c bs l r = false := by
  simp [State.launchHeld, State.completionHeld, h, h1]

theorem witness_launch :
    (∃ s1 x, (header.checkAll 0 (header.tablePath own.id)).readHeader (header.cur.creg 8) = some (s1, .ok x) ∧ headerOk x.1 = true ∧
        (let l := { headerLaunch x.1 x.2 (header.cur.creg 8) with asid := 0, f := 0, scope := 1 }
        l.teams = 1 ∧ s1.launchHeld s1.me (header.cur.creg 8) x.1 l (some own) = false)) ∧ header.x 0 = 0 ∧
      header.clearFor [.c 8, .c 8, .c 0, .c 0] ∧ header.sound 8 ∧ header.sound 0 ∧
      leftBy (.scoLaunch 0 8 8 0) header (fun t => (t.launches.length, (t.die 0).teamQ)) = some (1, [.fresh 1 0 0]) := by
  obtain ⟨s1, h⟩ := is_header (r := (header.checkAll 0 (header.tablePath own.id)).readHeader (header.cur.creg 8)) (x := (leBytes 64
    (0x47484B31 + 0x100 * 2 ^ 128 + 0x100010001 * 2 ^ 192), false)) (by decide +kernel)
  refine ⟨⟨s1, _, h, by decide +kernel, by decide +kernel, ?_⟩, by decide, ?_, ?_, ?_, by decide +kernel⟩
  · have h0 : (headerLaunch (leBytes 64 (0x47484B31 + 0x100 * 2 ^ 128 + 0x100010001 * 2 ^ 192)) false (header.cur.creg 8)).caddr = 0 ∧
        (headerLaunch (leBytes 64 (0x47484B31 + 0x100 * 2 ^ 128 + 0x100010001 * 2 ^ 192)) false (header.cur.creg 8)).teams = 1 := by
      decide +kernel
    exact launch_not_held h0.1 h0.2
  all_goals (try unfold State.clearFor) <;> (try unfold State.sound) <;> decide

/-! ### Leaf pages -/

/-- The place of the leaf page at its base and its cached entry; the page with one line held; and two LPNs of function 0. -/
def leaf : Place := { loc := leafLoc 0 3 0, ptype := .leaf, tags := false, cmem := false, spill := false, owner := 0 }
def leafEntry : TlbEntry := { site := .core 0, asid := 1, base := 0, bits := 16, entry := 0x8000000000003E63 }
def leafPair : State :=
  leafPage.modDie 0 fun d =>
    { d with
      lpns := [(3, { emptyPage with state := .resident, lines := [(7, 0)], lastAsid := 1 }), (5, emptyPage)]
      resv := d.resv.set 0 { reservation := 1, resident := 1 } }

theorem witness_leaf_instructions :
    leafPair.clearFor [.c 8] ∧ leafPair.sound 8 ∧ leafPair.storeQueued = false ∧
      capFault (leafPair.cur.creg 8) 0 65536 [.store] = none ∧ translate leafPair leafPair.me 0 .leafOp = (leafPair, .ok leaf) ∧
      translate leafPair leafPair.me 0x2000 .stat =
        (leafPair, .ok { leaf with loc := leafLoc 0 3 0x2000 }) ∧
      leafPair.fencedAt leaf.loc = false ∧ (leafPair.lpn 0 3).state = .resident ∧ leafPair.mem.wf = true ∧
      leafPair.moveRuns 0x7000 = false ∧ (leafPair.lpn 0 3).holds (.strand 0x7000) = false ∧
      ({ emptyPage with queue := [.strand 0x8000] } : Lpn).holds (.strand 0x7000) = true ∧
      (leafPair.departAt 0 3 (.strand 0x7000)).moveRefused 0 3 5 = none ∧ leafParts leaf.loc = (0, 3, 0) ∧
      (leafPair.modDie 0 fun d => { d with leafDone := [{ issuer := 0x7000, outcome := 0 }] }).leafResult 0x7000 = some (0, 0) ∧
      (leafPair.modDie 0 fun d => { d with leafDone := [{ issuer := 0x7000, outcome := 4 }] }).leafResult 0x7000 = some (0, 4) := by
  refine ⟨?_, ?_, by decide, by decide, translate_cached leafEntry (by decide +kernel) (by decide +kernel),
    translate_cached leafEntry (by decide +kernel) (by decide +kernel), by decide, by decide, by decide, by decide, by decide,
    by decide, by decide, by decide, by decide, by decide⟩ <;>
    (try unfold State.clearFor) <;> (try unfold State.sound) <;> decide

theorem test_leaf_stat : leftBy (.lfStat 0 8 12) leafPair (·.x 12) = some (3 * 65536 + 1 * 16 + 1) := by decide +kernel
theorem test_leaf_stat_window : leftBy (.lfStat 0 8 12) (leafPair.setC 8 { rootCap with bits := rootCap.bits + 0xFFFFFFE00000 })
    (·.x 12) = some 7 := by decide +kernel

/-! ### Engines -/

/-- A lease that the user strand holds, and one command of its queue. -/
def lease : Lease :=
  { holder := 0x7000, asid := 1, scope := 1, completed := 0, rerun := false, dropped := false, cut := false, ended := false }
def zeroCmd : AnvilCmd := { op := .zero, base := 0, geom := 0, fmt := 0, scales := none, issuer := 0x7000, first := [], got := [], bad := false }

/-- The user strand in team 9, whose window has 64 pages of cluster 0, in scope 1, which its ASID's cache holds. c8 is the
root capability at the window's second page, c9 the geometry of signed bytes at a row pitch of 128, c10 that of an fp32
image at a row pitch of 512 (R302). -/
def teamed : State :=
  let s : State := { user with cur := { user.cur with teamId := 9, scope := 1, birth := 1 } }
  let s : State :=
    { s with
      teams := [{ id := 9, launchId := 5, index := 0, block := 0x6000, die := 0, cluster := 0, cores := [1], page0 := 0, pages := 64
                  placed := true, area := 0, twins := [], fresh := [], f := 0, since := 0, strands := 1, grant := 0, held := [] }]
      dies := s.dies.set 0 { Die.reset with scopes := [(0x300040, { own with asid := 1 })] } }
  ((s.setC 8 { rootCap with bits := rootCap.bits + 0xFFFFFFE01000 }).setX 9 0x10000000080).setX 10 0x100000000200

/-- The same with the lease held. -/
def leasing : State := teamed.setCore 0 { Core.reset with lease := some lease }

theorem leasing_leased : leasing.leased lease := ⟨by decide, by decide, rfl, rfl⟩

theorem bears_own {s : State} {a : Nat} (r : ScopeRec)
    (h : s.scopeOf s.cur.asid (s.cur.scope.setWidth 32) = some (a, r) ∧ s.fencedAt a = false ∧ r.acceptsMember = true ∧
      r.acceptsAll = true) : s.bears a r := ⟨h.1, h.2.1, h.2.2.1, .inl h.2.2.2⟩

theorem witness_anvil_lease :
    teamed.clearFor [.c 12] ∧ teamed.undisturbed ∧ (teamed.core 0).lease = none ∧ (teamed.cluster 0).anvilOut = false ∧
      teamed.anvilTested 0 = false ∧ (teamed.cluster 0).grant = none ∧
      ((teamed.setCluster 0 { Cluster.reset with grant := some 0 }).cluster 0).grant = some (coreIx 0) ∧ teamed.bears 0x300040 { own with asid := 1 } ∧
      leasing.leased lease ∧ leasing.anvilPending 0x7000 = false ∧
      (teamed.setCluster 0 { Cluster.reset with anvilOut := true }).cluster 0 = { Cluster.reset with anvilOut := true } := by
  refine ⟨?_, ⟨by decide, fun l h => nomatch h⟩, by decide, rfl, by decide, rfl, rfl, bears_own _ (by decide +kernel), leasing_leased, by decide,
    rfl⟩
  unfold State.clearFor; decide

theorem witness_anvil_operands :
    leasing.clearMx [.c 8, .c 9, .c 0] (fun v => decide (payA v = 0) && mxCodeOk (payB v)) ∧ leasing.sound 8 ∧ leasing.sound 9 ∧
      leasing.sound 0 ∧ leasing.sound 10 ∧ (leasing.core 0).queue.length < 8 ∧ geomFmt (leasing.x 9) = 0x01 ∧
      geomFault (leasing.x 9) 0xFFFFFFE01000 true (shapeB 0x01) = none ∧
      leasing.windowFault (leasing.cur.creg 8) 0xFFFFFFE01000 (operandTop 0xFFFFFFE01000 (leasing.x 9) (shapeB 0x01)) 0 .load = none ∧
      leasing.scaleOperand 0 4 = .ok none ∧ depthsAgree 0x01 (leasing.core 0).bClass = true ∧
      geomFault (leasing.x 10) 0xFFFFFFE01000 (imageCode 0x10) (shapeImage 0x10) = none ∧
      leasing.windowFault (leasing.cur.creg 8) 0xFFFFFFE01000 (operandTop 0xFFFFFFE01000 (leasing.x 10) (shapeImage 0x10)) 2 .store =
        none ∧
      windowBase + 4096 ≤ 0xFFFFFFE01000 ∧ (leasing.core 0).queue = [] ∧ (leasing.core 0).accPoison = false ∧
      geomFault (leasing.x 9) 0xFFFFFFE01000 (imageCode (geomFmt (leasing.x 9))) (shapeImage (geomFmt (leasing.x 9))) = some 2 := by
  have none_of : ∀ {α : Type} {x : Option α}, x.isNone = true → x = none := by intro α x h; simpa using h
  refine ⟨⟨fun v h => ?_, by decide⟩, ?_, ?_, ?_, ?_, by decide, by decide, by decide +kernel, none_of (by decide +kernel), rfl,
    by decide +kernel, by decide +kernel, none_of (by decide +kernel), by decide, by decide, by decide, by decide +kernel⟩
  · exact absurd ((show leasing.cur.pending = none by decide).symm.trans h) (by simp)
  all_goals unfold State.sound; decide

theorem test_mx_zero_without_lease : leftBy (.mxZero 0) teamed (fun t => (t.cur.run, t.sent)) = some (.trapStalled
    { cause := 9, subcode := 0, tval := 0, epc := 0x1000 }, []) := by decide +kernel
theorem test_mx_queue : leftBy (.mxOpb 0 8 9 0) leasing (fun t => ((t.core 0).queue.map AnvilCmd.op, (t.core 0).bClass)) =
    some ([.opb], 0) := by decide +kernel

/-- The Anvil of cluster 0 is granted to core 1, whose queue holds one command. -/
def running (q : AnvilCmd) : State :=
  (fw.setCluster 0 { Cluster.reset with grant := some 1, cmdsLeft := 64, cyclesLeft := 4096 }).setCore 1
    { Core.reset with queue := [q], lease := some lease }

/-- A checksum mismatch that a second one follows (R305). -/
def mismatchReport : ErrorReport := { severity := 1, kind := 1, unit := 0, code := 3, address := 0, asid := none, info := 0 }

/-- Ranges in ascending order, each ending before the next begins, do not meet. -/
def ascends : List (Nat × Nat) → Bool
  | x :: y :: l => decide (x.1 + x.2 ≤ y.1) && ascends (y :: l)
  | _ => true

theorem ascends_pairwise : ∀ l : List (Nat × Nat), ascends l = true → l.Pairwise fun x y => x.1 + x.2 ≤ y.1
  | [], _ => .nil
  | [_], _ => by simp
  | x :: y :: l, h => by
    simp only [ascends, Bool.and_eq_true, decide_eq_true_eq] at h
    have hp := ascends_pairwise (y :: l) h.2
    have hy := (List.pairwise_cons.1 hp).1
    refine List.pairwise_cons.2 ⟨fun z hz => ?_, hp⟩
    rcases List.mem_cons.1 hz with rfl | hz
    · exact h.1
    · have := hy z hz
      omega

theorem apart_ascending {l : List (Nat × Nat)} (h : ascends l = true) : apart l := (ascends_pairwise l h).imp fun h => .inl h

/-- A product, a load of the accumulator and a store of it as bf16, whose reads are all made in the last two. -/
def mmaCmd : AnvilCmd := { zeroCmd with op := .mma, base := clusterLoc 0 + 0x1000, fmt := 0x01, geom := 0x10000000080 }
def ldCmd (bad : Bool) : AnvilCmd :=
  { zeroCmd with
    op := .ld, base := clusterLoc 0 + 0x1000, fmt := 0x10, geom := 0x100000000200, bad := bad
    got := (List.range 1024).map fun i => (i, List.replicate 64 0) }
def stCmd : AnvilCmd := { zeroCmd with op := .st, base := clusterLoc 0 + 0x1000, fmt := 0x11, geom := 0x110000000100 }

theorem witness_anvil_reads :
    (running mmaCmd).anvilUnread 1 mmaCmd ≠ [] ∧ (running zeroCmd).anvilUnread 1 zeroCmd = [] ∧
      (running stCmd).anvilUnread 1 stCmd = [] ∧ (ldCmd false).bad = false ∧ (ldCmd true).bad = true := by
  refine ⟨by decide +kernel, by decide +kernel, by decide +kernel, rfl, rfl⟩

theorem witness_anvil_store :
    let chunks := (List.range 128).flatMap fun r => (List.range 4).map fun n => chunkAt stCmd.base stCmd.geom r n
    apart (chunks.map fun z => (z, 64)) ∧ (∀ z ∈ chunks, z % 64 = 0) ∧ (∀ z ∈ chunks, (running stCmd).fencedAt z = false) ∧
      (running stCmd).mem.wf = true ∧ imageCode 0x11 = true ∧ 2 * (fmtBits 0x11 / 8) = 4 := by
  exact ⟨apart_ascending (by decide +kernel), by decide +kernel, by decide +kernel, by decide, by decide, by decide⟩

/-- A run ends: of a core without a lease, and of a holder beside core 2, which waits. -/
theorem witness_anvil_run_end :
    let s := (running zeroCmd).modCluster 0 fun x => { x with waiting := [2], lastGrant := 1 }
    (s.cluster 0).grant = some 1 ∧ (s.core (clusterCore 0 1)).inProgress = false ∧ s.anvilTested 0 = false ∧
      (s.core (clusterCore 0 1)).lease = some lease ∧ (2 : Fin 4) ∈ (s.cluster 0).waiting ∧ (2 : Fin 4) ≠ 1 ∧
      (s.cluster 0).lastGrant = 1 ∧
      ((running { mmaCmd with got := [(0, [])] }).core (clusterCore 0 1)).inProgress = true := by
  decide +kernel

theorem test_anvil_run_end : leftBy (.anvilRunEnd 0) ((running zeroCmd).modCluster 0 fun x => { x with waiting := [2], lastGrant := 1 })
    (fun t => ((t.cluster 0).grant, (t.cluster 0).waiting)) = some (some 2, [1]) := by decide +kernel

theorem witness_anvil_runs :
    ((running zeroCmd).cluster 0).grant = some 1 ∧ ((running zeroCmd).core (clusterCore 0 1)).queue = [zeroCmd] ∧
      ((running zeroCmd).cluster 0).cmdsLeft ≠ 0 ∧ ((running zeroCmd).cluster 0).cyclesLeft ≠ 0 ∧
      (running zeroCmd).anvilTested 0 = false ∧ ((running zeroCmd).core (clusterCore 0 1)).lease = some lease ∧
      lease.ended = false ∧ ((running zeroCmd).cluster 0).waiting = [] ∧ mxClass 0x01 = some .byte ∧
      ((running zeroCmd).cluster 0).mismatch = none ∧
      (((running zeroCmd).modCluster 0 fun x => { x with mismatch := some mismatchReport }).cluster 0).mismatch = some mismatchReport ∧
      Core.reset.staged.poison = false ∧
      Core.reset.accPoison = false ∧ Core.reset.lease = none := by
  decide +kernel

theorem test_anvil_zero : leftBy (.anvilCommandRun 0) ((running zeroCmd).modCore 1 fun x => { x with acc := [1], accPoison := true })
    (fun t => ((t.core 1).acc, (t.core 1).accPoison, (t.cluster 0).cmdsLeft)) = some ([], false, 63) := by decide +kernel

/-- Descriptor registers of a Ladle copy of eight bytes from 0x2000 to 0x3000 (R316). -/
def copyRegs : Vector CapReg 9 :=
  ((((Vector.replicate 9 CapReg.zero).set 0 (rootAt 0x2000)).set 1 (rootAt 0x3000)).set 2 (CapReg.untagged 0x10008)).set 5
    (CapReg.untagged 0x100000008)
def ladle : State := { inScope with cur := { inScope.cur with lad := copyRegs } }

theorem witness_ladle_instructions :
    ladle.clearFor [.c 8] ∧ ladle.clearFor [.c 12] ∧ ladle.clearFor [.c 11, .c 12] ∧ ladle.sound 8 ∧ (0 : CIdx).toNat ≤ 8 ∧
      (8 : CIdx).toNat ≤ 8 ∧ ladle.undisturbed ∧ ladle.ladFault ladle.cur.lad.toList = none ∧ ladle.storeQueued = false ∧
      (boxOf ladle.cur.lad.toList).allSources ≠ [] ∧
      (ladle.releaseAt (ladle.sourceScope ladle.me 0 (boxOf ladle.cur.lad.toList).allSources)).2 = none ∧
      freeOf ((ladle.core 0).lads.map LadleXfer.slot) 16 = some 0 ∧ ladle.bears 0x300040 own ∧
      ({ ladle with cur := { ladle.cur with lad := copyRegs.set 2 (CapReg.untagged 0x500010008) } } : State).shapeFault
        (copyRegs.set 2 (CapReg.untagged 0x500010008)).toList = some (8, 2) := by
  have none_of : ∀ {α : Type} {x : Option α}, x.isNone = true → x = none := by intro α x h; simpa using h
  have small : ladle.sourceScope ladle.me 0 (boxOf ladle.cur.lad.toList).allSources = 2 := by decide +kernel
  refine ⟨?_, ?_, ?_, ?_, by decide, by decide, ⟨by decide, fun l h => nomatch h⟩, none_of (by decide +kernel), by decide,
    by decide +kernel, by rw [small]; rfl, by decide, bears_own _ (by decide +kernel), by decide +kernel⟩ <;>
    (try unfold State.clearFor) <;> (try unfold State.sound) <;> decide

theorem test_lad_go : leftBy (.ladGo 0 12) ladle (fun t => (t.x 12, (t.core 0).lads.map LadleXfer.state, (t.core 0).ladSeq)) =
    some (0, [0], 1) := by decide +kernel
theorem test_lad_stat_unknown : leftBy (.ladStat 0 11 12) ladle (·.x 12) = some 0xF000000000000000 := by decide +kernel

/-- A transfer in slot 2 of core 0, and what it reads of its one source sector. -/
def xfer : LadleXfer :=
  { slot := 2, id := 0, regs := copyRegs, asid := 0, scope := 1, issuer := 0x4FFFFFFFC0, teamId := 0, state := 0, cause := 0
    subcode := 0, count := 0, flying := false, row := 0, byte := 0, got := [], cancel := false, kill := false, carried := []
    added := false }
def copying (x : LadleXfer) : State := inScope.setCore 0 { Core.reset with lads := [x] }
def eight : Fetched := { va := 0x2000, bytes := List.replicate 8 0, tags := List.replicate 4 false }

theorem witness_ladle_transfers :
    ((copying xfer).core 0).ladIn 2 = some xfer ∧ xfer.state.toNat < 2 ∧ xfer.kill = false ∧ xfer.cancel = false ∧
      xfer.row < (boxOf copyRegs.toList).h ∧ (boxOf copyRegs.toList).w ≠ 0 ∧
      ((boxOf copyRegs.toList).segments 0)[0]? = some [(0x3000, 8, 0)] ∧ ((boxOf copyRegs.toList).segments 0)[1]? = none ∧
      (sectorsOf ((boxOf copyRegs.toList).needs 0 [(0x3000, 8, 0)])).filter (fun k => !hasSector xfer.got k) = [128] ∧
      ((copying xfer).fetchSector (xfer.party 0) 0x2000 8).2 = .ok eight ∧
      ((copying xfer).fetchSector (xfer.party 0) 0x2000 8).1.core 0 = (copying xfer).core 0 ∧
      (sectorsOf ((boxOf copyRegs.toList).needs 0 [(0x3000, 8, 0)])).filter (fun k => !hasSector [eight] k) = [] ∧
      ((copying { xfer with got := [eight] }).segment 0 { xfer with got := [eight] } 0 [(0x3000, 8, 0)]).2 = none ∧
      (boxOf copyRegs.toList).h ≤ { xfer with row := 1 }.row ∧ 2 ≤ { xfer with state := 2 }.state.toNat ∧
      ((copying xfer).engineSettled (.ladle 0 2) [] (engineKey 0 0 2) (boxOf copyRegs.toList).scope).2 = true ∧
      (copying xfer).pendingOn (.ladle 0 2) = 0 ∧ (copying xfer).addWaits (xfer.party 0) 0x2000 = false ∧
      xfer.regs.get 7 = CapReg.zero ∧ (copyRegs.set 7 (rootAt 0x2000)).get 7 ≠ CapReg.zero := by
  refine ⟨by decide, by decide, rfl, rfl, by decide, by decide, by decide +kernel, by decide +kernel, by decide +kernel,
    is_ok (by decide +kernel), by decide +kernel, by decide +kernel, by decide +kernel, by decide, by decide, by decide +kernel,
    by decide +kernel, by decide +kernel, by decide, by decide⟩

/-- A source beyond every region of the boot map faults, as does a target there (R321). -/
def strayRegs (k : Fin 9) : Vector CapReg 9 := copyRegs.set k (rootAt 0x700000000000)
theorem witness_ladle_faults :
    let x := { xfer with regs := strayRegs 0 }
    let y := { xfer with regs := strayRegs 1, got := [eight] }
    (∃ c u v, ((copying x).fetchSector (x.party 0) 0x700000000000 8).2 = .error (.fault c u v) ∧ ¬ (c = 0x0B ∧ u = 2)) ∧
      (∃ c u v, ((copying y).segment 0 y 0 [(0x700000000000, 8, 0)]).2 = some (.fault c u v) ∧ ¬ (c = 0x0B ∧ u = 2)) ∧
      ((((copying x).fetchSector (x.party 0) 0x700000000000 8).1.undo (copying x)).scopeOf 0 1) = some (0x300040, own) ∧
      (((copying x).fetchSector (x.party 0) 0x700000000000 8).1.core 0).ladIn 2 = some x := by
  refine ⟨⟨_, _, _, rfl, by decide⟩, ⟨_, _, _, rfl, by decide⟩, by decide +kernel, by decide +kernel⟩

/-- The one sector of the source is read next, whatever is free (R126). -/
theorem witness_ladle_sector (tick : Nat) : xfer.nextSector tick [128] = some 128 := by
  have h : (sectorsOf (boxOf xfer.regs.toList).allSources).filter (fun k => !hasSector xfer.got k) = [128] := by decide +kernel
  unfold LadleXfer.nextSector
  simp only [h]
  split <;> simp [Nat.mod_one]

theorem test_ladle_copies :
    let x := { xfer with got := [{ eight with bytes := [0, 9, 0, 0, 0, 0, 0, 0] }] }
    ((copying x).segment 0 x 0 [(0x3000, 8, 0)]).1.mem.filter (fun c => decide (c.1 / 4096 = 3)) = [(0x3001, 9)] := by
  decide +kernel
theorem test_ladle_cancelled : leftBy (.ladleSegment 0 2) (copying { xfer with cancel := true })
    (fun t => ((t.core 0).lads.map LadleXfer.state, t.due)) = some ([3], [.ladleTransferEnd 0 2]) := by decide +kernel

/-- Descriptor registers of a sum of four fp32 elements from 0x2000 to 0x3000 in group 0, which holds this rank alone
(R322, R366). -/
def sumRegs : Vector CapReg 8 :=
  ((((Vector.replicate 8 CapReg.zero).set 0 (rootAt 0x2000)).set 1 (rootAt 0x3000)).set 3 (CapReg.untagged 4)).set 5
    (CapReg.untagged 0x1010)
def soloJob : Job :=
  { hallmark := 0, groups := 0x400000, groupCount := 1, peerMap := 0, peers := [], ranks := 1, rank := 0, epoch := 1, peerAsid := 0
    peerBase := 0 }
def crucible : State :=
  { inScope with
    cur := { inScope.cur with cru := sumRegs }
    jobs := inScope.jobs.set 0 (some soloJob)
    mem := (inScope.mem.writeBytes 0x400008 (leBytes 8 0x1000000008000)).writeBytes 0x400018 (leBytes 8 0x410000) }
def alone : Group := { job := soloJob, rankList := 0x410000, directory := 0, n := 1, me := 0, inr := false }

theorem witness_crucible_instructions :
    crucible.clearFor [.c 8] ∧ crucible.clearFor [.c 12] ∧ crucible.clearFor [.c 11, .c 12] ∧ crucible.sound 8 ∧
      (7 : CIdx).toNat ≤ 7 ∧ crucible.undisturbed ∧ crucible.kindFault crucible.cur.cru.toList = none ∧
      crucible.group crucible.myFn (cruDesc crucible.cur.cru.toList).group = some alone ∧
      crucible.sideFault crucible.cur.cru.toList (cruDesc crucible.cur.cru.toList) alone = none ∧
      (cruDesc crucible.cur.cru.toList).nr = false ∧ ctrRegOk (crucible.cur.cru.toList.getD 6 CapReg.zero) = true ∧
      crucible.storeQueued = false ∧
      crucible.releaseAt (crucible.sourceScope crucible.me 0
        (cruSource crucible.cur.cru.toList (cruDesc crucible.cur.cru.toList) alone.n alone.me)) = (crucible, none) ∧
      freeOf ((crucible.core 0).crus.map Collective.slot) 4 = some 0 ∧ crucible.bears 0x300040 own ∧
      crucible.kindFault (sumRegs.set 4 (CapReg.untagged 4)).toList = some (8, 4) := by
  have none_of : ∀ {α : Type} {x : Option α}, x.isNone = true → x = none := by intro α x h; simpa using h
  have small : crucible.sourceScope crucible.me 0
      (cruSource crucible.cur.cru.toList (cruDesc crucible.cur.cru.toList) alone.n alone.me) = 2 := by decide +kernel
  refine ⟨?_, ?_, ?_, ?_, by decide, ⟨by decide, fun l h => nomatch h⟩, none_of (by decide +kernel), by decide +kernel,
    none_of (by decide +kernel), by decide +kernel, by decide +kernel, by decide, by rw [small]; rfl, by decide,
    ⟨by decide +kernel, by decide⟩, by decide +kernel⟩ <;>
    (try unfold State.clearFor) <;> (try unfold State.sound) <;> decide

theorem test_cru_go : leftBy (.cruGo 0 12) crucible (fun t => (t.x 12, (t.core 0).crus.map Collective.ranks, (t.core 0).cruSeq)) =
    some (0, [1], 1) := by decide +kernel

/-- A staged collective of three ranks in slot 1 of core 0, on rank 0, and the head of its flits. -/
def sum : Collective :=
  { slot := 1, id := 0, number := 1, regs := sumRegs.set 4 (CapReg.untagged 0x80), asid := 0, scope := 1, issuer := 0
    teamId := 0, f := 0, ranks := 3, me := 0, buffer := CapReg.zero, inSwitch := false, switch := none, k := 0, paths := []
    phase := .queued, contrib := [], reduced := false, results := [], toWrite := [], readies := [], heads := [], flying := 0, residuals := [], link := 0
    cause := 0, subcode := 0, written := 0, kill := false, got := [], tell := none, carried := [], added := false, state := 0 }
def summing (x : Collective) : State := inScope.setCore 0 { Core.reset with crus := [x] }

theorem witness_collectives_flits :
    ((summing sum).core 0).cruIn 1 = some sum ∧ sum.state.toNat < 2 ∧ sum.phase ≠ .committed ∧ [(1 : Word)] ≠ [] ∧
      sum.head.k = sum.k ∧ sum.accepts { head := sum.head, kind := .contribution } 5 0 1 = false ∧
      sum.accepts { head := { sum.head with fmt := 0 }, kind := .contribution } 1 0 1 = false ∧
      sum.accepts { head := sum.head, kind := .contribution } 1 0 1 = true ∧ sum.phase = .queued ∧
      sum.desc.staged = true ∧ sum.me = 0 ∧ 1 < sum.ranks ∧ (summing sum).cruHeld sum = false ∧
      ({ sum with phase := .sentReady, readies := [0, 1, 2] } : Collective).readies = [0, 1, 2] ∧
      sum.awaits = true ∧ { sum with phase := .sentReady, me := 2 }.awaits = true := by
  refine ⟨by decide, by decide, by decide, by decide, rfl, by decide +kernel, by decide +kernel, by decide +kernel, rfl,
    by decide +kernel, rfl, by decide, by decide +kernel, rfl, by decide, by decide⟩

theorem witness_collectives_ends :
    { sum with kill := true }.kill = true ∧ 2 ≤ { sum with state := 2 }.state.toNat ∧ (summing sum).heldBack sum = false ∧
      (summing sum).group 0 sum.desc.group = none ∧ sum.added = false ∧ sum.tell = none ∧ sum.teamId = 0 ∧
      ((summing sum).engineSettled (.crucible 0 1) [] (engineKey 0 1 1) sum.desc.scope).2 = true ∧
      sum.regs.get 6 = CapReg.zero ∧ (summing sum).pendingOn (.crucible 0 1) = 0 := by
  refine ⟨rfl, by decide, by decide +kernel, by decide +kernel, rfl, rfl, rfl, by decide +kernel, by decide, by decide +kernel⟩

/-- The same sum of this rank alone, with a group that the job names; its one block is read, reduced and written. -/
def lone : Collective := { sum with regs := sumRegs, ranks := 1 }
def loneState (x : Collective) : State := crucible.setCore 0 { Core.reset with crus := [x] }

theorem witness_collectives_reads :
    (loneState lone).group 0 lone.desc.group = some alone ∧ (loneState lone).membersUp 0 alone = true ∧
      sectorsOf lone.inputs = [128] ∧
      ((loneState lone).fetchSector (lone.party 0) 0x2000 16).2 =
        .ok { va := 0x2000, bytes := List.replicate 16 0, tags := List.replicate 4 false } ∧
      ((loneState lone).fetchSector (lone.party 0) 0x2000 16).1.core 0 = (loneState lone).core 0 ∧
      (loneState lone).resultHeld { lone with phase := .gather } = false := by
  refine ⟨by decide +kernel, by decide +kernel, by decide +kernel, is_ok (by decide +kernel), by decide +kernel,
    by decide +kernel⟩

theorem test_collective_abort : leftBy (.collectiveAbort 0 { slot := 1, mismatch := false }) (summing sum)
    (fun t => ((t.core 0).crus.map fun x => (x.state, x.link), t.due, t.sent)) =
      some ([(3, 4)], [.collectiveEnd 0 1], []) := by decide +kernel
theorem test_collective_disagrees : leftBy (.collectiveFlit 0 1 { head := { sum.head with count := 5 }, kind := .contribution } 1 0 [1]) (summing sum)
    (fun t => (t.core 0).crus.map fun x => (x.state, x.link)) = some [(3, 6)] := by decide +kernel

/-- The lone sum with its block gathered, before and after its result is written; and a staged one of it. -/
def gathered : Collective := { lone with phase := .gather, contrib := [(0, 0, [0, 0, 0, 0])] }
def reducedSum : Collective := { gathered with reduced := true, results := [(0, [0, 0, 0, 0])], toWrite := [(0, [0, 0, 0, 0])] }
def writtenSum : Collective := { gathered with reduced := true, results := [(0, [0, 0, 0, 0])], written := 4 }
def stagedSum : Collective := { writtenSum with regs := (sumRegs.set 4 (CapReg.untagged 0x80)).set 2 (rootAt 0x6000) }

/-- What writing the results of a collective leaves. -/
def settlesTo (x : Collective) (flying : Nat) (full : Bool) : Bool :=
  let r := (loneState gathered).writeResults 0 x
  r.2.2.isNone && r.2.1.slot == 1 && decide (r.2.1.phase = .gather) && r.2.1.agreed && r.2.1.flying == flying && r.2.1.full == full &&
    (r.1.core 0).cruIn 1 == some gathered

theorem witness_collectives_gathers :
    gathered.phase = .gather ∧ gathered.kill = false ∧ gathered.reduced = false ∧
      (∀ r < 1, ∀ n < 4, (gathered.contribAt r n).isSome = true) ∧ gathered.desc.op = 0 ∧ (loneState gathered).cruHeld gathered = false ∧
      settlesTo reducedSum 4 false = true ∧ settlesTo writtenSum 0 true = true ∧ settlesTo stagedSum 0 true = true ∧
      writtenSum.desc.staged = false ∧ stagedSum.desc.staged = true ∧ stagedSum.me = 0 ∧ { stagedSum with me := 1 }.me ≠ 0 ∧
      writtenSum.residualRuns = [] ∧ ({ sum with phase := .gather, heads := [1] } : Collective).agreed = false := by
  refine ⟨rfl, rfl, rfl, by decide +kernel, by decide +kernel, by decide +kernel, by decide +kernel, by decide +kernel,
    by decide +kernel, by decide +kernel, by decide +kernel, rfl, by decide, by decide +kernel, by decide +kernel⟩

/-- A staged result is copied from its buffer when the collective commits (R371). -/
theorem witness_collectives_commits :
    let x := { stagedSum with phase := .committed }
    ∃ bs, ((loneState x).readBytes (x.party 0) 0x6000 16).2 = .ok bs ∧ x.desc.targets x.ranks * fmtBits x.desc.dst % 8 = 0 ∧
      fmtBytes x.desc.dst (x.desc.targets x.ranks) = 16 ∧
      (((loneState x).readBytes (x.party 0) 0x6000 16).1.writeAll (x.party 0) (engineKey 0 1 1) (lineRuns 0x3000 bs)).2 = none ∧
      (((((loneState x).readBytes (x.party 0) 0x6000 16).1.writeAll (x.party 0) (engineKey 0 1 1) (lineRuns 0x3000 bs)).1).core 0).cruIn 1 =
        some x := by
  have none_of : ∀ {α : Type} {x : Option α}, x.isNone = true → x = none := by intro α x h; simpa using h
  exact ⟨List.replicate 16 0, is_ok (by decide +kernel), by decide +kernel, by decide +kernel, none_of (by decide +kernel),
    by decide +kernel⟩

/-- With its one sector read, what the rank sends follows: a contribution, or with its group in a switch, a flit to it; another
operation's elements, or at a rank that is not the root none (R194, R369). -/
theorem witness_collectives_sends :
    let x := { lone with phase := .reading, got := [{ va := 0x2000, bytes := List.replicate 16 0, tags := List.replicate 4 false }] }
    (sectorsOf x.inputs).filter (fun k => !hasSector x.got k) = [] ∧ (loneState x).cruHeld x = false ∧ x.desc.op ≤ 1 ∧
      x.inSwitch = false ∧ { x with inSwitch := true }.inSwitch = true ∧
      { x with regs := sumRegs.set 4 (CapReg.untagged 2) }.desc.op = 2 ∧
      (let y := { x with regs := sumRegs.set 4 (CapReg.untagged 0x10003) };
        y.desc.op = 3 ∧ y.me ≠ y.desc.root ∧ y.desc.sources y.ranks y.me = 0) := by
  refine ⟨by decide +kernel, by decide +kernel, by decide +kernel, rfl, rfl, by decide +kernel, by decide +kernel⟩

/-- An abort that a rank still has to send goes out by a port in service; while the port is stopped it waits (R372). -/
theorem witness_collectives_tells :
    let x := { sum with state := 3, tell := some (true, [(1, 1)]) }
    let s := { summing x with ports := (summing x).ports.set 0 { Port.reset with up := true } }
    2 ≤ x.state.toNat ∧ (s.anyUp 1 && !s.allHeld 0 1) = true ∧
      { s with ports := s.ports.set 0 { Port.reset with up := true, stopped := [(0, 0)] } }.anyUp 1 = true := by
  decide +kernel
/-! ### System instructions -/

theorem witness_control_registers :
    csrOf 0 = some .status ∧ fw.clearFor [.c 12] ∧ fw.clearFor [.c 11, .c 12] ∧ fw.sound 11 ∧ fw.priv = true ∧
      user.priv = false ∧ Csr.user .epc = .none ∧ Csr.user .time = .read ∧ Csr.user .status = .write ∧
      Csr.privileged .time = .read ∧ Csr.privileged .fqctr = .write ∧ Csr.user .scope = .read ∧ Csr.privileged .scope = .write ∧
      csrOf 0x033 = none ∧ csrOf 0x032 = some .fqctr := by
  unfold State.clearFor State.sound; decide

theorem test_csrw_returns_old : leftBy (.csrw 0 12 11 0x003) (fw.setCsr .tval 5) (fun t => (t.x 12, t.cur.tval)) = some (5, 7) := by
  decide +kernel
theorem test_csrw_status_keeps_prv : leftBy (.csrw 0 12 0 0) fw (·.cur.status) = some 1 := by decide +kernel
theorem test_csrs_status_user : leftBy (.csrs 0 12 10 0) { fw with cur := { fw.cur with status := 0 } } (·.cur.status) =
    some 0x0000FFFFFF0000A0 := by decide +kernel
theorem test_csrr_unknown : leftBy (.csrr 0 12 0x033) fw (fun t => (t.cur.cause, t.cur.tval)) = some (1, 0x3D300033) := by
  decide +kernel

theorem witness_traps :
    fw.priv = true ∧ fw.clearFor [.c 11] ∧ fw.sound 11 ∧ ((fw.fenceAcquire 3).releaseAt 3).2 = none ∧ fw.sound 9 ∧ fw.clearFor [.c 11, .c 9] ∧ fw.clearFor [] ∧
      (let s : State := { fw with cur := { fw.cur with status := 9 } }
       let u := s.modDie 0 fun d => { d with ints := [2, 4] }
       u.cur.ie = true ∧ u.myDie = 0 ∧ (u.die 0).ints = [2, 4]) ∧
      fw.cur.ie = false ∧ user.priv = false ∧ user.clearFor [] ∧ user.clearFor [.c 11] := by
  unfold State.clearFor State.sound; decide

theorem test_trap_saves : leftBy (.trap 0 11) fw (fun t => (t.cur.epc, t.cur.tval, t.cur.cause, t.cur.pc)) =
    some (0x1004, 7, 0x10, 0) := by decide +kernel
theorem test_eret : leftBy (.eret 0) { fw with cur := { fw.cur with epc := 0x400, pstatus := 8 } } (fun t => (t.cur.pc, t.cur.status)) =
    some (0x400, 9) := by decide +kernel
theorem test_interrupt : leftBy (.interrupt 0)
    ({ fw with cur := { fw.cur with status := 9 } }.modDie 0 fun d => { d with ints := [2, 4] })
    (fun t => (t.cur.cause, t.cur.tval, t.cur.status, (t.die 0).ints)) = some (0x11, 2, 1, [4]) := by decide +kernel
theorem test_tlb_all : leftBy (.tlbAll 0 11) { fw with tlb := [{ site := .core 900, asid := 7, base := 0, bits := 12, entry := 0 }] }
    (fun t => t.tlb.length) = some 0 := by decide +kernel

theorem witness_suspensions :
    inScope.clearFor [] ∧ inScope.undisturbed ∧ (inScope.releaseAt 3).2 = none ∧ inScope.mem.wf = true ∧ inScope.clearFor [.c 11] ∧
      inScope.sound 11 ∧ inScope.bears 0x300040 own ∧ ((inScope.core 0).deques.get (prioIx 0)).length < 256 ∧
      inScope.fencedAt inScope.cur.handle.addr = false ∧ inScope.cur.handle.addr % 64 = 0 ∧
      user.openScopeOf user.cur.handle.addr = none ∧ user.endWaits user.cur false = false ∧ user.lastOf user.cur false = none ∧ (user.releaseAt 3).2 = none ∧
      inScope.swappedTeam inScope.cur.handle.addr = none ∧
      inScope.openScopeOf inScope.cur.handle.addr = some 3 := by
  refine ⟨?_, inScope_undisturbed, by decide, by decide +kernel, ?_, ?_, bears_own _ (by decide +kernel), by decide, by decide, by decide,
    by decide, by decide, by decide, rfl, by decide, by decide +kernel⟩ <;>
    (try unfold State.clearFor) <;> (try unfold State.sound) <;> decide

/-- The last strand of a launch whose completion add waits for a unit under test. -/
def addWaiting : State :=
  { user with
    cur := { user.cur with launchId := 5 }
    launches := [{ id := 5, asid := 1, f := 0, scope := 1, entry := 0, param := CapReg.zero, arena := CapReg.zero, frame := 0, strands := 1
                   dimX := 1, dimY := 1, dimZ := 1, kib := 0, grant := 0, prio := 0, cscope := 4, caddr := 0x2000, cvalue := 1, left := 1
                   lost := 0, killed := false, queue := none }]
    outstanding := [{ id := 7, strand := 0, dest := 8, size := 8, sext := false, addr := 64, peer := none, atomic := false
                      posted := true }] }

theorem witness_suspensions_add : addWaiting.openScopeOf addWaiting.cur.handle.addr = none ∧ (addWaiting.releaseAt 3).2 = none ∧
    addWaiting.endWaits addWaiting.cur false = true := by decide +kernel

/-- The strand's team is being swapped out: its Ready bit is set (R175). -/
theorem witness_suspensions_swapped :
    let s := { user with teams := [{ id := 9, launchId := 5, index := 0, block := 0x7000, die := 0, cluster := 0, cores := [1]
                                     page0 := 0, pages := 0, placed := true, area := 0x800000, twins := [], fresh := [], f := 0
                                     since := 0, strands := 1, grant := 0, held := [] }] }
    (s.swappedTeam 0x7000).map Team.block = some 0x7000 ∧ 0x7000 + 64 ≤ 0x7000 + 4136 ∧ s.mem.wf = true ∧ s.fencedAt 0x7000 = false ∧
      s.fencedAt (0x7000 + 4136) = false ∧ s.partlyPoisoned (0x7000 + 4136) 8 = false := by
  refine ⟨?_, ?_, ?_, ?_, ?_, ?_⟩ <;> decide +kernel

theorem test_yield : leftBy (.yield 0) user (fun t => (t.cur.run, t.recPc 0x7000, (t.core 0).deques.get 0)) =
    some (.absent, 0x1004, [{ asid := 1, addr := 0x7000 }]) := by decide +kernel
theorem test_halt : leftBy (.halt 0) user (fun t => (t.cur.run, t.due)) = some (.absent, [.scopeDeath 1 0]) := by decide +kernel
theorem test_sys_call : leftBy (.sysCall 0 11) inScope (fun t => (t.cur.run, ((t.die 0).benchQ.get 0).length)) =
    some (.absent, 1) := by decide +kernel

/-- The user strand with a fault queue of 64 records at 0x500000 and one context block. -/
def stopping : State :=
  { user with
    mem := (user.mem.writeBytes 0x100058 (leBytes 8 0x500000)).writeBytes 0x500010 [6]
    dies := user.dies.set 0 { Die.reset with ctxPool := { top := 0x600000, count := 1 } } }

theorem witness_user_stop :
    stopping.priv = false ∧ stopping.mem.wf = true ∧ stopping.quiet.settled = true ∧ stopping.cur.grant = 0 ∧ stopping.cur.pfx = false ∧
      (stopping.desc 0 1).live = true ∧ (stopping.desc 0 1).faultQueue = 0x500000 ∧ stopping.queueBits 0x500000 = some 6 ∧
      stopping.slotFree 0x500000 6 = true ∧ stopping.mem64 0x500000 = 0 ∧ (stopping.die 0).ctxPool = { top := 0x600000, count := 1 } ∧
      (stopping.die 0).fqctr = 0 ∧
      apart [(0x7000, 64), (0x600000, 4096), (0x500000, 64), (0x500040, 64), (stopping.descAddr 1, 64)] ∧
      stopping.scopeOf 1 stopping.cur.birth = none ∧ stopping.clearFor [.c 11] ∧ stopping.sound 11 ∧ stopping.clearFor [] := by
  refine ⟨by decide, by decide +kernel, by decide, by decide, by decide, by decide +kernel, by decide +kernel, by decide +kernel,
    by decide +kernel, by decide +kernel, by decide, by decide, ?_, by decide +kernel, ?_, ?_, ?_⟩ <;>
    (try unfold apart) <;> (try unfold State.clearFor) <;> (try unfold State.sound) <;> decide

theorem witness_close_result : own.lost < 2 ^ 40 ∧ { own with lost := 2 ^ 40 - 1 }.lost < 2 ^ 40 := by decide

theorem test_result_word : { own with sc := true, cx := true, result := 5, lost := 3 }.resultWord = 0x0200050000000003 := by decide

/-! ### Coherence -/

/-- Die 1 holds a read copy of line 64. -/
def copied : State :=
  { fw with
    copies := [{ die := 1, line := 64, data := List.replicate 128 0, tags := List.replicate 8 false }]
    dirs := [(64 * 4, { sharers := 0, owner := 0, ov := false, dieCopies := 1, remote := 0, rv := false })] }

/-- A settle round that strand 5 opened, with every marker of die 1 and the reports of the others. -/
def settling : State :=
  { fw with
    settle := { isOpen := true, joined := [5], queued := [], finished := [], markers := [(0, 1), (2, 1), (3, 1)], reports := [0, 2, 3] } }

theorem witness_coherence_lines :
    cacheableLine 64 = true ∧ homeDie (64 * 128) = 0 ∧ (fw.die 0).fenced = false ∧ fw.lineExists 64 = true ∧
      (1 : DieId) ≠ homeDie (64 * 128) ∧ fw.ownerDie 64 ≠ 1 ∧ fw.hasWays 1 64 = true ∧ fw.hasWays (coreDie 448) 64 = true ∧
      (fw.dir 64).remote.toNat < 3 ∧ fw.ownerDie 64 = 0 ∧ (fw.die 1).fenced = false ∧ fw.copies = [] ∧ fw.earlyIn 64 = false ∧
      (fw.die (coreDie 448)).fenced = false ∧ (copied.dir 64).dieCopies.getLsbD (otherIx 0 1) = true ∧
      cacheableLine (clusterBase / 128) = false ∧ fw.lineExists (leafLoc 0 3 0 / 128) = false := by decide

/-- Leaf lines hold the four ways that power state 2 leaves of the set of line 64 on die 1 (R47, R64, R73). -/
def crowded : State :=
  fw.modDie 1 fun d =>
    { d with power := 2, lpns := ([(0, 0), (520, 1), (1040, 2), (1560, 3)] : List (Nat × Nat)).map fun n => (n.1, { emptyPage with lines := [(64, n.2)] }) }
theorem witness_coherence_no_ways : crowded.hasWays 1 64 = false := by decide +kernel

theorem witness_coherence_settle :
    fw.settle.isOpen = false ∧ fw.settle.queued = [] ∧ ({ fw.settle with queued := [5] } : Settle).queued ≠ [] ∧
      settling.settle.isOpen = true ∧ settling.markersIn 1 = false ∧
      ({ settling with settle := { settling.settle with markers := settling.settle.markers ++ [(1, 1)] } } : State).markersIn 1 = true ∧
      (1 : DieId) ∉ settling.settle.reports ∧
      (settling.liveDies.all (settling.settle.reports ++ [1]).contains) = true ∧
      (settling.liveDies.all (([0] : List DieId) ++ [1]).contains) = false := by decide

theorem empty_mem64 {s : State} (hm : s.mem = []) (a : Nat) : s.mem64 a = 0 := by
  simp [State.mem64, State.memN, State.bytes, hm, Mem.readBytes, Mem.read, leNat, unlisted]

theorem empty_desc {s : State} (hm : s.mem = []) (hd : s.descs = []) (d : DieId) (a : Asid) : (s.desc d a).live = false := by
  simp [State.desc, hd, State.descMem, empty_mem64 hm, bitsOf]

theorem no_overflow {s : State} (hm : s.mem = []) (hd : s.descs = []) (d : DieId) : s.overflowAsids d = [] := by
  unfold State.overflowAsids
  rw [List.filterMap_eq_nil_iff]
  intro n _
  simp [empty_desc hm hd]

theorem empty_lost {s : State} (hm : s.mem = []) (d : DieId) : s.lostStrands d = [] := by
  have hl : ∀ a, (s.descMem a).live = false := fun a => by simp [State.descMem, empty_mem64 hm, bitsOf]
  simp [State.lostStrands, hl]

theorem witness_coherence_fence :
    let u := (fw.modDie 1 fun x => { x with fenced := true }).scanDirectory 1
    (fw.die 1).fenced = false ∧ fw.settle.isOpen = false ∧ u.overflowAsids u.scanDie = [] ∧ u.lostStrands 1 = [] ∧ u.callsOn 1 = [] ∧
      u.commandsOn 1 = [] ∧ u.queuedLosses 1 = [] ∧ fw.chains = [] ∧
      (∀ x ∈ fw.residents, (∀ k, x.run ≠ .waitIo k) ∧ ∀ e k, x.run ≠ .waitClose e k) ∧
      ((fw.modDie 1 fun x => { x with fenced := true }).die 1).fenced = true :=
  ⟨by decide, by decide, no_overflow (by decide) (by decide) _, empty_lost (by decide) 1, by decide +kernel, by decide +kernel,
    by decide +kernel, by decide, by
      intro x hx
      have h : ∀ x ∈ fw.residents, x.run = .ready ∨ x.run = .bootRom := by decide
      rcases h x hx with h | h <;> simp [h], by decide⟩

/-- Firmware of die 1 that waits for the host. -/
def hostWait : State :=
  { fw with
    cur := { fw.cur with core := 448, run := .waitIo 7 }
    parked := []
    outstanding := [{ id := 7, strand := 0, dest := 8, size := 8, sext := false, addr := 64, peer := none, atomic := false
                      posted := false }] }

theorem witness_coherence_fence_host :
    let u := (hostWait.modDie 0 fun x => { x with fenced := true }).scanDirectory 0
    (hostWait.die 0).fenced = false ∧ hostWait.settle.isOpen = false ∧ u.overflowAsids u.scanDie = [] ∧ u.lostStrands 0 = [] ∧
      u.callsOn 0 = [] ∧ u.commandsOn 0 = [] ∧ u.queuedLosses 0 = [] ∧ hostWait.chains = [] ∧
      coreDie hostWait.cur.core ≠ 0 ∧ hostWait.priv = true ∧ hostWait.cur.killed = false ∧ hostWait.parked = [] ∧ hostWait.cur.run = .waitIo 7 :=
  ⟨by decide, by decide, no_overflow (by decide) (by decide) _, empty_lost (by decide) 0, by decide +kernel, by decide +kernel,
    by decide +kernel, by decide, by decide, by decide, by decide, by decide, by decide⟩

theorem test_invalidation : leftBy (.crossDieInvalidation 1 64 (.core 0)) copied (fun t => (t.copies, t.agenda)) =
    some ([], [.invalidationAck (.core 0)]) := by decide +kernel
theorem test_ownership_invalidates : leftBy (.ownershipRequest 0 64) copied (fun t => ((t.core 0).invCount, t.agenda)) =
    some (1, [.crossDieInvalidation 1 64 (.core 0)]) := by decide +kernel

/-! ### Registers of the device -/

/-- A partition of die 0 holds 16 MiB of leaf memory beyond a reservation of 2 units (R61). -/
def reserved : State :=
  fw.modDie 0 fun d =>
    { d with
      resv := d.resv.set 0 { reservation := 2, resident := 1024 }
      lpns := [(3, { emptyPage with state := .resident, lines := [(0, 0), (5, 1)], lastAsid := 1 })] }

theorem witness_register_writes :
    fw.mem.wf = true ∧ ¬ ((hbmSpan - 4096 + 8192 - 1) / hbmSpan = 0) ∧
      (((0 : Word).toNat / 2 ^ 62 = 0) ∧ ((1 : Word) <<< 62).toNat / 2 ^ 62 = 1 ∧ ((2 : Word) <<< 62).toNat / 2 ^ 62 = 2 ∧
        ((3 : Word) <<< 62).toNat / 2 ^ 62 = 3) ∧
      (0x30007 % 512 < 448 ∧ (0x30007 : Word).getLsbD 63 = false ∧ ((1 : Word) <<< 63).getLsbD 63 = true) ∧
      (let y := fw.die 0
       let old := (y.resv.get 0).reservation.toNat
       (old < 8191 ∧ y.ceiling < y.totalReserved - old + 8191) ∧ ¬ (old < 1 ∧ y.ceiling < y.totalReserved - old + 1)) ∧
      (1 < ((reserved.die 0).resv.get 0).reservation.toNat ∧ 1 * 512 < ((reserved.die 0).resv.get 0).resident) ∧
      (fw.lpn 0 3).state = .empty ∧ (reserved.lpn 0 3).state ≠ .empty ∧
      (0x30000 / 2 ^ 16 % 2 ^ 36 * 2 ^ 16 < hbmTop ∧ homeDie (0x30000 / 2 ^ 16 % 2 ^ 36 * 2 ^ 16) = 0 ∧
        homeDie (0x30000 / 2 ^ 16 % 2 ^ 36 * 2 ^ 16) ≠ 1) ∧
      (min (fw.die 0).ceiling (powerCeiling 2) ≥ (fw.die 0).totalReserved ∧
        (fw.leafLines 0 fun _ _ way => decide (4 ≤ way)) = []) ∧
      (0x10000 / hbmSpan = 0 ∧ (0x10000 + 8192 - 1) / hbmSpan = 0 ∧ hbmSpan / hbmSpan ≠ 0) ∧
      (let u := fw.modDie 0 fun y => { y with resv := y.resv.set 0 { reservation := 8191, resident := 0 } }
       min (u.die 0).ceiling (powerCeiling 2) < (u.die 0).totalReserved) := by
  refine ⟨?_, ?_, ?_, ?_, ?_, ?_, ?_, ?_, ?_, ?_, ?_, ?_⟩ <;> decide +kernel

/-- Ceiling at and below what is reserved, an error record and none, a pool entry that is not aligned, a push that waits for a
context block, and a die that is fenced (R59, R169, R394). -/
theorem witness_register_writes_blocks :
    let slot : ErrSlot :=
      { report := { severity := 1, kind := 2, unit := 3, code := 0, address := 0, asid := none, info := 0 }, seq := 1, time := 0
        merged := 0, ovf := false, assay := 0, removed := false, cls := 0 }
    let s := fw.modDie 0 fun d => { d with errSlots := [(7, slot)] }
    let p := fw.setCore 3 { Core.reset with pushes := [(0, { asid := 1, addr := 0x7000 })] }
    (min (2 % 2 ^ 13) 4096 = (reserved.die 0).totalReserved) ∧ min (1 % 2 ^ 13) 4096 < (reserved.die 0).totalReserved ∧
      mapGet? (s.die 0).errSlots 7 = some slot ∧ mapGet? (s.die 0).errSlots 8 = none ∧ ¬ (0x10800 % 2 ^ 52 % 4096 = 0) ∧
      (fw.die 0).fenced = false ∧ fw.partlyPoisoned 0x10000 8 = false ∧
      (∃ e ∈ p.cores, e.1 / 448 = 0 ∧ e.2.pushes ≠ []) ∧ (fw.modDie 0 fun d => { d with fenced := true }).die 0 ≠ fw.die 0 := by
  refine ⟨by decide +kernel, by decide +kernel, by decide, by decide, by decide, by decide, by decide, ?_, by decide⟩
  exact ⟨_, List.mem_cons_self, by decide, by decide⟩

theorem test_ageing_write : leftBy (.registerWrite (.mmio (mmioBase + 0x200008) 8) 0) fw (fun t => (t.pol 0).ageing) = some 1 := by
  decide +kernel
theorem test_mask_high : leftBy (.registerWrite (.mmio (mmioBase + 0x200408) 8) 1) fw (fun t => ((t.pol 0).cmasks.get 0).getLsbD 64) =
    some true := by decide +kernel

theorem test_quantum_write : leftBy (.registerWrite (.mmio (mmioBase + 0x200000) 8) 3) fw (fun t => (t.pol 0).quantum) = some 10 := by
  decide +kernel
theorem test_pool_push : leftBy (.contextBlockPoolPush 0 0x10000) fw (fun t => ((t.die 0).ctxPool, t.mem64 0x10000)) =
    some ({ top := 0x10000, count := 1 }, 0) := by
  decide +kernel
theorem test_reservation_write : leftBy (.reservationWrite 0 0 1) reserved
    (fun t => (((t.die 0).resv.get 0).reservation, t.agenda.contains (.leafShrink 0 0))) = some (1, true) := by decide +kernel

/-! ### Launch queues -/

/-- Queue 0 of function 0, of ASID 1: its ring at 0x200000 and its records at 0x210000 in HBM, 16 entries each, entry 1
announced. The entry names the header that the page at 0x2000, in frame 0x4000, holds, scope 1 and no arena (R377, R378). -/
def queued : State :=
  let s := normalPage
  let q : Queue :=
    { Queue.reset with
      base := 0x200000, n := 4, cbase := 0x210000, m := 4, asid := 1, cap := rootCap, latched := 1, state := 1 }
  let entry := leBytes 32 (1 + 2 ^ 32 + 0x2000 * 2 ^ 64)
  let kernel := leBytes 32 (0x47484B31 + 0x100 * 2 ^ 128 + 0x100010001 * 2 ^ 192)
  { s with
    mem := ((((tables s.mem).writeBytes 0x113010 (leBytes 8 0x4763)).writeBytes 0x100050 (leBytes 8 0x300006)).writeBytes 0x4000
      kernel).writeBytes 0x200020 entry
    dies := s.dies.set 0 { Die.reset with scopes := [(0x300040, { own with asid := 1 })] }
    funcs := s.funcs.set 0 { Function.reset with queues := (Vector.replicate 4 Queue.reset).set 0 q } }

/-- The same with a completion record of sequence 1 waiting. -/
def recorded : State := queued.modQueue 0 0 fun q => { q with consumed := 1, ready := [(1, 0, 0)] }

theorem witness_launch_queues :
    let x := queued.queue 0 0
    x.state ≠ 2 ∧ follows 2 x.latched = true ∧ follows 1 x.latched = false ∧ queued.mayConsume 0 0 = true ∧
      { queued with restarting := true }.mayConsume 0 0 = false ∧ queued.fencedAt (x.slot (x.consumed + 1)) = false ∧
      (queued.modDie 0 fun d => { d with fenced := true }).fencedAt (x.slot (x.consumed + 1)) = true ∧
      (let r := queued.physRead (x.base.toNat + 32 * ((x.consumed + 1).toNat % 2 ^ x.n)) 32
       let e := entryOf r.1
       let s1 := r.2.modQueue 0 0 fun y => { y with consumed := 1 }
       let hdr := headerCap x.cap e.header
       e.seq = 1 ∧ (r.2.desc 0 x.asid).live = true ∧
         (capFault hdr e.header.toNat 64 [.load] = none ∧ e.header.toNat % 64 = 0) ∧
         ∃ u bs tag, s1.hostHeader 0 x.asid e.header = (.done u bs, tag)) := by
  refine ⟨by decide, by decide, by decide, by decide, by decide, by decide, by decide, by decide +kernel, by decide +kernel,
    by decide +kernel, ?_⟩
  obtain ⟨u, bs, h⟩ := is_done (r := (((queued.physRead 0x200020 32).2.modQueue 0 0 fun y => { y with consumed := 1 }).hostHeader
    0 1 0x2000).1) (bs := leBytes 64 (0x47484B31 + 0x100 * 2 ^ 128 + 0x100010001 * 2 ^ 192)) (by decide +kernel)
  exact ⟨u, bs, _, Prod.ext h rfl⟩

theorem test_entry_fields :
    let e := entryOf (leBytes 32 (1 + 7 * 2 ^ 32 + 0x2000 * 2 ^ 64 + 0x9000 * 2 ^ 128 + 0x40 * 2 ^ 192))
    (e.seq, e.scope, e.header, e.arena, e.length) = (1, 7, 0x2000, 0x9000, 0x40) := by decide +kernel

theorem witness_launch_queue_ends :
    let dead : State := { queued with mem := queued.mem.writeBytes 0x100047 [0] }
    let stale : State := { queued with mem := queued.mem.writeBytes 0x200020 [2] }
    (dead.mayConsume 0 0 = true ∧ (dead.desc 0 1).live = false) ∧
      (entryOf (stale.physRead 0x200020 32).1).seq ≠ 1 ∧
      ¬ (capFault (headerCap CapReg.zero 0x2000) 0x2000 64 [.load] = none) := by
  refine ⟨⟨?_, ?_⟩, ?_, ?_⟩ <;> decide +kernel

/-- A queue with a launch that runs: its reset kills the launch's scope (R382). -/
theorem witness_launch_queue_reset :
    let s : State := { queued with launches := [{ addWaiting.launches.headD
      { id := 0, asid := 0, f := 0, scope := 0, entry := 0, param := CapReg.zero, arena := CapReg.zero, frame := 0, strands := 0, dimX := 0
        dimY := 0, dimZ := 0, kib := 0, grant := 0, prio := 0, cscope := 0, caddr := 0, cvalue := 0, left := 0, lost := 0
        killed := false, queue := none } with queue := some (0, 0, 1) }] }
    (s.queue 0 0).state ≠ 2 ∧ (s.launches.filter fun l => l.fromQueue 0 0).length = 1 ∧
      (leftBy (.queueReset 0 0) s fun t => t.launches.map Launch.killed) = some [true] := by decide +kernel

theorem witness_launch_queue_records :
    let x := recorded.queue 0 0
    x.state ≠ 2 ∧ x.ready = [(1, 0, 0)] ∧ x.hasRoom = true ∧ recorded.mem.wf = true ∧ x.written = [] ∧ x.completed + 1 = 1 ∧
      regionOf (x.cbase.toNat + 16 * 1) ≠ .host ∧ regionOf (0x800000000000 + 16) = .host ∧
      { x with produced := 16 }.hasRoom = false ∧ recorded.launches = [] ∧
      (∀ o ∈ recorded.outstanding, o.posted = false) ∧ recorded.fencedAt 0x210010 = false ∧ (recorded.die 0).fenced = false ∧
      recorded.partlyPoisoned 0x210010 16 = false ∧
      ((queued.modQueue 0 0 fun q => { q with state := 2 }).queue 0 0).state = 2 := by
  refine ⟨?_, ?_, ?_, ?_, ?_, ?_, ?_, ?_, ?_, ?_, ?_, ?_, ?_, ?_, ?_⟩ <;> decide +kernel

theorem test_completion_record : completionBytes 9 3 2 = [9, 0, 0, 0, 3, 0, 0, 0, 0, 0, 0, 2, 0, 0, 0, 0] := by decide +kernel
theorem test_doorbell_behind : leftBy (.doorbell 0 0 0) queued (fun t => (t.queue 0 0).latched) = some 1 := by decide +kernel

/-! ### Bench cores -/

/-- Bench core 0 holds a call of a strand of ASID 1 in scope 1; a request waits in function 2's queue. -/
def calling (word : Word) (stage : BenchStage) : State :=
  let s := user.modDie 0 fun d =>
    { d with
      benchQ := d.benchQ.set 2 [.fault 1 0]
      deficits := d.deficits.set 2 4096 }
  { s with rings := [(0, [{ f := 0, req := .call { asid := 1, addr := 0x7000 } 1 1 word, stage := stage }])] }

theorem witness_bench_dispatch :
    let s := calling 0 .waiting
    let poor := s.modDie 0 fun d => { d with deficits := d.deficits.set 2 0 }
    (∃ k < 16, s.benchServes (benchOf 0 k) = true ∧ (s.ring (benchOf 0 k)).length < 256) ∧ (s.die 0).benchQ.get 2 = [.fault 1 0] ∧ 0 < (s.die 0).deficits.get 2 ∧
      s.waitsForHost 2 (.fault 1 0) = false ∧ (∀ g : FnId, g < 2 → s.nextRequest 0 g = none ∨ (s.die 0).deficits.get g ≤ 0) ∧
      (∃ g : FnId, poor.nextRequest 0 g ≠ none) ∧
      (∀ g : FnId, poor.nextRequest 0 g = none ∨ (poor.die 0).deficits.get g ≤ 0) ∧ (∀ g : FnId, fw.nextRequest 0 g = none) :=
  ⟨⟨0, by decide, by decide, by decide⟩, by decide, by decide, by decide, by decide +kernel, ⟨2, by decide +kernel⟩, by decide +kernel,
    by decide +kernel⟩

/-- A transfer that waits for the host is passed over for the request behind it (R386, R388). -/
theorem witness_bench_passes :
    let s := (calling 0 .waiting).modDie 0 fun d => { d with benchQ := d.benchQ.set 2 [.transfer 2 0x800000000000 1, .fault 1 0] }
    (s.die 0).benchQ.get 2 = [.transfer 2 0x800000000000 1] ++ .fault 1 0 :: [] ∧
      s.waitsForHost 2 (.transfer 2 0x800000000000 1) = true ∧ s.waitsForHost 2 (.fault 1 0) = false := by decide +kernel

/-- Function 0 with a service ring of 16 entries in host memory. -/
def service : Function := { Function.reset with ring := 0x800000001000, ringSize := 4, replyValue := 9 }

theorem witness_bench_calls :
    let e := fun (w : Word) => ({ f := 0, req := .call { asid := 1, addr := 0x7000 } 1 1 w, stage := .waiting } : BenchEntry)
    let hosted : State := { calling 1 .waiting with funcs := user.funcs.set 0 service }
    (∀ w, (calling w .waiting).ring 0 = [] ++ e w :: []) ∧ (decide ((0 : Word).toNat % 2 ^ 16 = 0)) = true ∧
      ((calling 1 .waiting).fn 0).ring = 0 ∧ (hosted.fn 0).ring ≠ 0 ∧ ((e 1).isCall fun n => decide (n = 1)) = true ∧
      decide ((2 : Word).toNat % 2 ^ 16 = 2) = true ∧ ((user.lpn 0 0).state = .empty ∧ (user.lpn 0 0).v = false) ∧
      decide ((3 : Word).toNat % 2 ^ 16 ≥ 3) = true := by
  refine ⟨fun w => ?_, ?_, ?_, ?_, ?_, ?_, ?_, ?_⟩ <;> first | decide | simp [calling, State.ring, mapGet]

theorem mapGet_range {α : Type} (v d : α) (n m k : Nat) (h : m < n) :
    mapGet ((List.range' k n).map fun i => (i, v)) (k + m) d = v := by
  induction n generalizing m k with
  | zero => omega
  | succ n ih =>
    rw [List.range'_succ, List.map_cons]
    unfold mapGet
    by_cases hm : m = 0
    · simp [hm]
    · have := ih (m - 1) (k + 1) (by omega)
      have e : k + 1 + (m - 1) = k + m := by omega
      rw [e] at this
      simp [hm, this]

/-- Every LPN of die 0 is assigned. -/
def fullDie : State :=
  (calling 2 .waiting).modDie 0 fun d => { d with lpns := (List.range' 0 4096).map fun n => (n, emptyPage) }

theorem witness_bench_no_lpn : ∀ n, ¬ (n < 4096 ∧ (fullDie.lpn 0 n).state = .empty ∧ (fullDie.lpn 0 n).v = false) := by
  rintro n ⟨h, -, hv⟩
  have e := mapGet_range emptyPage { emptyPage with v := false } 4096 n 0 h
  rw [Nat.zero_add] at e
  exact absurd ((congrArg Lpn.v e).symm.trans hv) (by decide)

theorem witness_bench_replies :
    let s := calling 0 (.answered 7)
    let t : State := { user with rings := [(0, [{ f := 0, req := .fault 1 0, stage := .answered 0 }])] }
    s.ring 0 = [] ++ { f := 0, req := .call { asid := 1, addr := 0x7000 } 1 1 0, stage := .answered 7 } :: [] ∧
      s.teamOfRecord 0x7000 = none ∧ s.mem.wf = true ∧ (s.die (coreDie (coreOfNat (s.recCore 0x7000)))).fenced = false ∧
      s.fencedAt 0x7030 = false ∧ s.partlyPoisoned 0x7030 8 = false ∧
      (t.ring 0).map BenchEntry.isAnswered = [true] ∧
      (BenchReq.fault 1 0).caller = none ∧ (∀ y ∈ (calling 0 .waiting).ring 0, y.isAnswered = false) := by
  refine ⟨?_, ?_, ?_, ?_, ?_, ?_, ?_, ?_, ?_⟩ <;> decide +kernel

theorem witness_bench_service :
    let e : BenchEntry := { f := 0, req := .call { asid := 1, addr := 0x7000 } 1 1 1, stage := .waiting }
    let hosted : State := { calling 1 .waiting with funcs := user.funcs.set 0 service }
    let posted : State :=
      { calling 1 (.forwarded 5) with funcs := user.funcs.set 0 { service with tags := [(5, 0)], grants := [(1, 5)] } }
    hosted.hostWaiter 0 = some (0, e) ∧ (hosted.fn 0).serviceRoom = true ∧ (hosted.rings.map Prod.fst).Pairwise (· < ·) ∧
      (∀ r ∈ hosted.rings, r.1 < 64) ∧ hosted.outstanding = [] ∧ fw.hostWaiter 0 = none ∧ (fw.fn 0).serviceRoom = false ∧
      (let full : State := { hosted with funcs := user.funcs.set 0 { service with produced := 16 } }
       let shut : State := { hosted with funcs := user.funcs }
       full.hostWaiter 0 = some (0, e) ∧ (full.fn 0).serviceRoom = false ∧ (full.fn 0).ring ≠ 0 ∧ e.toHost 0 = true ∧
         full.ring 0 = [] ++ e :: [] ∧ shut.hostWaiter 0 = some (0, e) ∧ (shut.fn 0).serviceRoom = false ∧ (shut.fn 0).ring = 0) ∧
      (5, 0) ∈ (posted.fn 0).tags ∧ (∀ y ∈ (posted.fn 0).tags, y.1 = 5 → y.2 = 0) ∧ posted.isForwarded 0 5 = true ∧
      (∀ y ∈ (posted.fn 0).tags, y.1 = 6 → posted.isForwarded y.2 6 = false) ∧
      (posted.fn 0).grants = [(1, 5)] := by
  refine ⟨?_, ?_, ?_, ?_, ?_, ?_, ?_, ?_, ?_, ?_, ?_, ?_, ?_⟩ <;> decide +kernel

theorem no_entries {s : State} (hm : s.mem = []) (hd : s.descs = []) (region : Nat) : s.regionEntries region = [] := by
  have h : s.liveAsids = [] := by
    unfold State.liveAsids
    rw [List.filterMap_eq_nil_iff]
    intro n _
    simp [empty_desc hm hd]
  simp [State.regionEntries, h]

/-- With no live ASID no entry maps the region, and the accelerator does not own it (R33). -/
theorem witness_bench_entries :
    (∀ p ∈ fw.regionEntries 0x800000000000, fw.partlyPoisoned p 8 = false) ∧ fw.regionOwned 0x800000000000 = false ∧
      (∀ e : DieId, (fw.die e).fenced = false) ∧ fw.mem.wf = true ∧ fw.chains = [] := by
  have h := no_entries (s := fw) (by decide) (by decide) 0x800000000000
  refine ⟨by simp [h], by simp [State.regionOwned, h], by decide, by decide, by decide⟩

theorem witness_bench_transfers :
    regionOf (regionOfWord 0x800000000000) = .host ∧ regionOf (regionOfWord 0) ≠ .host ∧
      (let y : Chained := { handle := { asid := 1, addr := 0x7000 }, va := 0, caused := false }
       let s : State := { user with chains := [(.ownership 0x800000000000, [y])] }
       (∀ e : DieId, (s.die e).fenced = false) ∧ (∀ c ∈ user.chains, c.1 ≠ .ownership 0x800000000000) ∧ s.mem.wf = true ∧ (∀ c ∈ s.chains, c.1 = .ownership 0x800000000000 → ∀ y ∈ c.2, s.teamOfRecord y.handle.addr = none) ∧
         s.chains.find? (fun c => decide (c.1 = .ownership 0x800000000000)) = some (ChainKey.ownership 0x800000000000, [y]) ∧
         (s.chains.any fun c => decide (c.1 = .ownership 0x800000000000)) = true) := by
  refine ⟨?_, ?_, ?_, ?_, ?_, ?_, ?_, ?_⟩ <;> decide +kernel

theorem test_syscall_null : leftBy (.syscallNull 0) (calling 0 .waiting) (fun t => (t.ring 0).map BenchEntry.stage) =
    some [.answered 0] := by decide +kernel
theorem test_bench_reply : leftBy (.benchReply 0) (calling 0 (.answered 7)) (fun t => (t.ring 0, t.mem64 0x7030, t.due)) =
    some ([], 7, [.scopeDeath 1 1]) := by decide +kernel
theorem test_reply_tag : leftBy (.replyTag 0 5)
    { calling 1 (.forwarded 5) with funcs := user.funcs.set 0 { service with tags := [(5, 0)] } }
    (fun t => (t.ring 0).map BenchEntry.stage) = some [.answered 9] := by decide +kernel

/-! ### Scheduling -/

/-- A continuation record of ASID 1 at 0x8000: pc 0x4000, scope 1, affinity "die" (R131); no strand issues. -/
def waitingRecord : Handle := { asid := 1, addr := 0x8000 }
def resting : State :=
  let s := user
  { s with
    cur := { s.cur with run := .absent }
    mem := (s.mem.writeBytes 0x8000 (leBytes 16 (0x4000 + 2 ^ 64 + 2 * 2 ^ 120))).writeBytes 0x100050 (leBytes 8 0x300006)
    dies := s.dies.set 0 { Die.reset with scopes := [(0x300040, { own with asid := 1 })] } }

/-- The record's handle in a deque of core 1; and in a deque of core 9, of another cluster. -/
def ready : State :=
  resting.modCore 1 fun c => { c with deques := c.deques.set 0 [waitingRecord] }
def readyFar : State :=
  resting.modCore 9 fun c => { c with deques := c.deques.set 0 [waitingRecord] }

/-- Core 2's circuit has come to every other core of its die but core 3; and to core 3 too. -/
def circuit (last : Bool) : State :=
  resting.modCore 2 fun c => { c with
    visited := ((List.range 448).filter fun n => last || decide (n ≠ 3)).map coreOfNat }

theorem witness_scheduling_resume :
    ((ready.core 1).deques.get 0 = waitingRecord :: [] ∧ (∀ j, j ≠ 0 → (ready.core 1).deques.get j = []) ∧
        (∀ j, (ready.core 1).spills.get j = []) ∧ (ready.core 1).pushes = [] ∧ ready.testing 0 1 = false) ∧
      ready.fitsOn 1 waitingRecord ∧ ready.isThief 2 = true ∧ (ready.core 2).stealWait = false ∧ ready.stealChoices 2 = [1] ∧
      ready.openCore 1 = true ∧ ready.affinityOf 0x8000 = 2 ∧ ready.fitsOn 2 waitingRecord ∧
      (∀ j, (resting.core 1).deques.get j = [] ∧ (resting.core 1).spills.get j = []) ∧ ready.isThief 1 = false ∧
      resting.isThief 2 = true ∧ (3 : CoreId) ∉ ready.stealChoices 2 := by
  refine ⟨?_, ?_, ?_, ?_, ?_, ?_, ?_, ?_, ?_, ?_, ?_, ?_⟩ <;> (try unfold State.fitsOn) <;> decide +kernel

theorem witness_scheduling_steals :
    readyFar.isThief 2 = true ∧ (9 : CoreId) ∈ readyFar.stealChoices 2 ∧ readyFar.hasFor 2 9 = true ∧ readyFar.fitsOn 2 waitingRecord ∧
      (9 : CoreId) ∈ resting.stealChoices 2 ∧ resting.hasFor 2 9 = false ∧ (resting.core 2).stealWait = false ∧
      (circuit false).isThief 2 = true ∧ (circuit false).stealChoices 2 = [3] ∧ (circuit false).hasFor 2 3 = false ∧
      (circuit true).isThief 2 = true ∧ (circuit true).stealChoices 2 = [] ∧ ready.hasFor 2 1 = true := by
  refine ⟨?_, ?_, ?_, ?_, ?_, ?_, ?_, ?_, ?_, ?_, ?_, ?_, ?_⟩ <;> (try unfold State.fitsOn) <;> decide +kernel

theorem test_resume : leftBy (.strandResume 1) ready (fun t => (t.cur.run, t.cur.core, t.cur.pc, t.cur.birth)) =
    some (.ready, 1, 0x4000, 1) := by decide +kernel
theorem test_steal : leftBy (.steal 2 1) ready (fun t => (t.cur.core, (t.core 1).deques.get 0)) = some (2, []) := by
  decide +kernel
theorem test_circuit : leftBy (.steal 2 3) (circuit false) (fun t => ((t.core 2).visited, (t.core 2).stealWait)) =
    some ([], true) := by decide +kernel

/-- A launch of one team of two strands in ASID 1, queued on die 0; a free team block is at 0x500000. -/
def launch : Launch :=
  { id := 1, asid := 1, f := 0, scope := 1, entry := 0x4000, param := CapReg.zero, arena := CapReg.zero, frame := 0x100
    strands := 2, dimX := 1, dimY := 1, dimZ := 1, kib := 8, grant := 0, prio := 0, cscope := 0, caddr := 0, cvalue := 0
    left := 2, lost := 0, killed := false, queue := none }
def launched : State :=
  let s := resting.modDie 0 fun d => { d with teamQ := [.fresh 1 0 0], teamPool := { top := 0x500000, count := 1 } }
  { s with launches := [launch] }

/-- The same with the team's block taken. -/
def blockTaken : State :=
  launched.modDie 0 fun d => { d with teamQ := [.fresh 1 0 0x500000], teamPool := { top := 0, count := 0 } }

theorem witness_scheduling_placement :
    launched.forwardable 0 = none ∧ (launched.countTimes 0).nextStep 0 = some (.take (.fresh 1 0 0)) ∧
      (launched.die 0).teamPool = { top := 0x500000, count := 0 + 1 } ∧ blockTaken.forwardable 0 = none ∧
      (blockTaken.countTimes 0).nextStep 0 =
        some (.place 0 (.fresh 1 0 0x500000) launch 0 4 { cluster := 1, page0 := 0, twins := [] }) ∧
      0x500000 % 4096 = 0 ∧ 0x500000 + 8192 ≤ hbmTop ∧ (∀ e : DieId, (blockTaken.die e).fenced = false) ∧
      blockTaken.mem.wf = true ∧ launch.strands ≤ 64 ∧
      (∀ x ∈ blockTaken.teams, x.block + 8192 ≤ 0x500000 ∨ 0x500000 + 8192 ≤ x.block) := by
  refine ⟨?_, ?_, ?_, ?_, ?_, ?_, ?_, ?_, ?_, ?_, ?_⟩ <;> decide +kernel

theorem witness_scheduling_no_placement : resting.forwardable 0 = none ∧ (resting.countTimes 0).nextStep 0 = none := by
  refine ⟨?_, ?_⟩ <;> decide +kernel

/-- Die 0 is fenced. -/
def fencedQueue : State := launched.modDie 0 fun d => { d with fenced := true }

theorem witness_scheduling_forward : fencedQueue.forwardable 0 = some (.fresh 1 0 0, 1) := by decide +kernel

theorem test_block : leftBy (.teamPlacement 0) launched (fun t => ((t.die 0).teamPool, (t.die 0).teamQ)) =
    some ({ top := 0, count := 0 }, [.fresh 1 0 0x500000]) := by decide +kernel
theorem test_placement : leftBy (.teamPlacement 0) blockTaken
    (fun t => (t.recPc 0x500040, t.mem64 0x501020, (t.core 5).deques.get 0)) =
      some (0x4000, 3, [{ asid := 1, addr := 0x500040 }]) := by decide +kernel

/-- The team after that, without its strands having run; the same with another team of the launch queued that would take its
cluster; and the same with its swap-out in progress. -/
def placedTeam : Team :=
  { id := 1, launchId := 1, index := 0, block := 0x500000, die := 0, cluster := 1, cores := [4, 5, 6, 7], page0 := 0, pages := 2
    placed := true, area := 0, twins := [], fresh := [0, 1], f := 0, since := 0, strands := 2, grant := 0, held := [] }
def placed : State :=
  let s := resting.modDie 0 fun d => { d with swapPool := { top := 0x600000, count := 1 } }
  let s := s.modCluster 1 fun c => { c with allocs := [(1, 0, 2)] }
  { s with launches := [launch], teams := [placedTeam] }
def contended : State :=
  let s := placed.modDie 0 fun d => { d with teamQ := [.fresh 2 0 0x700000], teamPool := { top := 0, count := 0 } }
  { s with launches := [launch, { launch with id := 2 }] }
def leaving : Team := { placedTeam with area := 0x600000 }
def swapping : State := { placed with teams := [leaving] }

/-- Another team of the same cluster, whose swap-out is in progress. -/
def beside : State := { placed with teams := [placedTeam, { leaving with id := 2, block := 0x700000, page0 := 2 }] }

theorem witness_scheduling_quanta :
    (placed.teams.find? (fun y => decide (y.id = placedTeam.id) && y.placed && decide (y.die = 0)) = some placedTeam ∧
        placed.mem.wf = true ∧ placedTeam.area = 0 ∧ placed.swapping 1 = false ∧
        ((placed.countTimes 0).countQuantum placedTeam).wantsCluster placedTeam = false ∧
        placed.fencedAt 0x501018 = false ∧ placed.fencedAt 0x501030 = false ∧
        placed.partlyPoisoned 0x501018 8 = false ∧ placed.partlyPoisoned 0x501030 8 = false) ∧
      (contended.swapping 1 = false ∧ ((contended.countTimes 0).countQuantum placedTeam).wantsCluster placedTeam = true ∧
        (contended.die 0).swapPool = { top := 0x600000, count := 0 + 1 }) ∧
      beside.swapping 1 = true ∧
      ({ swapping with cur := { user.cur with teamId := 1 } } : State).swapReady leaving = false ∧
      resting.teams = [] := by
  refine ⟨?_, ?_, ?_, ?_, ?_⟩ <;> decide +kernel

/-- What the end of a swap-out and of a swap-in ask of the state beside that. -/
theorem witness_scheduling_swap_out :
    swapping.swapReady leaving = true ∧ swapping.order.early = [] ∧ leaving.area % 4096 = 0 ∧ leaving.block % 4096 = 0 ∧
      leaving.pages ≤ 512 ∧ apart [(leaving.base, leaving.pages * 4096), (leaving.area, 0x202000), (leaving.block + 4096, 64)] ∧
      (∀ e : DieId, (swapping.die e).fenced = false) ∧ swapping.poison = [] := by
  refine ⟨?_, ?_, ?_, ?_, ?_, ?_, ?_, ?_⟩ <;> (try unfold apart) <;> decide +kernel

/-- The team swapped out and queued again, without pages, its first strand ready. -/
def outTeam : Team := { leaving with pages := 0, placed := false }
def swappedOut : State :=
  let s := resting.modDie 0 fun d => { d with teamQ := [.swapped 1] }
  { s with launches := [{ launch with kib := 0 }], teams := [outTeam], mem := s.mem.writeBytes 0x501028 [1] }

theorem witness_scheduling_swap_in :
    swappedOut.forwardable 0 = none ∧
      (swappedOut.countTimes 0).nextStep 0 =
        some (.place 0 (.swapped outTeam.id) { launch with kib := 0 } 0 4 { cluster := 1, page0 := 0, twins := [] }) ∧
      swappedOut.teams.find? (fun y => decide (y.id = outTeam.id)) = some outTeam ∧ outTeam.placed = false ∧
      swappedOut.mem.wf = true ∧ (∀ e : DieId, (swappedOut.die e).fenced = false) ∧ swappedOut.poison = [] ∧
      outTeam.block % 4096 = 0 ∧ outTeam.area % 4096 = 0 ∧
      (∀ y ∈ swappedOut.teams, y.id ≠ outTeam.id → y.block + 8192 ≤ outTeam.block ∨ outTeam.block + 8192 ≤ y.block) ∧
      apart [(clusterLoc 1 + 0 * 4096, outTeam.pages * 4096), (outTeam.area, 0x202000), (outTeam.block, 8192)] ∧
      bitsOf (swappedOut.mem64 (outTeam.block + 4096 + 40)) 0 1 = 1 := by
  refine ⟨?_, ?_, ?_, ?_, ?_, ?_, ?_, ?_, ?_, ?_, ?_, ?_⟩ <;> (try unfold apart) <;> decide +kernel

theorem test_swap_begins : leftBy (.quantumEnd 0 1) contended (fun t => (t.teams.map Team.area, (t.die 0).swapPool.count)) =
    some ([0x600000], 0) := by decide +kernel
theorem test_swap_out : leftBy (.quantumEnd 0 1) { swapping with teams := [{ leaving with pages := 0 }] }
    (fun t => ((t.die 0).teamQ, t.teams.map Team.placed)) = some ([.swapped 1], [false]) := by decide +kernel
theorem test_swap_in : leftBy (.teamPlacement 0) swappedOut
    (fun t => (t.teams.map Team.placed, (t.core 4).deques.get 0, (t.die 0).swapPool.top)) =
      some ([true], [{ asid := 0, addr := 0x500000 }], 0x600000) := by decide +kernel

/-- A strand of the team is resident in slot 3 of core 4. -/
def teamRuns : State :=
  { placed with cur := { user.cur with core := 4, slot := 3, teamId := 1, launchId := 1, handle := { asid := 1, addr := 0x500000 } } }

theorem witness_scheduling_pre_emption :
    teamRuns.userCore 4 = true ∧ (∀ x ∈ teamRuns.onCore 4, x.slot ≠ 2) ∧ teamRuns.onCore 4 = [teamRuns.cur] ∧
      teamRuns.cur.slot = 3 ∧ teamRuns.teams = [placedTeam] ∧ placedTeam.id = teamRuns.cur.teamId ∧ placedTeam.placed = true ∧
      (teamRuns.die 0).swapPool = { top := 0x600000, count := 0 + 1 } ∧ (resting.die 0).swapPool.count = 0 ∧
      teamRuns.userCore 0 = false := by
  refine ⟨?_, ?_, ?_, ?_, ?_, ?_, ?_, ?_, ?_, ?_⟩ <;> decide +kernel

theorem witness_scheduling_pre_emption_spills :
    (∀ n : CoreId, coreCluster n = 1 → ∀ j, (teamRuns.core n).spills.get j = []) ∧
      (∀ y ∈ ({ teamRuns with teams := [] } : State).teams, y.id = teamRuns.cur.teamId → y.placed = false) := by
  refine ⟨?_, by decide +kernel⟩
  intro n _ j
  show Core.reset.spills.get j = []
  revert j; decide

/-! ### Fault records -/

/-- ASID 1 has a fault queue of 64 slots at 0x400000 whose record 0, of kind 0, is open: its strand's record is at 0x8000
(R342, R343). -/
def faultedWith (kind ctx : Nat) : State :=
  let m := resting.mem.writeBytes 0x100058 (leBytes 8 0x400000)
  let m := (m.writeBytes 0x400000 (leBytes 8 1)).writeBytes 0x400010 (leBytes 8 6)
  let m := (m.writeBytes 0x400040 (leBytes 24 (kind * 2 ^ 24 + 1 * 2 ^ 128))).writeBytes 0x400058 (leBytes 8 0x8000)
  { resting with mem := m.writeBytes 0x8038 (leBytes 8 ctx) }

/-- The actions' operand: ASID 1, sequence 0. -/
def record0 : Word := 1 <<< 48

/-- A record of the same queue whose strand waits behind that of the record, as a further miss of its page (R37, R348). -/
def joined : Handle := { asid := 1, addr := 0x8100 }
def faultedTwice : State :=
  (faultedWith 0 0xA000).modDie 0 fun d =>
    { d with openFaults := [{ asid := 1, seq := 0, page := some 2, head := waitingRecord, chain := [joined], kind := 0, subcode := 0 }] }

theorem witness_fault_records :
    let acts := fun (s : State) (n : Nat) =>
      (s.desc 0 1).live = true ∧ s.queueBits 0x400000 = some n ∧ s.mem64 (0x400040 + 8) % 2 ^ 40 = 0 ∧
        bitsOf (s.mem64 0x400040) 24 8 ≤ 1 ∧ bitsOf (s.mem64 0x400040) 16 1 = 0 ∧
        bitsOf (s.mem64 (0x400040 + 16)) 16 2 = 0 ∧ s.mem64 (0x400040 + 8) < s.mem64 0x400000
    record0.extractLsb' 48 12 = 1 ∧ record0.toNat % 2 ^ 40 = 0 ∧ ((faultedWith 0 0).desc 0 1).faultQueue = 0x400000 ∧
      acts (faultedWith 0 0) 6 ∧ acts (faultedWith 1 0) 6 ∧ acts (faultedWith 0 0x9000) 6 ∧ acts faultedTwice 6 ∧
      (faultedWith 0 0).mem.wf = true ∧ (∀ e : DieId, ((faultedWith 0 0).die e).fenced = false) ∧
      (faultedWith 0 0).poison = [] ∧ (faultedWith 0 0).teams = [] ∧ (faultedWith 0 0).recCtx 0x8000 = 0 ∧
      (faultedWith 0 0x9000).recCtx 0x8000 = 0x9000 ∧ (faultedWith 0 0).partlyPoisoned 0x400040 8 = false ∧
      apart [(0x400040, 64), (0x8000, 64)] ∧ apart [(0x400040, 64), (0x9000, 4096), (0x8000, 64)] ∧
      (∀ k ∈ [0x9000 + 0x418, 0x9000 + 0x408, 0x8000 + 32, 0x8000 + 40], (faultedWith 0 0x9000).partlyPoisoned k 8 = false) ∧
      bitsOf ((faultedWith 1 0).mem64 0x400040) 24 8 = 1 ∧ (faultedWith 0 0).openRecord 0 1 0 = none ∧
      (fw.desc 0 1).live = false := by
  unfold apart
  refine ⟨?_, ?_, ?_, ?_, ?_, ?_, ?_, ?_, ?_, ?_, ?_, ?_, ?_, ?_, ?_, ?_, ?_, ?_, ?_, ?_⟩ <;> decide +kernel

/-- A retirement of a chain whose head has a context block and no vector block. -/
theorem witness_fault_records_retire :
    (faultedTwice.openRecord 0 1 0).map OpenFault.chain = some [joined] ∧
      (∀ h ∈ [waitingRecord, joined], flagTeam (faultedTwice.recFlags h.addr) = false ∧ faultedTwice.openedBy h.addr = []) ∧
      (∀ l ∈ faultedTwice.launches, l.id ≠ 0) ∧ faultedTwice.recCtx 0x8000 = 0xA000 ∧ faultedTwice.blocksOk 0x8000 = true ∧
      flagGrant (faultedTwice.recFlags 0x8000) = 0 ∧ faultedTwice.recCtx 0x8100 = 0 ∧
      apart [(0x400040, 64), (0x8000, 64), (0xA000, 4096), (0x8100, 64)] := by
  unfold apart
  refine ⟨?_, ?_, ?_, ?_, ?_, ?_, ?_, ?_⟩ <;> decide +kernel

theorem test_resolve_retry : leftBy (.resolveRetry 0 record0) (faultedWith 0 0)
    (fun t => (bitsOf (t.mem64 0x400040) 16 1, (t.core 1).deques.get 0)) = some (1, [waitingRecord]) := by decide +kernel
theorem test_resolve_retire : leftBy (.resolveRetire 0 record0) faultedTwice (fun t => (t.due, (t.die 0).ctxPool)) =
    some ([.scopeDeath 1 1, .scopeDeath 1 0], { top := 0xA000, count := 1 }) := by
  decide +kernel

/-- A record of kind 2 for ASID 1 that die 0 holds; the queue is full, or has room. -/
def heldRecord : FaultRec :=
  { time := 0, info := 0, epc := 0, tval := 0, record := 0, scope := 0, die := 0, asid := 1, kind := 2, subcode := 0, cause := 4 }
def holding (produced : Nat) : State :=
  let s : State := { faultedWith 0 0 with mem := (faultedWith 0 0).mem.writeBytes 0x400000 (leBytes 8 produced) }
  s.modDie 0 fun d => { d with hold := [heldRecord] }

theorem witness_fault_records_held :
    (∀ e : DieId, ∀ y ∈ (resting.die e).hold, y.asid ≠ 1) ∧
      ((holding 64).die 0).hold = heldRecord :: [] ∧ heldRecord.asid = 1 ∧
      (∀ e : DieId, e ≠ 0 → ∀ y ∈ ((holding 64).die e).hold, y.asid ≠ 1) ∧ (holding 64).queueBits 0x400000 = some 6 ∧
      (holding 64).slotFree 0x400000 6 = false ∧ (holding 1).slotFree 0x400000 6 = true ∧ 2 ≤ heldRecord.kind.toNat ∧
      ((holding 1).die heldRecord.die).fqctr = 0 ∧ (holding 1).mem64 0x400000 + 1 < 2 ^ 64 ∧ (holding 1).mem.wf = true ∧
      (holding 1).partlyPoisoned 0x400000 8 = false ∧ (holding 1).fencedAt 0x400080 = false ∧
      (holding 1).partlyPoisoned 0x400080 64 = false := by
  refine ⟨?_, ?_, ?_, ?_, ?_, ?_, ?_, ?_, ?_, ?_, ?_, ?_, ?_, ?_⟩ <;> decide +kernel

/-! ### Leaf pages outside instructions -/

/-- Function 0 holds two lines of LPN 3 of die 0 under a reservation of none; with the Spill attribute, and with frames in
its pool. -/
def heldPage (spill : Bool) : Lpn := { emptyPage with state := .resident, lines := [(0, 0), (5, 1)], lastAsid := 1, spill := spill }
def overWith (e : Lpn) : State :=
  user.modDie 0 fun d => { d with resv := d.resv.set 0 { reservation := 0, resident := 2 }, lpns := [(3, e)] }
def overHeld : State := overWith (heldPage false)
def overSpill (frames : List Nat) : State :=
  (overWith (heldPage true)).modFn 0 fun x => { x with frames := x.frames.set 0 frames }

/-- A strand's discard comes first at the page. -/
def overBusy : State := overWith { heldPage true with queue := [.strand 0x8000] }

/-- LPN 3 converts; a frame waits at 0x30000, or none. -/
def converting (frames : List Nat) : State :=
  let s := overHeld.modDie 0 fun d =>
    { d with lpns := [(3, { emptyPage with state := .converting, lines := [(0, 0), (5, 1)], lastAsid := 1, spill := true })] }
  s.modFn 0 fun x => { x with frames := x.frames.set 0 frames }

theorem witness_leaf_shrink :
    (fw.die 0).fenced = false ∧ fw.overReserved 0 0 = false ∧ overHeld.overReserved 0 0 = true ∧ overHeld.pagesOf 0 0 true = [] ∧
      overHeld.pagesOf 0 0 false = 3 :: [] ∧ (overHeld.lpn 0 3).spill = false ∧ (overHeld.lpn 0 3).f.toFin = 0 ∧
      (0 : FnId).val ∉ (overHeld.die 0).shrunk ∧ overHeld.pageBusy 0 3 (.shrink 0 0) = false ∧
      overHeld.mem.wf = true ∧
      ((overHeld.die 0).resv.get 0).resident - (overHeld.lpn 0 3).lines.length ≤
        ((overHeld.die 0).resv.get 0).reservation.toNat * 512 ∧
      ((overSpill []).pagesOf 0 0 true = 3 :: [] ∧ ((overSpill []).lpn 0 3).spill = true ∧
        (overSpill []).pageBusy 0 3 (.shrink 0 0) = false ∧ ((overSpill []).die 0).fqctr = 0 ∧
        ((overSpill []).fn 0).frames.get 0 = [] ∧ ((overSpill [0x30000]).fn 0).frames.get 0 = 0x30000 :: []) ∧
      overBusy.overReserved 0 0 = true ∧ overBusy.pagesOf 0 0 true = 3 :: [] ∧ overBusy.pageBusy 0 3 (.shrink 0 0) = true := by
  refine ⟨?_, ?_, ?_, ?_, ?_, ?_, ?_, ?_, ?_, ?_, ?_, ?_, ?_, ?_, ?_⟩ <;> decide +kernel

/-- The group of LPN 3 of die 0 in ASID 1's tables: 16 entries from 0x114000. -/
def grouped (s : State) : State :=
  let m := (s.mem.writeBytes 0x110000 (leBytes 8 0x111001)).writeBytes 0x111000 (leBytes 8 0x112001)
  let m := (m.writeBytes 0x112000 (leBytes 8 0x114001)).writeBytes 0x114000
    ((List.range 16).flatMap fun _ => leBytes 8 (2 ^ 63 + 0x3E63))
  { s with mem := m }

theorem witness_leaf_conversion :
    (overHeld.lpn 0 3).state ≠ .converting ∧ ((converting []).lpn 0 3).state = .converting ∧ ((converting []).die 0).fenced = false ∧
      (∀ c ∈ (converting []).chains, c.1 ≠ ChainKey.conversion 0 3) ∧ ((converting []).fn 0).frames.get 0 = [] ∧
      ((converting [0x30000]).fn 0).frames.get 0 = 0x30000 :: [] ∧ ((converting [0x30000]).die 0).fqctr = 0 ∧
      ((converting [0x30000]).desc 0 2).live = false ∧
      apart [(0x30000, 65536), (leafLoc 0 3 0, 65536), ((converting [0x30000]).descAddr 2, 64)] ∧
      (grouped (converting [0x30000])).leafGroups 1 0 3 = [0x114000] ∧ (grouped (converting [0x30000])).fencedAt 0x114000 = false ∧
      (∀ i < 16, (grouped (converting [0x30000])).partlyPoisoned (0x114000 + 8 * i) 8 = false) ∧ 0x114000 % 128 = 0 ∧
      apart [(0x30000, 65536), (leafLoc 0 3 0, 65536), ((converting [0x30000]).descAddr 1, 64), (0x114000, 128),
        (0x400000, 64 + 64 * 2 ^ 20)] := by
  unfold apart
  refine ⟨?_, ?_, ?_, ?_, ?_, ?_, ?_, ?_, ?_, ?_, ?_, ?_, ?_, ?_⟩ <;> decide +kernel

theorem test_conversion : leftBy (.leafConversion 0 3 1 false) (grouped (converting [0x30000]))
    (fun t => ((t.lpn 0 3).state, (t.lpn 0 3).frame, t.mem64 0x114008)) =
      some (.backed, 0x30000, 2 ^ 58 + 0x31E63) := by decide +kernel

/-- LPN 3 of die 0, with one line, moves to LPN 5 of die 1, which is in power state 2, so that a set has 4 ways; others of its
pages hold line 7, in the same set (R64, R73, R78). -/
def moving (others : List (Nat × Lpn)) : State :=
  let s := user.modDie 0 fun d =>
    { d with
      moves := [{ lpn := 3, dstDie := 1, dstLpn := 5, asid := 1, va := 0, issuer := 0x7000 }]
      resv := d.resv.set 0 { reservation := 1, resident := 1 }
      lpns := [(3, { emptyPage with state := .moving, lines := [(7, 0)], lastAsid := 1, queue := [.strand 0x8000, .shrink 0 0] })] }
  s.modDie 1 fun d =>
    { d with
      power := 2
      resv := d.resv.set 0 { reservation := 1, resident := 1 }
      lpns := (5, { emptyPage with state := .moving }) :: others }

/-- Four pages that fill the set of line 7. -/
def fullSet : List (Nat × Lpn) :=
  [(525, 0), (1045, 1), (1565, 2), (2085, 3)].map fun x => (x.1, { emptyPage with state := .resident, lines := [(7, x.2)] })

theorem witness_leaf_moves :
    (∀ m ∈ (user.die 0).moves, m.lpn ≠ 3) ∧ ((moving []).die 0).moves.map LeafMove.lpn = [3] ∧
      (((moving []).modDie 0 fun x => { x with moves := [] }).deliverLines 1 5 [7]).isSome = true ∧ (moving []).mem.wf = true ∧
      (moving []).leafGroups 1 0 3 = [] ∧ (((moving fullSet).modDie 0 fun x => { x with moves := [] }).deliverLines 1 5 [7]).isNone = true := by
  refine ⟨?_, ?_, ?_, ?_, ?_, ?_⟩ <;> decide +kernel

theorem test_leaf_move_done : leftBy (.leafMoveDone 0 3) (moving []) (fun t => ((t.lpn 1 5).lines, (t.lpn 1 5).queue, (t.lpn 0 3).state,
    (t.die 0).leafDone.map LeafResult.outcome)) = some ([(7, 0)], [.strand 0x8000], .empty, [0]) := by decide +kernel

/-- ASID 1's tables from 0x110000 lead to a normal page at 0x2000, of frame 0x4000 (R30). -/
def mapped : State :=
  let m := (user.mem.writeBytes 0x110000 (leBytes 8 0x111001)).writeBytes 0x111000 (leBytes 8 0x112001)
  let m := (m.writeBytes 0x112000 (leBytes 8 0x113001)).writeBytes 0x113010 (leBytes 8 0x4163)
  { user with mem := m }

theorem witness_page_walk :
    mapped.walkable 0 1 0x2000 = true ∧ fw.walkable 0 1 0x2000 = false ∧ mapped.walkStart 0 1 0x2000 (mapped.desc 0 1).root = (3, 0x110000) ∧
      mapped.openFor 0 1 (0x2000 / 4096) = none ∧ mapped.mem.wf = true ∧
      walkFrom mapped 0x2000 3 0x110000 = .page 0x4163 12 0x113010 ∧
      walkFrom mapped 0x3000 3 0x110000 = .fault 0 ∧
      (let p := placeOf 0x4163 12 0x2000
       frameOk 0x4163 p.loc 1 = true ∧ p.ptype ≠ .leaf) ∧
      frameOk 0x4163 (placeOf 0x800000004163 12 0x2000).loc 1 = false ∧
      (grouped overHeld).walkable 0 1 0 = true ∧ (grouped overHeld).openFor 0 1 0 = none ∧
      walkFrom (grouped overHeld) 0 3 0x110000 = .page (2 ^ 63 + 0x3E63) 16 0x114000 ∧
      (let p := placeOf (2 ^ 63 + 0x3E63) 16 0
       frameOk (2 ^ 63 + 0x3E63) p.loc 1 = true ∧ (grouped overHeld).leafOk p.loc 1 = true ∧ fw.leafOk p.loc 1 = false) := by
  refine ⟨?_, ?_, ?_, ?_, ?_, ?_, ?_, ?_, ?_, ?_, ?_, ?_, ?_⟩ <;> decide +kernel

theorem test_page_walk : leftBy (.pageWalk 0 1 0x2000) mapped (fun t => (t.mem64 0x113010, t.walks.map WalkPtr.table)) =
    some (0x4363, [0x113000, 0x112000, 0x111000]) := by decide +kernel

/-! ### The outside world -/

/-- A state whose page at 0x2000, which the tables of ASID 1 map by the given entry, is function 0's peer window, counter
window and aperture, of ASID 1. -/
def outer (entry : Nat) : State :=
  { user with
    mem := (tables user.mem).writeBytes 0x113010 (leBytes 8 entry)
    jobs := user.jobs.set 0 (some
      { hallmark := 0x200000, groups := 0, groupCount := 0, peerMap := 0x210000, peers := [], ranks := 2, rank := 0, epoch := 1
        peerAsid := 1, peerBase := 0x2000 })
    funcs := user.funcs.set 0 { Function.reset with windowAsid := 1, wb := 0x2000, apAsid := 1, ab := 0x2000 } }

def outerNormal : State := outer 0x4763
def outerCounter : State := outer 0x4000000000004663
def normal : Place := { loc := 0x4000, ptype := .normal, tags := true, cmem := false, spill := false, owner := 0 }

/-- A requester behind a link, and the party that its peer requests are. -/
def asker : Sender := { f := 0, requester := 0, relaxed := false }
def peerParty : Party := outsider 1 (senderPeer asker)

theorem witness_outside_normal :
    outerNormal.mem.wf = true ∧ (outerNormal.die 0).fenced = false ∧
      (∀ k, k = Kind.store ∨ k = .load ∨ k = .atomic → ∃ s1,
        translate outerNormal peerParty 0x2000 k = (s1, .ok normal) ∧ s1.order.early = [] ∧
          (∃ s2, s1.readyWrite peerParty normal 0x2000 8 = (s2, none)) ∧ s1.gate peerParty normal 0x2000 8 = none ∧
          s1.poisoned normal.loc 8 = false ∧ amoResult .add (BitVec.ofNat 64 (s1.mem64 0x4000)) 5 0 = some 5) ∧
      (0x2000 + 8 ≤ 2 ^ 48 ∧ 0x2000 % 4096 + 8 ≤ 4096) ∧ (outerNormal.fn 0).ab ≠ 0 ∧ 0 + 8 ≤ 2 ^ (outerNormal.fn 0).apSize ∧
      (∃ j, outerNormal.jobs.get 0 = some j ∧ j.peerBase ≠ 0 ∧ j.peerBase + 0 < 2 ^ 48) ∧ (0 : Nat) < addHalf := by
  refine ⟨by decide +kernel, by decide, ?_, by decide, by decide, by decide, ⟨_, rfl, by decide, by decide⟩, by decide⟩
  rintro k (rfl | rfl | rfl) <;>
    exact ⟨_, answers (is_ok (by decide +kernel)), by decide +kernel, ⟨_, answers (by decide +kernel)⟩, by decide +kernel,
      by decide +kernel, by decide +kernel⟩

/-- A job without a peer window. -/
def closedJob : State := { peerOne with jobs := peerOne.jobs.set 0 ((peerOne.jobs.get 0).map fun j => { j with peerBase := 0 }) }

theorem witness_outside_peers :
    outerNormal.allHeld 0 (BitVec.allOnes 12) = false ∧ peerHeld.allHeld 0 (BitVec.allOnes 12) = true ∧
      (∃ j, closedJob.jobs.get 0 = some j ∧ j.peerBase = 0) ∧ closedJob.allHeld 0 (BitVec.allOnes 12) = false ∧
      peerHeld.mem.wf = true ∧ (peerHeld.die 0).fenced = false ∧ closedJob.mem.wf = true ∧ (closedJob.die 0).fenced = false := by
  refine ⟨?_, ?_, ⟨_, rfl, ?_⟩, ?_, ?_, ?_, ?_, ?_⟩ <;> decide +kernel

/-- The cause of a fault, if a result is one. -/
def faultOf {α : Type} : Except Stop α → Option Nat
  | .error (.fault c _ _) => some c
  | _ => none

theorem is_fault {α : Type} {x : Except Stop α} {c : Nat} (h : faultOf x = some c) : ∃ c sub tval, x = .error (.fault c sub tval) := by
  match x with
  | .error (.fault c sub tval) => exact ⟨c, sub, tval, rfl⟩

theorem is_error {ε α : Type} {x : Except ε α} (h : x.toOption.isNone = true) : ∃ e, x = .error e := by
  cases x <;> simp_all [Except.toOption]

theorem witness_outside_counter :
    (∀ k, k = Kind.ctrWrite ∨ k = .ctrRead → ∃ s1, outerCounter.counterPlace peerParty 0x2000 k = (s1, .ok counter)) ∧
      (∀ k, k = Kind.store ∨ k = .atomic →
        ∃ s1 c sub tval, translate outerCounter peerParty 0x2000 k = (s1, .error (.fault c sub tval))) ∧
      outerCounter.pendingOn peerParty.who = 0 ∧
      ({ outerCounter with order := { outerCounter.order with counts := [(peerParty.who, 1)] } } : State).pendingOn peerParty.who ≠ 0 ∧
      (outerCounter.fn 0).wb ≠ 0 ∧ 0 + 8 ≤ 2 ^ (outerCounter.fn 0).windowSize ∧ (fw.fn 0).wb = 0 ∧ (fw.fn 0).ab = 0 ∧
      2 ^ (fw.fn 0).windowSize < 2 ^ 16 + 8 ∧ fw.jobs.get 0 = none := by
  refine ⟨?_, ?_, by decide, by decide, by decide, by decide, by decide, by decide, by decide, by decide⟩
  · rintro k (rfl | rfl) <;> exact ⟨_, answers (is_ok (by decide +kernel))⟩
  · intro k hk
    obtain ⟨c, sub, tval, h⟩ := is_fault (c := 3) (x := (translate outerCounter peerParty 0x2000 k).2) (by
      rcases hk with rfl | rfl <;> decide +kernel)
    exact ⟨_, c, sub, tval, answers h⟩

/-- A load of the machine's strand from the host or from a peer is outstanding. -/
def waitingOn (peer : Option (FnId × Nat)) (atomic posted : Bool) : Outstanding :=
  { id := 4, strand := 0x7000, dest := 12, size := if posted then 0 else 8, sext := false, addr := 0x2000, peer := peer
    atomic := atomic, posted := posted }
def waitsOn (o : Outstanding) : State := { user with cur := { user.cur with run := .waitIo 4 }, outstanding := [o] }

theorem witness_outside_completions :
    (∀ z ∈ user.outstanding, z.id ≠ 4) ∧
      (∀ o, o.id = 4 → (waitsOn o).outstanding.find? (fun z => decide (z.id = 4)) = some o ∧
        (∀ z ∈ (waitsOn o).outstanding, z.id = 4 → z = o) ∧ (waitsOn o).cur.run = .waitIo 4) ∧
      (waitingOn none false false).posted = false ∧ (waitingOn none false false).peer = none ∧
      (List.replicate 8 (1 : Byte)).length = (waitingOn none false false).size ∧ (waitingOn (some (0, 1)) false false).peer ≠ none ∧
      (waitingOn none true false).atomic = true ∧ (waitingOn (some (0, 1)) false true).posted = true ∧
      (waitingOn none false true).size = 0 ∧ (∀ o, (waitsOn o).cur.killed = false) ∧
      ({ (waitsOn (waitingOn none true false)).cur with killed := true } : Strand).run = .waitIo 4 := by
  refine ⟨by decide, fun o h => ⟨?_, ?_, rfl⟩, by decide, by decide, by decide, by decide, by decide, by decide, by decide,
    fun _ => rfl, rfl⟩
  · simp [waitsOn, h]
  · intro z hz _
    simpa [waitsOn] using hz

theorem test_peer_write : leftBy (.peerWrite asker 0 [0xAB]) outerNormal (fun t => (t.mem.read 0x4000, t.sent)) =
    some (0xAB, [.reply []]) := by decide +kernel
theorem test_peer_read_none : leftBy (.peerRead asker 0 2) fw (·.sent) = some [.reply [0xFF, 0xFF]] := by decide +kernel
theorem test_window_add : leftBy (.windowAdd asker 0 8 3) outerCounter (·.mem64 0x4000) = some 3 := by decide +kernel
theorem test_completion : leftBy (.pcieCompletion 4 (some (leBytes 8 77))) (waitsOn (waitingOn none false false))
    (fun t => (t.x 12, t.cur.run, t.outstanding)) = some (77, .ready, []) := by decide +kernel

/-! ### Links -/

/-- Port 0 is up and has seen failed receptions of one flit. -/
def linked (failed : Nat) : State := { fw with ports := fw.ports.set 0 { Port.reset with up := true, failed := failed } }

/-- A job descriptor of two ranks at 0x8000 for function 0: epoch 2, rank 0, no Peer base (R358). -/
def jobAt8000 : State := { user with mem := user.mem.writeBytes 0x8018 (leBytes 8 (2 + 2 * 2 ^ 32)) }

theorem witness_links_ports :
    (fw.ports.get 0).up = false ∧ ((linked 0).ports.get 0).up = true ∧ ((linked 0).ports.get 0).failed < 3 ∧
      3 ≤ ((linked 3).ports.get 0).failed ∧ (∀ r ∈ fw.cores, r.2.crus = []) ∧ fw.outstanding = [] ∧
      (let w := waitingOn (some (0, 1)) false false
       let s := { peerOne with cur := { peerOne.cur with run := .waitIo 4 }, outstanding := [w], parked := [] }
       (∀ r ∈ s.cores, r.2.crus = []) ∧ s.outstanding = [w] ∧ s.cur.run = .waitIo w.id ∧
         ({ s with ports := s.ports.set 0 { s.ports.get 0 with lanes := 0, up := false } } : State).lostPeer w = true) := by
  refine ⟨?_, ?_, ?_, ?_, ?_, ?_, ?_, ?_, ?_, ?_⟩ <;> decide +kernel

theorem is_ok_with {ε α : Type} {x : Except ε α} {P : α → Bool} (h : x.toOption.any P = true) : ∃ a, x = .ok a ∧ P a = true := by
  cases x <;> simp_all [Except.toOption]

theorem witness_links_jobs :
    (∃ r, user.jobAt 0 0x8000 = .error r) ∧
      (∃ j, jobAt8000.jobAt 0 0x8000 = .ok j ∧ decide (j.rank = 0 ∧ 1 < j.ranks) = true) ∧ (jobAt8000.party 1).phase = .none ∧
      (0x8000 : Word).toNat / 64 % 2 ^ 46 * 64 = 0x8000 := by
  exact ⟨is_error (by decide +kernel), is_ok_with (by decide +kernel), by decide, by decide⟩

theorem test_job_pointer : leftBy (.jobPointerWrite 0 0x8000) jobAt8000 (fun t => (t.jobs.get 0).map Job.epoch) = some (some 2) := by
  decide +kernel
theorem test_flit_replay : leftBy (.flitReceive 0 false) (linked 0) (fun t => (t.ports.get 0).replays) = some 1 := by decide +kernel

/-- A party: what it has been sent, and how far it has come. -/
def spokenBy (n : Nat) (ph : SpdmPhase) (released : List (FnId × BitVec 16)) : SpdmPeer :=
  { party := n, phase := ph, digest := some 1, received := [], released := released, sender := none }

/-- Party 5 has come to a phase; so has a switch that has been sent function 0's key. -/
def spoken (ph : SpdmPhase) : State := { fw with spdm := [spokenBy 5 ph []] }
def switched : State := { fw with spdm := [spokenBy 5000 .session [(0, 1)]] }

theorem witness_links_spdm :
    (∀ ph, ((spoken ph).party 5).phase = ph) ∧ (fw.party 5).phase = .none ∧ SpdmPhase.none.rank < 1 ∧ 3 ≤ SpdmPhase.certified.rank ∧
      offersAll ⟨true, true, true, true⟩ = true ∧ offersAll ⟨true, false, true, true⟩ = false ∧ isSwitch 5 = false ∧
      (spoken .session).admitting 5 = [] ∧ isSwitch 5000 = true ∧ (switched.party 5000).phase = .session ∧
      (switched.party 5000).released = [(0, 1)] ∧ (0x13 : Nat) ∈ [0x13] ∧ (0x13 : Nat) ∉ [] := by
  refine ⟨fun ph => by simp [spoken, spokenBy, State.party], ?_, ?_, ?_, ?_, ?_, ?_, ?_, ?_, ?_, ?_, ?_, ?_⟩ <;> decide

/-- Function 0's job, of rank 0 of six, has a Hallmark policy at 0x200000, and party 5 has come to a phase. -/
def sixRanks : Job :=
  { hallmark := 0x200000, groups := 0, groupCount := 0, peerMap := 0, peers := [], ranks := 6, rank := 0, epoch := 1, peerAsid := 1
    peerBase := 0 }
def policed (m : Mem) (x : SpdmPeer) : State := { fw with mem := m, jobs := fw.jobs.set 0 (some sixRanks), spdm := [x] }

theorem in_policy {s : State} {d : BitVec 256} (hj : s.jobs.get 0 = some sixRanks) (h0 : s.memN 0x200000 4 = 1)
    (h1 : s.memN 0x200020 32 = d.toNat) : s.inPolicy 0 d = true := by
  simp only [State.inPolicy, hj, List.any_eq_true]
  exact ⟨0, by rw [show sixRanks.hallmark = 0x200000 from rfl, h0]; decide, by simp [sixRanks, h1]⟩

theorem policy_bytes (d : BitVec 256) :
    let m := Mem.writeBytes [(0x200000, 1)] 0x200020 (leBytes 32 d.toNat)
    leNat (m.readBytes 0x200000 4) = 1 ∧ leNat (m.readBytes 0x200020 32) = d.toNat := by
  have hl : (leBytes 32 d.toNat).length = 32 := by simp [leBytes]
  have hw : Mem.wf ([(0x200000, 1)] : Mem) = true := by decide
  refine ⟨?_, ?_⟩
  · rw [Mem.readBytes_congr (m' := ([(0x200000, 1)] : Mem)) fun c _ hc => Mem.read_writeBytes_outside _ c _ hw (by omega)]
    decide
  · have := Mem.readBytes_writeBytes (m := ([(0x200000, 1)] : Mem)) 0x200020 (leBytes 32 d.toNat) hw
    rw [hl] at this
    rw [this, leNat_leBytes]
    exact Nat.mod_eq_of_lt (by have := d.isLt; omega)

/-- Memory in which a digest is the one policy digest. -/
def policyOf (d : BitVec 256) : Mem := Mem.writeBytes [(0x200000, 1)] 0x200020 (leBytes 32 d.toNat)

theorem policed_memN (m : Mem) (x : SpdmPeer) (a n : Nat) : (policed m x).memN a n = leNat (m.readBytes a n) := rfl

theorem policed_in (d : BitVec 256) (x : SpdmPeer) : (policed (policyOf d) x).inPolicy 0 d = true := by
  refine in_policy rfl ?_ ?_ <;> rw [policed_memN, policyOf]
  · exact (policy_bytes d).1
  · exact (policy_bytes d).2

theorem witness_links_keys :
    let s := policed (policyOf 1) (spokenBy 5 .keyed [])
    let t := policed [] (spokenBy 5 .session [(0, 1)])
    s.admitting 5 = [0] ∧ s.jobs.get 0 = some sixRanks ∧ (s.party 5).digest = some 1 ∧ (s.party 5).phase = .keyed ∧
      s.inPolicy 0 1 = true ∧ (policed [] (spokenBy 5 .keyed [])).inPolicy 0 1 = false ∧
      ((0 : FnId), sixRanks.epoch) ∉ (s.party 5).released ∧ (t.party 5).phase = .session ∧ t.admitting 5 ≠ [] ∧
      (t.party 5).released = [(0, 1)] ∧ (0 : FnId) ∈ t.admitting 5 ∧ (t.party 5).digest = some 1 ∧ t.inPolicy 0 1 = false ∧
      (policed (policyOf 1) (spokenBy 5 .session [(0, 1)])).inPolicy 0 1 = true :=
  ⟨rfl, rfl, rfl, rfl, policed_in 1 _, by decide, by decide, by decide, by decide, by decide, by decide, rfl, by decide,
    policed_in 1 _⟩

theorem witness_links_measurements (l : List (List Byte)) :
    let d := Config.digest (l.flatMap fun b => b)
    let s := policed (policyOf d) (spokenBy 5 .challenged [])
    (s.party 5).phase = .challenged ∧ (true && s.measuredOk 5 d) = true ∧ (false && s.measuredOk 5 d) = false ∧
      ((spoken .session).party 5).phase = .session := by
  intro d s
  have ha : s.admitting 5 = [0] := rfl
  have hr : (s.party 5).released = [] := rfl
  have hi : s.inPolicy 0 d = true := policed_in d _
  refine ⟨rfl, ?_, rfl, by decide⟩
  simp [State.measuredOk, ha, hr, hi]

theorem test_spdm_order : leftBy (.getDigests 5) (spoken .version) (·.sent) = some [.spdm 5 "ERROR" []] := by decide +kernel

/-! ### Reliability -/

/-- An error of unit 7 of kind 3. -/
def report (severity kind code : Nat) : ErrorReport :=
  { severity := BitVec.ofNat 4 severity, kind := BitVec.ofNat 4 kind, unit := 0, code := BitVec.ofNat 16 code, address := 0x8000
    asid := none, info := 0 }

/-- Die 0's bank holds one record of that unit, or is full. -/
def banked (produced : Nat) : State :=
  fw.modDie 0 fun d =>
    { d with
      errProduced := produced
      errSlots := [(0, { seq := 0, report := report 4 3 0, time := 0, merged := 0, ovf := false, assay := 4, removed := false
                         cls := 0 })] }

/-- The record's unit has been classed. -/
def classed : State :=
  (banked 1).modDie 0 fun d =>
    { d with errSlots := d.errSlots.map fun e => (e.1, { e.2 with cls := 2 }) }

theorem witness_reliability_errors :
    (let r := report 4 3 0
     ¬ (r.severity = 1 ∧ r.code = 2 ∧ (r.kind = 3 ∨ r.address ≠ 0)) ∧ isMismatch r = false ∧ fw.mergeSlot 0 r = none ∧
       (fw.die 0).errProduced - (fw.die 0).errConsumed < 256 ∧ ((banked 1).mergeSlot 0 r).isSome = true) ∧
      (banked 256).mergeSlot 0 (report 4 5 0) = none ∧
      256 ≤ ((banked 256).die 0).errProduced - ((banked 256).die 0).errConsumed ∧
      ((report 1 3 2).severity = 1 ∧ (report 1 3 2).code = 2 ∧ (report 1 3 2).kind = 3 ∧
        regionOf (report 1 3 2).address.toNat = .hbm) ∧ isMismatch (report 0 1 3) = true ∧
      classed.mergeSlot 0 (report 4 3 0) = none ∧ (report 4 3 0).kind ≠ 8 ∧ 4 ≤ (report 4 5 0).kind.toNat ∧
      user.attributed { report 4 0 0 with asid := some 1 } = some 1 := by
  refine ⟨⟨?_, ?_, ?_, ?_, ?_⟩, ?_, ?_, ?_, ?_, ?_, ?_, ?_, ?_⟩ <;> decide +kernel

theorem test_error_posted : leftBy (.errorDetected 0 (report 4 3 0)) fw (fun t => ((t.die 0).errProduced, (t.die 0).ints.contains 2)) =
    some (1, true) := by decide +kernel

/-- A test of a unit of a kind runs on die 0. -/
def assaying (kind unit : Nat) : State :=
  fw.modDie 0 fun d => { d with assay := { busy := true, pass := false, kind := BitVec.ofNat 4 kind, unit := BitVec.ofNat 16 unit } }

theorem witness_reliability_tests :
    (fw.die 0).assay.busy = false ∧ ((0x10005000000 : Word).toNat / 2 ^ 40 % 16 = 1 ∧ (0x10005000000 : Word).toNat / 2 ^ 24 % 2 ^ 16 = 5) ∧
      5 < assayUnits 1 ∧ 5 < assayUnits 0 ∧ assayUnits 0 ≤ 65535 ∧ ((assaying 2 5).die 0).assay.busy = true ∧
      2 ≤ ((assaying 2 5).die 0).assay.kind.toNat ∧ ((assaying 1 5).die 0).assay.kind = 1 ∧ ((assaying 2 5).die 0).assay.kind = 2 ∧
      ((assaying 3 5).die 0).assay.kind = 3 ∧ ((assaying 5 5).die 0).assay.kind = 5 ∧ ((assaying 6 5).die 0).assay.kind = 6 ∧
      ((assaying 0 5).die 0).assay.kind = 0 ∧ ((assaying 0 5).core (coreOfNat 5)).handles = [] ∧
      (∀ j, ((assaying 0 5).core (coreOfNat 5)).spills.get j = []) ∧ (5 : PortId).val = 5 % 12 := by
  refine ⟨?_, ?_, ?_, ?_, ?_, ?_, ?_, ?_, ?_, ?_, ?_, ?_, ?_, ?_, ?_, ?_⟩ <;> decide +kernel

theorem test_assay_end : leftBy (.assayEnd 0 false) (assaying 2 5) (fun t => ((t.die 0).slicesOut, (t.die 0).assay.busy)) =
    some ([5], false) := by decide +kernel

/-- Cluster 3 counted 1,000 at manufacture and has been stepped n times. -/
def aged (n : Nat) : State := fw.setCluster 3 { Cluster.reset with birth := 1000, steps := BitVec.ofNat 4 n }

theorem witness_reliability_patina :
    let drifts := fun (c : Cluster) (count : Nat) =>
      ((c.birth.toNat : Int) - count) * 100 > (3 + 2 * (c.steps.toNat : Int)) * (c.birth.toNat : Int)
    ¬ drifts ((aged 0).cluster 3) 990 ∧ drifts ((aged 0).cluster 3) 900 ∧ ((aged 0).cluster 3).steps.toNat < 10 ∧
      drifts ((aged 10).cluster 3) 500 ∧ 10 ≤ ((aged 10).cluster 3).steps.toNat := by
  refine ⟨?_, ?_, ?_, ?_, ?_⟩ <;> decide +kernel

theorem test_patina : leftBy (.patinaSample 3 900) (aged 0) (fun t => ((t.cluster 3).steps, (t.cluster 3).now)) = some (1, 900) := by
  decide +kernel

/-- The user strand runs as a pair, in scope 1; the first copy's hash is held, or none. -/
def pairedWith (held : Option (PairCopy × Word)) : State :=
  let s : State := { user with cur := { user.cur with scope := 1, birth := 1 } }
  { s with
    dies := s.dies.set 0 { Die.reset with scopes := [(0x300040, { own with asid := 1 })] }
    mem := s.mem.writeBytes 0x100050 (leBytes 8 0x300006)
    pairs := [{ id := 2, asid := 1, scope := 1, first := 0, second := 9, strand := 0x7000, held := held, forwarded := 0
                asked := none, matched := none }] }

theorem witness_reliability_pairs :
    let s := pairedWith (some (.first, 5))
    let t := s.cur
    (s.pairs.find? (fun p => decide (p.id = 2))).isSome = true ∧ (∀ p ∈ s.pairs, p.id ≠ 3) ∧ t.handle.addr = 0x7000 ∧
      t.run ≠ .absent ∧ (s.core t.core).lease = none ∧ t.teamId = 0 ∧ (∀ l ∈ s.launches, l.id ≠ t.launchId) ∧
      s.scopeOf t.handle.asid t.birth = some (0x300040, { own with asid := 1 }) ∧ s.fencedAt 0x300040 = false ∧
      PairCopy.second ≠ .first := by
  refine ⟨?_, ?_, ?_, ?_, ?_, ?_, ?_, ?_, ?_, ?_⟩ <;> decide +kernel

theorem test_pair_agrees : leftBy (.touchstoneHash 2 .second 5) (pairedWith (some (.first, 5)))
    (fun t => t.pairs.map fun p => (p.held, p.forwarded)) = some [(none, 1)] := by decide +kernel
theorem test_pair_differs : leftBy (.touchstoneHash 2 .second 6) (pairedWith (some (.first, 5)))
    (fun t => (t.cur.run, (t.cached 0x300040).map fun r => (r.deaths, r.fl, r.lost))) = some (.absent, some (1, true, 1)) := by
  decide +kernel

theorem witness_reliability_kills :
    let s := pairedWith none
    s.scopeOf 1 1 = some (0x300040, { own with asid := 1 }) ∧ own.state ≠ .free ∧ own.state ≠ .closed ∧ s.rings = [] ∧
      s.chains = [] ∧ s.launches = [] ∧ (∀ e : DieId, (s.die e).openFaults = [] ∧ ∀ f, (s.die e).benchQ.get f = []) ∧
      { own with state := .closed }.state = .closed := by
  refine ⟨?_, ?_, ?_, ?_, ?_, ?_, ?_, ?_⟩ <;> decide +kernel

/-! ### Boot -/

/-- An image of one 64-byte block for load address 0x10000, entry offset 0, and a key's digest (R402). -/
def imageOf (key : BitVec 256) : List Byte :=
  leBytes 32 (0x47465731 + 64 * 2 ^ 64 + 0x10000 * 2 ^ 192) ++ leBytes 32 key.toNat ++ List.replicate 448 0

theorem imageOf_header (key : BitVec 256) :
    imageHeader (imageOf key) =
      { magic := 0x47465731, version := 0, length := 64, reserved := 0, entry := 0, load := 0x10000, key := key.toNat } := by
  have h : (imageOf key).take 32 = leBytes 32 (0x47465731 + 64 * 2 ^ 64 + 0x10000 * 2 ^ 192) := by
    rw [imageOf, List.append_assoc, List.take_left' (leBytes_length ..)]
  have f : ∀ o n, o + n ≤ 32 → ((imageOf key).drop o).take n = ((leBytes 32 (0x47465731 + 64 * 2 ^ 64 + 0x10000 * 2 ^ 192)).drop o).take n := by
    intro o n hn
    rw [← h, List.drop_take, List.take_take, Nat.min_eq_left (by omega)]
  have hk : ((imageOf key).drop 32).take 32 = leBytes 32 key.toNat := by
    rw [imageOf, List.append_assoc, List.drop_left' (leBytes_length ..), List.take_left' (leBytes_length ..)]
  simp only [imageHeader]
  rw [f 0 4 (by omega), f 4 4 (by omega), f 8 8 (by omega), f 16 4 (by omega), f 20 4 (by omega), f 24 8 (by omega), hk, leNat_leBytes,
    Nat.mod_eq_of_lt (show key.toNat < 256 ^ 32 from key.isLt)]
  congr <;> decide

theorem imageOf_length (key : BitVec 256) : (imageOf key).length = 512 := by
  simp only [imageOf, List.length_append, leBytes_length, List.length_replicate]

/-- An image with a fused key is legal and placed; whether it is signed and recent is the package's (Config). -/
theorem witness_boot_known :
    let bs := imageOf Config.keyDigests.1
    let h := imageHeader bs
    State.reset.boot.image = none ∧
      (64 + h.length + 384 ≤ bs.length ∧ h.magic = 0x47465731 ∧ h.reserved = 0 ∧ h.length % 64 = 0) ∧
      h.key = Config.keyDigests.1.toNat ∧
      (h.load % 0x10000 = 0 ∧ h.load + h.length ≤ hbmSpan ∧ h.entry % 4 = 0 ∧ h.entry < h.length) ∧ State.reset.mem.wf = true ∧
      (∀ e : DieId, (State.reset.die e).fenced = false ∧ State.reset.partlyPoisoned (h.load + e.val * hbmSpan) h.length = false) ∧
      State.reset.boot.leads = false ∧ State.reset.cur.run = .bootRom := by
  simp only [imageOf_header, imageOf_length]
  refine ⟨?_, ?_, ?_, ?_, ?_, ?_, ?_, ?_⟩ <;> first | trivial | decide +kernel

/-- Of three keys one is not fused. -/
theorem witness_boot_unknown :
    ∃ key, let h := imageHeader (imageOf key)
      (64 + h.length + 384 ≤ (imageOf key).length ∧ h.magic = 0x47465731 ∧ h.reserved = 0 ∧ h.length % 64 = 0) ∧
        ¬ (h.key = Config.keyDigests.1.toNat ∨ h.key = Config.keyDigests.2.toNat) := by
  have h : ∃ key : BitVec 256, key ≠ Config.keyDigests.1 ∧ key ≠ Config.keyDigests.2 := by
    by_cases h0 : (0 : BitVec 256) ≠ Config.keyDigests.1 ∧ (0 : BitVec 256) ≠ Config.keyDigests.2
    · exact ⟨0, h0⟩
    · by_cases h1 : (1 : BitVec 256) ≠ Config.keyDigests.1 ∧ (1 : BitVec 256) ≠ Config.keyDigests.2
      · exact ⟨1, h1⟩
      · refine ⟨2, ?_⟩
        generalize Config.keyDigests = k at *
        obtain ⟨a, b⟩ := k
        simp only at *
        constructor <;> rintro rfl <;> simp_all
        all_goals (first | (rcases h0 with h | h <;> rcases h1 with h' | h' <;> simp_all) | skip)
  obtain ⟨key, h1, h2⟩ := h
  refine ⟨key, ?_⟩
  simp only [imageOf_header, imageOf_length]
  refine ⟨by decide, ?_⟩
  rintro (e | e)
  · exact h1 (BitVec.eq_of_toNat_eq e)
  · exact h2 (BitVec.eq_of_toNat_eq e)

/-- The chip follows a leader of serial 3, or leads. -/
def following : State := { fw with boot := { fw.boot with yielded := true, leader := some 3 } }
def leadingChip : State := { fw with boot := { fw.boot with leads := true, image := some (0x10000, 0), held := List.replicate 5000 0 } }

theorem witness_boot_election :
    (fw.cores.map Prod.fst).Pairwise (· < ·) ∧
      ((fw.core (coreOfNat 0)).outOfService = false ∧ (fw.cluster (coreCluster (coreOfNat 0))).outOfService = false) ∧ (0 : Nat) < fw.boot.epoch ∧ fw.boot.epoch < 2 ∧ Config.serial ≤ Config.serial ∧
      following.boot.yielded = true ∧ fw.boot.yielded = false ∧
      (following.boot.image = none ∧ following.boot.leads = false ∧ following.boot.leader = some 3 ∧ following.boot.nextSeq = 0) ∧
      (leadingChip.boot.leads = true ∧ leadingChip.boot.image.isSome = true ∧ leadingChip.boot.yielded = false) ∧
      (fw.boot.leads = false ∧ fw.boot.image = none) ∧
      ({ fw with powered := false } : State).powered = false ∧ Instr.deviceReset ∉ ({ fw with powered := false } : State).agenda := by
  refine ⟨?_, ?_, ?_, ?_, ?_, ?_, ?_, ?_, ?_, ?_, ?_, ?_⟩ <;> first | exact Nat.le_refl _ | decide

theorem test_image_short : ({ fw with boot := { fw.boot with image := some (0, 0) } } : State).boot.image.isSome = true ∧
    leftBy (.imageVerify .received) { fw with boot := { fw.boot with image := some (0, 0) } } (·.boot.status) = some 0 := by decide +kernel
theorem test_load_message : leftBy (.loadMessage 3 1 0 [7]) following (fun t => (t.boot.chunks, t.boot.nextSeq)) = some ([7], 1) := by
  decide +kernel
theorem test_resend : leftBy (.resendRequest 3 1 1) leadingChip (fun t => t.sent.map fun x =>
    match x with
    | .load _ e n bs => (e, n, bs.length)
    | _ => (0, 0, 0)) = some [(1, 1, 904)] := by decide +kernel

/-! ### Scopes that end -/

/-- Scope 3 is closing: it holds a leaf region at 0x30000 of one page, or reports to the counter at 0x2000. -/
def leafScope : ScopeRec := { own with asid := 1, id := 3, state := .closing, attrs := 0x14, leafBase := 0x30000 }
def counted : ScopeRec := { own with asid := 1, id := 3, state := .closing, cscope := 2, caddr := 0x2000, cvalue := 6 }
def waited : ScopeRec := { own with asid := 1, id := 3, state := .closing, closeWait := true, opener := 0x8000 }

/-- The user strand's ASID has the scope table at 0x300000, a counter page at 0x2000 and two scopes in the cache. -/
def endsWith (o c : ScopeRec) : State :=
  { user with
    mem := ((tables user.mem).writeBytes 0x113010 (leBytes 8 0x4000000000004663)).writeBytes 0x100050 (leBytes 8 0x300006)
    dies := user.dies.set 0 { Die.reset with scopes := [(0x300040, { o with asid := 1 }), (0x3000C0, c)] } }

theorem witness_scope_deaths :
    let s := endsWith own { counted with state := .sealed, births := 1 }
    let q := endsWith own { counted with births := 1 }
    s.scopeOf 1 3 = some (0x3000C0, { counted with state := .sealed, births := 1 }) ∧ s.fencedAt 0x3000C0 = false ∧
      q.scopeOf 1 3 = some (0x3000C0, { counted with births := 1 }) ∧ fw.scopeOf 1 3 = none ∧ fw.pinned 1 3 = none ∧
      s.pinned 1 3 = some (0x3000C0, { counted with state := .sealed, births := 1 }) ∧ s.mem.wf = true ∧
      apart [(0x3000C0, 64), (0x3000C0 - 3 * 64, 4)] ∧
      (s.modDie 0 fun d => { d with fenced := true }).fencedAt 0x3000C0 = true ∧ s.fencedAt 0x300000 = false ∧ s.poison = [] := by
  unfold apart
  refine ⟨?_, ?_, ?_, ?_, ?_, ?_, ?_, ?_, ?_, ?_, ?_⟩ <;> decide +kernel

/-- The slice that is the home of a location of die 0 is under test (R398). -/
def testedAt (s : State) (loc : Nat) : State :=
  s.modDie 0 fun d =>
    { d with assay := { busy := true, pass := false, kind := 2, unit := BitVec.ofNat 16 (s.homeSlice (loc / 128 * 128)) } }

theorem witness_scope_closing :
    (endsWith own counted).pinned 1 3 = some (0x3000C0, counted) ∧ counted.state = .closing ∧ counted.lb = false ∧
      counted.caddr ≠ 0 ∧ counted.depth = 0 ∧ counted.closeWait = false ∧ counted.cscope ≠ 4 ∧
      (∃ s1, (endsWith own counted).counterPlace (counted.party (homeDie 0x3000C0)) 0x2000 .ctrWrite =
        (s1, .ok counter)) ∧
      (endsWith own counted).waitersAt 0x4000 = [] ∧ (endsWith own counted).markOf 0x4000 = none ∧
      (endsWith own counted).mem64 0x4000 + 6 < 2 ^ 64 ∧
      (∃ s1 x, normalPage.counterPlace (counted.party 0) 0x2000 .ctrWrite = (s1, .error x)) ∧
      { counted with cscope := 4 }.cscope = 4 ∧
      (let u := { waitsOn { waitingOn none false true with size := 8 } with dies := (endsWith own counted).dies }
       (u.outstanding.any fun o => o.posted && !u.lostPeer o) = true ∧ ∀ o ∈ u.outstanding, o.peer = none ∧ o.size ≠ 0) ∧
      (∀ o ∈ (endsWith own counted).outstanding, ¬ (o.posted = true)) ∧
      mustWait ((testedAt (endsWith own counted) 0x113010).counterPlace (counted.party 0) 0x2000 .ctrWrite).2 = true := by
  refine ⟨by decide +kernel, by decide, by decide, by decide, by decide, by decide, by decide,
    ⟨_, answers (is_ok (by decide +kernel))⟩, by decide, by decide, by decide +kernel, ?_, by decide, by decide, by decide,
    by decide +kernel⟩
  obtain ⟨e, h⟩ := is_error (x := (normalPage.counterPlace (counted.party 0) 0x2000 .ctrWrite).2)
    (by decide +kernel)
  exact ⟨_, e, answers h⟩

theorem witness_scope_closing_child :
    let c := { counted with caddr := 0, depth := 1, parent := 1 }
    let s := (endsWith own c).pinScope 0x3000C0 c
    (endsWith own c).pinned 1 3 = some (0x3000C0, c) ∧ c.lb = false ∧ c.caddr = 0 ∧ c.closeWait = false ∧ c.depth ≠ 0 ∧
      s.scopeOf 1 1 = some (0x300040, { own with asid := 1 }) ∧ s.fencedAt 0x300040 = false ∧
      ¬ (own.state = .sealed ∧ own.deaths + 1 = own.births) ∧
      ({ own with state := .sealed, births := 1 }.deaths + 1 = { own with births := 1 }.births) := by
  refine ⟨?_, ?_, ?_, ?_, ?_, ?_, ?_, ?_, ?_⟩ <;> decide +kernel

/-- The region's page is LPN 3 of die 0, with one line held: 16 entries of a span group (R31, R32). -/
def leafMapped : State :=
  let s := endsWith own leafScope
  let m := s.mem.writeBytes 0x113180 ((List.replicate 16 (leBytes 8 0x8000000000003E63)).flatMap fun e => e)
  ({ s with mem := m } : State).modDie 0 fun d =>
    { d with
      lpns := [(3, { emptyPage with state := .resident, lines := [(7, 0)], lastAsid := 1 })]
      resv := d.resv.set 0 { reservation := 1, resident := 1 } }

theorem witness_scope_closing_leaf :
    let s := endsWith own leafScope
    let t := leafMapped
    leafScope.lb = true ∧ leafScope.pages = 1 ∧ leafScope.caddr = 0 ∧ leafScope.depth = 0 ∧ leafScope.closeWait = false ∧
      leafScope.swept = 0 ∧ s.pinned 1 3 = some (0x3000C0, leafScope) ∧ s.regionPage 0 1 0x30000 = .untouched ∧
      t.pinned 1 3 = some (0x3000C0, leafScope) ∧ t.regionPage 0 1 0x30000 = .leaf 0 3 ∧ t.pageBusy 0 3 leafScope.agent = false ∧
      (t.modLpn 0 3 fun e => { e with queue := [.strand 0x8000] }).pageBusy 0 3 leafScope.agent = true ∧
      (testedAt t 0x113180).regionPage 0 1 0x30000 = .held := by
  refine ⟨?_, ?_, ?_, ?_, ?_, ?_, ?_, ?_, ?_, ?_, ?_, ?_, ?_⟩ <;> decide +kernel

theorem witness_scope_closing_waited :
    let s := endsWith own waited
    s.pinned 1 3 = some (0x3000C0, waited) ∧ waited.caddr = 0 ∧ waited.depth = 0 ∧ waited.closeWait = true ∧ waited.opener ≠ 0 ∧
      s.teamOfRecord 0x8000 = none ∧ s.mem.wf = true ∧ apart [(0x3000C0, 64), (0x3000C0 - 3 * 64, 4), (0x8000, 64)] ∧
      (s.die (coreDie (coreOfNat (s.recCore 0x8000)))).fenced = false ∧ s.closer 0x8000 = none ∧ s.fencedAt (0x8000 + 48) = false ∧
      s.partlyPoisoned (0x8000 + 48) 8 = false ∧
      ({ s with cur := { s.cur with
          run := .waitClose 12 3
          handle := waitingRecord } } : State).closer 0x8000 ≠ none := by
  unfold apart
  refine ⟨?_, ?_, ?_, ?_, ?_, ?_, ?_, ?_, ?_, ?_, ?_, ?_, ?_⟩ <;> decide +kernel

theorem witness_cancel_broadcast :
    let w : Waiter := { pa := 0x4000, threshold := 1, handle := waitingRecord }
    (∀ c, (user.core c).lease = none) ∧ (∀ e ∈ (user.die 0).scopes, e.2.closeWait = false) ∧
      (∀ e ∈ user.clusters, e.2.waiters = []) ∧ user.overflowList 0 1 = [] ∧ (∀ x ∈ user.teams, x.placed = true) ∧
      (∀ c, (user.core c).crus = []) ∧ (∀ w ∈ (user.die 0).waiters, w.handle.asid ≠ 1) ∧
      ((user.setWaiters 0x4000 [w]).die 0).waiters = [w] ∧ user.teamOfRecord 0x8000 = none ∧
      (user.die (coreDie (coreOfNat (user.recCore 0x8000)))).fenced = false := by
  have h : ∀ c, user.core c = Core.reset := fun _ => rfl
  refine ⟨fun c => by rw [h]; rfl, ?_, ?_, ?_, ?_, fun c => by rw [h]; rfl, ?_, ?_, ?_, ?_⟩ <;> decide +kernel

theorem test_scope_closing_counts : leftBy (.scopeClosing 1 3) (endsWith own counted) (fun t => (t.mem64 0x4000, t.cached 0x3000C0)) =
    some (6, none) := by decide +kernel
theorem test_scope_death : leftBy (.scopeDeath 1 3) (endsWith own { counted with state := .sealed, births := 1 })
    (fun t => (t.due, (t.cached 0x3000C0).map ScopeRec.state)) = some ([.scopeClosing 1 3], some .closing) := by decide +kernel

/-! ### Steps -/

/-- The firmware strand of core 0, alone, about to issue the word at 0x2000. -/
def stepping (w : Nat) : State :=
  { fw with cur := { fw.cur with pc := 0x2000 }, parked := [], mem := fw.mem.writeBytes 0x2000 (leBytes 4 w) }

/-- What the step's fetch reads, with what does not stop it, and the instruction that the decoder gives for it, if any. -/
def fetched (s : State) : Option (Option Instr) :=
  match translate s s.me s.cur.pc .fetch with
  | (s1, .ok p) =>
    if s1.gate s1.me p s.cur.pc 4 = none ∧ s1.poisoned p.loc 4 = false then
      some ((decodeBytes (s1.seen s1.me p 4)).toOption.map Prod.fst)
    else none
  | _ => none

theorem fetched_some {s : State} {i : Option Instr} (h : fetched s = some i) :
    ∃ s1 p, translate s s.me s.cur.pc .fetch = (s1, .ok p) ∧ s1.gate s1.me p s.cur.pc 4 = none ∧ s1.poisoned p.loc 4 = false ∧
      (decodeBytes (s1.seen s1.me p 4)).toOption.map Prod.fst = i := by
  unfold fetched at h
  split at h
  · rename_i s1 p h1
    split at h
    · rename_i h2
      exact ⟨s1, p, h1, h2.1, h2.2, Option.some.inj h⟩
    · simp at h
  · simp at h

theorem decoded {x : Except DecodeError (Instr × List Byte)} {i : Instr} (h : x.toOption.map Prod.fst = some i) :
    ∃ rest, x = .ok (i, rest) := by
  cases x with
  | error e => simp [Except.toOption] at h
  | ok x => exact ⟨x.2, by rw [← show x.1 = i by simpa [Except.toOption] using h]⟩

/-- The strand's state as its step begins. -/
def begun (s : State) : State := (s.choose s.cur).noteSlot

/-- The word of `add c8, c9, c10` (R204). -/
theorem witness_step_runs :
    let s := stepping 0x01209280
    let k := s.turn - s.agenda.length - s.adds.length
    let u := begun s
    s.powered = true ∧ s.due = [] ∧ s.hasLost = false ∧ s.agenda.length + s.adds.length ≤ s.turn ∧ s.stealTurn k = none ∧
      pickAt k s.candidates = some (s.cur, 0) ∧ u.killNow = false ∧ u.stopNow = false ∧ u.interruptNow = false ∧
      u.cur.run = .ready ∧ u.cur.resuming = none ∧ u.cur.wait = none ∧ u.cur.pc.toNat % 4 = 0 ∧ u.heldWord = none ∧
      ∃ s1 p rest, translate u u.me u.cur.pc .fetch = (s1, .ok p) ∧ s1.gate s1.me p u.cur.pc 4 = none ∧
        s1.poisoned p.loc 4 = false ∧ decodeBytes (s1.seen s1.me p 4) = .ok (.add 0 8 9 10, rest) ∧
        (s1.noteRead s1.me p.loc 4).fetchAhead.pair = none := by
  refine ⟨?_, ?_, ?_, ?_, ?_, ?_, ?_, ?_, ?_, ?_, ?_, ?_, ?_, ?_, ?_⟩
  case refine_15 =>
    obtain ⟨s1, p, h1, h2, h3, h4⟩ := fetched_some (i := some (.add 0 8 9 10)) (s := begun (stepping 0x01209280)) (by decide +kernel)
    obtain ⟨rest, h5⟩ := decoded h4
    refine ⟨s1, p, rest, h1, h2, h3, h5, ?_⟩
    have h6 : ((translate (begun (stepping 0x01209280)) (begun (stepping 0x01209280)).me (begun (stepping 0x01209280)).cur.pc .fetch).1).pairs
      = [] := by decide +kernel
    rw [h1] at h6
    have h7 : (s1.noteRead s1.me p.loc 4).pairs = s1.pairs := by unfold State.noteRead; split <;> rfl
    show (s1.noteRead s1.me p.loc 4).pairs.find? _ = none
    rw [h7, h6]; rfl
  all_goals decide +kernel

theorem witness_step_illegal :
    let u := begun (stepping 0)
    ∃ s1 p e, translate u u.me u.cur.pc .fetch = (s1, .ok p) ∧ s1.gate s1.me p u.cur.pc 4 = none ∧ s1.poisoned p.loc 4 = false ∧
      decodeBytes (s1.seen s1.me p 4) = .error e := by
  obtain ⟨s1, p, h1, h2, h3, h4⟩ := fetched_some (i := none) (s := begun (stepping 0)) (by decide +kernel)
  obtain ⟨e, h5⟩ := is_error (x := decodeBytes (s1.seen s1.me p 4)) (by simpa using h4)
  exact ⟨s1, p, e, h1, h2, h3, h5⟩

/-- A word fetched ahead is what the step runs, whatever memory holds. -/
def heldAhead : State :=
  let s := stepping 0
  { s with cur := { s.cur with held := [{ asid := s.cur.asid, va := s.cur.pc, word := 0x01209280 }] } }

theorem witness_step_held :
    (begun heldAhead).heldWord.map HeldWord.word = some 0x01209280 ∧
      (decodeBytes (leBytes 4 0x01209280)).toOption.map Prod.fst = some (.add 0 8 9 10) := by decide +kernel

/-- A word that a pair runs: no operation of Touchstone's, or one, whose hashes are awaited or were equal. -/
theorem witness_step_pairs :
    let x : Pair := { id := 2, asid := 1, scope := 1, first := 0, second := 9, strand := 0x7000, held := none, forwarded := 0
                      asked := none, matched := some 0x1000 }
    let s : State := { user with pairs := [x] }
    s.pair = some x ∧ pairOp (.add 0 8 9 10) = false ∧ pairOp (.ctrTest 0 8 9 10 1) = true ∧ x.matched = some user.cur.pc ∧
      ({ x with matched := none } : Pair).matched ≠ some user.cur.pc ∧ ({ x with asked := some 0x1000 } : Pair).asked = some user.cur.pc := by
  refine ⟨?_, ?_, ?_, ?_, ?_, ?_⟩ <;> decide +kernel

theorem witness_step_adds :
    let s : State := { addWaiting with adds := [addWaiting.cur] }
    s.powered = true ∧ s.due = [] ∧ s.hasLost = false ∧ s.agenda.length ≤ s.turn ∧ s.turn < s.agenda.length + s.adds.length := by
  decide +kernel

theorem witness_step_events :
    let s : State := { fw with agenda := [.deviceReset] }
    let d : State := { fw with due := [.scopeDeath 1 1] }
    s.powered = true ∧ s.due = [] ∧ s.hasLost = false ∧ s.agenda[s.firstOf s.turn]? = some .deviceReset ∧
      s.agenda[s.turn]? = some .deviceReset ∧ requestOf .deviceReset = none ∧ d.due = .scopeDeath 1 1 :: [] ∧
      s.order.early = [] := by decide

theorem witness_step_lost : ({ peerOne with
    cur := { peerOne.cur with run := .waitIo 4 }
    ports := peerOne.ports.set 0 Port.reset
    outstanding := [waitingOn (some (0, 1)) false false] } : State).hasLost = true := by decide +kernel

/-- What a step leaves of a state, if it goes on. -/
def stepTo {α : Type} (s : State) (f : State → α) : Option α :=
  match step s with
  | .next t => some (f t)
  | _ => none

theorem test_step_add : stepTo (stepping 0x01209280) (fun t => (t.x 8, t.cur.pc)) = some (0x7FFFFFFFFFFFFFFF, 0x2004) := by
  decide +kernel
theorem test_fetch_word : stepTo (State.reset.withFetchWord 32 0x02200FFC) (fun t => (t.x 8, t.cur.pc)) =
    some (0xFFFFFFFFFFFFFFFC, 4) := by decide +kernel

theorem witness_encode_decodes :
    (Instr.add 0 8 9 10).wf = true ∧ encode (.add 0 8 9 10) = some 0x01209280 ∧ (Instr.vimm 0 4 5 7).wf = false ∧
      encode .deviceReset = none := by decide

theorem witness_memory_canonical_step :
    (stepping 0x01209280).mem.wf = true ∧ (stepTo (stepping 0x01209280) fun t => t.mem.wf) = some true := by
  exact ⟨by decide +kernel, by decide +kernel⟩

end Sys2Proof.Tests
end

section
/-!
PROOF. The encoding of requested bounds (R22): the search for the exponent, the rounding at each end, the fields E, B and T
of the encoded value, and the narrowing of a capability.
-/
namespace Sys2Proof.Machine

/-! ### Rounding to multiples of 2^s -/

/-- The rounded top is not below n. -/
theorem le_ceilShift_mul (n s : Nat) : n ≤ ceilShift n s * 2 ^ s := by
  have := Nat.lt_div_mul_add (a := n + (2 ^ s - 1)) (Nat.two_pow_pos s)
  unfold ceilShift
  omega

/-- The rounded top is less than one unit above n. -/
theorem ceilShift_mul_lt (n s : Nat) : ceilShift n s * 2 ^ s < n + 2 ^ s := by
  have := Nat.div_mul_le_self (n + (2 ^ s - 1)) (2 ^ s)
  have := Nat.two_pow_pos s
  unfold ceilShift
  omega

/-- A multiple of 2^s is its own rounded top: no other multiple lies less than one unit above it. -/
theorem ceilShift_mul_of_dvd {n s : Nat} (h : 2 ^ s ∣ n) : ceilShift n s * 2 ^ s = n := by
  have above := ceilShift_mul_lt n s
  have below := le_ceilShift_mul n s
  have apart : 2 ^ s ∣ ceilShift n s * 2 ^ s - n := Nat.dvd_sub (Nat.dvd_mul_left _ _) h
  have := Nat.eq_zero_of_dvd_of_lt apart (by omega)
  omega

/-! ### The search for the exponent -/

/-- [b, t) is at most 0x3000 units of 2^s long once both ends are rounded outward (R22). -/
def BoundsFit (b t s : Nat) : Prop := ceilShift t s - b / 2 ^ s ≤ 0x3000

/-- The search answers nothing exactly when no candidate fits. -/
theorem findExp_eq_none_iff (b t s k : Nat) : findExp b t s k = none ↔ ∀ r, s ≤ r → r < s + k → ¬ BoundsFit b t r := by
  induction k generalizing s with
  | zero => exact iff_of_true rfl fun r _ _ => by omega
  | succ k ih =>
    unfold findExp
    split
    case isTrue fit => exact iff_of_false nofun fun h => h s (Nat.le_refl s) (by omega) fit
    case isFalse unfit =>
      rw [ih]
      constructor
      · intro h r low high
        obtain rfl | above := Nat.eq_or_lt_of_le low
        · exact unfit
        · exact h r above (by omega)
      · exact fun h r low high => h r (by omega) (by omega)

/-- The search answers the least candidate that fits. -/
theorem findExp_some {b t s k e : Nat} (h : findExp b t s k = some e) :
    e < s + k ∧ BoundsFit b t e ∧ ∀ r, s ≤ r → r < e → ¬ BoundsFit b t r := by
  induction k generalizing s with
  | zero => cases h
  | succ k ih =>
    unfold findExp at h
    split at h
    case isTrue fit =>
      cases h
      exact ⟨by omega, fit, fun r low high => by omega⟩
    case isFalse unfit =>
      obtain ⟨high, fit, least⟩ := ih h
      refine ⟨by omega, fit, fun r low below => ?_⟩
      obtain rfl | above := Nat.eq_or_lt_of_le low
      · exact unfit
      · exact least r above below

/-- There is no encoding exactly when no exponent from 0 to 50 fits. -/
theorem encodeBounds_eq_none_iff (b t : Nat) : encodeBounds b t = none ↔ ∀ s ≤ 50, ¬ BoundsFit b t s := by
  rw [encodeBounds, Option.map_eq_none_iff, findExp_eq_none_iff]
  exact ⟨fun h s le => h s (Nat.zero_le s) (by omega), fun h s _ lt => h s (by omega)⟩

/-- The exponent of an encoding is the least that fits, and its bounds are the ends rounded outward. -/
theorem encodeBounds_some {b t s base top : Nat} (h : encodeBounds b t = some (s, base, top)) :
    s ≤ 50 ∧ BoundsFit b t s ∧ (∀ r < s, ¬ BoundsFit b t r) ∧ base = b / 2 ^ s * 2 ^ s ∧ top = ceilShift t s * 2 ^ s := by
  obtain ⟨e, found, eq⟩ := Option.map_eq_some_iff.mp h
  cases eq
  obtain ⟨high, fit, least⟩ := findExp_some found
  exact ⟨by omega, fit, fun r => least r (Nat.zero_le r), rfl, rfl⟩

/-! ### The fields of an encoded value (R17) -/

/-- E holds any exponent of six bits as it is. -/
theorem capE_withBounds (v : BitVec 128) {s : Nat} (nb nt : Nat) (h : s < 64) : capE (withBounds v s nb nt) = s := by
  rw [capE, withBounds, BitVec.extractLsb'_append_eq_of_le (by decide), BitVec.extractLsb'_append_eq_of_le (by decide),
    BitVec.extractLsb'_append_eq_of_le (by decide), BitVec.extractLsb'_append_eq_right, BitVec.toNat_ofNat,
    Nat.mod_eq_of_lt h]

/-- B holds the base in units of 2^s, modulo 2^14. -/
theorem capB_withBounds (v : BitVec 128) (s nb nt : Nat) : capB (withBounds v s nb nt) = nb / 2 ^ s % 0x4000 := by
  rw [capB, withBounds, BitVec.extractLsb'_append_eq_of_le (by decide), BitVec.extractLsb'_append_eq_of_le (by decide),
    BitVec.extractLsb'_append_eq_right, BitVec.toNat_ofNat]

/-- T holds the top in units of 2^s, modulo 2^14. -/
theorem capT_withBounds (v : BitVec 128) (s nb nt : Nat) : capT (withBounds v s nb nt) = nt / 2 ^ s % 0x4000 := by
  rw [capT, withBounds, BitVec.extractLsb'_append_eq_of_le (by decide), BitVec.extractLsb'_append_eq_right,
    BitVec.toNat_ofNat]

/-! ### Narrowing -/

/-- Loss of the tag leaves the bits. -/
@[simp] theorem CapReg.settle_bits (c : CapReg) : (CapReg.settle c).bits = c.bits := rfl

/-- Narrowing to bounds that end inside the address space and have an encoding writes the fields of that encoding. -/
theorem CapReg.narrow_bits_of_encodeBounds (c : CapReg) {len s base top : Nat} (inside : c.lo.toNat + len ≤ 2 ^ 64)
    (h : encodeBounds c.lo.toNat (c.lo.toNat + len) = some (s, base, top)) :
    (CapReg.narrow c len).bits = withBounds c.bits s base top := by
  have request : (if capAddrOf c.bits + len > 2 ^ 64 then none
      else encodeBounds (capAddrOf c.bits) (capAddrOf c.bits + len)) = some (s, base, top) :=
    (if_neg (Nat.not_lt.mpr inside)).trans h
  simp only [CapReg.narrow, request, CapReg.settle_bits]

/-! ### The whole of R22 -/

/-- Settles O4: the search answers the least exponent that fits, and rounding outward moves each end by less than 2^s. -/
theorem boundsEncoding : Obligations.BoundsEncoding := by
  intro b t le inside
  refine ⟨encodeBounds_eq_none_iff b t, fun s base top h => ?_, fun c hc s base top h => ?_⟩
  · obtain ⟨high, fit, least, rfl, rfl⟩ := encodeBounds_some h
    have down : b - b / 2 ^ s * 2 ^ s < 2 ^ s := by
      rw [← Nat.mod_eq_sub_div_mul]
      exact Nat.mod_lt b (Nat.two_pow_pos s)
    have up : ceilShift t s * 2 ^ s - t < 2 ^ s :=
      Nat.sub_lt_left_of_lt_add (le_ceilShift_mul t s) (ceilShift_mul_lt t s)
    refine ⟨high, fit, least, rfl, rfl, Nat.div_mul_le_self b _, le_ceilShift_mul t s, down, up,
      fun multiple => Nat.div_mul_cancel (Nat.dvd_of_mod_eq_zero multiple),
      fun multiple => ceilShift_mul_of_dvd (Nat.dvd_of_mod_eq_zero multiple), fun v => ?_⟩
    exact ⟨capE_withBounds v _ _ (by omega), capB_withBounds v s _ _, capT_withBounds v s _ _⟩
  · subst hc
    have span : c.lo.toNat + (t - c.lo.toNat) = t := Nat.add_sub_cancel' le
    exact CapReg.narrow_bits_of_encodeBounds c (by rwa [span]) (by rwa [span])

end Sys2Proof.Machine
end

section
/-!
PROOF. The close result word (R156): its three fields stand side by side.
-/
namespace Sys2Proof.Machine

/-- The status that a record's flags give (R156). -/
def ScopeRec.closeStatus (r : ScopeRec) : Nat :=
  if r.kl then 4 else if r.fl then 3 else if r.sc then 2 else if r.cx then 1 else 0

/-- The status fits in the eight bits it has. -/
theorem ScopeRec.closeStatus_lt (r : ScopeRec) : r.closeStatus < 2 ^ 8 := by
  unfold closeStatus
  split
  · decide -- killed
  split
  · decide -- failed
  split
  · decide -- succeeded
  split
  · decide -- cancelled
  · decide -- closed

/-- The two lower summands stay below the unit of the next, so the sum is three adjacent fields. -/
theorem ofNat_sum_eq_append (st : Nat) (code : BitVec 16) (n : Nat) :
    BitVec.ofNat 64 (st * 2 ^ 56 + code.toNat * 2 ^ 40 + n % 2 ^ 40) =
      BitVec.ofNat 8 st ++ (code ++ BitVec.ofNat 40 n) := by
  have low : n % 2 ^ 40 < 2 ^ 40 := Nat.mod_lt _ (Nat.two_pow_pos 40)
  have tail : (code ++ BitVec.ofNat 40 n).toNat = code.toNat * 2 ^ 40 + n % 2 ^ 40 := by
    rw [BitVec.toNat_append, BitVec.toNat_ofNat, ← Nat.shiftLeft_add_eq_or_of_lt low, Nat.shiftLeft_eq]
  have fits : (code ++ BitVec.ofNat 40 n).toNat < 2 ^ 56 := BitVec.isLt _
  apply BitVec.eq_of_toNat_eq
  rw [BitVec.toNat_append, ← Nat.shiftLeft_add_eq_or_of_lt fits, Nat.shiftLeft_eq, tail,
    BitVec.toNat_ofNat, BitVec.toNat_ofNat]
  have inside : code.toNat < 2 ^ 16 := code.isLt
  omega

/-- The word is the status, the result code and the number lost side by side. -/
theorem ScopeRec.resultWord_eq_append (r : ScopeRec) :
    r.resultWord = BitVec.ofNat 8 r.closeStatus ++ (r.result ++ BitVec.ofNat 40 r.lost) :=
  ofNat_sum_eq_append r.closeStatus r.result r.lost

/-- Settles O43: the word is its three fields side by side, and each of them fits. -/
theorem closeResult : Obligations.CloseResult := by
  intro r lost
  have word := r.resultWord_eq_append
  refine ⟨?_, ?_, ?_⟩
  · have status : r.closeStatus % 2 ^ 8 = r.closeStatus := Nat.mod_eq_of_lt r.closeStatus_lt
    rw [word, BitVec.extractLsb'_append_eq_left, BitVec.toNat_ofNat, status]
    rfl
  · rw [word, BitVec.extractLsb'_append_eq_of_add_le (by decide), BitVec.extractLsb'_append_eq_left]
  · rw [word, BitVec.extractLsb'_append_eq_of_add_le (by decide), BitVec.extractLsb'_append_eq_right,
      BitVec.toNat_ofNat, Nat.mod_eq_of_lt lost]

end Sys2Proof.Machine
end
